-- ==== Sys2Proof/Word.lean ====
section
/-!
DEFINITION. Sys2Proof/Word.lean: the plainest word types of the SPX-Y64 model.

All structures of the device are little-endian (R5) and bit 0 is the least significant bit (R6).
A byte is a bit vector; a wider field that the manual reads as a number is a `Nat` once it has been read.
-/

namespace Sys2Proof

/-- One byte of a memory, a message or a parameter block. -/
abbrev Byte := BitVec 8

/-- A 64-bit scalar register of the vector engine (Table 5-1). -/
abbrev XWord := BitVec 64

/-- One vector register V0 to V31 (Table 5-1). -/
abbrev VWord := BitVec 4096

/-- One mask register K0 to K7 (Table 5-1). -/
abbrev KWord := BitVec 512

/-- The 32-bit sticky FLAGS word of Table 5-2. -/
abbrev FlagWord := BitVec 32

end Sys2Proof
end

