-- ==== Sys2Proof/Syntax.lean ====
section
/-!
DEFINITION. Sys2Proof/Syntax.lean: the commands of the SPX-Y64, one constructor per row of the opcode table, with their operands.

A row is a command fetched from a shoe, an instruction of a vector program, an event of a unit, a mailbox or sideband
request, a port or network message, or a pin. An operand carries what the row brings with it from outside the device:
a message, a sensor reading, the steps that a unit took, or the hardware errors found inside the step.
-/

namespace Sys2Proof

/-- A hardware error that a part's own check finds inside a step (Table 20-2, R511): what one step holds. -/
inductive HwErr where
  /-- One symbol of the 64-byte unit at a physical address was corrected and the unit rewritten (R168). -/
  | memCorrected (pa : Nat)
  /-- The 64-byte unit at a physical address could not be corrected; it is poisoned (R168). -/
  | memPoisoned (pa : Nat)
  /-- A word of an engine store was corrected. -/
  | engineStoreCorrected (engine : Nat)
  /-- A word of the running engine's store or staging could not be corrected (R110). -/
  | engineStoreUe (engine : Nat)
  /-- A word of a cluster store was corrected. -/
  | clusterStoreCorrected (cluster : Nat)
  /-- The word at a cluster-store address could not be corrected; it is poisoned (Table 20-2). -/
  | clusterStoreUe (pa : Nat)
  /-- A residue check failed in the unit that runs the command (Table 20-2). -/
  | datapath
  /-- A walk was redone on another walker (Table 20-2). -/
  | walkRedone (walker : Nat)
  /-- A word of a hub SRAM was corrected. -/
  | hubCorrected
  /-- A word of a hub SRAM could not be corrected: fatal (R21). -/
  | hubUe
  /-- A die bridge could not replay a transfer: fatal (R21). -/
  | bridgeUe (bridge : Nat)
  /-- A region fabric could not replay a transfer: fatal (R21). -/
  | fabricUe (region : Nat)
  /-- A CXL response carried poison for the 64-byte unit at a far-tier address (R179). -/
  | farPoison (pa : Nat)
  /-- A vault stack could not correct a granule: extent and granule, or 1,152 + group and row for a granule of parity (R214). -/
  | vaultGranule (extent granule : Nat)
  /-- A vault stack failed as a whole (R216). -/
  | vaultStackFailed (stack : Nat)
  /-- A vault write failed its check in an extent (R200). -/
  | vaultWrite (extent : Nat)
  /-- A symbol on a Binik lane was corrected (R466). -/
  | laneCorrected (lane : Nat)
deriving DecidableEq, Repr

/-- What a step of a command brings with it: the command it is a step of (by fetch order), the steps that its unit's
local counter advances by (R55), and the hardware errors found inside it. -/
structure Start where
  cid   : Nat
  steps : Nat
  errs  : List HwErr
deriving DecidableEq, Repr

/-- Bytes that a host writes into its own memory. -/
structure HostWrite where
  port : Nat
  addr : Nat
  data : List Byte
deriving DecidableEq, Repr

/-- One mailbox request as it lies in the request page (Table 17-7): the port, the header fields and the payload.
`rsv` is the value of the reserved header bytes. -/
structure MbReq where
  port    : Nat
  txn     : Nat
  minor   : Nat
  length  : Nat
  rsv     : Nat
  payload : List Byte
deriving DecidableEq, Repr

/-- A tensor or management message as it arrives on a Binik port (Table 18-4). -/
structure PeerMsg where
  port    : Nat
  dest    : Nat
  src     : Nat
  hops    : Nat
  epoch   : Nat
  addr    : Nat
  length  : Nat
  msgId   : Nat
  payload : List Byte
deriving DecidableEq, Repr

/-- What an expander on one far slot offers when its link has trained (R176, Table 7-7). -/
structure FarOffer where
  slot     : Nat
  sizeGib  : Nat
  readMbs  : Nat
  writeMbs : Nat
  vendor   : Nat
  device   : Nat
  reject   : Nat
  width    : Nat
  speed    : Nat
deriving DecidableEq, Repr

/-- What one start step found (Tables 21-2 and 21-6): failed self-tests by kind and index, the failure cause if the
step stops the start, the ports that trained, and what the far ports offer. -/
structure StepReport where
  failedUnits : List (Nat × Nat)
  cause       : Nat
  detail      : Nat
  hostsLive   : BitVec 2
  ethLive     : BitVec 2
  farTrained  : BitVec 2
  far         : List FarOffer
  bankBad     : BitVec 2
  position    : Nat
  split       : BitVec 2
deriving DecidableEq, Repr

/-- A sideband request (Table 22-4). -/
structure SbReq where
  seq     : Nat
  len     : Nat
  payload : List Byte
deriving DecidableEq, Repr

/-- An RDMA packet's request as it arrives: the queue pair it addresses, the remote key, the address, the data, and whether it carries a congestion
mark. -/
structure RdmaReq where
  port : Nat
  qp   : Nat
  rkey : Nat
  va   : Nat
  len  : Nat
  imm  : Nat
  ecn  : Bool
  data : List Byte
deriving DecidableEq, Repr

/-- How an RDMA request that the device sent was answered (R489). -/
inductive RdmaAnswer where
  | ack
  | data (bytes : List Byte)
  | nak (syndrome : Nat)
deriving DecidableEq, Repr

/-- One sensor average or reading of a telemetry window (Table 19-5): the rails in mW and the sensors in 1/16 degC. -/
structure Readings where
  railMw   : List Nat
  region   : List Int
  stack    : List Int
  hub      : Int
  vault    : List Int
  bridge   : List Int
  inputMv  : Nat
  inputMa  : Nat
  inputMw  : Nat
deriving DecidableEq, Repr

/-- The commands of the device: one constructor per row of the opcode table, in the table's order. -/
inductive Instr where
  /-- KN_UNITS_GET (R31). Kernel-only command that snapshots the 256-byte units-present map and writes it to DEST_PTR as one write-out. -/
  | knUnitsGet (st : Start)
  /-- MM_MUL (R99). Matrix command computing C = A x B, or C + A x B, weight-stationary through the cube array, with a single write-out at commit. -/
  | mmMul (st : Start)
  /-- MM_MUL_LIST (R112). Matrix command running up to 31 independent products on one engine with one shared commit. -/
  | mmMulList (st : Start)
  /-- VX_RUN (R122). Vector command that resets vector state and runs a program of vector instructions over staged buffers. -/
  | vxRun (st : Start)
  /-- VX_END (R134). Vector instruction that ends the program and is the commit point writing every staged element as one unit. -/
  | vxEnd (st : Start)
  /-- VX_SETVL (R126). Vector instruction setting VL to min(X[VA], E(FMT)) and copying it to X[VD]. -/
  | vxSetvl (st : Start)
  /-- VX_XLI (R126). Scalar instruction loading a sign-extended immediate into an X register. -/
  | vxXli (st : Start)
  /-- VX_XADD (R126). Scalar instruction adding modulo 2^64 into an X register. -/
  | vxXadd (st : Start)
  /-- VX_XSUB (R126). Scalar instruction subtracting modulo 2^64 into an X register. -/
  | vxXsub (st : Start)
  /-- VX_BNZ (R126). Branch instruction that continues at i + IMM when X[VA] is not zero. -/
  | vxBnz (st : Start)
  /-- VX_LD (R128). Vector load of VL elements from an input buffer, with conversion to the register format. -/
  | vxLd (st : Start)
  /-- VX_LDB (R128). Vector load of one element that is broadcast to every processed element. -/
  | vxLdb (st : Start)
  /-- VX_ST (R128). Vector store of VL elements into the output staging of a buffer, with conversion. -/
  | vxSt (st : Start)
  /-- VX_ADD (R126). Element-wise vector addition. -/
  | vxAdd (st : Start)
  /-- VX_SUB (R126). Element-wise vector subtraction. -/
  | vxSub (st : Start)
  /-- VX_MUL (R126). Element-wise vector multiplication. -/
  | vxMul (st : Start)
  /-- VX_FMA (R126). Element-wise fused multiply-add into the destination register, rounded once. -/
  | vxFma (st : Start)
  /-- VX_MIN (R127). Element-wise minimum, with -0 ordered below +0 and the canonical NaN for any NaN input. -/
  | vxMin (st : Start)
  /-- VX_MAX (R127). Element-wise maximum, with -0 ordered below +0 and the canonical NaN for any NaN input. -/
  | vxMax (st : Start)
  /-- VX_DIV (R126). Element-wise correctly rounded division. -/
  | vxDiv (st : Start)
  /-- VX_SQRT (R126). Element-wise correctly rounded square root. -/
  | vxSqrt (st : Start)
  /-- VX_ABS (R126). Element-wise absolute value; INT8 -128 saturates to 127. -/
  | vxAbs (st : Start)
  /-- VX_NEG (R126). Element-wise negation; INT8 -128 saturates to 127. -/
  | vxNeg (st : Start)
  /-- VX_MOV (R126). Copies a register or broadcasts an immediate. -/
  | vxMov (st : Start)
  /-- VX_CMPLT (R126). Less-than comparison written into a mask register. -/
  | vxCmplt (st : Start)
  /-- VX_CMPLE (R126). Less-or-equal comparison written into a mask register. -/
  | vxCmple (st : Start)
  /-- VX_CMPEQ (R126). Equality comparison written into a mask register. -/
  | vxCmpeq (st : Start)
  /-- VX_KAND (R126). AND of two mask registers over bits 0 to VL - 1. -/
  | vxKand (st : Start)
  /-- VX_KOR (R126). OR of two mask registers over bits 0 to VL - 1. -/
  | vxKor (st : Start)
  /-- VX_KNOT (R126). NOT of a mask register over bits 0 to VL - 1. -/
  | vxKnot (st : Start)
  /-- VX_CVT (R126). Converts a register from the source format named in VB to FMT. -/
  | vxCvt (st : Start)
  /-- VX_REDSUM (R130). Fixed pairwise-tree sum of the processed elements, broadcast to every processed element. -/
  | vxRedsum (st : Start)
  /-- VX_REDMAX (R130). Fixed pairwise-tree maximum of the processed elements, broadcast to every processed element. -/
  | vxRedmax (st : Start)
  /-- VX_FN (R136). Table-unit evaluation of a function selected by its function code. -/
  | vxFn (st : Start)
  /-- VX_DFN (R554). Table-unit evaluation of a function's derivative from the saved input. -/
  | vxDfn (st : Start)
  /-- MV_COPY (R150). Mover command that copies a two-dimensional block, optionally turning and converting it, with a single write-out. -/
  | mvCopy (st : Start)
  /-- MV_FILL (R155). Mover command that writes a 64-bit pattern repeatedly over a destination. -/
  | mvFill (st : Start)
  /-- MOVER_STAGING_GRANTED (R154). A waiting mover command obtains its staging units from the cluster pool and starts. -/
  | moverStagingGranted (st : Start)
  /-- MOVER_ENGINE_WRITE_OUT (R154). A held mover write-out into an engine operand area proceeds once the engine's command has committed or been killed. -/
  | moverEngineWriteOut (cid : Nat)
  /-- KN_CSTORE_ASSIGN (R145). Sets the kind and tenant of a run of cluster-store segments, zeroing and retagging them after earlier users finish. -/
  | knCstoreAssign (st : Start)
  /-- KN_SPILL_POOL_ADD (R182). Adds a translated range of frames to a spill pool. -/
  | knSpillPoolAdd (st : Start)
  /-- KN_SPILL_POOL_WITHDRAW (R182). Withdraws the free frames of a spill pool, with occupied frames leaving as their pages return. -/
  | knSpillPoolWithdraw (st : Start)
  /-- STACK_TEMPERATURE_CROSSING (R172). A stack sensor crosses a refresh threshold, and the stack changes its own refresh rate. -/
  | stackTemperatureCrossing (stack : Nat) (reading : Int)
  /-- STAGED_WEIGHT_REPAIR (R213). The hub refetches a poisoned staged weight unit from the vault or far tier, rewrites it, and re-runs its killed readers. -/
  | stagedWeightRepair (pa : Nat) (errs : List HwErr)
  /-- FAR_LINK_DOWN (R179). A far port link goes down: the slot is marked link down, its range is lost, and commands using it fail. -/
  | farLinkDown (port : Nat)
  /-- FAR_LINK_TRAINED (R458). A far port whose link went down trains again, so that its range can be mapped again on request. -/
  | farLinkTrained (port : Nat) (offers : List FarOffer)
  /-- KN_VAULT_PROV_OPEN (R198). Verifies a manifest, allocates extents to a FREE slot, counts wear and marks the slot WRITING. -/
  | knVaultProvOpen (st : Start)
  /-- KN_VAULT_PROV_WRITE (R198). Reads, decrypts, checks and writes chunks into a WRITING slot. -/
  | knVaultProvWrite (st : Start)
  /-- KN_VAULT_PROV_CLOSE (R198). Writes the parity of every touched group, stores the manifest and marks the slot READY. -/
  | knVaultProvClose (st : Start)
  /-- KN_VAULT_PROV_ABORT (R198). Writes parity, frees the extents and destroys the keys of a WRITING slot. -/
  | knVaultProvAbort (st : Start)
  /-- KN_VAULT_PROV_FREE (R198). Frees the extents of an unbound READY or DAMAGED slot and destroys its slot key. -/
  | knVaultProvFree (st : Start)
  /-- KN_WEIGHT_PLACE_SLOT (R207). Places checked chunks of a bound copy from the vault slot into staged or far-tier frames and updates the map. -/
  | knWeightPlaceSlot (st : Start)
  /-- KN_WEIGHT_PLACE_BUFFER (R207). Places checked chunks of a bound copy from a buffer, decrypting them if needed, and updates the map. -/
  | knWeightPlaceBuffer (st : Start)
  /-- KN_WEIGHT_PLACE_DROP (R208). Returns chunk map entries to the vault tier, with the completion posted after every reader has ended. -/
  | knWeightPlaceDrop (st : Start)
  /-- KN_MODEL_CUT_BIND (R210). Binds a READY slot as a model's NEXT copy with a fresh chunk map. -/
  | knModelCutBind (st : Start)
  /-- KN_MODEL_CUT_ARM (R210). Arms the cut for the next deal boundary or for a domain epoch. -/
  | knModelCutArm (st : Start)
  /-- KN_MODEL_CUT_DISARM (R210). Disarms a cut that has not yet been made. -/
  | knModelCutDisarm (st : Start)
  /-- KN_MODEL_CUT_UNBIND (R210). Unbinds an unarmed NEXT copy and releases its frames. -/
  | knModelCutUnbind (st : Start)
  /-- RETIRING_COPY_RELEASE (R211). Once the last command holding the RETIRING copy ends, the copy is released and EV_CUT_DONE is raised. -/
  | retiringCopyRelease (model : Nat)
  /-- KN_AS_SET_CREATE (R226). Makes an address space LIVE with its root table. -/
  | knAsSetCreate (st : Start)
  /-- KN_AS_SET_SET_ROOT (R226). Changes an address space's root and invalidates its buffered entries. -/
  | knAsSetSetRoot (st : Start)
  /-- KN_AS_SET_SET_PASID (R226). Changes an address space's PASIDs and invalidates its buffered entries. -/
  | knAsSetSetPasid (st : Start)
  /-- KN_AS_SET_DESTROY (R226). Marks an address space DESTROYING, fails its commands, drains the running ones and frees it. -/
  | knAsSetDestroy (st : Start)
  /-- KN_TLB_INVAL_RANGE (R232). Removes the entries overlapping a range from every buffer and walker cache. -/
  | knTlbInvalRange (st : Start)
  /-- KN_TLB_INVAL_ASID (R232). Removes every entry of an address space. -/
  | knTlbInvalAsid (st : Start)
  /-- KN_TLB_INVAL_ALL (R232). Removes every buffered translation. -/
  | knTlbInvalAll (st : Start)
  /-- KN_TLB_PIN (R233). Walks a range and pins its leaves in a cluster's second-level buffer. -/
  | knTlbPin (st : Start)
  /-- KN_TLB_UNPIN (R233). Releases the pins of the leaves covering a range. -/
  | knTlbUnpin (st : Start)
  /-- TRANSLATION_WALK (R228). A page walker completes a four-level walk for a translation miss and fills the buffers or reports a fault. -/
  | translationWalk (cid va : Nat) (write : Bool) (errs : List HwErr)
  /-- KITTY_STEPS_EXPIRY (R240). KITTY_STEPS hub steps pass since the first record of the open batch, closing it with cause 4. -/
  | kittyStepsExpiry
  /-- HOST_DOORBELL (R249). A host write to a shoe's doorbell offset in BAR2 sets PENDING for a LIVE shoe whose port is allowed. -/
  | hostDoorbell (port shoe : Nat) (writes : List HostWrite)
  /-- SHOE_FETCH (R252). The front end serves a pending shoe: it reads the tail word, fetches slots in batches and samples PENDING. -/
  | shoeFetch (errs : List HwErr)
  /-- KN_SHOE_CREATE (R269). Creates a shoe, taking a shoe area and setting HEAD and TAIL from its tail word. -/
  | knShoeCreate (st : Start)
  /-- KN_SHOE_DESTROY (R270). Stops fetching, kills or drops the shoe's commands, waits for acknowledgements and frees the shoe. -/
  | knShoeDestroy (st : Start)
  /-- KN_SHOE_SET (R269). Changes ENGINE_SET and DB_PORTS, and resumes a STOPPED shoe. -/
  | knShoeSet (st : Start)
  /-- KN_SHOE_QUERY (R269). Writes the 128-byte shoe table entry to memory. -/
  | knShoeQuery (st : Start)
  /-- SY_SIGNAL (R272). Commits at the end of its checks and posts its command's signal and an optional second signal. -/
  | sySignal (st : Start)
  /-- SY_WAIT (R274). Watches a word of stacked memory until a comparison holds. -/
  | syWait (st : Start)
  /-- SY_WAIT_SATISFIED (R274). A write to a watched unit makes the comparison hold, and the waiting sy.wait completes with S_OK. -/
  | syWaitSatisfied (cid : Nat)
  /-- SY_WAIT_TIMEOUT (R274). The TIMEOUT count of a sy.wait passes before its comparison holds, and the command completes with S_TIMEOUT. -/
  | syWaitTimeout (cid : Nat)
  /-- COMMAND_PLACEMENT (R296). When an engine frees or a command becomes ready, the dealer places ready commands on the lowest free allowed engines. -/
  | commandPlacement
  /-- NEXT_COMMAND_NAMED (R297). A running command's measured steps reach S less 2,048, and the dealer names the engine's next command. -/
  | nextCommandNamed (engine : Nat)
  /-- WRITE_OUT_END (R106). A command's write-out completes, and its completion record and signal are posted. -/
  | writeOutEnd (st : Start)
  /-- DRAIN_COMPLETE (R232). The last command that a waiting action depends on commits or is killed, and that action's completion is posted. -/
  | drainComplete (cid : Nat)
  /-- KN_DEALER_SET_CONFIG (R294). Sets the sheet area and the deal limits, and the pre-emption and alert settings. -/
  | knDealerSetConfig (st : Start)
  /-- KN_DEALER_SET_ANTE (R294). Sets the ante and recomputes the ante engines. -/
  | knDealerSetAnte (st : Start)
  /-- KN_DEALER_SET_SERVE_BIND (R294). Binds a shoe as a serving shoe with a CLOSE word. -/
  | knDealerSetServeBind (st : Start)
  /-- KN_DEALER_SET_SERVE_UNBIND (R294). Removes a serving binding and tests the close condition again. -/
  | knDealerSetServeUnbind (st : Start)
  /-- KN_DEALER_SET_REQUEST (R282). Checks a list of request entries and applies it to the dealer's request table. -/
  | knDealerSetRequest (st : Start)
  /-- KN_DEALER_SET_ADVANCE (R290). Closes the open deal at once, or opens a deal if none is open. -/
  | knDealerSetAdvance (st : Start)
  /-- DEAL_BOUNDARY (R292). Once the close condition holds, the dealer writes close figures, applies retirements and cuts, forms the next deal and writes its sheet. -/
  | dealBoundary (errs : List HwErr)
  /-- DEAL_OPEN (R290). With no deal open, the dealer opens one when an eligible request or a held context with a request appears. -/
  | dealOpen (errs : List HwErr)
  /-- KN_CONTEXT_SETUP (R306). Fixes and zeroes the context area and the page pool. -/
  | knContextSetup (st : Start)
  /-- KN_CONTEXT_MODEL (R314). Stores a model's attention record, its rotary frequencies and its bias table. -/
  | knContextModel (st : Start)
  /-- KN_CONTEXT_REGISTER (R318). Registers a context, allocating its directory page and setting its descriptor LIVE. -/
  | knContextRegister (st : Start)
  /-- KN_CONTEXT_RELEASE (R318). Drains a context's commands, frees its pages and frames, and zeroes its descriptor. -/
  | knContextRelease (st : Start)
  /-- KN_CONTEXT_TRIM (R318). Drains, frees blocks at or after NEW_POS, zeroes partial rows and sets POSITION. -/
  | knContextTrim (st : Start)
  /-- KN_CONTEXT_GRANT (R308). Sets a tenant's page GRANT and SPILL_EN. -/
  | knContextGrant (st : Start)
  /-- KN_CONTEXT_RING (R318). Replaces a ring record. -/
  | knContextRing (st : Start)
  /-- KN_CONTEXT_QUERY (R318). Writes a 256-byte context descriptor to memory. -/
  | knContextQuery (st : Start)
  /-- AT_APPEND (R326). Writes new key-value rows into a context's pages, taking missing pages at start. -/
  | atAppend (st : Start)
  /-- AT_ATTEND (R327). Computes attention outputs for query rows over the context's rows in the fixed order. -/
  | atAttend (st : Start)
  /-- AT_ADVANCE (R329). Adds each entry's tokens to its context's POSITION at once. -/
  | atAdvance (st : Start)
  /-- AT_RING (R330). Computes block partial records for query rows against one local or received block. -/
  | atRing (st : Start)
  /-- AT_COMBINE (R331). Folds partial slots in ascending order and writes the attention outputs. -/
  | atCombine (st : Start)
  /-- AT_RING_SEND (R332). Sends one block to the next ring member's receive buffer over NEXT_PORT. -/
  | atRingSend (st : Start)
  /-- SP_OPEN (R359). Discards and optionally reopens each entry's open state with a new OPEN_LIMIT. -/
  | spOpen (st : Start)
  /-- SP_VERIFY (R360). Computes the made length, copies open rows into made pages, advances POSITION and discards the open state. -/
  | spVerify (st : Start)
  /-- EX_ROUTE (R377). Selects experts per token and deposits ranked pairs on the routing board. -/
  | exRoute (st : Start)
  /-- EX_SETTLE (R378). Closes the board if needed and writes keep records, the directory and the list for its tokens. -/
  | exSettle (st : Start)
  /-- ROUTING_BOARD_RESOLVED (R373). Resolution of a closed board ends, and waiting settles read its results. -/
  | routingBoardResolved (board : Nat)
  /-- EX_GATHER (R379). Copies listed source rows into list order. -/
  | exGather (st : Start)
  /-- EX_COMBINE (R380). Adds weighted kept expert outputs to the residual in ascending expert index. -/
  | exCombine (st : Start)
  /-- BW_ADAPTER_CREATE (R390). Creates an adapter record and zeroes its private master range. -/
  | bwAdapterCreate (st : Start)
  /-- BW_ADAPTER_DESTROY (R390). Drains an adapter's commands, then zeroes its range and record. -/
  | bwAdapterDestroy (st : Start)
  /-- BW_ADAPTER_QUERY (R390). Writes the adapter record to memory. -/
  | bwAdapterQuery (st : Start)
  /-- BW_MUL (R392). Backward product written to a 16-bit gradient with nearest or stochastic rounding. -/
  | bwMul (st : Start)
  /-- BW_NORM (R395). Fused backward product and RMS-normalisation backward step. -/
  | bwNorm (st : Start)
  /-- BW_SOFTMAX (R396). Fused dO x V^T product and softmax backward step. -/
  | bwSoftmax (st : Start)
  /-- KN_KEY_BIND_RESERVE (R419). Reserves a key slot for a tenant with its sealed window. -/
  | knKeyBindReserve (st : Start)
  /-- KN_KEY_BIND_LINK (R428). Opens a link blob under IO_KEY and sets the slot's link key. -/
  | knKeyBindLink (st : Start)
  /-- KN_KEY_BIND_DESTROY (R419). Drains a slot's commands, then zeroes its keys and tagged segments. -/
  | knKeyBindDestroy (st : Start)
  /-- KN_KEY_BIND_QUERY (R419). Writes the key slot record to memory. -/
  | knKeyBindQuery (st : Start)
  /-- HSS_BUDGET_REGAIN (R410). Every 2^32 hub steps, the HSS signature budget regains one signature. -/
  | hssBudgetRegain
  /-- PTM_EXCHANGE (R60). On port selection and every PTM_INTERVAL hub steps, the device starts a PTM exchange. -/
  | ptmExchange
  /-- PTM_RESPONSE (R61). A PTM response completes an exchange and becomes the last good exchange for time stamps. -/
  | ptmResponse (port time : Nat) (good : Bool)
  /-- MB_HELLO (R452). Negotiates the mailbox major and the family minors for the port. -/
  | mbHello (rq : MbReq)
  /-- MB_NONCE (R454). Returns a 48-byte nonce held for a claim or take. -/
  | mbNonce (rq : MbReq)
  /-- MB_OWNER_CLAIM (R411). Stores a new owner key, advances OWNER_EPOCH and gives the host the owner role. -/
  | mbOwnerClaim (rq : MbReq)
  /-- MB_OWNER_TAKE (R411). Gives the owner role to a host that signs the challenge with the owner key. -/
  | mbOwnerTake (rq : MbReq)
  /-- MB_OWNER_TRANSFER (R411). Arms an owner transfer that takes effect at the next start. -/
  | mbOwnerTransfer (rq : MbReq)
  /-- MB_OWNER_MODE (R417). Stores MODE and OBSERVER_RIGHTS when every tenant slot is FREE. -/
  | mbOwnerMode (rq : MbReq)
  /-- MB_CERT_GET (R406). Returns part of the ECDSA chain or of the LMS endorsement. -/
  | mbCertGet (rq : MbReq)
  /-- MB_ATTEST (R413). Returns a signed attestation report. -/
  | mbAttest (rq : MbReq)
  /-- MB_ATTEST_SESSION (R420). Establishes a sealed session in a RESERVED slot and returns the session report. -/
  | mbAttestSession (rq : MbReq)
  /-- MB_UNITS_GET (R29). Returns a snapshot of the units-present map. -/
  | mbUnitsGet (rq : MbReq)
  /-- MB_RETIRE_ACK (R33). Acknowledges a pending retirement so that it takes effect at the next boundary. -/
  | mbRetireAck (rq : MbReq)
  /-- MB_EVENT_CONFIG (R456). Sets or unsets the host's event ring and resets its counters. -/
  | mbEventConfig (rq : MbReq)
  /-- MB_SHOE_INIT (R457). Fixes and zeroes the shoe table and pool, and creates ASID 0 and kernel shoe 0. -/
  | mbShoeInit (rq : MbReq)
  /-- MB_KITTY_CONFIG (R241). Sets the kitty area and KITTY_STEPS. -/
  | mbKittyConfig (rq : MbReq)
  /-- MB_KITTY_COLLECT (R240). Closes the open batch with cause 3, or reports why it cannot. -/
  | mbKittyCollect (rq : MbReq)
  /-- MB_KITTY_RELEASE (R242). Releases a delivered batch, failing or re-running each record's commands. -/
  | mbKittyRelease (rq : MbReq)
  /-- MB_FAR_LIST (R177). Returns the four expander records. -/
  | mbFarList (rq : MbReq)
  /-- MB_FAR_MAP (R458). Maps again and zeroes the range of a far slot whose link has retrained. -/
  | mbFarMap (rq : MbReq)
  /-- MB_VAULT_LIST (R189). Returns slot records, group records or a slot's extent list. -/
  | mbVaultList (rq : MbReq)
  /-- MB_PTM_CONFIG (R60). Sets PTM_INTERVAL. -/
  | mbPtmConfig (rq : MbReq)
  /-- MB_FW_STAGE (R460). Checks a firmware image and writes it to the inactive bank as PENDING. -/
  | mbFwStage (rq : MbReq)
  /-- MB_FW_STATUS (R460). Returns the state of the firmware banks. -/
  | mbFwStatus (rq : MbReq)
  /-- MB_FW_DISCARD (R454). Makes the pending firmware bank EMPTY. -/
  | mbFwDiscard (rq : MbReq)
  /-- MB_RESET (R461). Responds, then starts a full device reset that applies staged firmware and armed actions. -/
  | mbReset (rq : MbReq)
  /-- MB_DEBUG_CHALLENGE (R436). Returns the debug nonce. -/
  | mbDebugChallenge (rq : MbReq)
  /-- MB_DEBUG_UNLOCK (R436). Verifies and arms a debug token for the next start. -/
  | mbDebugUnlock (rq : MbReq)
  /-- MB_DEBUG_PEEK (R459). Reads device physical memory while debug is active. -/
  | mbDebugPeek (rq : MbReq)
  /-- MB_DEBUG_POKE (R459). Writes device physical memory while debug is active. -/
  | mbDebugPoke (rq : MbReq)
  /-- REGISTER_WRITE (R441). A write to a BAR0 register with no row of its own, such as EVT_HEAD or the W1C bits of MB_STATUS. -/
  | registerWrite (port offset value : Nat)
  /-- MB_PWR_LEVEL (R499). Commands a level for a set of regions, subject to the cap. -/
  | mbPwrLevel (rq : MbReq)
  /-- MB_PWR_GATE (R500). Stops placement on engines and gates each one once its command ends. -/
  | mbPwrGate (rq : MbReq)
  /-- MB_PWR_UNGATE (R500). Ungates engines so that they become placeable once they settle. -/
  | mbPwrUngate (rq : MbReq)
  /-- MB_PWR_STACK_ACTIVE (R501). Wakes stacks from self-refresh. -/
  | mbPwrStackActive (rq : MbReq)
  /-- MB_PWR_STACK_SELF_REFRESH (R501). Puts stacks into self-refresh once their requests in flight end. -/
  | mbPwrStackSelfRefresh (rq : MbReq)
  /-- MB_PWR_VAULT_ACTIVE (R502). Wakes the vault from standby. -/
  | mbPwrVaultActive (rq : MbReq)
  /-- MB_PWR_VAULT_STANDBY (R502). Puts the vault in standby, where payload reads wait. -/
  | mbPwrVaultStandby (rq : MbReq)
  /-- MB_PWR_LANES (R503). Sets the awake lanes of Binik ports and retrains them. -/
  | mbPwrLanes (rq : MbReq)
  /-- MB_PWR_PORT_UP (R504). Commands far or Ethernet ports up to train. -/
  | mbPwrPortUp (rq : MbReq)
  /-- MB_PWR_PORT_DOWN (R504). Commands far or Ethernet ports down, with the effects of a link going down. -/
  | mbPwrPortDown (rq : MbReq)
  /-- MB_PWR_CAP (R498). Sets the power cap and the thermal warning threshold. -/
  | mbPwrCap (rq : MbReq)
  /-- MB_TELEM_READ (R506). Returns a telemetry snapshot. -/
  | mbTelemRead (rq : MbReq)
  /-- POWER_TRANSITION_SETTLED (R505). A commanded unit finishes its transition, and its rated power settles to the new figure. -/
  | powerTransitionSettled (kind index : Nat)
  /-- TELEMETRY_WINDOW (R506). A 2^20 hub-step window ends, and power averages are updated. -/
  | telemetryWindow (rd : Readings)
  /-- THERMAL_WARN (R507). A region, hub or vault sensor rises above WARN_C, raising EV_THERMAL WARN. -/
  | thermalWarn (sensor index : Nat) (reading : Int)
  /-- PROTECTIVE_STOP (R508). A die sensor reaches 118 °C, and the device stops through the fatal path. -/
  | protectiveStop (sensor index : Nat) (reading : Int)
  /-- IN_SERVICE_TEST (R520). After a fault is charged to a unit and its commands end, the unit starts its in-service test. -/
  | inServiceTest (kind index : Nat)
  /-- IN_SERVICE_TEST_END (R520). A unit's in-service test ends, returning it to placement or retiring it immediately. -/
  | inServiceTestEnd (kind index : Nat) (passed : Bool)
  /-- KILL_ACK_TIMEOUT (R519). An engine or cluster fails to acknowledge a kill within 2^20 hub steps and is retired immediately. -/
  | killAckTimeout (kind index : Nat)
  /-- CHANNEL_NO_ANSWER (R519). A stack channel answers no request for 2^20 hub steps and is retired immediately. -/
  | channelNoAnswer (channel : Nat)
  /-- RETIREMENT_WINDOW_END (R519). A 2^46 hub-step window ends, and every window count returns to 0. -/
  | retirementWindowEnd
  /-- EVENT_WINDOW_END (R515). A 2^20 hub-step rate-limit window ends, and suppressed error events may be raised again. -/
  | eventWindowEnd
  /-- POWER_ON (R547). The 54 V input rises above 45.0 V, starting a full start. -/
  | powerOn
  /-- START_STEP_END (R529). A timed start step, or the last part of step 5, ends and the next step begins. -/
  | startStepEnd (rp : StepReport)
  /-- RESET_N_ASSERT (R538). The sideband RESET_N goes low, holding the device at step 1. -/
  | resetNAssert
  /-- RESET_N_RELEASE (R538). The sideband RESET_N is released after at least 10 µs low, starting a full start. -/
  | resetNRelease
  /-- PCIE_FUNDAMENTAL_RESET (R526). A PCIe fundamental reset on a host port causes a full start or a port reset. -/
  | pcieFundamentalReset (port : Nat)
  /-- PCIE_HOT_RESET (R527). A PCIe hot reset on a host port causes a port reset. -/
  | pcieHotReset (port : Nat)
  /-- FUNCTION_LEVEL_RESET (R527). A Function Level Reset of a host-port function causes a port reset. -/
  | functionLevelReset (port : Nat)
  /-- INPUT_DROPOUT (R547). The input falls below 44.0 V for more than 50 µs or rises above 62.0 V, and the module turns off. -/
  | inputDropout
  /-- RIDE_THROUGH (R547). The input enters a ride-through band, where work continues or a start stops. -/
  | rideThrough
  /-- RIDE_THROUGH_EXPIRY (R547). The input has not returned within 10 ms of ride-through, and the module turns off. -/
  | rideThroughExpiry
  /-- INPUT_RETURN (R547). The input returns within its operating limits during ride-through. -/
  | inputReturn
  /-- CONVERTER_TRIP (R548). A rail converter trips, causing a fatal stop or a module turn-off according to the rail. -/
  | converterTrip (rail : Nat)
  /-- OSFP_PLUG_INSERT (R545). An OSFP plug is inserted and is powered and managed unless it asks for more than 15 W. -/
  | osfpPlugInsert (port watts : Nat)
  /-- PORT_TRAINED (R470). A Binik port finishes training and becomes live or enters probation according to the record checks. -/
  | portTrained (port : Nat) (lanes : BitVec 4) (lowVer highVer : Nat) (record : List Byte)
  /-- BINIK_PORT_DOWN (R468). A Binik port loses lock or is taken down, its unacknowledged transfers fail, and it retrains. -/
  | binikPortDown (port reason lane : Nat)
  /-- REPLAY (R468). A NAK or a bad frame causes replay from the last acknowledged frame, and the port goes down at the retry limit. -/
  | replay (port : Nat) (lane : Nat) (gaveUp : Bool)
  /-- PEER_WRITE (R478). A received peer-write message is checked for epoch and port, then written as one unit or refused. -/
  | peerWrite (m : PeerMsg)
  /-- PEER_READ_REQUEST (R478). A received peer read request is checked and answered with read data or a refusal. -/
  | peerReadRequest (m : PeerMsg)
  /-- READ_DATA (R478). Read data for an earlier peer read arrives. -/
  | readData (m : PeerMsg)
  /-- SIGNAL (R478). A received signal message is checked and posted as an 8-byte write. -/
  | signal (m : PeerMsg)
  /-- RING_BLOCK (R333). A received ring block is checked, opened if sealed, and written into its receive buffer. -/
  | ringBlock (m : PeerMsg)
  /-- REFUSAL (R478). A refusal arrives, and the sending command completes with S_EPOCH or S_UNIT_ABSENT. -/
  | refusal (m : PeerMsg)
  /-- DOMAIN_RECORD (R475). A received domain record is compared, and the port becomes live or enters probation. -/
  | domainRecord (m : PeerMsg)
  /-- PROPOSAL (R479). A received epoch proposal is recorded and forwarded, and the device arrives when ready. -/
  | proposal (m : PeerMsg)
  /-- ARRIVAL (R479). A received arrival is forwarded, and with a full set the device enters the next epoch. -/
  | arrival (m : PeerMsg)
  /-- BARRIER_STALL (R479). Every 2^24 hub steps of barrier waiting, EV_LINK BARRIER_STALL is raised. -/
  | barrierStall
  /-- RDMA_WRITE (R488). A send-ring entry with OP WRITE is sent as an RDMA WRITE. -/
  | rdmaWrite (qp : Nat)
  /-- RDMA_WRITE_WITH_IMMEDIATE (R488). A send-ring entry with OP 1 is sent as an RDMA WRITE with immediate. -/
  | rdmaWriteWithImmediate (qp : Nat)
  /-- RDMA_READ (R488). A send-ring entry with OP READ is sent as an RDMA READ. -/
  | rdmaRead (qp : Nat)
  /-- RDMA_RESPONSE (R489). An acknowledgement, read response or negative acknowledgement completes a send entry. -/
  | rdmaResponse (qp : Nat) (answer : RdmaAnswer)
  /-- RDMA_RETRY_EXPIRY (R489). A send entry fails after seven retries and completes with S_NET_REMOTE. -/
  | rdmaRetryExpiry (qp : Nat)
  /-- INCOMING_RDMA_WRITE (R490). An incoming RDMA WRITE is checked against its memory region and written. -/
  | incomingRdmaWrite (p : RdmaReq)
  /-- INCOMING_WRITE_WITH_IMMEDIATE (R489). An incoming WRITE with immediate is written whole, then IMM is posted to IMM_WORD. -/
  | incomingWriteWithImmediate (p : RdmaReq)
  /-- INCOMING_RDMA_READ (R490). An incoming RDMA READ is checked and answered. -/
  | incomingRdmaRead (p : RdmaReq)
  /-- CONGESTION_NOTIFICATION (R486). A received congestion notification packet reduces the sending rate. -/
  | congestionNotification (qp : Nat)
  /-- PRIORITY_FLOW_CONTROL (R486). A received priority flow control frame pauses the configured priority. -/
  | priorityFlowControl (port : Nat) (classes : BitVec 8) (pause : Bool)
  /-- ARP (R486). An ARP request is answered. -/
  | arp (port senderIp targetIp senderMac : Nat)
  /-- NEIGHBOUR_DISCOVERY (R486). An IPv6 neighbour discovery message is answered. -/
  | neighbourDiscovery (port senderIp targetIp senderMac : Nat)
  /-- ICMP_ECHO (R486). An ICMP or ICMPv6 echo request is answered. -/
  | icmpEcho (port : Nat) (v6 : Bool) (senderIp targetIp : Nat) (data : List Byte)
  /-- ETHERNET_LINK_LOST (R492). An Ethernet link is lost, and pending send entries complete with S_UNIT_ABSENT. -/
  | ethernetLinkLost (port : Nat)
  /-- I3C_SETDASA (R539). I3C common command assigning the dynamic address from the static address. -/
  | i3cSetdasa (static dynamic : Nat)
  /-- I3C_ENTDAA (R539). I3C common command for dynamic address assignment. -/
  | i3cEntdaa (dynamic : Nat)
  /-- I3C_GETSTATUS (R539). I3C common command returning the target status. -/
  | i3cGetstatus
  /-- I3C_GETPID (R539). I3C common command returning the provisioned ID. -/
  | i3cGetpid
  /-- I3C_EVENT_ENABLE (R539). I3C common command enabling in-band interrupts. -/
  | i3cEventEnable
  /-- I3C_EVENT_DISABLE (R539). I3C common command disabling in-band interrupts. -/
  | i3cEventDisable
  /-- START_READ (R533). Sideband command returning the start record. -/
  | startRead (rq : SbReq)
  /-- STOP_READ (R541). Sideband command returning the current or last stop record. -/
  | stopRead (rq : SbReq)
  /-- TEMP_READ (R541). Sideband command returning the temperatures. -/
  | tempRead (rq : SbReq)
  /-- POWER_READ (R541). Sideband command returning input voltage, current, power and ride-through state. -/
  | powerRead (rq : SbReq)
  /-- STATUS_READ (R541). Sideband command returning READY, position, owner and epoch. -/
  | statusRead (rq : SbReq)
  /-- INSTALL_STAGE (R541). Sideband command writing part of a staging copy of the installation record. -/
  | installStage (rq : SbReq)
  /-- INSTALL_COMMIT (R472). Sideband command that checks and stores the staged installation record, resets routes and resends records. -/
  | installCommit (rq : SbReq)
  /-- INSTALL_READ (R541). Sideband command returning part of the stored installation record. -/
  | installRead (rq : SbReq)
  /-- MEMBERS_SET (R541). Sideband command updating MEMBERS at once, with barriers recounted. -/
  | membersSet (rq : SbReq)
  /-- EXPECT_SET (R541). Sideband command setting an EXPECT entry and retraining that port. -/
  | expectSet (rq : SbReq)
  /-- ROUTE_SET (R482). Sideband command installing a whole route table between two messages. -/
  | routeSet (rq : SbReq)
  /-- EPOCH_PROPOSE (R479). Sideband command giving a proposal for the next epoch. -/
  | epochPropose (rq : SbReq)
  /-- LINK_READ (R541). Sideband command returning the state of every Binik port. -/
  | linkRead (rq : SbReq)
  /-- NET_PORT_SET (R541). Sideband command setting an Ethernet port's addresses, VLAN and flow-control priority. -/
  | netPortSet (rq : SbReq)
  /-- QP_SET (R487). Sideband command setting up a queue pair. -/
  | qpSet (rq : SbReq)
  /-- QP_DESTROY (R541). Sideband command destroying a queue pair after failing its pending entries. -/
  | qpDestroy (rq : SbReq)
  /-- MR_SET (R487). Sideband command setting up a memory region. -/
  | mrSet (rq : SbReq)
  /-- MR_DESTROY (R541). Sideband command destroying a memory region. -/
  | mrDestroy (rq : SbReq)
  /-- COMMIT_POINT (R106). An engine or mover command finishes its computation and hands its sealed staging to the cluster's commit path, after which it can no longer be killed. -/
  | commitPoint (cid : Nat)
  /-- PEER_ACKNOWLEDGEMENT (R154). A peer acknowledges a whole block written by mv.copy or at.ring_send, and the sending command's completion is posted. -/
  | peerAcknowledgement (port msgId : Nat)
  /-- CHANNEL_COPY_DONE (R166). The deferred copy of a retiring channel's lines finishes, and any next pending band of the stack is withdrawn. -/
  | channelCopyDone (stack : Nat)
  /-- ETHERNET_LINK_UP (R531). An Ethernet port finishes training and its bit in PORTS_LIVE is set. -/
  | ethernetLinkUp (port : Nat)
  /-- HOST_LINK_DOWN (R40). A host port's PCIe link goes down: its PORTS_LIVE bit clears, and host-memory accesses on it complete with S_UNIT_ABSENT. -/
  | hostLinkDown (port : Nat)
  /-- HOST_LINK_UP (R527). A host port's PCIe link trains again, and the port's doorbells and device-initiated traffic resume. -/
  | hostLinkUp (port : Nat)
  /-- PTM_ENABLE (R59). A host enables or disables PTM on its port, which can change the PTM port that the device selects. -/
  | ptmEnable (port : Nat) (on : Bool)
  /-- GET_VERSION (R416). An SPDM GET_VERSION request over the DOE mailbox is answered. -/
  | getVersion (port : Nat) (body : List Byte)
  /-- GET_CAPABILITIES (R416). An SPDM GET_CAPABILITIES request is answered. -/
  | getCapabilities (port : Nat) (body : List Byte)
  /-- NEGOTIATE_ALGORITHMS (R416). An SPDM NEGOTIATE_ALGORITHMS request selects ECDSA P-384 and SHA-384. -/
  | negotiateAlgorithms (port : Nat) (body : List Byte)
  /-- GET_DIGESTS (R416). An SPDM GET_DIGESTS request returns the digest of certificate slot 0. -/
  | getDigests (port : Nat) (body : List Byte)
  /-- GET_CERTIFICATE (R416). An SPDM GET_CERTIFICATE request returns part of the ECDSA chain in slot 0. -/
  | getCertificate (port : Nat) (body : List Byte)
  /-- CHALLENGE (R416). An SPDM CHALLENGE request is answered with a response signed by DIK. -/
  | challenge (port : Nat) (body : List Byte)
  /-- GET_MEASUREMENTS (R416). An SPDM GET_MEASUREMENTS request returns measurement blocks 1 to 8. -/
  | getMeasurements (port : Nat) (body : List Byte)
deriving DecidableEq, Repr

end Sys2Proof
end

