-- ==== Sys2Proof/Decode.lean ====
section
/-!
DEFINITION. Sys2Proof/Decode.lean: the command that a word of the opcode table spells. No row of the table gives bits: the rows are
commands and events of a block, and the 64-byte command of Table 10-4 is read by the front end (Machine/Operands.lean).
-/

namespace Sys2Proof

/-- The command that `nbits` bits of a word spell: none, since no row of spec/opcode_table.json gives bits. -/
def decodeTableWord (_nbits _w : Nat) : Option Instr := none

end Sys2Proof
end

