-- ==== Sys2Proof/Config.lean ====
section
/-!
DEFINITION. Sys2Proof/Config.lean: what an implementation fixes and the free values of the model.

Every `opaque` here stands for a value that the manual leaves open. It has no body: no proof can learn what it is,
and a statement holds for every value it may take. Each one is named in the assumption log.
-/

namespace Sys2Proof.Config

/-- The table unit's published reference (R136): function code, derivative or not, and the binary32 input give the
binary32 result, which the model holds to the bound of Table 5-8. -/
opaque tableUnit : Nat → Bool → BitVec 32 → BitVec 32

/-- The rotary reference (R315): the binary32 bits of the cosine and of the sine of a binary64 angle, which the model holds to
1 unit in the last place. -/
opaque rotaryCos : BitVec 64 → BitVec 32
opaque rotarySin : BitVec 64 → BitVec 32

/-- The set of a second-level translation buffer (256 sets, R227) that an address space and a page fall in. -/
opaque l2Set : Nat → Nat → Nat

/-- The slot key that the key store makes at OPEN number n (R196): 64 bytes. -/
opaque slotKey : Nat → List Byte

/-- A random value that the Heldun controller draws: draw number and length (nonces, ephemeral scalars, remote keys). -/
opaque random : Nat → Nat → List Byte

/-- The 256-bit PUF root (R405). -/
opaque pufRoot : List Byte

/-- The device serial (R406), the number of its stepping (0 for A0) and its two ASCII characters. -/
opaque serial : Nat
opaque stepping : Nat
opaque steppingName : List Byte

/-- SHA-384 of the mask ROM, and the mask ROM's firmware and debug keys: ECDSA public keys and HSS public keys (R436, R460). -/
opaque romHash : List Byte
opaque firmwareKey : List Byte
opaque firmwareHss : List Byte
opaque vendorKey : List Byte
opaque vendorHss : List Byte

/-- The identity key DIK and the seed of the identity HSS key as manufacture left them in the vault system area, wrapped by K_ID (Table 16-2), and
what an unwrap that fails its check leaves, which no rule says: 0 for DIK, 1 for the seed, 2 for a slot key. -/
opaque wrappedIdentity : List Byte
opaque wrappedHssSeed : List Byte
opaque failedUnwrap : Nat → List Byte

/-- The certificates of the chain of R406, 0 the Isaith device root, 1 the CA of the stepping, 2 the device certificate, as far as the rule leaves
them open: the DER bytes of their serial number (part 0), validity (1) and extensions (2); the relative names of their subject; and, for the root
and the CA, the private scalar and the scalar of each signature that they made. -/
opaque certPart : Nat → Nat → List Byte
opaque certNames : Nat → List Byte
opaque issuerKey : Nat → Nat
opaque issuerNonce : Nat → Nat

/-- The root's signature over the LMS endorsement (R406). -/
opaque endorsementSig : List Byte

/-- How the trees of the identity HSS key come from a secret, which R409 leaves open: the identifier of a tree and the private values of its leaves
by secret, reservation (none for level 0), leaf and chain, and the randomizer of each signature by reservation and leaf. -/
opaque treeIdent : List Byte → Option Nat → List Byte
opaque treePrivate : List Byte → Option Nat → Nat → Nat → List Byte
opaque treeRandom : Option Nat → Nat → List Byte

/-- CTExponent, DataTransferSize and MaxSPDMmsgSize of the SPDM responder (R416). -/
opaque spdmTime : Nat
opaque spdmTransfer : Nat
opaque spdmMessage : Nat

/-- DETAIL of MR_STATE, a "command-specific state code" (Table 17-9) where no rule gives the code: command and reason. -/
opaque stateDetail : Nat → Nat → Nat

/-- What MB_DEBUG_PEEK reads of the shoe areas, whose layout in memory no rule gives: draw number and length (R459). -/
opaque debugBytes : Nat → Nat → List Byte

/-- The port that EV_LINK carries for a reason that names no port: EPOCH_ENTERED, BARRIER_STALL and ROUTE (R476). -/
opaque linkEventPort : Nat → Nat

/-- CAUSE of the stop record of a start that stops on POWER, for which Table 20-6 has no code (R534). -/
opaque powerStopCause : Nat

/-- The 48-bit provisioned ID of the I3C target (R539). -/
opaque provisionedId : Nat

/-- CAUSE of EV_UNIT_RETIRED for a unit that left service on an immediate condition of Table 20-8 for which Table 20-6 has no code: a kill
that was not acknowledged, or a channel that stopped answering (R519), by kind. -/
opaque immediateCause : Nat → Nat

/-- INDEX of the VAULT_WEAR event of the system area, for which R522 gives none. -/
opaque systemWearIndex : Nat

/-- Whether the link between two other devices of the board is live: draw number and their positions (R40). -/
opaque peerLinked : Nat → Nat → Nat → Bool

/-- The estimate of R50 for a command that a check or an access ended before its S was formed, which no formula gives: its opcode and a
draw number (R303). -/
opaque endedEstimate : Nat → Nat → Nat

/-- Whether a fatal stop had written unit i of the write-outs in progress: draw number and unit number (R516). -/
opaque stopWrote : Nat → Nat → Bool

end Sys2Proof.Config
end

