-- ==== Sys2Proof/Machine/Bits.lean ====
section
/-!
DEFINITION. Sys2Proof/Machine/Bits.lean: bit fields, byte order and rounding-up helpers used by every chapter (R5, R6).
-/

namespace Sys2Proof.Machine

/-- The bit range [hi:lo] of a number, both ends included (R6). -/
def bitsOf (x hi lo : Nat) : Nat := (x >>> lo) % 2 ^ (hi + 1 - lo)

/-- Bit `i` of a number. -/
def bitOf (x i : Nat) : Bool := x.testBit i

/-- A Boolean as the number 0 or 1, for a one-bit field. -/
def b2n (b : Bool) : Nat := if b then 1 else 0

/-- The little-endian value of a list of bytes (R5). -/
def leNat : List Byte → Nat
  | [] => 0
  | b :: bs => b.toNat + 256 * leNat bs

/-- The big-endian value of a list of bytes, for the key and signature fields of chapter 16. -/
def beNat (bs : List Byte) : Nat := leNat bs.reverse

/-- `k` bytes of a number, little-endian (R5); higher bits are dropped. -/
def natLe : Nat → Nat → List Byte
  | 0, _ => []
  | k + 1, v => BitVec.ofNat 8 v :: natLe k (v / 256)

/-- A run of `k` equal bytes. -/
def fillBytes (k : Nat) (b : Byte) : List Byte := List.replicate k b

/-- Bytes `off` to `off + len - 1` of a list; bytes past its end read as 0. -/
def slice (bs : List Byte) (off len : Nat) : List Byte :=
  let t := (bs.drop off).take len
  t ++ List.replicate (len - t.length) 0#8

/-- The little-endian field of `len` bytes at `off` in a structure (R5). -/
def fld (bs : List Byte) (off len : Nat) : Nat := leNat (slice bs off len)

/-- Whether a range of bytes of a structure is zero, for reserved fields (R8). -/
def zeroRange (bs : List Byte) (off len : Nat) : Bool := (slice bs off len).all (· == 0#8)

/-- A list of bytes cut or padded with zeros to an exact length. -/
def padTo (k : Nat) (bs : List Byte) : List Byte := slice bs 0 k

/-- Overwrites bytes from `off` on in a structure of fixed length. -/
def patch (bs : List Byte) (off : Nat) (new : List Byte) : List Byte :=
  bs.take off ++ new ++ bs.drop (off + new.length)

/-- Division rounded up; a divisor of 0 gives 0. -/
def ceilDiv (a b : Nat) : Nat := (a + b - 1) / b

/-- Whether a number is a power of two. -/
def isPow2 (n : Nat) : Bool := n != 0 && 2 ^ Nat.log2 n == n

/-- The signed reading of a `w`-bit number. -/
def signedOf (w v : Nat) : Int := if v < 2 ^ (w - 1) then v else (v : Int) - 2 ^ w

/-- A counter of `w` bits advanced by `k`, modulo 2^w. -/
def wrapAdd (w v k : Nat) : Nat := (v + k) % 2 ^ w

/-- A counter of `w` bits advanced by `k`, saturating. -/
def satAdd (w v k : Nat) : Nat := min (v + k) (2 ^ w - 1)

/-- The number that writing `v` as `w` bits keeps. -/
def low (w v : Nat) : Nat := v % 2 ^ w

/-- The word with bit `i` set to `b`. -/
def setBitNat (x i : Nat) (b : Bool) : Nat :=
  if b then x ||| 2 ^ i else if x.testBit i then x - 2 ^ i else x

/-- The indices below `n` at which a word has a 1, ascending. -/
def oneBits (n x : Nat) : List Nat := (List.range n).filter fun i => x.testBit i

/-- The number of 1 bits of a word below bit `n`. -/
def popCount (n x : Nat) : Nat := (oneBits n x).length

/-- The integer square root by bits, from bit `i - 1` down, above a partial root `acc`. -/
def isqrtFrom : Nat → Nat → Nat → Nat
  | 0, _, acc => acc
  | i + 1, n, acc =>
    let c := acc + 2 ^ i
    isqrtFrom i n (if c * c ≤ n then c else acc)

/-- The largest number whose square is at most `n`. -/
def isqrt (n : Nat) : Nat := isqrtFrom (Nat.log2 n / 2 + 1) n 0

end Sys2Proof.Machine
end

