-- ==== Sys2Proof/Machine/Crypto.lean ====
section
/-!
DEFINITION. Sys2Proof/Machine/Crypto.lean: the published algorithms that chapters 8, 16 and 18 name: SHA-256 and SHA-384
(FIPS 180-4), HKDF (RFC 5869), AES-256 (FIPS 197) in XTS (IEEE 1619), GCM (SP 800-38D) and key wrap (RFC 3394), P-384
ECDH and ECDSA (FIPS 186-5), and LMS and HSS verification (RFC 8554, SP 800-208).
-/

namespace Sys2Proof.Machine

/-- Bytes as naturals. -/
def natsOf (bs : List Byte) : List Nat := bs.map BitVec.toNat
/-- Naturals below 256 as bytes. -/
def bytesOf (xs : List Nat) : List Byte := xs.map (BitVec.ofNat 8)
/-- `k` bytes of a number, big-endian. -/
def natBe (k v : Nat) : List Byte := (natLe k v).reverse
/-- Two lists of bytes added bit by bit. -/
def xorBytes (a b : List Byte) : List Byte := List.zipWith (· ^^^ ·) a b
/-- A list cut into runs of `k`; the first argument bounds the number of runs. -/
def chunksOf {α : Type} : Nat → Nat → List α → List (List α)
  | 0, _, _ => []
  | n + 1, k, xs => if xs.isEmpty then [] else xs.take k :: chunksOf n k (xs.drop k)
/-- The ASCII bytes of a string. -/
def ascii (s : String) : List Byte := s.toList.map fun c => BitVec.ofNat 8 c.toNat

/-! ## SHA-2 -/

/-- The words and shifts that tell SHA-256 from SHA-384. -/
structure ShaSpec where
  w      : Nat
  rounds : Nat
  k      : List Nat
  iv     : List Nat
  s0     : Nat × Nat × Nat
  s1     : Nat × Nat × Nat
  b0     : Nat × Nat × Nat
  b1     : Nat × Nat × Nat
  out    : Nat

def rotr (w x n : Nat) : Nat := ((x >>> n) ||| (x <<< (w - n))) % 2 ^ w

/-- A small sigma: two rotations and a shift. -/
def shaSmall (w : Nat) (p : Nat × Nat × Nat) (x : Nat) : Nat := rotr w x p.1 ^^^ rotr w x p.2.1 ^^^ (x >>> p.2.2)
/-- A large sigma: three rotations. -/
def shaBig (w : Nat) (p : Nat × Nat × Nat) (x : Nat) : Nat := rotr w x p.1 ^^^ rotr w x p.2.1 ^^^ rotr w x p.2.2

/-- The message schedule, newest word first. -/
def shaSchedule (sp : ShaSpec) : Nat → List Nat → List Nat
  | 0, ws => ws
  | n + 1, ws =>
    let nw := (shaSmall sp.w sp.s1 (ws.getD 1 0) + ws.getD 6 0 + shaSmall sp.w sp.s0 (ws.getD 14 0) + ws.getD 15 0) % 2 ^ sp.w
    shaSchedule sp n (nw :: ws)

/-- One round on the eight working words. -/
def shaRound (sp : ShaSpec) (h : List Nat) (kw : Nat × Nat) : List Nat :=
  match h with
  | [a, b, c, d, e, f, g, hh] =>
    let m := 2 ^ sp.w
    let t1 := hh + shaBig sp.w sp.b1 e + ((e &&& f) ^^^ ((m - 1 - e) &&& g)) + kw.1 + kw.2
    let t2 := shaBig sp.w sp.b0 a + ((a &&& b) ^^^ (a &&& c) ^^^ (b &&& c))
    [(t1 + t2) % m, a, b, c, (d + t1) % m, e, f, g]
  | _ => h

def shaBlock (sp : ShaSpec) (h : List Nat) (blk : List Byte) : List Nat :=
  let ws := (chunksOf 16 (sp.w / 8) blk).map beNat
  let sched := (shaSchedule sp (sp.rounds - 16) ws.reverse).reverse
  let r := (sp.k.zip sched).foldl (shaRound sp) h
  List.zipWith (fun x y => (x + y) % 2 ^ sp.w) h r

/-- The digest of a message, with FIPS 180-4 padding. -/
def sha2 (sp : ShaSpec) (msg : List Byte) : List Byte :=
  let blk := sp.w * 2
  let lenB := sp.w / 4
  let z := (blk - (msg.length + 1 + lenB) % blk) % blk
  let padded := msg ++ 0x80#8 :: List.replicate z 0#8 ++ natBe lenB (msg.length * 8)
  let h := (chunksOf (padded.length / blk) blk padded).foldl (shaBlock sp) sp.iv
  (h.flatMap fun x => natBe (sp.w / 8) x).take sp.out

def sha512K : List Nat :=
    [0x428A2F98D728AE22, 0x7137449123EF65CD, 0xB5C0FBCFEC4D3B2F, 0xE9B5DBA58189DBBC]
    ++ [0x3956C25BF348B538, 0x59F111F1B605D019, 0x923F82A4AF194F9B, 0xAB1C5ED5DA6D8118]
    ++ [0xD807AA98A3030242, 0x12835B0145706FBE, 0x243185BE4EE4B28C, 0x550C7DC3D5FFB4E2]
    ++ [0x72BE5D74F27B896F, 0x80DEB1FE3B1696B1, 0x9BDC06A725C71235, 0xC19BF174CF692694]
    ++ [0xE49B69C19EF14AD2, 0xEFBE4786384F25E3, 0x0FC19DC68B8CD5B5, 0x240CA1CC77AC9C65]
    ++ [0x2DE92C6F592B0275, 0x4A7484AA6EA6E483, 0x5CB0A9DCBD41FBD4, 0x76F988DA831153B5]
    ++ [0x983E5152EE66DFAB, 0xA831C66D2DB43210, 0xB00327C898FB213F, 0xBF597FC7BEEF0EE4]
    ++ [0xC6E00BF33DA88FC2, 0xD5A79147930AA725, 0x06CA6351E003826F, 0x142929670A0E6E70]
    ++ [0x27B70A8546D22FFC, 0x2E1B21385C26C926, 0x4D2C6DFC5AC42AED, 0x53380D139D95B3DF]
    ++ [0x650A73548BAF63DE, 0x766A0ABB3C77B2A8, 0x81C2C92E47EDAEE6, 0x92722C851482353B]
    ++ [0xA2BFE8A14CF10364, 0xA81A664BBC423001, 0xC24B8B70D0F89791, 0xC76C51A30654BE30]
    ++ [0xD192E819D6EF5218, 0xD69906245565A910, 0xF40E35855771202A, 0x106AA07032BBD1B8]
    ++ [0x19A4C116B8D2D0C8, 0x1E376C085141AB53, 0x2748774CDF8EEB99, 0x34B0BCB5E19B48A8]
    ++ [0x391C0CB3C5C95A63, 0x4ED8AA4AE3418ACB, 0x5B9CCA4F7763E373, 0x682E6FF3D6B2B8A3]
    ++ [0x748F82EE5DEFB2FC, 0x78A5636F43172F60, 0x84C87814A1F0AB72, 0x8CC702081A6439EC]
    ++ [0x90BEFFFA23631E28, 0xA4506CEBDE82BDE9, 0xBEF9A3F7B2C67915, 0xC67178F2E372532B]
    ++ [0xCA273ECEEA26619C, 0xD186B8C721C0C207, 0xEADA7DD6CDE0EB1E, 0xF57D4F7FEE6ED178]
    ++ [0x06F067AA72176FBA, 0x0A637DC5A2C898A6, 0x113F9804BEF90DAE, 0x1B710B35131C471B]
    ++ [0x28DB77F523047D84, 0x32CAAB7B40C72493, 0x3C9EBE0A15C9BEBC, 0x431D67C49C100D4C]
    ++ [0x4CC5D4BECB3E42B6, 0x597F299CFC657E2A, 0x5FCB6FAB3AD6FAEC, 0x6C44198C4A475817]

def sha256K : List Nat :=
    [0x428A2F98, 0x71374491, 0xB5C0FBCF, 0xE9B5DBA5, 0x3956C25B, 0x59F111F1, 0x923F82A4, 0xAB1C5ED5]
    ++ [0xD807AA98, 0x12835B01, 0x243185BE, 0x550C7DC3, 0x72BE5D74, 0x80DEB1FE, 0x9BDC06A7, 0xC19BF174]
    ++ [0xE49B69C1, 0xEFBE4786, 0x0FC19DC6, 0x240CA1CC, 0x2DE92C6F, 0x4A7484AA, 0x5CB0A9DC, 0x76F988DA]
    ++ [0x983E5152, 0xA831C66D, 0xB00327C8, 0xBF597FC7, 0xC6E00BF3, 0xD5A79147, 0x06CA6351, 0x14292967]
    ++ [0x27B70A85, 0x2E1B2138, 0x4D2C6DFC, 0x53380D13, 0x650A7354, 0x766A0ABB, 0x81C2C92E, 0x92722C85]
    ++ [0xA2BFE8A1, 0xA81A664B, 0xC24B8B70, 0xC76C51A3, 0xD192E819, 0xD6990624, 0xF40E3585, 0x106AA070]
    ++ [0x19A4C116, 0x1E376C08, 0x2748774C, 0x34B0BCB5, 0x391C0CB3, 0x4ED8AA4A, 0x5B9CCA4F, 0x682E6FF3]
    ++ [0x748F82EE, 0x78A5636F, 0x84C87814, 0x8CC70208, 0x90BEFFFA, 0xA4506CEB, 0xBEF9A3F7, 0xC67178F2]

def sha384Spec : ShaSpec :=
  { w := 64, rounds := 80, k := sha512K
    iv := [0xCBBB9D5DC1059ED8, 0x629A292A367CD507, 0x9159015A3070DD17, 0x152FECD8F70E5939]
    ++ [0x67332667FFC00B31, 0x8EB44A8768581511, 0xDB0C2E0D64F98FA7, 0x47B5481DBEFA4FA4]
    s0 := (1, 8, 7), s1 := (19, 61, 6), b0 := (28, 34, 39), b1 := (14, 18, 41), out := 48 }

def sha256Spec : ShaSpec :=
  { w := 32, rounds := 64, k := sha256K
    iv := [0x6A09E667, 0xBB67AE85, 0x3C6EF372, 0xA54FF53A, 0x510E527F, 0x9B05688C, 0x1F83D9AB, 0x5BE0CD19]
    s0 := (7, 18, 3), s1 := (17, 19, 10), b0 := (2, 13, 22), b1 := (6, 11, 25), out := 32 }

def sha384 (msg : List Byte) : List Byte := sha2 sha384Spec msg
def sha256 (msg : List Byte) : List Byte := sha2 sha256Spec msg

/-- HMAC with SHA-384; keys here are at most one block long. -/
def hmac384 (key msg : List Byte) : List Byte :=
  let k := padTo 128 (if 128 < key.length then sha384 key else key)
  sha384 (k.map (· ^^^ 0x5C#8) ++ sha384 (k.map (· ^^^ 0x36#8) ++ msg))

/-- The output blocks of HKDF's expansion. -/
def hkdfBlocks (prk info : List Byte) : Nat → Nat → List Byte → List Byte
  | 0, _, _ => []
  | n + 1, i, prev =>
    let t := hmac384 prk (prev ++ info ++ [BitVec.ofNat 8 i])
    t ++ hkdfBlocks prk info n (i + 1) t

/-- HKDF-SHA-384 (RFC 5869). -/
def hkdf384 (salt ikm info : List Byte) (len : Nat) : List Byte :=
  (hkdfBlocks (hmac384 salt ikm) info (ceilDiv len 48) 1 []).take len

/-! ## AES-256 -/

def aesSbox : List Nat :=
    [0x63, 0x7C, 0x77, 0x7B, 0xF2, 0x6B, 0x6F, 0xC5, 0x30, 0x01, 0x67, 0x2B, 0xFE, 0xD7, 0xAB, 0x76]
    ++ [0xCA, 0x82, 0xC9, 0x7D, 0xFA, 0x59, 0x47, 0xF0, 0xAD, 0xD4, 0xA2, 0xAF, 0x9C, 0xA4, 0x72, 0xC0]
    ++ [0xB7, 0xFD, 0x93, 0x26, 0x36, 0x3F, 0xF7, 0xCC, 0x34, 0xA5, 0xE5, 0xF1, 0x71, 0xD8, 0x31, 0x15]
    ++ [0x04, 0xC7, 0x23, 0xC3, 0x18, 0x96, 0x05, 0x9A, 0x07, 0x12, 0x80, 0xE2, 0xEB, 0x27, 0xB2, 0x75]
    ++ [0x09, 0x83, 0x2C, 0x1A, 0x1B, 0x6E, 0x5A, 0xA0, 0x52, 0x3B, 0xD6, 0xB3, 0x29, 0xE3, 0x2F, 0x84]
    ++ [0x53, 0xD1, 0x00, 0xED, 0x20, 0xFC, 0xB1, 0x5B, 0x6A, 0xCB, 0xBE, 0x39, 0x4A, 0x4C, 0x58, 0xCF]
    ++ [0xD0, 0xEF, 0xAA, 0xFB, 0x43, 0x4D, 0x33, 0x85, 0x45, 0xF9, 0x02, 0x7F, 0x50, 0x3C, 0x9F, 0xA8]
    ++ [0x51, 0xA3, 0x40, 0x8F, 0x92, 0x9D, 0x38, 0xF5, 0xBC, 0xB6, 0xDA, 0x21, 0x10, 0xFF, 0xF3, 0xD2]
    ++ [0xCD, 0x0C, 0x13, 0xEC, 0x5F, 0x97, 0x44, 0x17, 0xC4, 0xA7, 0x7E, 0x3D, 0x64, 0x5D, 0x19, 0x73]
    ++ [0x60, 0x81, 0x4F, 0xDC, 0x22, 0x2A, 0x90, 0x88, 0x46, 0xEE, 0xB8, 0x14, 0xDE, 0x5E, 0x0B, 0xDB]
    ++ [0xE0, 0x32, 0x3A, 0x0A, 0x49, 0x06, 0x24, 0x5C, 0xC2, 0xD3, 0xAC, 0x62, 0x91, 0x95, 0xE4, 0x79]
    ++ [0xE7, 0xC8, 0x37, 0x6D, 0x8D, 0xD5, 0x4E, 0xA9, 0x6C, 0x56, 0xF4, 0xEA, 0x65, 0x7A, 0xAE, 0x08]
    ++ [0xBA, 0x78, 0x25, 0x2E, 0x1C, 0xA6, 0xB4, 0xC6, 0xE8, 0xDD, 0x74, 0x1F, 0x4B, 0xBD, 0x8B, 0x8A]
    ++ [0x70, 0x3E, 0xB5, 0x66, 0x48, 0x03, 0xF6, 0x0E, 0x61, 0x35, 0x57, 0xB9, 0x86, 0xC1, 0x1D, 0x9E]
    ++ [0xE1, 0xF8, 0x98, 0x11, 0x69, 0xD9, 0x8E, 0x94, 0x9B, 0x1E, 0x87, 0xE9, 0xCE, 0x55, 0x28, 0xDF]
    ++ [0x8C, 0xA1, 0x89, 0x0D, 0xBF, 0xE6, 0x42, 0x68, 0x41, 0x99, 0x2D, 0x0F, 0xB0, 0x54, 0xBB, 0x16]

def aesSub (b : Nat) : Nat := aesSbox.getD b 0
def aesSubInv (b : Nat) : Nat := aesSbox.findIdx (· == b)

/-- Multiplication by x in GF(2^8). -/
def aesX (b : Nat) : Nat := if 128 ≤ b then (b * 2 ^^^ 0x11B) else b * 2

/-- Multiplication in GF(2^8) by a constant below 16. -/
def aesMul (k b : Nat) : Nat :=
  let b2 := aesX b
  let b4 := aesX b2
  let b8 := aesX b4
  (if k.testBit 0 then b else 0) ^^^ (if k.testBit 1 then b2 else 0) ^^^ (if k.testBit 2 then b4 else 0)
    ^^^ (if k.testBit 3 then b8 else 0)

/-- The key schedule's words, newest first. -/
def aesExpand : Nat → Nat → Nat → List (List Nat) → List (List Nat)
  | 0, _, _, ws => ws
  | n + 1, i, rc, ws =>
    let t := ws.getD 0 []
    let t' :=
      if i % 8 = 0 then
        match t.map aesSub with
        | [a, b, c, d] => [b ^^^ rc, c, d, a]
        | x => x
      else if i % 8 = 4 then t.map aesSub else t
    let nw := List.zipWith (· ^^^ ·) (ws.getD 7 []) t'
    aesExpand n (i + 1) (if i % 8 = 0 then aesX rc else rc) (nw :: ws)

/-- The fifteen round keys of a 32-byte key. -/
def aesKeys (key : List Byte) : List (List Nat) :=
  let ws := (aesExpand 52 8 1 (chunksOf 8 4 (natsOf (padTo 32 key))).reverse).reverse
  (chunksOf 15 4 ws).map List.flatten

def aesShift (st : List Nat) : List Nat := (List.range 16).map fun i => st.getD ((i + 4 * (i % 4)) % 16) 0
def aesShiftInv (st : List Nat) : List Nat := (List.range 16).map fun i => st.getD ((i + 12 * (i % 4)) % 16) 0

/-- A column of MixColumns with the given first row of coefficients. -/
def aesMix (c0 c1 c2 c3 : Nat) (st : List Nat) : List Nat :=
  (chunksOf 4 4 st).flatMap fun col =>
    match col with
    | [a, b, c, d] =>
      [aesMul c0 a ^^^ aesMul c1 b ^^^ aesMul c2 c ^^^ aesMul c3 d,
       aesMul c3 a ^^^ aesMul c0 b ^^^ aesMul c1 c ^^^ aesMul c2 d,
       aesMul c2 a ^^^ aesMul c3 b ^^^ aesMul c0 c ^^^ aesMul c1 d,
       aesMul c1 a ^^^ aesMul c2 b ^^^ aesMul c3 c ^^^ aesMul c0 d]
    | x => x

def aesAdd (st k : List Nat) : List Nat := List.zipWith (· ^^^ ·) st k

/-- One block enciphered under the round keys. -/
def aesEncWith (ks : List (List Nat)) (blk : List Byte) : List Byte :=
  let st := aesAdd (natsOf (padTo 16 blk)) (ks.getD 0 [])
  let st := ((ks.drop 1).take 13).foldl (fun s k => aesAdd (aesMix 2 3 1 1 (aesShift (s.map aesSub))) k) st
  bytesOf (aesAdd (aesShift (st.map aesSub)) (ks.getD 14 []))

/-- One block deciphered under the round keys. -/
def aesDecWith (ks : List (List Nat)) (blk : List Byte) : List Byte :=
  let st := aesAdd (natsOf (padTo 16 blk)) (ks.getD 14 [])
  let st := ((ks.drop 1).take 13).reverse.foldl
    (fun s k => aesMix 14 11 13 9 (aesAdd ((aesShiftInv s).map aesSubInv) k)) st
  bytesOf (aesAdd ((aesShiftInv st).map aesSubInv) (ks.getD 0 []))

/-- The next tweak of XTS: multiplication by x in GF(2^128). -/
def xtsNext (t : Nat) : Nat := if 2 ^ 127 ≤ t then (t * 2) % 2 ^ 128 ^^^ 0x87 else t * 2

def xtsBlocks (f : List Byte → List Byte) : Nat → List (List Byte) → List Byte
  | _, [] => []
  | t, b :: bs =>
    let tb := natLe 16 t
    xorBytes (f (xorBytes b tb)) tb ++ xtsBlocks f (xtsNext t) bs

/-- AES-256-XTS on one data unit of whole blocks: the 64-byte key is key 1 and key 2. -/
def xts (enc : Bool) (key : List Byte) (tweak : Nat) (data : List Byte) : List Byte :=
  let ks1 := aesKeys (key.take 32)
  let t := leNat (aesEncWith (aesKeys (key.drop 32)) (natLe 16 tweak))
  xtsBlocks (if enc then aesEncWith ks1 else aesDecWith ks1) t (chunksOf (data.length / 16) 16 data)

/-- Multiplication in GCM's field, most significant bit first. -/
def ghashMul (x y : Nat) : Nat :=
  ((List.range 128).foldl (fun (zv : Nat × Nat) i =>
    let z := if x.testBit (127 - i) then zv.1 ^^^ zv.2 else zv.1
    (z, if zv.2 % 2 = 1 then zv.2 / 2 ^^^ (0xE1 <<< 120) else zv.2 / 2)) (0, y)).1

def padBlock (bs : List Byte) : List Byte := bs ++ List.replicate ((16 - bs.length % 16) % 16) 0#8

/-- The keystream of GCM's counter mode from a counter block. -/
def gcmStream (ks : List (List Nat)) (nonce : List Byte) : Nat → Nat → List Byte
  | 0, _ => []
  | n + 1, c => aesEncWith ks (nonce ++ natBe 4 c) ++ gcmStream ks nonce n (c + 1)

/-- The tag of a ciphertext. -/
def gcmTag (key nonce aad ct : List Byte) : List Byte :=
  let ks := aesKeys key
  let h := beNat (aesEncWith ks (List.replicate 16 0#8))
  let data := padBlock aad ++ padBlock ct ++ natBe 8 (aad.length * 8) ++ natBe 8 (ct.length * 8)
  let s := (chunksOf (data.length / 16) 16 data).foldl (fun y b => ghashMul (y ^^^ beNat b) h) 0
  xorBytes (natBe 16 s) (aesEncWith ks (nonce ++ natBe 4 1))

/-- The counter mode of GCM, which enciphers and deciphers. -/
def gcmCrypt (key nonce data : List Byte) : List Byte :=
  xorBytes data (gcmStream (aesKeys key) nonce (ceilDiv data.length 16) 2)

/-- AES-256-GCM sealing: ciphertext and tag. -/
def gcmSeal (key nonce aad pt : List Byte) : List Byte × List Byte :=
  let ct := gcmCrypt key nonce pt
  (ct, gcmTag key nonce aad ct)

/-- AES-256-GCM opening: none if the tag does not match. -/
def gcmOpen (key nonce aad ct tag : List Byte) : Option (List Byte) :=
  if gcmTag key nonce aad ct = tag then some (gcmCrypt key nonce ct) else none

/-- The steps of RFC 3394 unwrapping, from the last. -/
def unwrapSteps (ks : List (List Nat)) (n : Nat) : Nat → List Byte × List (List Byte) → List Byte × List (List Byte)
  | 0, st => st
  | t + 1, (a, rs) =>
    let i := t % n
    let b := aesDecWith ks (xorBytes a (natBe 8 (t + 1)) ++ rs.getD i [])
    unwrapSteps ks n t (b.take 8, rs.set i (b.drop 8))

/-- RFC 3394 unwrap: none if the integrity value is wrong. -/
def keyUnwrap (kek wrapped : List Byte) : Option (List Byte) :=
  let n := wrapped.length / 8 - 1
  let (a, rs) := unwrapSteps (aesKeys kek) n (6 * n) (wrapped.take 8, chunksOf n 8 (wrapped.drop 8))
  if a = List.replicate 8 0xA6#8 then some rs.flatten else none

/-- The steps of RFC 3394 wrapping, from the first. -/
def wrapSteps (ks : List (List Nat)) (n : Nat) (st : List Byte × List (List Byte)) (t : Nat) : List Byte × List (List Byte) :=
  let b := aesEncWith ks (st.1 ++ st.2.getD (t % n) [])
  (xorBytes (b.take 8) (natBe 8 (t + 1)), st.2.set (t % n) (b.drop 8))

/-- RFC 3394 wrap. -/
def keyWrap (kek plain : List Byte) : List Byte :=
  let n := plain.length / 8
  let (a, rs) := (List.range (6 * n)).foldl (wrapSteps (aesKeys kek) n) (List.replicate 8 0xA6#8, chunksOf n 8 plain)
  a ++ rs.flatten

/-! ## P-384 -/

def p384P : Nat := 2 ^ 384 - 2 ^ 128 - 2 ^ 96 + 2 ^ 32 - 1
def p384N : Nat := 0xFFFFFFFFFFFFFFFFFFFFFFFFFFFFFFFFFFFFFFFFFFFFFFFFC7634D81F4372DDF581A0DB248B0A77AECEC196ACCC52973
def p384B : Nat := 0xB3312FA7E23EE7E4988E056BE3F82D19181D9C6EFE8141120314088F5013875AC656398D8A2ED19D2A85C8EDD3EC2AEF
def p384G : Nat × Nat :=
  (0xAA87CA22BE8B05378EB1C71EF320AD746E1D3B628BA79B9859F741E082542A385502F25DBF55296C3A545E3872760AB7,
   0x3617DE4A96262C6F5D9E98BF9292DC29F8F41DBD289A147CE9DA3113B5F0B8C00A60B1CE1D7E819D7A431D7C90EA0E5F)

/-- b^e mod m over the low `k` bits of e. -/
def powMod (m : Nat) : Nat → Nat → Nat → Nat → Nat
  | 0, _, _, acc => acc
  | k + 1, b, e, acc => powMod m k (b * b % m) (e / 2) (if e % 2 = 1 then acc * b % m else acc)

/-- The inverse modulo a prime of at most 384 bits. -/
def invMod (m x : Nat) : Nat := powMod m 384 (x % m) (m - 2) 1

def subMod (m a b : Nat) : Nat := (a + m - b % m) % m

/-- The sum of two points; none is the point at infinity. -/
def ecAdd (p q : Option (Nat × Nat)) : Option (Nat × Nat) :=
  match p, q with
  | none, q => q
  | p, none => p
  | some (x1, y1), some (x2, y2) =>
    let m := p384P
    if x1 = x2 && (y1 + y2) % m = 0 then none
    else
      let l :=
        if x1 = x2 then subMod m (3 * x1 * x1) 3 * invMod m (2 * y1) % m
        else subMod m y2 y1 * invMod m (subMod m x2 x1) % m
      let x := subMod m (l * l) (x1 + x2)
      some (x, subMod m (l * subMod m x1 x) y1)

/-- k times a point, over the low `n` bits of k. -/
def ecMul : Nat → Nat → Option (Nat × Nat) → Option (Nat × Nat) → Option (Nat × Nat)
  | 0, _, _, acc => acc
  | n + 1, k, p, acc => ecMul n (k / 2) (ecAdd p p) (if k % 2 = 1 then ecAdd acc p else acc)

/-- A public key of x then y, 48 bytes each, big-endian (SEC 1), if it lies on the curve. -/
def ecPoint (bs : List Byte) : Option (Nat × Nat) :=
  let x := beNat (slice bs 0 48)
  let y := beNat (slice bs 48 48)
  if x < p384P && y < p384P && y * y % p384P == (subMod p384P (x * x * x) (3 * x) + p384B) % p384P then some (x, y)
  else none

/-- The encoding of a point. -/
def ecBytes (p : Option (Nat × Nat)) : List Byte :=
  match p with
  | some (x, y) => natBe 48 x ++ natBe 48 y
  | none => List.replicate 96 0#8

/-- The x coordinate of the ECDH secret of a private scalar and a peer's public key. -/
def ecdhX (d : Nat) (peer : List Byte) : Option (List Byte) :=
  match ecPoint peer with
  | none => none
  | some q => (ecMul 384 d (some q) none).map fun r => natBe 48 r.1

/-- ECDSA P-384 verification of r and s over SHA-384 of a message. -/
def ecdsaVerify (pub msg sig : List Byte) : Bool :=
  match ecPoint pub with
  | none => false
  | some q =>
    let r := beNat (slice sig 0 48)
    let s := beNat (slice sig 48 48)
    if r = 0 || s = 0 || p384N ≤ r || p384N ≤ s then false
    else
      let e := beNat (sha384 msg)
      let w := invMod p384N s
      match ecAdd (ecMul 384 (e * w % p384N) (some p384G) none) (ecMul 384 (r * w % p384N) (some q) none) with
      | none => false
      | some (x, _) => x % p384N == r

/-- ECDSA P-384 signing with a private scalar and a per-signature scalar. -/
def ecdsaSign (d k : Nat) (msg : List Byte) : List Byte :=
  match ecMul 384 k (some p384G) none with
  | none => List.replicate 96 0#8
  | some (x, _) =>
    let r := x % p384N
    natBe 48 r ++ natBe 48 (invMod p384N k * (beNat (sha384 msg) + r * d) % p384N)

/-- The public key of a private scalar. -/
def ecPublic (d : Nat) : List Byte := ecBytes (ecMul 384 d (some p384G) none)

/-- A private scalar from bytes: reduced modulo n - 1, plus 1. -/
def scalarOf (bs : List Byte) : Nat := beNat bs % (p384N - 1) + 1

/-- The private scalar of the provisioning key (Table 16-2): derived from the PUF root with SECURITY_VERSION and DEBUG_UNLOCK. -/
def provScalar (securityVersion debugUnlock : Nat) : Nat :=
  scalarOf (hkdf384 (natLe 4 securityVersion ++ natLe 1 debugUnlock) Config.pufRoot (ascii "yarka prov") 56)

/-! ## The keys derived from the PUF root (R405, Table 16-2) -/

/-- K_ID, which wraps the identity keys. -/
def identityWrapKey : List Byte := hkdf384 [] Config.pufRoot (ascii "yarka id") 32

/-- The vault wrap key: the salt is DEBUG_UNLOCK. -/
def vaultWrapKey (debugUnlock : Nat) : List Byte := hkdf384 (natLe 1 debugUnlock) Config.pufRoot (ascii "yarka vault") 32

/-- The private scalar of the identity key DIK, and the seed of the identity HSS key. -/
def identityKey : Nat := beNat ((keyUnwrap identityWrapKey Config.wrappedIdentity).getD (Config.failedUnwrap 0))
def hssSeed : List Byte := (keyUnwrap identityWrapKey Config.wrappedHssSeed).getD (Config.failedUnwrap 1)

/-! ## LMS and HSS (RFC 8554) -/

/-- The tree height of an accepted LMS type: LMS_SHA256_M32_H10, H15 and H20 (R194). -/
def lmsHeight : Nat → Option Nat
  | 6 => some 10 | 7 => some 15 | 8 => some 20 | _ => none

/-- w, p and ls of an accepted LM-OTS type: LMOTS_SHA256_N32_W4 and W8 (R194). -/
def otsParams : Nat → Option (Nat × Nat × Nat)
  | 3 => some (4, 67, 4) | 4 => some (8, 34, 0) | _ => none

/-- The i-th w-bit digit of a string, for w of 4 or 8. -/
def otsCoef (bs : List Byte) (i w : Nat) : Nat :=
  if w = 8 then fld bs i 1 else (fld bs (i / 2) 1 / (if i % 2 = 0 then 16 else 1)) % 16

/-- The chain of LM-OTS from digit j on, `n` applications. -/
def otsChain (pre : List Byte) : Nat → Nat → List Byte → List Byte
  | 0, _, x => x
  | n + 1, j, x => otsChain pre n (j + 1) (sha256 (pre ++ natBe 1 j ++ x))

/-- The candidate LM-OTS public key of a signature (RFC 8554, algorithm 4b). -/
def otsCandidate (w p ls : Nat) (ident : List Byte) (q : Nat) (sig msg : List Byte) : List Byte :=
  let c := slice sig 4 32
  let qh := sha256 (ident ++ natBe 4 q ++ natBe 2 0x8181 ++ c ++ msg)
  let top := 2 ^ w - 1
  let sum := (List.range (256 / w)).foldl (fun a i => a + (top - otsCoef qh i w)) 0
  let digits := qh ++ natBe 2 ((sum <<< ls) % 65536)
  let z := (List.range p).flatMap fun i =>
    let a := otsCoef digits i w
    otsChain (ident ++ natBe 4 q ++ natBe 2 i) (top - a) a (slice sig (36 + 32 * i) 32)
  sha256 (ident ++ natBe 4 q ++ natBe 2 0x8080 ++ z)

/-- The root that an authentication path leads to. -/
def lmsRoot (ident : List Byte) : Nat → Nat → List Byte → List Byte → List Byte
  | 0, _, _, x => x
  | h + 1, node, path, x =>
    let sib := path.take 32
    let pre := ident ++ natBe 4 (node / 2) ++ natBe 2 0x8383
    lmsRoot ident h (node / 2) (path.drop 32) (sha256 (pre ++ (if node % 2 = 1 then sib ++ x else x ++ sib)))

/-- The byte length of an LMS signature that begins `sig`, if its types are accepted. -/
def lmsSigBytes (sig : List Byte) : Option Nat :=
  match otsParams (beNat (slice sig 4 4)) with
  | none => none
  | some (_, p, _) => (lmsHeight (beNat (slice sig (8 + 32 * (p + 1)) 4))).map fun h => 12 + 32 * (p + 1) + 32 * h

/-- LMS verification: a 56-byte public key, a message and a signature (RFC 8554, algorithm 6a). -/
def lmsVerify (pub msg sig : List Byte) : Bool :=
  let ident := slice pub 8 16
  match lmsHeight (beNat (slice pub 0 4)), otsParams (beNat (slice pub 4 4)) with
  | some h, some (w, p, ls) =>
    let q := beNat (slice sig 0 4)
    let tail := 8 + 32 * (p + 1)
    if beNat (slice sig 4 4) ≠ beNat (slice pub 4 4) || beNat (slice sig tail 4) ≠ beNat (slice pub 0 4)
        || 2 ^ h ≤ q || sig.length ≠ tail + 4 + 32 * h then false
    else
      let kc := otsCandidate w p ls ident q (sig.drop 4) msg
      let leaf := sha256 (ident ++ natBe 4 (2 ^ h + q) ++ natBe 2 0x8282 ++ kc)
      lmsRoot ident h (2 ^ h + q) (sig.drop (tail + 4)) leaf == slice pub 24 32
  | _, _ => false

/-- HSS verification of one or two levels (R194). -/
def hssVerify (pub msg sig : List Byte) : Bool :=
  let levels := beNat (slice pub 0 4)
  let top := slice pub 4 56
  let nspk := beNat (slice sig 0 4)
  let rest := sig.drop 4
  if pub.length ≠ 60 || nspk + 1 ≠ levels then false
  else if levels = 1 then lmsVerify top msg rest
  else if levels = 2 then
    match lmsSigBytes rest with
    | none => false
    | some n =>
      let pub2 := slice rest n 56
      lmsVerify top pub2 (rest.take n) && lmsVerify pub2 msg (rest.drop (n + 56))
  else false

/-! ## LMS and HSS signing (R409) -/

/-- A tree of the identity HSS key: the secret that it comes from and its reservation, none for level 0; LMS type and height. Every leaf is
LMOTS_SHA256_N32_W8, type 4. -/
structure HssTree where
  secret : List Byte
  resv   : Option Nat
  type   : Nat
  height : Nat
deriving DecidableEq, Repr

/-- Level 0, LMS_SHA256_M32_H15 from the seed, and level 1 of reservation q, LMS_SHA256_M32_H10 from the root and q. -/
def levelZero : HssTree := ⟨hssSeed, none, 7, 15⟩
def levelOne (q : Nat) : HssTree := ⟨Config.pufRoot, some q, 6, 10⟩

def HssTree.ident (t : HssTree) : List Byte := padTo 16 (Config.treeIdent t.secret t.resv)
/-- The private value of a chain of a leaf. -/
def HssTree.secretOf (t : HssTree) (leaf i : Nat) : List Byte := padTo 32 (Config.treePrivate t.secret t.resv leaf i)

/-- The LM-OTS public key of a leaf. -/
def HssTree.otsPublic (t : HssTree) (leaf : Nat) : List Byte :=
  let z := (List.range 34).flatMap fun i => otsChain (t.ident ++ natBe 4 leaf ++ natBe 2 i) 255 0 (t.secretOf leaf i)
  sha256 (t.ident ++ natBe 4 leaf ++ natBe 2 0x8080 ++ z)

/-- The value of a node, `n` levels above the leaves. -/
def HssTree.node (t : HssTree) : Nat → Nat → List Byte
  | 0, r => sha256 (t.ident ++ natBe 4 r ++ natBe 2 0x8282 ++ t.otsPublic (r - 2 ^ t.height))
  | n + 1, r => sha256 (t.ident ++ natBe 4 r ++ natBe 2 0x8383 ++ t.node n (2 * r) ++ t.node n (2 * r + 1))

/-- The 56-byte LMS public key of a tree. -/
def HssTree.publicKey (t : HssTree) : List Byte := natBe 4 t.type ++ natBe 4 4 ++ t.ident ++ t.node t.height 1

/-- The LM-OTS signature of a leaf over a message. -/
def HssTree.otsSign (t : HssTree) (leaf : Nat) (msg : List Byte) : List Byte :=
  let c := padTo 32 (Config.treeRandom t.resv leaf)
  let qh := sha256 (t.ident ++ natBe 4 leaf ++ natBe 2 0x8181 ++ c ++ msg)
  let sum := (List.range 32).foldl (fun a i => a + (255 - otsCoef qh i 8)) 0
  let digits := qh ++ natBe 2 sum
  natBe 4 4 ++ c ++ (List.range 34).flatMap fun i =>
    otsChain (t.ident ++ natBe 4 leaf ++ natBe 2 i) (otsCoef digits i 8) 0 (t.secretOf leaf i)

/-- The LMS signature of a leaf over a message. -/
def HssTree.sign (t : HssTree) (leaf : Nat) (msg : List Byte) : List Byte :=
  let sib (n : Nat) : Nat := let r := (2 ^ t.height + leaf) / 2 ^ n; if r % 2 = 0 then r + 1 else r - 1
  natBe 4 leaf ++ t.otsSign leaf msg ++ natBe 4 t.type ++ (List.range t.height).flatMap fun n => t.node n (sib n)

/-- The device's HSS public key, 60 bytes. -/
def hssPublic : List Byte := natBe 4 2 ++ levelZero.publicKey

/-- The HSS signature of reservation q and leaf n over a message, 3,124 bytes. -/
def hssSign (q n : Nat) (msg : List Byte) : List Byte :=
  natBe 4 1 ++ levelZero.sign q (levelOne q).publicKey ++ (levelOne q).publicKey ++ (levelOne q).sign n msg

/-! ## X.509 certificates in DER (R406) -/

/-- A DER element: its tag, length and contents. -/
def der (tag : Nat) (body : List Byte) : List Byte :=
  let n := body.length
  natBe 1 tag ++ (if n < 128 then natBe 1 n else if n < 256 then natBe 1 0x81 ++ natBe 1 n else natBe 1 0x82 ++ natBe 2 n) ++ body

/-- A DER INTEGER of a big-endian number. -/
def derInt (bs : List Byte) : List Byte :=
  let d := bs.dropWhile (· == 0#8)
  der 2 (if d.isEmpty || 128 ≤ fld d 0 1 then 0#8 :: d else d)

def derBits (bs : List Byte) : List Byte := der 3 (0#8 :: bs)

/-- ecdsa-with-SHA384, and the key type of P-384. -/
def derSigAlg : List Byte := der 0x30 (der 6 (natBe 8 0x2A8648CE3D040303))
def derKeyAlg : List Byte := der 0x30 (der 6 (natBe 7 0x2A8648CE3D0201) ++ der 6 (natBe 5 0x2B81040022))

/-- The 16 hex digits of SERIAL, most significant first. -/
def serialDigits : List Byte :=
  (List.range 16).map fun i => let d := Config.serial / 16 ^ (15 - i) % 16; BitVec.ofNat 8 (if d < 10 then 48 + d else 55 + d)

/-- The subject of certificate i; the device certificate's has the attribute serialNumber. -/
def certSubject (i : Nat) : List Byte :=
  let attr := der 0x31 (der 0x30 (der 6 (natBe 3 0x550405) ++ der 0x13 serialDigits))
  der 0x30 (Config.certNames i ++ if i = 2 then attr else [])

/-- The public key of certificate i: x then y. -/
def certKey (i : Nat) : List Byte := ecPublic (if i = 2 then identityKey else Config.issuerKey i)

/-- What the issuer of certificate i signs. -/
def certBody (i : Nat) : List Byte :=
  der 0x30 (der 0xA0 (der 2 [2#8]) ++ Config.certPart i 0 ++ derSigAlg ++ certSubject (i - 1) ++ Config.certPart i 1 ++ certSubject i
    ++ der 0x30 (derKeyAlg ++ derBits (4#8 :: certKey i)) ++ Config.certPart i 2)

/-- Certificate i, signed by its issuer: the root signs itself and the CA, the CA the device certificate. -/
def certificate (i : Nat) : List Byte :=
  let sig := ecdsaSign (Config.issuerKey (i - 1)) (Config.issuerNonce i) (certBody i)
  der 0x30 (certBody i ++ derSigAlg ++ derBits (der 0x30 (derInt (slice sig 0 48) ++ derInt (slice sig 48 48))))

/-- The ECDSA chain: root, CA, device certificate. -/
def certChain : List Byte := certificate 0 ++ certificate 1 ++ certificate 2

end Sys2Proof.Machine
end

