-- ==== Sys2Proof/Machine/State.lean ====
section
/-!
DEFINITION. Sys2Proof/Machine/State.lean: every piece of state that the manual gives the SPX-Y64, and the machine right after reset.

The state is plain data. Numbers of a fixed width that software reads as masks are bit vectors; counters, addresses
and sizes are naturals; sparse tables are lists of (key, value) pairs in ascending key order that leave out the
entries equal to the table's default. INVENTORY.md lists every field with the rule that names it.
-/

namespace Sys2Proof.Machine

/-- A sparse table: ascending keys, no entry equal to the table's default. -/
abbrev Tab (α : Type) := List (Nat × α)

/-- Bytes by address, in canonical form; an address that is not listed reads as 0. -/
abbrev Mem := List Host.Cell

/-- Why the machine stops with a fault. No row of this device stops the machine: every outcome that the manual names,
a fatal stop included, is a next state. Nobody raises this; it is safe. -/
inductive Fault where
  /-- An access outside every structure of the device; raised by no meaning. Safe. -/
  | noSuchState
deriving DecidableEq, Repr

/-- Why a command has no meaning. -/
inductive Refusal where
  /-- The command's row has no meaning yet; raised by its arm of the dispatch. Safe. -/
  | notModelled (mnemonic : String)
deriving DecidableEq, Repr

/-! ## Time, stamps and step counters (chapter 2) -/

/-- The local step counters of R55: engines and clusters by number, and the four hub units. -/
structure Steps where
  engine   : Tab Nat
  cluster  : Tab Nat
  frontEnd : Nat
  dealer   : Nat
  narrow   : Nat
  heldun   : Nat
deriving DecidableEq, Repr

/-- Precision Time Measurement (R59 to R61): which ports enable it, the selected port, the interval, the last good
exchange, and the hub step at which an exchange last started. -/
structure Ptm where
  enabled      : BitVec 2
  port         : Option Nat
  waiting      : Bool
  log2Interval : Nat
  lastStart    : Nat
  valid        : Bool
  goodPort     : Nat
  time         : Nat
  seq          : Nat
  goodAt       : Nat
deriving DecidableEq, Repr

/-- A time stamp of Table 2-4, by field. -/
structure Stamp where
  port  : Nat
  valid : Bool
  seq   : Nat
  since : Nat
  time  : Nat
deriving DecidableEq, Repr

/-! ## Units (chapter 1, chapter 20) -/

/-- The units-present map (Table 1-3) with its pending half (R27). REGIONS is derived. -/
structure UnitsMap where
  engines      : BitVec 64
  clusters     : BitVec 16
  walkers      : BitVec 32
  channels     : BitVec 256
  lanes        : BitVec 64
  portsLive    : BitVec 6
  tpLive       : BitVec 16
  startRetired : Bool
  mapSeq       : Nat
  pendEngines  : BitVec 64
  pendClusters : BitVec 16
  pendWalkers  : BitVec 32
  pendChannels : BitVec 256
  pendLanes    : BitVec 64
deriving DecidableEq, Repr

/-- The window counts of a unit (R519): `window` of the first cause of Table 20-8 and `window2` of the second that channels
and lanes keep; `life` holds the increases of its life count that the vault no longer records (Table 20-9). -/
structure FaultCount where
  window  : Nat
  window2 : Nat
  life    : Nat
deriving DecidableEq, Repr

/-- An EV_ERROR cause on one unit since start: COUNT of Table 20-5, the events raised in this rate window, and the hub step of the first of
them (R515). -/
structure ErrCount where
  cause  : Nat
  kind   : Nat
  index  : Nat
  count  : Nat
  raised : Nat
  since  : Nat
deriving DecidableEq, Repr

/-- A unit that needs or runs its in-service test (R520). -/
structure UnitTest where
  kind    : Nat
  index   : Nat
  running : Bool
deriving DecidableEq, Repr

/-- The units. `windowAt` is the hub step at which the retirement window began (R519); `kills` lists, by unit, the hub step of a kill that the
unit has not acknowledged (R519): a unit acknowledges when it starts its next command. -/
structure Units where
  map     : UnitsMap
  acked   : List (Nat × Nat)
  causes  : Tab Nat
  window  : Tab FaultCount
  errs    : List ErrCount
  tests   : List UnitTest
  eventSeq : Nat
  windowAt : Nat
  kills   : Tab Nat
deriving DecidableEq, Repr

/-! ## The vault (chapters 8, 16, 17, 20, 21) -/

/-- The slot states of Table 8-2. -/
inductive SlotState where
  | free | writing | ready | damaged
deriving DecidableEq, Repr

/-- A weight slot: its record (Table 8-3), extent list, manifest, written chunks, payload, content key, and the slot key made at OPEN
(`slotKey`) and content key (`wrappedKey`) as the vault wrap key of that moment wraps them (R196, R405). The payload is held as plaintext;
`degraded` is DEGRADED. -/
structure Slot where
  state      : SlotState
  prot       : Bool
  chunks     : Nat
  total      : Nat
  imageId    : Nat
  hash       : List Byte
  degraded   : Nat
  extents    : List Nat
  manifest   : List Byte
  written    : List Nat
  payload    : Mem
  contentKey : Option (List Byte)
  slotKey    : Option (List Byte)
  wrappedKey : Option (List Byte)
deriving DecidableEq, Repr

/-- The states of a firmware bank (Table 17-18). -/
inductive BankState where
  | empty | active | pending | failed | inactive
deriving DecidableEq, Repr

/-- A firmware bank (R460): its header fields, the image it holds and its write count. -/
structure Bank where
  state     : BankState
  sv        : Nat
  fwVersion : Nat
  costModel : Nat
  majors    : Nat
  image     : List Byte
  writes    : Nat
deriving DecidableEq, Repr

/-- The stop record of R518. -/
structure StopRec where
  cause   : Nat
  cls     : Nat
  kind    : Nat
  index   : Nat
  addr    : Nat
  dealSeq : Nat
  stamp   : Stamp
deriving DecidableEq, Repr

/-- The peg rows of Table 16-3. -/
structure Pegs where
  securityVersion : Nat
  ownerEpoch      : Nat
  debugUnlock     : Nat
  attestReserve   : Nat
deriving DecidableEq, Repr

/-- The four stacks' copies of the peg rows (R408): the rows as each stack holds them. -/
abbrev PegCopies := List Pegs

/-- What the vault system area and the vault media keep over a start. `wear` holds the write count of extent x at x
and of group g's parity at 1,152 + g (R190). `wearRaised` are the items whose 90 % event has been raised (R522). -/
structure Vault where
  slots          : Tab Slot
  wear           : Tab Nat
  wearRaised     : List Nat
  stackFailed    : BitVec 4
  badGranules    : List (Nat × Nat)
  banks          : Bank × Bank
  pegs           : Pegs
  pegCopies      : PegCopies
  ownerKey       : Option (List Byte)
  observerRights : BitVec 32
  retired        : List (Nat × Nat)
  life           : Tab Nat
  fatalStops     : Nat
  install        : Option (List Byte)
  stopRec        : Option StopRec
  armedToken     : Option (Nat × Nat)
  transfer       : Option (List Byte)
  slotKeySeq     : Nat
  systemWrites   : Nat
deriving DecidableEq, Repr

/-- A copy of a model (R203): its slot, the units of the weight-map store that hold its map, and the map entries that
differ from those BIND made: (TIER, FRAME). -/
structure Copy where
  slot  : Nat
  map   : Tab (Nat × Nat)
  units : List Nat
deriving DecidableEq, Repr

/-- A model: its three copies, the armed cut, and the deals that used RETIRING after the cut (R211). -/
structure Model where
  live     : Option Copy
  next     : Option Copy
  retiring : Option Copy
  armed    : Option Nat
  cutDeals : Nat
  lastUse  : Nat
deriving DecidableEq, Repr

/-! ## Memories (chapters 6, 7) -/

/-- The tags of an engine's operand area (R142, R355, R427). -/
structure AreaTag where
  tenant  : Option Nat
  valid   : Bool
  keySlot : Nat
  openTag : Option (Nat × Nat)
deriving DecidableEq, Repr

/-- A cluster-store segment (Table 6-3) with its open tag and key-slot tag. -/
structure Seg where
  kind    : Nat
  tenant  : Nat
  keySlot : Nat
  openTag : Option (Nat × Nat)
deriving DecidableEq, Repr

/-- An expander slot's record (Table 7-7); `trained` is what its link offers after training again (R458). -/
structure Expander where
  base     : Nat
  sizeGib  : Nat
  readMbs  : Nat
  writeMbs : Nat
  vendor   : Nat
  device   : Nat
  state    : Nat
  reject   : Nat
  width    : Nat
  speed    : Nat
  trained  : Option Nat
deriving DecidableEq, Repr

/-- A prefetch entry (R157): engine, CONTEXT, ASID, KEY_SLOT and the 4 KiB line. -/
structure Prefetch where
  engine  : Nat
  context : Nat
  asid    : Nat
  keySlot : Nat
  line    : Nat
deriving DecidableEq, Repr

/-- The memories of the device. `mem` holds stacked memory, the far-tier window and the cluster stores by
device-local physical address; `areas` holds engine n's operand area from n * 2^23 on. `poison` lists the poisoned
64-byte units of stacked memory and the far tier by address, `wordPoison` the poisoned 8-byte words of cluster stores.
A line that the hash of R162 places on a channel of `lostChan` reads as poison unless its unit is in `healed` (R166).
`withdrawn` lists, per stack, the channels whose bands are withdrawn, in that order, `copying` names the channel whose lines are being copied.
`named` gives each engine the fetch order of the next command that is named for it (R297). -/
structure Memories where
  mem       : Mem
  areas     : Mem
  poison    : List Nat
  wordPoison : List Nat
  lostChan  : List Nat
  healed    : List Nat
  areaTags  : Tab AreaTag
  segs      : Tab Seg
  withdrawn : Tab (List Nat)
  copying   : Tab (List Nat)
  refresh   : Tab Nat
  expanders : Tab Expander
  prefetch  : List Prefetch
  named     : Tab Nat
deriving DecidableEq, Repr

/-- A frame of a spill pool (R180): its start, 0 for a far-tier address or 1 + port for a host address, and the (context, page-list
entry) that it holds. -/
structure SpillFrame where
  loc  : Nat
  host : Nat
  page : Option (Nat × Nat)
deriving DecidableEq, Repr

/-- A spill pool (R180 to R182): its tier and its frames by index. -/
structure SpillPool where
  tier        : Nat
  frames      : Tab SpillFrame
  base        : Nat
  count       : Nat
  withdrawing : Bool
deriving DecidableEq, Repr

/-! ## Translation and the kitty (chapter 9) -/

/-- An address-space record (Table 9-4); state 0 FREE, 1 LIVE, 2 DESTROYING. -/
structure Asid where
  state : Nat
  root  : Nat
  pasid0 : Option Nat
  pasid1 : Option Nat
deriving DecidableEq, Repr

/-- A buffered leaf: address space, first 64 KiB page, level and the table entry; `pinned` in a second level. -/
structure Leaf where
  asid   : Nat
  va     : Nat
  level  : Nat
  entry  : Nat
  pinned : Bool
deriving DecidableEq, Repr

/-- A cached non-leaf entry of a die's walker cache: address space, level, index path and entry (R227). -/
structure NonLeaf where
  asid  : Nat
  level : Nat
  path  : Nat
  entry : Nat
deriving DecidableEq, Repr

structure Trans where
  asids   : Tab Asid
  level1  : Tab (List Leaf)
  level2  : Tab (List Leaf)
  walkers : Tab (List NonLeaf)
deriving DecidableEq, Repr

/-- A fault record of the kitty (Table 9-7). -/
structure FaultRec where
  asid     : Nat
  va       : Nat
  reason   : Nat
  level    : Nat
  access   : Nat
  count    : Nat
  engines  : BitVec 64
  movers   : BitVec 32
  hub      : Bool
  shoe     : Nat
  ticket   : Nat
  context  : Nat
deriving DecidableEq, Repr

/-- A batch of fault records (R235 to R241). `causes` lists the causes of R240 in the order in which they occurred. -/
structure Batch where
  seq      : Nat
  records  : List FaultRec
  overflow : Nat
  openedAt : Nat
  opened   : Stamp
  closed   : Stamp
  cause    : Nat
  causes   : List Nat
deriving DecidableEq, Repr

structure Kitty where
  area    : Option Nat
  steps   : Nat
  cur     : Batch
  waiting : Option Batch
  order   : Nat
deriving DecidableEq, Repr

/-! ## Shoes and commands in flight (chapter 10) -/

/-- A shoe table entry (Table 10-2) with its ticket window and status ring (R245, R265).
`window` lists (ticket, completion pointer), oldest first; `ring` lists (sequence, status). While a ring or word on a board peer is read,
`asked` lists (message number, board-wide address) and `got` (address, bytes); `resume` says that the turn goes on when they have come. -/
structure Shoe where
  state     : Nat
  cls       : Nat
  log2      : Nat
  dbPorts   : BitVec 2
  pending   : Bool
  sealSlot  : Nat
  ringHigh  : Nat
  ringUnits : Tab (List Byte)
  asid      : Nat
  tenant    : Nat
  engines   : BitVec 64
  ringPtr   : Nat
  tailPtr   : Nat
  headPtr   : Nat
  head      : Nat
  tail      : Nat
  area      : Nat
  lastTicket : Nat
  fetched   : Nat
  window    : List (Nat × Nat)
  ring      : List (Nat × Nat)
  asked     : List (Nat × Nat)
  got       : List (Nat × List Byte)
  resume    : Bool
deriving DecidableEq, Repr

/-- The front end. `cache` lists the shoes whose entries it holds, most recently fetched first (R251); `init` is the message that asks a board
peer for the tail word of shoe 0, with the MB_SHOE_INIT that waits for it (R248, R457). -/
structure Shoes where
  count     : Nat
  tableBase : Nat
  areaBase  : Nat
  areaCount : Nat
  tab       : Tab Shoe
  lastServed : Nat × Nat × Nat
  cache     : List Nat
  init      : Option (Nat × MbReq)
deriving DecidableEq, Repr

/-- The 64-byte command of Table 10-4, as fetched. -/
structure Cmd where
  opcode     : Nat
  flags      : Nat
  version    : Nat
  ticket     : Nat
  context    : Nat
  asid       : Nat
  keySlot    : Nat
  paramPtr   : Nat
  paramLen   : Nat
  waitFence  : Nat
  completion : Nat
  sigTarget  : Nat
  sigValue   : Nat
  imm        : Nat
deriving DecidableEq, Repr

/-- The unit that runs a command. -/
inductive Place where
  | none
  | engine (n : Nat)
  | mover (cluster m : Nat)
  | hub
deriving DecidableEq, Repr

/-- A resolved place of bytes: device-local memory, an engine's operand area, host memory, or a board peer. -/
inductive Loc where
  | mem (pa : Nat)
  | area (engine off : Nat)
  | host (port addr : Nat)
  | peer (device pa : Nat)
deriving DecidableEq, Repr

/-- A run of bytes staged for one destination, with the sealing that its leaf asks for: the virtual page address
of an encrypted leaf, and whether the write comes from an OPEN command. -/
structure SWrite where
  loc  : Loc
  data : List Byte
  enc  : Option (Nat × Nat × Nat)
deriving DecidableEq, Repr

/-- A deposit on a routing board (R377): context, slot, index in the slot, open or made, and the experts. -/
structure Deposit where
  ctx     : Nat
  slot    : Nat
  t       : Nat
  isOpen  : Bool
  experts : List Nat
deriving DecidableEq, Repr

/-- An open row's place while its command runs: the pool page, the entry of the open directory, and the row in the page (R353, R356). -/
structure OpenSpot where
  page  : Nat
  entry : Nat
  row   : Nat
deriving DecidableEq, Repr

/-- A key-value row to be written: context, layer, position, the place of an open row (none for a made row), and the bytes. -/
structure RowWrite where
  ctx    : Nat
  layer  : Nat
  pos    : Nat
  isOpen : Option OpenSpot
  data   : List Byte
deriving DecidableEq, Repr

/-- An entry of ex.route until its commit point (R377): context, tokens, status, DETAIL, deposits, the writes of its selection
records, and those of its status vector entry. -/
structure RouteEntry where
  ctx      : Nat
  counted  : Bool
  status   : Nat
  detail   : Nat
  deposits : List Deposit
  writes   : List SWrite
  vector   : List SWrite
deriving DecidableEq, Repr

/-- An entry of sp.verify until its commit point (R360): context, VERIFIES when it read its parameter block, made length, status,
DETAIL, its made rows, the write of its output record, and that of its status vector entry. -/
structure VerifyEntry where
  ctx      : Nat
  verifies : Nat
  made     : Nat
  status   : Nat
  detail   : Nat
  rows     : List RowWrite
  writes   : List SWrite
  vector   : List SWrite
deriving DecidableEq, Repr

/-- What a command changes beside its destinations when its write-out lands or its commit point passes. -/
inductive Post where
  | none
  /-- Key-value rows (R326) and the deal that LAST_DEAL takes. -/
  | rows (ws : List RowWrite)
  /-- sp.verify (R360). -/
  | verify (es : List VerifyEntry)
  /-- ex.route: the model and layer of its board's key, the routing record, and its entries (R377). -/
  | route (model layer : Nat) (recd : List Byte) (es : List RouteEntry)
  /-- ex.settle: the board with its key, how often a board of the key had been released, and the tokens reported: (context, t) (R373). -/
  | settle (board deal model layer gen : Nat) (toks : List (Nat × Nat))
  /-- bw. commands: the adapter whose GRAD_WRITES rises (R385). -/
  | grad (adapter : Nat)
deriving DecidableEq, Repr

/-- How an action of the hub waits for other commands (R208, R226, R232, R270, R390, R419, Table 12-6). -/
inductive Drain where
  /-- No further action: the completion waits for the listed commands (invalidation, drop, SET_ROOT). -/
  | post
  | asidDestroy (asid : Nat)
  | shoeDestroy (shoe : Nat)
  | cstore (cluster kind first count tenant : Nat)
  | ctxRelease (ctx : Nat)
  | ctxTrim (ctx newPos : Nat)
  | adapter (a : Nat)
  | keySlot (k : Nat)
deriving DecidableEq, Repr

/-! ## Fixed-rate lines (Table 2-3); far lines by expander slot -/

inductive Line where
  | stack (s : Nat) | vault (v : Nat) | host (p : Nat) | far (p : Nat) | binik (p : Nat) | narrow (s : Nat)
  | vaultWrite (v : Nat)
deriving DecidableEq, Repr

/-- Bytes of a command on one line, with the shortest run of their operand and whether its stride keeps a bank (R170). On a vault line `run` is the
granule that the bytes lie in (R186). -/
structure Use where
  line  : Line
  bytes : Nat
  run   : Nat
  bank  : Bool
  write : Bool
deriving DecidableEq, Repr

/-- The vector engine's state while a vx.run executes (Table 5-1), with its program, place and output staging.
`staged` holds buffer * 2^40 + element with the converted bits, `scales` buffer * 2^40 + block with the MX scale byte; `lines` the
bytes that its loads and stores have moved. -/
structure Vx where
  prog    : List Byte
  pc      : Nat
  v       : Tab (BitVec 4096)
  k       : Tab (BitVec 512)
  x       : Tab (BitVec 64)
  vl      : Nat
  flags   : FlagWord
  p       : Nat
  limit   : Nat
  param   : List Byte
  staged  : Tab Nat
  scales  : Tab Nat
  lines   : List Use
deriving DecidableEq, Repr

/-- Where a command in flight stands. -/
inductive Phase where
  /-- Fetched and checked; waits for fences and for a unit. -/
  | waiting
  /-- A duplicate of the command with this fetch order waits for it (R266). -/
  | dup (orig : Nat)
  /-- Given to a unit; the parameter block is not read yet. -/
  | placed
  /-- A mover command that waits for staging units (R154). -/
  | staging
  /-- Runs; its results are staged. -/
  | running
  /-- A vx.run whose program executes. -/
  | vector (vx : Vx)
  /-- Past its commit point; the write-out is under way. -/
  | committed
  /-- A mover write-out held for an engine (R154). -/
  | heldEngine (engine : Nat)
  /-- Peers have not acknowledged these messages (R154, R332). -/
  | peer (msgIds : List Nat)
  /-- A mover command waits for read data of peers: (message number, board-wide address) asked, (address, bytes) received. -/
  | peerRead (asked : List (Nat × Nat)) (got : List (Nat × List Byte))
  /-- A hub action waits for the listed commands. -/
  | draining (d : Drain) (on : List Nat)
  /-- In the kitty: batch number, and record index or none for the overflow list; order of the fault. -/
  | kitty (batch : Nat) (rec : Option Nat) (order : Nat)
  /-- Killed because it read the poisoned staged weight unit at this address; re-run after its repair (R213). -/
  | repair (pa : Nat)
  /-- Killed; to be re-run. `rank` is the kitty order if released from a batch (R242). -/
  | rerun (rank : Option Nat)
  /-- A sy.wait that watches a word: address, value, comparison, timeout, start step, last word read (R274). -/
  | watch (pa value cmp timeout since last : Nat)
  /-- A sy.wait that waits for a watch to free. -/
  | watchQueue (pa value cmp timeout : Nat)
  /-- A settle that waits for its board's resolution (R373): the board, its parameter block as it read it, and (status, DETAIL) of
  its entries so far. -/
  | board (b : Nat) (params : List Byte) (marks : List (Nat × Nat))
deriving DecidableEq, Repr

/-- A completion that is known but not yet written. -/
structure Result where
  status : Nat
  detail : Nat
  aux    : Nat
deriving DecidableEq, Repr

/-- A command in flight. `cid` is its fetch order over all shoes, `seq` its number within its shoe.
`live` lists the slot of each model's LIVE copy at first placement (R211). `pages` are the 64 KiB pages it has
translated, `ctxs` the contexts that its entries name, `uses` the (model, slot) pairs of weight copies it has read,
`touches` the cluster-store segments of its operands and destinations (R145), `far` the far slots
that it has reached (R179), `marks` its entries' (context, status) for R291, and `seen` says that the dealer has looked at it
since it became ready (R299). -/
structure Flight where
  cid      : Nat
  shoe     : Nat
  seq      : Nat
  cls      : Nat
  tenant   : Nat
  sealedBy : Option Nat
  cmd      : Cmd
  phase    : Phase
  place    : Place
  deal     : Option Nat
  live     : Option (List (Option Nat))
  block    : List Byte
  pages    : List Nat
  wrote    : List Nat
  ctxs     : List Nat
  uses     : List (Nat × Nat)
  t0       : Nat
  measured : Nat
  stepTime : Nat
  cost     : Nat
  est      : Nat
  preempt  : Nat
  rank     : Option Nat
  flags    : FlagWord
  result   : Result
  staged   : List SWrite
  post     : Post
  units    : Nat
  touches  : List (Nat × Nat)
  far      : List Nat
  marks    : List (Nat × Nat)
  seen     : Bool
deriving DecidableEq, Repr

/-- A signal or a head word that a peer has not acknowledged: its message number, the cause of EV_ERROR if it is lost (R251, R264), and the
shoe, ticket and address that the event names. -/
structure Posted where
  msg    : Nat
  cause  : Nat
  shoe   : Nat
  ticket : Nat
  addr   : Nat
deriving DecidableEq, Repr

/-- The commands fetched and not yet at final status, and the messages to peers that are not answered yet: `sent` lists
(message number, port that it left on). The commit record of R512 is the flight itself. -/
structure Flights where
  list    : List Flight
  nextCid : Nat
  nextMsg : Nat
  sent    : List (Nat × Nat)
  posted  : List Posted
deriving DecidableEq, Repr

/-! ## The dealer (chapter 11) -/

/-- A request (Table 11-1): KIND 1 DECODE or 2 PREFILL. -/
structure Request where
  kind   : Nat
  thenDecode : Bool
  tokens : Nat
  rseq   : Nat
deriving DecidableEq, Repr

/-- What one command charges to the deal that it belongs to (R291, R303): its context, a status, its steps and its estimate. -/
structure Charge where
  ctx      : Nat
  status   : Nat
  measured : Nat
  est      : Nat
deriving DecidableEq, Repr

/-- A slot of the open deal (Table 11-4), with the figures charged to it. -/
structure DealSlot where
  ctx      : Nat
  kind     : Nat
  tokens   : Nat
  rowBase  : Nat
  firstPos : Nat
  model    : Nat
  status   : Nat
  measured : Nat
  est      : Nat
deriving DecidableEq, Repr

/-- A deal: the open one, or one that has closed while its commands still run. -/
structure Deal where
  seq      : Nat
  slots    : List DealSlot
  epoch    : Nat
  opened   : Stamp
  ante     : Nat
  held     : Nat
  live     : List (Option Nat)
  measured : Nat
  est      : Nat
deriving DecidableEq, Repr

/-- The settings of kn.dealer_set CONFIG (Table 11-6). -/
structure DealCfg where
  area        : Option Nat
  maxContexts : Nat
  maxTokens   : Nat
  prefillCap  : Nat
  chunk       : Nat
deriving DecidableEq, Repr

structure Dealer where
  cfg         : DealCfg
  newCfg      : Option DealCfg
  preempt     : Bool
  limit       : Nat
  slowAlert   : Nat
  ante        : Nat
  anteSet     : BitVec 64
  requests    : Tab Request
  nextRseq    : Nat
  serve       : Tab Nat
  dealSeq     : Nat
  cur         : Option Deal
  early       : List Charge
  heldInDeal  : Nat
  spilledInDeal : Nat
  broughtInDeal : Nat
  holdEnd     : List Nat
  lastEpoch   : Nat
  forecast    : List Nat
deriving DecidableEq, Repr

/-! ## Contexts and the key-value cache (chapters 12, 13) -/

/-- A context descriptor (Table 12-1), with SPEC of Table 13-1 beside it; PAGES and SPILLED are counted from the page records and lists. STATE 0 FREE, 1 LIVE, 2 HELD, 3 RELEASING. -/
structure Ctx where
  state      : Nat
  hold       : Nat
  model      : Nat
  keySlot    : Nat
  tenant     : Nat
  adapter    : Nat
  position   : Nat
  segBase    : Nat
  segLimit   : Nat
  ring       : Nat
  dir        : Nat
  lastDeal   : Nat
  deals      : Nat
  reportAsid : Nat
  heldDeal   : Nat
  reportPtr  : Nat
deriving DecidableEq, Repr

/-- The SPEC field of a context (Table 13-1); OPEN_PAGES is counted from the open directory. -/
structure Spec where
  isOpen     : Bool
  limit      : Nat
  dir        : Nat
  deal       : Nat
  verifies   : Nat
  madeTokens : Nat
deriving DecidableEq, Repr

/-- A page-list entry (Table 12-3): STATE 1 RESIDENT, 2 SPILLED, 3 LOST; EMPTY is not listed. -/
structure PageEntry where
  state  : Nat
  isOpen : Bool
  pool   : Nat
  index  : Nat
deriving DecidableEq, Repr

/-- A page record (Table 12-4); a FREE page is not listed. -/
structure PageRec where
  kind     : Nat
  isOpen   : Bool
  tenant   : Nat
  ctx      : Nat
  entry    : Nat
  lastDeal : Nat
deriving DecidableEq, Repr

/-- A model's attention record (R314). `freqs` are the binary64 frequencies of R315; `bias` says distance-bias mode. -/
structure AttnRec where
  layers  : Nat
  qHeads  : Nat
  groups  : Nat
  format  : Nat
  kvScale : Nat
  bias    : Bool
  base    : Nat
  freqs   : List Nat
deriving DecidableEq, Repr

/-- A ring record (R317). -/
structure RingRec where
  members  : Nat
  member   : Nat
  nextPort : Nat
  rxCount  : Nat
  rxBytes  : Nat
  rxBase   : Nat
deriving DecidableEq, Repr

/-- Open pages kept apart until their readers end (R356). -/
structure OldOpen where
  pages : List Nat
  on    : List Nat
deriving DecidableEq, Repr

structure Kv where
  area     : Option Nat
  ctxCount : Nat
  poolBase : Nat
  poolPages : Nat
  ctxs     : Tab Ctx
  specs    : Tab Spec
  lists    : Tab (Tab PageEntry)
  dirs     : Tab (Tab PageEntry)
  openDirs : Tab (Tab PageEntry)
  pages    : Tab PageRec
  tenants  : Tab (Nat × Bool)
  models   : Tab AttnRec
  rings    : Tab RingRec
  old      : List OldOpen
  pools    : Tab SpillPool
deriving DecidableEq, Repr

/-! ## Routing boards and adapters (chapters 14, 15) -/

/-- A routing board (R372): key, state, record, deposits, tokens reported, and the kept pairs once resolved. -/
structure Board where
  deal     : Nat
  model    : Nat
  layer    : Nat
  closed   : Bool
  resolved : Bool
  recd     : List Byte
  deposits : List Deposit
  reported : List (Nat × Nat)
deriving DecidableEq, Repr

/-- A board that was released in its deal (R373): its key, and the tokens that were deposited on it: context, t, and open or made. -/
structure Released where
  deal   : Nat
  model  : Nat
  layer  : Nat
  tokens : List (Nat × Nat × Bool)
deriving DecidableEq, Repr

structure Boards where
  tab      : Tab Board
  released : List Released
deriving DecidableEq, Repr

/-- An adapter record (Table 15-1); BOUND is counted from the contexts. -/
structure Adapter where
  state      : Nat
  rank       : Nat
  gradFormat : Nat
  keySlot    : Nat
  tenant     : Nat
  gradWrites : Nat
  bytes      : Nat
  base       : Nat
deriving DecidableEq, Repr

/-! ## Keys, the mailbox, roles (chapters 16, 17) -/

/-- A key slot record (Table 16-5) with its keys; USERS is counted. STATE 0 FREE, 1 RESERVED, 2 SEALED, 3 DESTROYING. -/
structure KeySlot where
  state       : Nat
  tenant      : Nat
  windowAsid  : Nat
  windowVa    : Nat
  windowBytes : Nat
  tagVa       : Nat
  ringSeq     : Nat
  outSeq      : Nat
  linkSeq     : Nat
  senderId    : Nat
  linkSet     : Bool
  ioKey       : List Byte
  memKey      : List Byte
  linkKey     : List Byte
deriving DecidableEq, Repr

structure Keys where
  slots         : Tab KeySlot
  sealedAllowed : Bool
  debugActive   : Bool
  debugNonce    : Option (List Byte)
  hssBudget     : Nat
  hssRegainAt   : Nat
  hssLeaf       : Option (Nat × Nat)
deriving DecidableEq, Repr

/-- An entry of a port's reply cache (R447). -/
structure Reply where
  txn      : Nat
  command  : Nat
  length   : Nat
  digest   : List Byte
  response : List Byte
deriving DecidableEq, Repr

/-- One host port's mailbox, registers and event ring (chapter 17), and its SPDM connection (R416): the version agreed on, whether
algorithms are, and the transcripts. -/
structure Mbox where
  major    : Option Nat
  minors   : List Nat
  nonce    : Option (List Byte)
  cache    : List Reply
  response : List Byte
  busy     : Bool
  done     : Bool
  overrun  : Bool
  lastTxn  : Nat
  ring     : Option Nat
  log2     : Nat
  evtTail  : Nat
  evtHead  : Nat
  evtLost  : Nat
  spdm     : Nat
  spdmAlgs : Bool
  spdmVca  : List Byte
  spdmCert : List Byte
  spdmMeas : List Byte
deriving DecidableEq, Repr

structure Heldun where
  ready   : Nat
  owner   : Option Nat
  port0   : Mbox
  port1   : Mbox
  prevStop : Option StopRec
  pendingStart : List (List Byte)
  ringSeen : Bool
  resetDue : Bool
deriving DecidableEq, Repr

/-! ## Start-up, module and sideband (chapters 21, 22) -/

/-- The start record of Table 21-5 and the start in progress. -/
structure Boot where
  step      : Nat
  cause     : Nat
  detail    : Nat
  fallback  : Bool
  failed    : Bool
  position  : Nat
  split     : BitVec 2
  running   : Nat
  lastStart : Nat
  stop      : Option StopRec
  atStart   : Option StopRec
deriving DecidableEq, Repr

/-- Pins, input and converters of the module. -/
structure Module where
  powered     : Bool
  resetLow    : Bool
  alertLow    : Bool
  rideThrough : Bool
  railsOff    : BitVec 16
  inputMv     : Nat
  inputMa     : Nat
  inputMw     : Nat
  osfp        : BitVec 2
  osfpPowered : BitVec 2
  osfpWatts   : Nat × Nat
deriving DecidableEq, Repr

structure Sideband where
  dynAddr  : Option Nat
  ibiOn    : Bool
  pending  : Option Nat
  response : List Byte
  stage    : List Byte
deriving DecidableEq, Repr

/-! ## Power and telemetry (chapter 19) -/

/-- Commanded power states and their transitions: a unit that moves holds the larger of two ratings until it settles. -/
structure Power where
  level       : Tab Nat
  oldLevel    : Tab Nat
  gated       : BitVec 64
  engMoving   : BitVec 64
  stackSr     : BitVec 8
  stackMoving : BitVec 8
  vaultStandby : Bool
  vaultMoving : Bool
  lanesAwake  : Tab Nat
  oldLanes    : Tab Nat
  portsDown   : BitVec 4
  portsMoving : BitVec 4
  cap         : Nat
  warnC       : Nat
deriving DecidableEq, Repr

structure Telemetry where
  rd       : Readings
  warned   : List (Nat × Nat)
  windowAt : Nat
deriving DecidableEq, Repr

/-! ## Links and the network (chapter 18) -/

/-- One Binik port: state 0 down, 1 probation, 2 live; protocol, lanes in use, failed checks, the peer's record; the SEQ of the next frame
to send and of the last frame received (Table 18-3). -/
structure Link where
  state    : Nat
  protocol : Nat
  lanes    : Nat
  failed   : Nat
  peer     : List Byte
  sendSeq  : Nat
  recvSeq  : Nat
deriving DecidableEq, Repr

/-- A route entry (Table 18-11). -/
structure Route where
  valid  : Bool
  egress : Nat
  dest   : Nat
deriving DecidableEq, Repr

/-- The barrier state of R477 to R479. `withheld` lists the (model, CUT_EPOCH) of domain cuts that damage disarmed before the arrival (R212). -/
structure Barrier where
  epoch      : Nat
  known      : Bool
  proposed   : Bool
  arrived    : List Nat
  sent       : Bool
  since      : Nat
  withheld   : List (Nat × Nat)
deriving DecidableEq, Repr

structure Domain where
  links    : Tab Link
  routes   : Tab Route
  routeSeq : Nat
  barrier  : Barrier
  seen     : List (Nat × Nat × Nat)
deriving DecidableEq, Repr

/-- An Ethernet port's settings (NET_PORT_SET) and flow control. -/
structure NetPort where
  pfc    : Nat
  vlan   : Nat
  mac    : Nat
  ipv4   : Nat
  ipv6   : Nat
  paused : Bool
deriving DecidableEq, Repr

/-- A queue pair (R487): settings; the send counter reached, the tail counter last read and the completion counter; the send-ring entry that
was sent and is not answered yet; and the congestion notifications that have slowed it. -/
structure Qp where
  port     : Nat
  asid     : Nat
  remoteQp : Nat
  remoteIp : Nat
  sendVa   : Nat
  log2Send : Nat
  tailVa   : Nat
  complVa  : Nat
  log2Compl : Nat
  immVa    : Nat
  head     : Nat
  tail     : Nat
  compl    : Nat
  sent     : Option (List Byte)
  slowed   : Nat
deriving DecidableEq, Repr

/-- A memory region (R487). -/
structure Mr where
  asid   : Nat
  read   : Bool
  write  : Bool
  rkey   : Nat
  va     : Nat
  bytes  : Nat
deriving DecidableEq, Repr

structure Net where
  port0 : NetPort
  port1 : NetPort
  qps   : Tab Qp
  mrs   : Tab Mr
deriving DecidableEq, Repr

/-- A host: its memory as the device's requests see it, and the ranges whose requests it refuses (R222). -/
structure HostEnv where
  mem     : Mem
  refuses : List (Nat × Nat)
deriving DecidableEq, Repr

/-- What the device sends out of the module. -/
inductive Out where
  | msix (port vector : Nat)
  | tensor (port kind dest src hops epoch addr msgId seq : Nat) (payload : List Byte)
  | management (port kind src epoch seq : Nat) (payload : List Byte)
  | peerAck (port msgId : Nat)
  | sideband (frame : List Byte)
  | ibi (byte : Nat)
  | i3c (bytes : List Byte)
  | doe (port : Nat) (body : List Byte)
  | rdma (port qp op : Nat) (imm rkey va len : Nat) (data : List Byte)
  | rdmaReply (port qp : Nat) (ok : Bool) (data : List Byte)
  | cnp (port qp : Nat)
  | net (port : Nat) (kind : Nat) (dest : Nat) (data : List Byte)
  | ptmRequest (port : Nat)
  | retrain (port : Nat) (fromStep : Nat)
  | hostWrite (port addr : Nat) (data : List Byte)
  | perst (port : Nat) (low : Bool)
deriving DecidableEq, Repr

/-- The machine: a block with no program counter. `pending` is the queue of commands that wait, first in, first out;
`fresh` is the model's own counter that numbers the free values it draws. -/
structure State where
  boot      : Boot
  module    : Module
  vault     : Vault
  models    : Tab Model
  units     : Units
  power     : Power
  telemetry : Telemetry
  steps     : Steps
  ptm       : Ptm
  heldun    : Heldun
  keys      : Keys
  memories  : Memories
  trans     : Trans
  kitty     : Kitty
  shoes     : Shoes
  flights   : Flights
  dealer    : Dealer
  kv        : Kv
  boards    : Boards
  adapters  : Tab Adapter
  domain    : Domain
  net       : Net
  sideband  : Sideband
  host0     : HostEnv
  host1     : HostEnv
  out       : List Out
  fresh     : Nat
  pending   : List Instr
deriving DecidableEq, Repr

/-! ## The machine right after reset -/

/-- The 16 bytes of a stamp that reads as zero. -/
def Stamp.none : Stamp := { port := 0, valid := false, seq := 0, since := 0, time := 0 }

/-- A map with every unit present and no port live (Table 1-3). -/
def UnitsMap.full : UnitsMap :=
  { engines := BitVec.allOnes 64, clusters := BitVec.allOnes 16, walkers := BitVec.allOnes 32,
    channels := BitVec.allOnes 256, lanes := BitVec.allOnes 64, portsLive := 0#6, tpLive := 0#16,
    startRetired := false, mapSeq := 0, pendEngines := 0#64, pendClusters := 0#16, pendWalkers := 0#32,
    pendChannels := 0#256, pendLanes := 0#64 }

/-- A firmware bank that holds no image. -/
def Bank.empty : Bank :=
  { state := .empty, sv := 0, fwVersion := 0, costModel := 0, majors := 0, image := [], writes := 0 }

/-- The vault of a new device: no slot written, no retirement, no owner key, and firmware in bank 0. -/
def Vault.factory : Vault :=
  { slots := [], wear := [], wearRaised := [], stackFailed := 0#4, badGranules := [],
    banks := ({ Bank.empty with state := .active, costModel := 3, majors := 6 }, Bank.empty)
    pegs := { securityVersion := 0, ownerEpoch := 0, debugUnlock := 0, attestReserve := 0 }
    pegCopies := List.replicate 4 { securityVersion := 0, ownerEpoch := 0, debugUnlock := 0, attestReserve := 0 }
    ownerKey := none, observerRights := 0#32, retired := [], life := [], fatalStops := 0, install := none,
    stopRec := none, armedToken := none, transfer := none, slotKeySeq := 0, systemWrites := 0 }

/-- A host port's mailbox before its link has trained. -/
def Mbox.fresh : Mbox :=
  { major := none, minors := [], nonce := none, cache := [], response := [], busy := false, done := false,
    overrun := false, lastTxn := 0, ring := none, log2 := 0, evtTail := 0, evtHead := 0, evtLost := 0,
    spdm := 0, spdmAlgs := false, spdmVca := [], spdmCert := [], spdmMeas := [] }

/-- Readings before the first telemetry window. -/
def Readings.zero : Readings :=
  { railMw := [], region := [], stack := [], hub := 0, vault := [], bridge := [], inputMv := 0, inputMa := 0, inputMw := 0 }

/-- A batch of the kitty with no record. -/
def Batch.start (seq : Nat) : Batch :=
  { seq := seq, records := [], overflow := 0, openedAt := 0, opened := Stamp.none, closed := Stamp.none, cause := 0, causes := [] }

/-- An Ethernet port before NET_PORT_SET. -/
def NetPort.fresh : NetPort := { pfc := 0xFF, vlan := 0, mac := 0, ipv4 := 0, ipv6 := 0, paused := false }

/-- The power states at start (Table 19-1): every region at level 5, the rest active, and a cap of 2,400 W. -/
def Power.start : Power :=
  { level := (List.range 8).map fun r => (r, 5)
    oldLevel := [], gated := 0#64, engMoving := 0#64, stackSr := 0#8, stackMoving := 0#8, vaultStandby := false,
    vaultMoving := false, lanesAwake := [], oldLanes := [], portsDown := 0#4, portsMoving := 0#4, cap := 2400, warnC := 0 }

/-- The dealer's defaults (R293). -/
def Dealer.start : Dealer :=
  { cfg := { area := none, maxContexts := 4096, maxTokens := 32768, prefillCap := 32768, chunk := 2048 }
    newCfg := none, preempt := false, limit := 3, slowAlert := 0, ante := 0, anteSet := 0#64, requests := [],
    nextRseq := 1, serve := [], dealSeq := 0, cur := none, early := [], heldInDeal := 0, spilledInDeal := 0,
    broughtInDeal := 0, holdEnd := [], lastEpoch := 0, forecast := [] }

/-- Memories that every start zeroes (R529, step 5). -/
def Memories.zeroed : Memories :=
  { mem := [], areas := [], poison := [], wordPoison := [], lostChan := [], healed := [], areaTags := [], segs := [],
    withdrawn := [], copying := [], refresh := [], expanders := [], prefetch := [], named := [] }

/-- The machine right after reset: a full start of a new device has begun (Table 21-5: STEP 1, READY 0), and nothing
waits in the queue. The events START_STEP_END bring it to mailbox-ready. -/
def State.reset : State :=
  { boot := { step := 1, cause := 0, detail := 0, fallback := false, failed := false, position := 0, split := 0#2,
              running := 0, lastStart := 0, stop := none, atStart := none }
    module := { powered := true, resetLow := false, alertLow := false, rideThrough := false, railsOff := 0#16,
                inputMv := 0, inputMa := 0, inputMw := 0, osfp := 0#2, osfpPowered := 0#2, osfpWatts := (0, 0) }
    vault := Vault.factory
    models := []
    units := { map := UnitsMap.full, acked := [], causes := [], window := [], errs := [], tests := [], eventSeq := 0, windowAt := 0, kills := [] }
    power := Power.start
    telemetry := { rd := Readings.zero, warned := [], windowAt := 0 }
    steps := { engine := [], cluster := [], frontEnd := 0, dealer := 0, narrow := 0, heldun := 0 }
    ptm := { enabled := 0#2, port := none, waiting := false, log2Interval := 20, lastStart := 0, valid := false,
             goodPort := 0, time := 0, seq := 0, goodAt := 0 }
    heldun := { ready := 0, owner := none, port0 := Mbox.fresh, port1 := Mbox.fresh, prevStop := none,
                pendingStart := [], ringSeen := false, resetDue := false }
    keys := { slots := [], sealedAllowed := false, debugActive := false, debugNonce := none, hssBudget := 1024,
              hssRegainAt := 0, hssLeaf := none }
    memories := Memories.zeroed
    trans := { asids := [], level1 := [], level2 := [], walkers := [] }
    kitty := { area := none, steps := 65536, cur := Batch.start 1, waiting := none, order := 0 }
    shoes := { count := 0, tableBase := 0, areaBase := 0, areaCount := 0, tab := [], lastServed := (0, 0, 0), cache := [], init := none }
    flights := { list := [], nextCid := 0, nextMsg := 0, sent := [], posted := [] }
    dealer := Dealer.start
    kv := { area := none, ctxCount := 0, poolBase := 0, poolPages := 0, ctxs := [], specs := [], lists := [], dirs := [],
            openDirs := [], pages := [], tenants := [], models := [], rings := [], old := [], pools := [] }
    boards := { tab := [], released := [] }
    adapters := []
    domain := { links := [], routes := [], routeSeq := 0,
                barrier := { epoch := 0, known := false, proposed := false, arrived := [], sent := false, since := 0, withheld := [] }
                seen := [] }
    net := { port0 := NetPort.fresh, port1 := NetPort.fresh, qps := [], mrs := [] }
    sideband := { dynAddr := none, ibiOn := true, pending := none, response := [], stage := [] }
    host0 := { mem := [], refuses := [] }
    host1 := { mem := [], refuses := [] }
    out := []
    fresh := 0
    pending := [] }

end Sys2Proof.Machine
end

