-- ==== Sys2Proof/Machine/Ops.lean ====
section
/-!
DEFINITION. Sys2Proof/Machine/Ops.lean: the sparse tables and the byte memories, the small record updates of State, time
stamps (R61), the units-present map (R26 to R28), and the raising of events (R456, R513 to R515).
-/

namespace Sys2Proof.Machine

/-! ## Sparse tables -/

/-- The entry at a key. -/
def tabFind {α : Type} : Tab α → Nat → Option α
  | [], _ => none
  | (j, v) :: r, k => if j = k then some v else tabFind r k

/-- The entry at a key, or the table's default. -/
def tabGet {α : Type} (t : Tab α) (k : Nat) (d : α) : α := (tabFind t k).getD d

/-- Sets the entry at a key, keeping the keys ascending. -/
def tabPut {α : Type} : Tab α → Nat → α → Tab α
  | [], k, v => [(k, v)]
  | (j, w) :: r, k, v =>
    if k < j then (k, v) :: (j, w) :: r
    else if k = j then (k, v) :: r
    else (j, w) :: tabPut r k v

/-- Removes the entry at a key. -/
def tabErase {α : Type} (t : Tab α) (k : Nat) : Tab α := t.filter fun e => e.1 != k

/-- Sets the entry at a key; the default value is not listed. -/
def tabSet {α : Type} [DecidableEq α] (t : Tab α) (k : Nat) (v d : α) : Tab α :=
  if v = d then tabErase t k else tabPut t k v

/-- Changes the entry at a key. -/
def tabMod {α : Type} [DecidableEq α] (t : Tab α) (k : Nat) (d : α) (f : α → α) : Tab α :=
  tabSet t k (f (tabGet t k d)) d

/-- Whether the keys of a table ascend. -/
abbrev Tab.ascending {α : Type} (t : Tab α) : Prop := t.Pairwise fun x y => x.1 < y.1

/-! ## Byte memories -/

/-- The canonical form of a memory: addresses rise, and no listed byte is 0. -/
abbrev Memory.wf (m : Mem) : Prop := (m.Pairwise fun x y => x.1 < y.1) ∧ ∀ c ∈ m, c.2 ≠ 0#8

/-- One byte of a memory; an unlisted address reads as 0. -/
def memGet : Mem → Nat → Byte
  | [], _ => 0#8
  | (j, b) :: r, a => if j = a then b else memGet r a

/-- The cells of a run of bytes that are not 0. -/
def cellsOf : Nat → List Byte → Mem
  | _, [] => []
  | a, b :: bs => if b = 0#8 then cellsOf (a + 1) bs else (a, b) :: cellsOf (a + 1) bs

/-- Writes a run of bytes. -/
def memWrite (m : Mem) (a : Nat) (bs : List Byte) : Mem :=
  m.filter (fun c => c.1 < a) ++ (cellsOf a bs ++ m.filter (fun c => a + bs.length ≤ c.1))

/-- Zeroes a range of bytes. -/
def memZero (m : Mem) (a n : Nat) : Mem :=
  m.filter (fun c => c.1 < a) ++ m.filter (fun c => a + n ≤ c.1)

/-- Reads a run of bytes. -/
def memRead (m : Mem) (a n : Nat) : List Byte :=
  let near := m.filter fun c => a ≤ c.1 && c.1 < a + n
  (List.range n).map fun i => memGet near (a + i)

/-! ## Addresses of the device (Tables 6-1, 7-1) -/

/-- The end of stacked memory: 1 TiB. -/
def stackedEnd : Nat := 2 ^ 40
/-- The far-tier window of Table 7-1. -/
def farBase : Nat := 0x0008000000000000
def farEnd : Nat := 0x0008080000000000
/-- The store apertures of Table 6-1. -/
def storeBase : Nat := 0x0010000000000000
def storeEnd : Nat := 0x0010000100000000
/-- The bytes of an operand area: 7 MiB. -/
def areaBytes : Nat := 0x700000
/-- The window of cluster store C0 and the stride between clusters. -/
def clusterBase : Nat := 0x0010000040000000
def clusterStride : Nat := 0x02000000
def clusterSoft : Nat := 0x01800000
/-- The base of engine n's operand area in `areas`. -/
def areaAt (n : Nat) : Nat := n * 2 ^ 23
/-- The physical address of segment s of cluster store Cc (R143). -/
def segAt (c s : Nat) : Nat := clusterBase + c * clusterStride + s * 65536

/-- The channel, within its stack, that holds a stacked-memory address (R162). -/
def channelOf (pa : Nat) : Nat := bitsOf pa 12 8 ^^^ bitsOf pa 22 18
/-- The stack that holds a stacked-memory address (Table 7-1). -/
def stackOf (pa : Nat) : Nat := pa / 2 ^ 37
/-- The index of a channel among all 256 (Table 1-6). -/
def channelIndex (pa : Nat) : Nat := 32 * stackOf pa + channelOf pa
/-- The 64-byte unit that holds an address. -/
def unitOf (pa : Nat) : Nat := pa / 64 * 64
/-- The 64-byte units of a run. -/
def unitsOf (pa len : Nat) : List Nat :=
  if len = 0 then [] else
    (List.range ((pa + len - 1) / 64 + 1 - pa / 64)).map fun i => unitOf pa + 64 * i

/-! ## The units-present map (Table 1-3) -/

def engineHere (s : State) (n : Nat) : Bool := n < 64 && s.units.map.engines.getLsbD n
def clusterHere (s : State) (c : Nat) : Bool := c < 16 && s.units.map.clusters.getLsbD c
/-- A region is present when at least one of its clusters is (R17). -/
def regionHere (s : State) (r : Nat) : Bool := clusterHere s (2 * r) || clusterHere s (2 * r + 1)
def channelHere (s : State) (i : Nat) : Bool := i < 256 && s.units.map.channels.getLsbD i
def walkerHere (s : State) (w : Nat) : Bool := w < 32 && s.units.map.walkers.getLsbD w
def laneHere (s : State) (l : Nat) : Bool := l < 64 && s.units.map.lanes.getLsbD l
/-- PORTS_LIVE: 0 H0, 1 H1, 2 F0, 3 F1, 4 N0, 5 N1. -/
def portLive (s : State) (p : Nat) : Bool := p < 6 && s.units.map.portsLive.getLsbD p
/-- TP_LIVE. -/
def tpLive (s : State) (p : Nat) : Bool := p < 16 && s.units.map.tpLive.getLsbD p

/-- The commanded level of a region (R43); 0 is off. -/
def regionLevel (s : State) (r : Nat) : Nat := tabGet s.power.level r 0
/-- The level that a region in transition leaves (R497); none when it has settled. -/
def oldLevelOf (s : State) (r : Nat) : Option Nat := tabFind s.power.oldLevel r
/-- A region works at levels 2 to 7 (R18); one that leaves level 0 or 1 works once it settles. -/
def regionWorks (s : State) (r : Nat) : Bool :=
  decide (2 ≤ regionLevel s r) && decide (2 ≤ (oldLevelOf s r).getD 7)
/-- An engine is powered in a working region when it is not gated (R18); an engine that ungates is, once it settles (R500). -/
def enginePowered (s : State) (n : Nat) : Bool :=
  regionWorks s (n / 8) && !s.power.gated.getLsbD n && !s.power.engMoving.getLsbD n
def clusterPowered (s : State) (c : Nat) : Bool := regionWorks s (c / 2)
/-- An engine that the dealer may place on under R18. -/
def engineUsable (s : State) (n : Nat) : Bool := engineHere s n && enginePowered s n

/-- Sets or clears one bit of a bit vector. -/
def putBit {w : Nat} (x : BitVec w) (i : Nat) (b : Bool) : BitVec w :=
  if b then x ||| BitVec.twoPow w i else x &&& ~~~(BitVec.twoPow w i)

/-- Changes the map: MAP_SEQ rises by 1 if bits [551:64] change (Table 1-3). -/
def mapChange (s : State) (f : UnitsMap → UnitsMap) : State :=
  let m := s.units.map
  let m' := f m
  let same := m'.engines == m.engines && m'.clusters == m.clusters && m'.walkers == m.walkers
    && m'.channels == m.channels && m'.lanes == m.lanes && m'.portsLive == m.portsLive
    && m'.tpLive == m.tpLive && m'.startRetired == m.startRetired
  { s with units := { s.units with map := if same then m' else { m' with mapSeq := wrapAdd 32 m.mapSeq 1 } } }

/-- Sets a bit of PORTS_LIVE. -/
def setPortLive (s : State) (p : Nat) (b : Bool) : State :=
  mapChange s fun m => { m with portsLive := putBit m.portsLive p b }

/-- Sets a bit of TP_LIVE. -/
def setTpLive (s : State) (p : Nat) (b : Bool) : State :=
  mapChange s fun m => { m with tpLive := putBit m.tpLive p b }

/-- The 256 bytes of the units-present map (Table 1-3, R27). -/
def mapBytes (s : State) : List Byte :=
  let m := s.units.map
  let regions := (List.range 8).foldl (fun a r => a + b2n (regionHere s r) * 2 ^ r) 0
  let present : Nat := 1 + m.mapSeq * 2 ^ 32 + m.engines.toNat * 2 ^ 64 + m.clusters.toNat * 2 ^ 128
    + regions * 2 ^ 144 + m.walkers.toNat * 2 ^ 160 + m.channels.toNat * 2 ^ 192 + m.lanes.toNat * 2 ^ 448
    + m.portsLive.toNat * 2 ^ 512 + m.tpLive.toNat * 2 ^ 528 + b2n m.startRetired * 2 ^ 544
  let pend : Nat := m.pendEngines.toNat * 2 ^ 64 + m.pendClusters.toNat * 2 ^ 128
    + m.pendWalkers.toNat * 2 ^ 160 + m.pendChannels.toNat * 2 ^ 192 + m.pendLanes.toNat * 2 ^ 448
  natLe 128 present ++ natLe 128 pend

/-- The number of a unit among all retirable units, by kind and index of Table 1-6. -/
def unitKey (kind index : Nat) : Nat := kind * 65536 + index

/-- Whether a retirable unit is present. -/
def unitHere (s : State) (kind index : Nat) : Bool :=
  match kind with
  | 1 => engineHere s index
  | 2 => clusterHere s index
  | 3 => walkerHere s index
  | 4 => channelHere s index
  | 5 => laneHere s index
  | _ => false

/-- Sets or clears the pending bit of a unit (R27). -/
def setPending (kind index : Nat) (b : Bool) (m : UnitsMap) : UnitsMap :=
  match kind with
  | 1 => { m with pendEngines := putBit m.pendEngines index b }
  | 2 => { m with pendClusters := putBit m.pendClusters index b }
  | 3 => { m with pendWalkers := putBit m.pendWalkers index b }
  | 4 => { m with pendChannels := putBit m.pendChannels index b }
  | 5 => { m with pendLanes := putBit m.pendLanes index b }
  | _ => m

/-- Whether a unit waits for the acknowledgement of its retirement. -/
def unitPending (s : State) (kind index : Nat) : Bool :=
  let m := s.units.map
  match kind with
  | 1 => m.pendEngines.getLsbD index
  | 2 => m.pendClusters.getLsbD index
  | 3 => m.pendWalkers.getLsbD index
  | 4 => m.pendChannels.getLsbD index
  | 5 => m.pendLanes.getLsbD index
  | _ => false

/-- Clears the present and pending bits of a unit; those of a cluster's engines go with it (R28). -/
def clearUnit (kind index : Nat) (m : UnitsMap) : UnitsMap :=
  let m := setPending kind index false m
  match kind with
  | 1 => { m with engines := putBit m.engines index false }
  | 2 =>
    (List.range 4).foldl (fun m j =>
      { setPending 1 (4 * index + j) false m with engines := putBit m.engines (4 * index + j) false })
      { m with clusters := putBit m.clusters index false }
  | 3 => { m with walkers := putBit m.walkers index false }
  | 4 => { m with channels := putBit m.channels index false }
  | 5 => { m with lanes := putBit m.lanes index false }
  | _ => m

/-! ## Local step counters and stamps (R55, R61) -/

/-- Hub steps as the stamps, timeouts and windows count them: the counter of the narrow-access path, a hub unit that is released with the hub
(R55, R61, Table 21-2). DESIGN CHOICE (log 56): the manual does not say which hub unit's steps they are. -/
def hubNow (s : State) : Nat := s.steps.narrow

/-- The time stamp of a moment (Table 2-4). -/
def stampNow (s : State) : Stamp :=
  let p := s.ptm
  if p.valid then
    { port := p.goodPort, valid := true, seq := p.seq % 2 ^ 16,
      since := min ((hubNow s + 2 ^ 64 - p.goodAt) % 2 ^ 64) 0xFFFFFFFF, time := p.time }
  else { port := 0, valid := false, seq := 0, since := min (hubNow s) 0xFFFFFFFF, time := 0 }

/-- The stamp that reads as zero. -/
def noStamp : Stamp := { port := 0, valid := false, seq := 0, since := 0, time := 0 }

/-- The 16 bytes of a stamp. -/
def stampBytes (t : Stamp) : List Byte :=
  natLe 16 (t.time + t.since * 2 ^ 64 + t.seq * 2 ^ 96 + b2n t.valid * 2 ^ 112 + t.port * 2 ^ 113)

/-- The unit whose local counter a row advances (R55). -/
inductive StepUnit where
  | engine (n : Nat) | cluster (c : Nat) | frontEnd | dealer | narrow | heldun
deriving DecidableEq, Repr

def counterOf (s : State) : StepUnit → Nat
  | .engine n => tabGet s.steps.engine n 0
  | .cluster c => tabGet s.steps.cluster c 0
  | .frontEnd => s.steps.frontEnd
  | .dealer => s.steps.dealer
  | .narrow => s.steps.narrow
  | .heldun => s.steps.heldun

/-- Advances one unit's local counter, modulo 2^64 (R55). -/
def advance (s : State) (u : StepUnit) (k : Nat) : State :=
  let t := s.steps
  { s with steps :=
      match u with
      | .engine n => { t with engine := tabMod t.engine n 0 fun v => wrapAdd 64 v k }
      | .cluster c => { t with cluster := tabMod t.cluster c 0 fun v => wrapAdd 64 v k }
      | .frontEnd => { t with frontEnd := wrapAdd 64 t.frontEnd k }
      | .dealer => { t with dealer := wrapAdd 64 t.dealer k }
      | .narrow => { t with narrow := wrapAdd 64 t.narrow k }
      | .heldun => { t with heldun := wrapAdd 64 t.heldun k } }

/-- Whether a region takes steps (R47, R55): it is at a working level, or still drains from one. -/
def regionSteps (s : State) (r : Nat) : Bool :=
  match oldLevelOf s r with
  | some old => decide (2 ≤ old)
  | none => decide (2 ≤ regionLevel s r)

/-- The step of Table 21-2 in which the Heldun controller has been released (by step 2), and that in which the compute dies have been. -/
def heldunReleased : Nat := 3
def enginesReleased : Nat := 4

/-- One step of every unit that is released and takes steps (R55, Table 21-2): the hub's stages from step 1 on, the Heldun controller once step
2 has released it, and the engines and clusters that are present from step 4 on. -/
def advanceAll (s : State) : State :=
  if s.boot.step = 0 then s else
    let t := s.steps
    let compute := decide (enginesReleased ≤ s.boot.step)
    { s with steps :=
        { engine := (List.range 64).foldl (fun a n =>
            if compute && engineHere s n && regionSteps s (n / 8) then tabMod a n 0 (fun v => wrapAdd 64 v 1) else a) t.engine
          cluster := (List.range 16).foldl (fun a c =>
            if compute && clusterHere s c && regionSteps s (c / 2) then tabMod a c 0 (fun v => wrapAdd 64 v 1) else a) t.cluster
          frontEnd := wrapAdd 64 t.frontEnd 1
          dealer := wrapAdd 64 t.dealer 1
          narrow := wrapAdd 64 t.narrow 1
          heldun := if heldunReleased ≤ s.boot.step then wrapAdd 64 t.heldun 1 else t.heldun } }

/-! ## Hosts -/

def hostOf (s : State) (port : Nat) : HostEnv := if port = 0 then s.host0 else s.host1

def setHost (s : State) (port : Nat) (h : HostEnv) : State :=
  if port = 0 then { s with host0 := h } else { s with host1 := h }

/-- Whether the host answers a request to a range with Unsupported Request or Completer Abort (R222). -/
def hostRefuses (s : State) (port addr len : Nat) : Bool :=
  (hostOf s port).refuses.any fun r => decide (addr < r.1 + r.2 && r.1 < addr + len)

def hostRead (s : State) (port addr len : Nat) : List Byte := memRead (hostOf s port).mem addr len

/-- A write that a host accepts. -/
def hostPut (s : State) (port addr : Nat) (bs : List Byte) : State :=
  setHost s port { hostOf s port with mem := memWrite (hostOf s port).mem addr bs }

def mboxOf (s : State) (port : Nat) : Mbox := if port = 0 then s.heldun.port0 else s.heldun.port1

def setMbox (s : State) (port : Nat) (m : Mbox) : State :=
  { s with heldun := if port = 0 then { s.heldun with port0 := m } else { s.heldun with port1 := m } }

/-- A message leaves the device. -/
def send (s : State) (o : Out) : State := { s with out := s.out ++ [o] }

/-- Draws the number of the next free value. -/
def drawFresh (s : State) : Nat × State := (s.fresh, { s with fresh := s.fresh + 1 })

/-! ## Events (R456, R513) -/

/-- The rights of an observer (R451): bit 0 EVENTS, 1 TELEMETRY, 2 POWER, 3 RETIRE_ACK, 4 FAR_MAP. -/
def observerHas (s : State) (bit : Nat) : Bool := s.vault.observerRights.getLsbD bit

/-- Delivers an event record to one host (R456). -/
def deliverEvent (record : List Byte) (s : State) (port : Nat) : State :=
  if s.heldun.owner = some port || observerHas s 0 then
    let m := mboxOf s port
    let lost := { m with evtLost := satAdd 32 m.evtLost 1 }
    match m.ring with
    | none => setMbox s port lost
    | some base =>
      if (m.evtTail + 2 ^ 32 - m.evtHead) % 2 ^ 32 = 2 ^ m.log2 then setMbox s port lost
      else
        let addr := base + 64 * (m.evtTail % 2 ^ m.log2)
        if !portLive s port || hostRefuses s port addr 64 then setMbox s port { lost with ring := none }
        else
          let s1 := hostPut s port addr record
          send (setMbox s1 port { m with evtTail := wrapAdd 32 m.evtTail 1 }) (.msix port 1)
  else s

/-- Raises an event: EVENT_SEQ advances, and the record goes to each host's ring (R456, R513). -/
def raiseEvent (s : State) (code : Nat) (payload : List Byte) : State :=
  let seq := wrapAdd 32 s.units.eventSeq 1
  let s1 := { s with units := { s.units with eventSeq := seq } }
  let record := natLe 2 code ++ natLe 2 0 ++ natLe 4 seq ++ stampBytes (stampNow s) ++ padTo 40 payload
  deliverEvent record (deliverEvent record s1 0) 1

def evKitty : Nat := 1
def evKvPressure : Nat := 2
def evSlowdown : Nat := 3
def evError : Nat := 4
def evUnitRetired : Nat := 5
def evThermal : Nat := 6
def evLink : Nat := 7
def evCutDone : Nat := 8
def evAnte : Nat := 9

/-- What an EV_ERROR names (Table 20-5). -/
structure ErrInfo where
  cls    : Nat
  cause  : Nat
  kind   : Nat
  index  : Nat
  ticket : Nat
  status : Nat
  addr   : Nat
deriving DecidableEq, Repr

/-- The EV_ERROR payload of Table 20-5, bytes 24 to 63. -/
def errPayload (e : ErrInfo) (count stopCount stopDeal : Nat) : List Byte :=
  natLe 1 e.cls ++ natLe 1 e.cause ++ natLe 1 e.kind ++ natLe 1 0 ++ natLe 4 e.index ++ natLe 4 e.ticket
    ++ natLe 2 e.status ++ natLe 2 0 ++ natLe 8 e.addr ++ natLe 4 count ++ natLe 4 stopCount ++ natLe 8 stopDeal

/-- The count of errors of a cause on a unit. -/
def errCountOf (l : List ErrCount) (cause kind index : Nat) : ErrCount :=
  (l.find? fun e => e.cause == cause && e.kind == kind && e.index == index).getD ⟨cause, kind, index, 0, 0, 0⟩

def putErrCount (l : List ErrCount) (c : ErrCount) : List ErrCount :=
  if l.any fun e => e.cause == c.cause && e.kind == c.kind && e.index == c.index then
    l.map fun e => if e.cause == c.cause && e.kind == c.kind && e.index == c.index then c else e
  else l ++ [c]

/-- Counts an error and raises EV_ERROR as R515 says: a class 0 error at its first occurrence and at each multiple of
1,024; any other each time, up to 64 in one window. -/
def raiseError (s : State) (e : ErrInfo) : State :=
  let c := errCountOf s.units.errs e.cause e.kind e.index
  let n := satAdd 32 c.count 1
  let due := if e.cls = 0 then decide (n = 1) || decide (n % 1024 = 0) else decide (c.raised < 64)
  let c' := { c with
    count := n
    raised := if due then c.raised + 1 else c.raised
    since := if due && c.raised == 0 then hubNow s else c.since }
  let s1 := { s with units := { s.units with errs := putErrCount s.units.errs c' } }
  if due then raiseEvent s1 evError (errPayload e n 0 0) else s1

/-! ## Whether the device serves -/

/-- Whether the device has started and has not stopped: READY is 1 (Table 17-4). -/
def serving (s : State) : Bool := s.heldun.ready == 1

/-- The board position, 0 for a device with no board (R24, R221). -/
def position (s : State) : Nat := if s.boot.position < 8 then s.boot.position else 0

end Sys2Proof.Machine
end

