-- ==== Sys2Proof/Machine/Access.lean ====
section
/-!
DEFINITION. Sys2Proof/Machine/Access.lean: how a command reaches bytes. Translation (R218 to R229), the rights of every range
of the physical map (R139 to R143, R161, R164, R176, R245, R307, R386), key slots (R422 to R427), the weight window (R205)
and the reading of memory with its poison (R168, R213).
-/

namespace Sys2Proof.Machine

/-! ## Why an access ends -/

/-- How an access or a check ends a command before its commit point. -/
inductive Stop where
  /-- The command completes with this status and DETAIL. -/
  | done (status detail : Nat)
  /-- A translation fault (R220): address space, virtual address, reason, level, and whether it is a write. -/
  | walk (asid va reason level : Nat) (write : Bool)
  /-- A poisoned unit of a staged weight frame was read: the command is killed and re-run after the repair (R213). -/
  | repair (pa : Nat)
  /-- The access waits for a stack, the vault or a reassigned segment (R145, R501, R502): the row has not happened. -/
  | hold
  /-- No walker is present on either die (R20): fatal. -/
  | noWalker
deriving DecidableEq, Repr

/-! ## Status codes (Table 10-12 and the codes of later chapters) -/

def sOk : Nat := 0x0000
def sDuplicate : Nat := 0x0001
def sLength : Nat := 0x0010
def sTooLarge : Nat := 0x0011
def sBadFormat : Nat := 0x0012
def sPrivilege : Nat := 0x0013
def sDependency : Nat := 0x0014
def sTimeout : Nat := 0x0015
def sFault : Nat := 0x0020
def sKvFull : Nat := 0x0021
def sHeld : Nat := 0x0022
def sWeightsDamaged : Nat := 0x0030
def sPoison : Nat := 0x0031
def sUe : Nat := 0x0032
def sEpoch : Nat := 0x0040
def sUnitAbsent : Nat := 0x0041
def sSeal : Nat := 0x0050

/-- DETAIL of an S_FAULT with a code of Table 10-16: no level and no kitty record (R552). -/
def faultCode (c : Nat) : Nat := c + 0x1FF * 2 ^ 10
def codeHostRefused : Nat := 0x80
def codeNoKitty : Nat := 0x81
def codePlacement : Nat := 0x82
def codeNoRange : Nat := 0x83
def codeDenied : Nat := 0x84
def codeAsid : Nat := 0x85
def codeAreaInvalid : Nat := 0x86

def denied {α : Type} : Except Stop α := .error (.done sFault (faultCode codeDenied))
def noRange {α : Type} : Except Stop α := .error (.done sFault (faultCode codeNoRange))
/-- S_UNIT_ABSENT with its unit kind and index (R39). -/
def absent {α : Type} (kind index : Nat) : Except Stop α := .error (.done sUnitAbsent (kind + index * 2 ^ 8))
/-- S_SEAL with its cause and key slot (R431). -/
def sealed {α : Type} (cause slot : Nat) : Except Stop α := .error (.done sSeal (cause + slot * 2 ^ 8))

def sealNoSlot : Nat := 1
def sealTenant : Nat := 2
def sealNotSealed : Nat := 3
def sealPlainDest : Nat := 4
def sealTag : Nat := 5
def sealWindow : Nat := 6
def sealPeer : Nat := 7
def sealProtected : Nat := 8
def sealStore : Nat := 9
def sealMode : Nat := 10
def sealUnwrap : Nat := 11
def sealRing : Nat := 12

/-! ## Who accesses -/

/-- The command that accesses memory and the unit that runs it. `tenant` is that of its context, none for classes 0x8
and 0xF; `slot` is KEY_SLOT; `ctx` is CONTEXT; `plainOk` says that its key slot does not bar a plain destination
(status vectors, R423). -/
structure Actor where
  place  : Place
  cls    : Nat
  asid   : Nat
  opcode : Nat
  tenant : Option Nat
  slot   : Nat
  isOpen : Bool
  deal   : Nat
  live   : List (Option Nat)
  ctx    : Nat := 0
  plainOk : Bool := false
deriving DecidableEq, Repr

def actorKernel (a : Actor) : Bool := a.cls == 0

/-! ## Runs and logs (Table 2-3) -/

/-- How an operand lies in memory: its longest contiguous run, its stride, and how often the cost model counts it. -/
structure Pattern where
  run    : Nat
  stride : Nat
  mult   : Nat
deriving DecidableEq, Repr

/-- An operand read or written once, as one run. -/
def onePass (len : Nat) : Pattern := ⟨len, 0, 1⟩

/-- What the accesses of one command leave behind: the pages translated, newest first, each with whether it was for a write, the
cluster-store segments touched, the weight copies read, the bytes on each line, and the parameter block that was read. -/
structure Log where
  pages : List (Nat × Bool)
  segs  : List (Nat × Nat)
  uses  : List (Nat × Nat)
  lines : List Use
  block : List Byte
deriving DecidableEq, Repr

def emptyLog : Log := ⟨[], [], [], [], []⟩

/-- A computation that accesses memory: it may stop, and it keeps the log. -/
abbrev Run (α : Type) := StateT Log (Except Stop) α

/-- Ends the command. -/
def stopWith {α : Type} (e : Stop) : Run α := fun _ => .error e
/-- Ends the command with a status. -/
def finish {α : Type} (status detail : Nat) : Run α := stopWith (.done status detail)
/-- Ends the command unless a condition holds. -/
def need (ok : Bool) (status detail : Nat) : Run Unit := if ok then pure () else finish status detail
/-- Adds a note to the log. -/
def note (f : Log → Log) : Run Unit := fun l => .ok ((), f l)
def liftE {α : Type} (e : Except Stop α) : Run α := fun l =>
  match e with
  | .ok x => .ok (x, l)
  | .error q => .error q

/-! ## Table walks (R219, R220, R228) -/

def levelShift : Nat → Nat
  | 0 => 43 | 1 => 30 | 2 => 21 | _ => 16

def levelBits : Nat → Nat
  | 0 => 13 | 1 => 13 | 2 => 9 | _ => 5

/-- The bytes of a table of a level (Table 9-1). -/
def tableBytes (level : Nat) : Nat := 8 * 2 ^ levelBits level

/-- The bytes that a leaf of a level maps. -/
def leafBytes (level : Nat) : Nat := 2 ^ levelShift level

/-- How a walk ends. -/
inductive WalkEnd where
  | leaf (entry level : Nat)
  | fault (reason level : Nat)
  | stop (status detail : Nat)
deriving DecidableEq, Repr

/-- A 64-byte unit that a read delivers as poison (R166, R168). -/
def isPoisoned (s : State) (u : Nat) : Bool :=
  s.memories.poison.contains u ||
    (decide (u < stackedEnd) && s.memories.lostChan.contains (channelIndex u) && !s.memories.healed.contains u)

/-- Whether a run of memory holds a poisoned unit. -/
def anyPoison (s : State) (pa len : Nat) : Bool :=
  if s.memories.poison.isEmpty && s.memories.lostChan.isEmpty then false else (unitsOf pa len).any (isPoisoned s)

/-- The channel whose retirement withdrew the band of a stacked-memory address, if it is withdrawn (R164). -/
def withdrawnBy (s : State) (pa : Nat) : Option Nat :=
  (tabGet s.memories.withdrawn (stackOf pa) [])[31 - bitsOf pa 36 32]?.map fun k => 32 * stackOf pa + k

/-- Whether the stack that holds an address is not ACTIVE: accesses wait until it is (R501). -/
def stackAsleep (s : State) (pa : Nat) : Bool := s.power.stackSr.getLsbD (stackOf pa) || s.power.stackMoving.getLsbD (stackOf pa)

/-- Whether the vault is not ACTIVE: payload reads wait until it is (R502). -/
def vaultAsleep (s : State) : Bool := s.power.vaultStandby || s.power.vaultMoving

/-- Reads a table entry through the narrow path: poison ends the walk (Table 20-11). -/
def readEntry (s : State) (pa : Nat) : Except Stop Nat :=
  match withdrawnBy s pa with
  | some k => absent 4 k
  | none =>
    if stackAsleep s pa then .error .hold
    else if isPoisoned s (unitOf pa) then .error (.done sPoison 0)
    else .ok (leNat (memRead s.memories.mem pa 8))

/-- Whether a non-leaf entry keeps the rules of Table 9-2 and names a table of this device's stacked memory. -/
def nonLeafOk (s : State) (e level : Nat) : Bool :=
  let addr := bitsOf e 55 8 * 256
  let la := addr % 2 ^ 53
  bitsOf e 63 56 == 0 && bitsOf e 7 3 == 0 && !bitOf e 1 && decide (level < 3)
    && addr / 2 ^ 53 == position s && la % tableBytes (level + 1) == 0 && decide (la + tableBytes (level + 1) ≤ stackedEnd)

/-- Whether a leaf keeps the rules of Table 9-2 and R223. -/
def leafOk (e level : Nat) : Bool :=
  let target := bitsOf e 7 6
  bitsOf e 59 56 == 0 && !bitOf e 1 && level != 0 && bitsOf e 15 8 == 0
    && (bitsOf e 55 16 * 65536) % leafBytes level == 0
    && (target == 3 || bitsOf e 63 60 == 0) && !(target == 3 && (bitOf e 3 || bitOf e 5))

/-- Whether an address space has a PASID for a port (Table 9-3, 0x05). -/
def pasidFor (r : Asid) (target : Nat) : Bool :=
  if target = 1 then r.pasid0.isSome else if target = 2 then r.pasid1.isSome else true

/-- A walk from the table at `table`, whose level is 4 less the levels left. -/
def walkFrom (s : State) (r : Asid) (va : Nat) : Nat → Nat → WalkEnd
  | 0, _ => .fault 4 3
  | n + 1, table =>
    let level := 3 - n
    match readEntry s (table + 8 * (va / 2 ^ levelShift level % 2 ^ levelBits level)) with
    | .error (.done st d) => .stop st d
    | .error _ => .stop 0 0
    | .ok e =>
      if !bitOf e 0 then .fault 1 level
      else if bitOf e 2 then
        if !leafOk e level then .fault 4 level
        else if !pasidFor r (bitsOf e 7 6) then .fault 5 level
        else .leaf e level
      else if !nonLeafOk s e level then .fault 4 level
      else walkFrom s r va n (bitsOf e 55 8 * 256 % 2 ^ 53)

/-- The die whose walkers serve a unit (R20, R227): its own if one of its walkers is present, else the other; hub units
use die 0 first. -/
def walkDie (s : State) (p : Place) : Option Nat :=
  let own := match p with
    | .engine n => n / 32
    | .mover c _ => c / 8
    | _ => 0
  let has (d : Nat) : Bool := (List.range 16).any fun w => walkerHere s (16 * d + w)
  if has own then some own else if has (1 - own) then some (1 - own) else none

/-- The deepest cached non-leaf entry of a die for a page: its level and table (R228). -/
def cachedTable (s : State) (die asid va : Nat) : Option (Nat × Nat) :=
  let hit (l : Nat) : Option (Nat × Nat) :=
    ((tabGet s.trans.walkers die []).find? fun c =>
      c.asid == asid && c.level == l && c.path == va / 2 ^ levelShift l).map
        fun c => (l, bitsOf c.entry 55 8 * 256 % 2 ^ 53)
  (hit 2).or ((hit 1).or (hit 0))

/-- The address-space record of an ASID. -/
def asidRec (s : State) (asid : Nat) : Asid := tabGet s.trans.asids asid ⟨0, 0, none, none⟩

/-- Walks the tables for a page; `fresh` ignores the walker cache (R229). An address space that is FREE has no tables (R226). -/
def walkTables (s : State) (p : Place) (asid va : Nat) (fresh : Bool) : Except Stop WalkEnd :=
  match walkDie s p with
  | none => .error .noWalker
  | some die =>
    let r := asidRec s asid
    if r.state = 0 then .error (.done sFault (faultCode codeAsid))
    else
    let w :=
      match (if fresh then none else cachedTable s die asid va) with
      | some (l, t) => walkFrom s r va (3 - l) t
      | none => walkFrom s r va 4 (r.root % 2 ^ 53)
    match w with
    | .stop 0 0 => .error .hold
    | w => .ok w

/-- The buffers that a unit looks up: an engine's first level, then its cluster's second level (R227). -/
def buffersOf (s : State) : Place → List Leaf
  | .engine n => tabGet s.trans.level1 n [] ++ tabGet s.trans.level2 (n / 4) []
  | .mover c _ => tabGet s.trans.level2 c []
  | _ => []

def leafCovers (l : Leaf) (asid va : Nat) : Bool :=
  l.asid == asid && decide (l.va ≤ va && va < l.va + leafBytes l.level)

/-- The reason that a leaf refuses an access, WRITE_PROTECT before KERNEL_ONLY (R220). -/
def accessReason (e : Nat) (kernel write : Bool) : Option Nat :=
  if write && !bitOf e 3 then some 2 else if bitOf e 4 && !kernel then some 3 else none

/-- Translates one access of a unit in an address space (R220, R228, R229): the leaf and its level. -/
def translate (s : State) (p : Place) (asid : Nat) (kernel write : Bool) (va : Nat) : Except Stop (Nat × Nat) :=
  let walkIt (fresh : Bool) : Except Stop (Nat × Nat) := do
    match (← walkTables s p asid va fresh) with
    | .leaf e l =>
      match accessReason e kernel write with
      | some q => .error (.walk asid va q l write)
      | none => .ok (e, l)
    | .fault q l => .error (.walk asid va q l write)
    | .stop st d => .error (.done st d)
  match (buffersOf s p).find? fun l => leafCovers l asid va with
  | some l => if (accessReason l.entry kernel write).isSome then walkIt true else .ok (l.entry, l.level)
  | none => walkIt false

/-! ## The physical map -/

/-- A range of bytes: base and size. -/
abbrev Range := Nat × Nat

def inRange (pa len : Nat) (r : Range) : Bool := decide (0 < r.2 && pa < r.1 + r.2 && r.1 < pa + max len 1)

/-- The shoe table and the shoe-area pool (R245). -/
def shoeRanges (s : State) : List Range :=
  if s.shoes.count = 0 then [] else
    [(s.shoes.tableBase, 128 * s.shoes.count), (s.shoes.areaBase, 131072 * s.shoes.areaCount)]

/-- The context area and the page pool (R306). -/
def kvRanges (s : State) : List Range :=
  match s.kv.area with
  | none => []
  | some base => [(base, 33554432 + 256 * s.kv.ctxCount + 16 * s.kv.poolPages), (s.kv.poolBase, 65536 * s.kv.poolPages)]

/-- The master ranges of LIVE adapters with their tenants (R386). -/
def adapterRanges (s : State) : List (Nat × Range) :=
  s.adapters.filterMap fun a => if a.2.state = 1 then some (a.2.tenant, (a.2.base, a.2.bytes)) else none

/-- An expander slot's record. -/
def expanderOf (s : State) (k : Nat) : Expander := tabGet s.memories.expanders k ⟨0, 0, 0, 0, 0, 0, 0, 0, 0, 0, none⟩

/-- The far slot whose mapped range holds an address: its number and record. -/
def farSlotOf (s : State) (pa : Nat) : Option (Nat × Expander) :=
  ((List.range 4).map fun k => (k, expanderOf s k)).find? fun e =>
    (e.2.state == 1 || e.2.state == 3) && inRange pa 1 (e.2.base, e.2.sizeGib * 2 ^ 30)

/-- Whether an opcode may reach the context area and the pool (R307): at. and kn.context. -/
def kvAllowed (opcode : Nat) : Bool := opcode / 4096 == 4 || opcode == 0xF00A

/-- Whether a command is an allowed reader of open scratch (R351): OPEN or sp.verify, of the tag's tenant, in its deal or the next. -/
def openReader (tag : Nat × Nat) (a : Actor) : Bool :=
  (a.isOpen || a.opcode == 0x6002) && a.tenant == some tag.1 && (a.deal == tag.2 || a.deal == (tag.2 + 1) % 2 ^ 32)

def tagOf (s : State) (n : Nat) : AreaTag := tabGet s.memories.areaTags n ⟨none, false, 0xFFF, none⟩
def segOf (s : State) (c k : Nat) : Seg := tabGet s.memories.segs (384 * c + k) ⟨0, 0, 0xFFF, none⟩

/-- The rights of Table 6-3, the open tag of R355 and the key tag of R427 on one segment. -/
def segAllowed (a : Actor) (write : Bool) (g : Seg) : Except Stop Unit :=
  if g.keySlot ≠ 0xFFF && g.keySlot ≠ a.slot then sealed sealStore a.slot
  else if g.kind = 0 then denied
  else if g.kind = 1 && write && (!actorKernel a || a.isOpen) then denied
  else if g.kind = 2 && a.tenant ≠ some g.tenant then denied
  else
    match g.openTag with
    | none => .ok ()
    | some t =>
      if !openReader t a then denied
      else if write && (!a.isOpen || t ≠ (a.tenant.getD 0, a.deal)) then denied
      else .ok ()

/-- Whether a command that started on a unit before goes on there now: a vx.run between its steps, or a mover command that waits for staging or
for read data. A unit that leaves service, or drains, after the check of R39 does not end it (R39, R292, R499). -/
def runsOn (s : State) (p : Place) : Bool :=
  s.flights.list.any fun f => f.place == p &&
    (match f.phase with
      | .vector _ | .staging | .peerRead _ _ => true
      | _ => false)

/-- The cluster of a place. -/
def clusterAt : Place → Option Nat
  | .engine n => some (n / 4)
  | .mover c _ => some c
  | _ => none

/-- Whether an address lies in an open page of the pool that a command may not read: only a command with OPEN that names the page's context,
in its OPEN_DEAL or the next, is an allowed reader (R351). -/
def openBars (s : State) (a : Actor) (pa : Nat) : Bool :=
  decide (s.kv.area.isSome && s.kv.poolBase ≤ pa) &&
    (match tabFind s.kv.pages ((pa - s.kv.poolBase) / 65536) with
      | some r =>
        r.isOpen && !(a.isOpen && a.ctx == r.ctx && (tabFind s.kv.specs r.ctx).any fun x =>
          x.isOpen && (x.deal == a.deal || (x.deal + 1) % 2 ^ 32 == a.deal))
      | none => false)

/-- Checks an access to this device's own memory, wholly within one 64 KiB page (R139, R161), and gives its place. -/
def checkLocal (s : State) (a : Actor) (write : Bool) (pa len : Nat) : Except Stop Loc :=
  if pa + len ≤ stackedEnd then
    if (shoeRanges s).any (inRange pa len) then denied
    else if !kvAllowed a.opcode && (kvRanges s).any (inRange pa len) then denied
    else if openBars s a pa then denied
    else if (adapterRanges s).any (fun r => inRange pa len r.2 && a.tenant ≠ some r.1) then denied
    else
      match withdrawnBy s pa with
      | some k => absent 4 k
      | none => if stackAsleep s pa then .error .hold else .ok (.mem pa)
  else if farBase ≤ pa && pa + len ≤ farEnd then
    if (adapterRanges s).any (fun r => inRange pa len r.2 && a.tenant ≠ some r.1) then denied
    else
      match farSlotOf s pa with
      | none => noRange
      | some (k, e) => if e.state = 3 then absent 6 (2 + k / 2) else .ok (.mem pa)
  else if storeBase ≤ pa && pa + len ≤ storeBase + areaBytes then
    match a.place with
    | .engine n =>
      if !write && !(tagOf s n).valid then .error (.done sFault (faultCode codeAreaInvalid))
      else .ok (.area n (pa - storeBase))
    | _ => denied
  else if clusterBase ≤ pa && pa < clusterBase + 16 * clusterStride then
    let c := (pa - clusterBase) / clusterStride
    let off := (pa - clusterBase) % clusterStride
    let inside := clusterAt a.place == some c && runsOn s a.place
    if !clusterHere s c && !inside then absent 2 c
    else if !clusterPowered s c && !inside then absent 7 (0x100 + c)
    else if clusterSoft < off + len then denied
    else
      match a.place with
      | .engine n => if n / 4 ≠ c then denied else (segAllowed a write (segOf s c (off / 65536))).map fun _ => .mem pa
      | .mover _ _ => (segAllowed a write (segOf s c (off / 65536))).map fun _ => .mem pa
      | _ => denied
  else noRange

/-! ## Peers of the board (R221, R464) -/

/-- The default installation record of R472. -/
def defaultInstall (s : State) : List Byte :=
  natLe 8 0 ++ natLe 2 (position s) ++ natLe 14 0 ++ (List.replicate 16 [0xFF#8, 0xFF#8, 0#8, 0#8]).flatten
    ++ [0xFF#8] ++ List.replicate 2047 0#8

/-- The installation record that the device acts on (R472). -/
def installOf (s : State) : List Byte := s.vault.install.getD (defaultInstall s)

/-- The device ID: 8 * board + position. -/
def deviceId (s : State) : Nat := fld (installOf s) 8 2

/-- The far end that a port expects: that of R463 for TP0 to TP6, else its EXPECT entry (R472, Table 18-6). -/
def expectOf (s : State) (p : Nat) : Nat :=
  if p < 7 then deviceId s / 8 * 8 + (position s + p + 1) % 8 else fld (installOf s) (24 + 4 * p) 2

/-- The route entry p of R480: a logical entry that was not written stands at its default. -/
def routeOf (s : State) (p : Nat) : Route :=
  (tabFind s.domain.routes p).getD
    (if p < 16 then ⟨decide (expectOf s p < 0xFFFE), p, expectOf s p % 0x10000⟩ else ⟨false, 0, 0⟩)

/-- The port towards board device q (R464). -/
def meshPort (s : State) (q : Nat) : Nat := (q + 15 - position s) % 8

/-- Whether board device v may relay to q: it has live links to both ends (R40). Its link to this device is this device's own; whether its link
to q is live is a fact of another device, and a free value that each message draws anew (DESIGN CHOICE, log 60). -/
def relayTo (s : State) (v q : Nat) : Bool :=
  v != q && v != position s && tpLive s (meshPort s v) && Config.peerLinked s.fresh v q

/-- The port that an access to board device q leaves on, and the device ID that it names: through the route entry of its
mesh port (R464, R480), else through the lowest-numbered relay (R40). -/
def peerRoute (s : State) (q : Nat) : Option (Nat × Nat) :=
  let r := routeOf s (meshPort s q)
  if r.valid && tpLive s r.egress then some (r.egress, r.dest)
  else ((List.range 8).find? fun v => relayTo s v q).map fun v => (meshPort s v, deviceId s / 8 * 8 + q)

/-- The port that an access to board device q leaves on. -/
def portTo (s : State) (q : Nat) : Option Nat := (peerRoute s q).map (·.1)

/-! ## A spot: where a page's access lands -/

/-- Where an access lands, and whether its leaf has ENC. -/
inductive Spot where
  | loc (l : Loc) (enc : Bool)
  | weight (model off : Nat)
deriving DecidableEq, Repr

/-- A key slot record. -/
def freeSlot : KeySlot :=
  { state := 0, tenant := 0, windowAsid := 0, windowVa := 0, windowBytes := 0, tagVa := 0, ringSeq := 0, outSeq := 0,
    linkSeq := 0, senderId := 0, linkSet := false, ioKey := [], memKey := [], linkKey := [] }
def keySlotOf (s : State) (k : Nat) : KeySlot := tabGet s.keys.slots k freeSlot

/-- Whether the bytes that a leaf maps lie inside the sealed window of a slot (R424). -/
def inWindow (k : KeySlot) (asid va len : Nat) : Bool :=
  k.windowAsid == asid && decide (k.windowVa ≤ va && va + len ≤ k.windowVa + k.windowBytes)

/-- A host address as a request carries it: behind the PASID of its prefix, or with none (R222). The host's memory is kept under the address
that its IOMMU sees (log entry 63). -/
def hostKey (pasid : Option Nat) (addr : Nat) : Nat :=
  match pasid with
  | none => addr
  | some p => (p + 1) * 2 ^ 64 + addr

/-- The host address that a leaf of an address space names on H0 or H1. -/
def hostOfLeaf (s : State) (asid port addr : Nat) : Nat :=
  let r := asidRec s asid
  hostKey (if port = 0 then r.pasid0 else r.pasid1) addr

/-- Whether a destination of a command with OPEN lies where R350 lets it: its engine's operand area, or a TENANT segment of the command's
tenant in the store of its own cluster. -/
def openPlace (s : State) (a : Actor) (entry addr : Nat) : Bool :=
  let pa := addr % 2 ^ 53
  bitsOf entry 7 6 == 0 && addr / 2 ^ 53 == position s &&
    ((match a.place with | .engine _ => decide (storeBase ≤ pa && pa < storeBase + areaBytes) | _ => false) ||
     (decide (clusterBase ≤ pa && pa < clusterBase + 16 * clusterStride)
       && clusterAt a.place == some ((pa - clusterBase) / clusterStride)
       && (let g := segOf s ((pa - clusterBase) / clusterStride) ((pa - clusterBase) % clusterStride / 65536)
           g.kind == 2 && a.tenant == some g.tenant)))

/-- Resolves a translated access to its place, wholly within one 64 KiB page (R221 to R223, R422, R424, R428). -/
def resolveLeaf (s : State) (a : Actor) (write : Bool) (va len entry level : Nat) : Except Stop Spot :=
  let enc := bitOf entry 5
  let addr := bitsOf entry 55 16 * 65536 + va % leafBytes level
  if enc && a.slot = 0xFFF then sealed sealNoSlot 0xFFF
  else
    match bitsOf entry 7 6 with
    | 0 =>
      let q := addr / 2 ^ 53
      if q = position s then (checkLocal s a write (addr % 2 ^ 53) len).map fun l => .loc l enc
      else if a.slot ≠ 0xFFF then sealed sealPeer a.slot
      else if addr % 2 ^ 53 < stackedEnd then .ok (.loc (.peer q (addr % 2 ^ 53)) enc)
      else denied
    | 3 => .ok (.weight (bitsOf entry 63 60) addr)
    | t =>
      let port := t - 1
      if !portLive s port then absent 6 port
      else if enc && !inWindow (keySlotOf s a.slot) a.asid (va / leafBytes level * leafBytes level) (leafBytes level) then
        sealed sealWindow a.slot
      else .ok (.loc (.host port (hostOfLeaf s a.asid port addr)) enc)

/-- The pieces of a run of virtual addresses, cut at 64 KiB pages. -/
def piecesOf (va len : Nat) : List (Nat × Nat) :=
  if len = 0 then [] else
    (List.range ((va + len - 1) / 65536 + 1 - va / 65536)).map fun i =>
      let lo := max va ((va / 65536 + i) * 65536)
      (lo, min (va + len) ((va / 65536 + i + 1) * 65536) - lo)

/-- Translates and resolves one piece, noting the page and the segment. A destination of a command with OPEN outside the places of R350 ends
it with PLACEMENT. -/
def spotOf (s : State) (a : Actor) (write : Bool) (va len : Nat) : Run Spot := do
  let (e, l) ← liftE (translate s a.place a.asid (actorKernel a) write va)
  need (!(write && a.isOpen) || openPlace s a e (bitsOf e 55 16 * 65536 + va % leafBytes l)) sFault (faultCode codePlacement)
  let spot ← liftE (resolveLeaf s a write va len e l)
  note fun g => { g with pages := (va / 65536, write) :: g.pages }
  match spot with
  | .loc (.mem pa) _ =>
    if clusterBase ≤ pa then
      note fun g => { g with segs := ((pa - clusterBase) / clusterStride, (pa - clusterBase) % clusterStride / 65536) :: g.segs }
    else pure ()
  | _ => pure ()
  pure spot

/-! ## Lines that a place lies on -/

def lineOf (s : State) : Loc → Option Line
  | .mem pa =>
    if pa < stackedEnd then some (.stack (stackOf pa))
    else if pa < storeBase then some (.far (match farSlotOf s pa with | some (k, _) => k | none => 0)) else none
  | .area _ _ => none
  | .host p _ => some (.host p)
  | .peer q _ => some (.binik ((portTo s q).getD (meshPort s q)))

/-- Bytes that sealed windows add: whole 4 KiB units and a tag record each (R430). -/
def sealedBytes (addr len : Nat) : Nat :=
  if len = 0 then 0 else ((addr + len - 1) / 4096 + 1 - addr / 4096) * (4096 + 32)

def noteLine (line : Option Line) (pt : Pattern) (bytes : Nat) (write : Bool) : Run Unit :=
  match line with
  | none => pure ()
  | some l =>
    note fun g => { g with lines :=
      ⟨l, bytes * pt.mult, pt.run, decide (pt.run < 256 && pt.stride ≠ 0 && pt.stride % 0x800000 = 0), write⟩ :: g.lines }

/-! ## Vault slots and weight copies (R205, R196) -/

def freeVaultSlot : Slot :=
  { state := .free, prot := false, chunks := 0, total := 0, imageId := 0, hash := [], degraded := 0, extents := [],
    manifest := [], written := [], payload := [], contentKey := none, slotKey := none, wrappedKey := none }
def vaultSlot (s : State) (k : Nat) : Slot := tabGet s.vault.slots k freeVaultSlot
def modelOf (s : State) (m : Nat) : Model := tabGet s.models m ⟨none, none, none, none, 0, 0⟩

/-- The copy of a model whose slot a command holds (R211). -/
def heldCopy (s : State) (a : Actor) (m : Nat) : Option Copy :=
  match (a.live[m]?).join with
  | none => none
  | some k =>
    let md := modelOf s m
    [md.live, md.retiring, md.next].findSome? fun c => c.bind fun c => if c.slot = k then some c else none

/-- A chunk map entry (Table 8-9): TIER and FRAME address. -/
def chunkTier (sl : Slot) (c : Copy) (chunk : Nat) : Nat × Nat :=
  (tabFind c.map chunk).getD (if chunk < sl.chunks then (0, 0) else (3, 0))

/-- The stack that holds granule r of an extent, by its data position, or row r of a group's parity at 1,152 + group (Table 8-1). -/
def granuleStack (extent r : Nat) : Nat := if 1152 ≤ extent then r % 4 else (r + extent % 3 + 1) % 4

/-- The group of an extent, or of a parity index. -/
def vaultGroup (extent : Nat) : Nat := if 1152 ≤ extent then extent - 1152 else extent / 3

/-- The granule pieces of a payload run: (stack, granule, bytes). The estimate charges each granule that a command touches at least
256 KiB (R186). -/
def vaultPieces (sl : Slot) (off len : Nat) : List (Nat × Nat × Nat) :=
  if len = 0 then [] else
    (List.range ((off + len - 1) / 2 ^ 20 + 1 - off / 2 ^ 20)).map fun i =>
      let g := off / 2 ^ 20 + i
      let lo := max off (g * 2 ^ 20)
      let hi := min (off + len) ((g + 1) * 2 ^ 20)
      (granuleStack (sl.extents.getD (g / 1024) 0) (g % 1024), sl.extents.getD (g / 1024) 0 * 1024 + g % 1024, hi - lo)

/-- A slot key from the form in which the system area holds it, wrapped by the vault wrap key (Table 16-2). -/
def slotKeyOf (s : State) (wrapped : List Byte) : List Byte :=
  (keyUnwrap (vaultWrapKey s.vault.pegs.debugUnlock) wrapped).getD (Config.failedUnwrap 2)

/-- The plaintext of a protected copy's frame bytes: whole 4 KiB units under the slot key (R196). -/
def slotCrypt (s : State) (enc : Bool) (key : List Byte) (off : Nat) (bs : List Byte) : List Byte :=
  ((chunksOf (ceilDiv bs.length 4096) 4096 bs).zipIdx).flatMap fun c => xts enc (slotKeyOf s key) (off / 4096 + c.2) c.1

/-- Reads bytes of a frame of a copy at a physical address, through the slot key if the slot is protected. -/
def frameBytes (s : State) (sl : Slot) (pa off len : Nat) : List Byte :=
  match sl.prot, sl.slotKey with
  | true, some key =>
    let lo := off / 4096 * 4096
    let hi := (off + len + 4095) / 4096 * 4096
    slice (slotCrypt s false key lo (memRead s.memories.mem (pa - (off - lo)) (hi - lo))) (off - lo) len
  | _, _ => memRead s.memories.mem pa len

/-- Where a piece of the weight window within one chunk lies: in the vault, or in a frame of memory. -/
inductive WeightSpot where
  | vault (sl : Slot) (off : Nat)
  | frame (sl : Slot) (pa off : Nat)

/-- The lookup of a piece of the weight window (R205, R213, R215). -/
def weightSpot (s : State) (a : Actor) (model off len : Nat) : Run WeightSpot := do
  match heldCopy s a model with
  | none => finish sFault (faultCode codeNoRange)
  | some c => do
    let sl := vaultSlot s c.slot
    need (decide ((off + max len 1 - 1) / 2 ^ 24 < sl.total)) sFault (faultCode codeNoRange)
    need (sl.state != .damaged) sWeightsDamaged (0x01 + c.slot * 2 ^ 8)
    note fun g => { g with uses := (model, c.slot) :: g.uses }
    let direct : Run WeightSpot := if vaultAsleep s then stopWith .hold else pure (.vault sl off)
    match chunkTier sl c (off / 2 ^ 24) with
    | (0, _) => direct
    | (3, _) => finish sWeightsDamaged (0x02 + c.slot * 2 ^ 8)
    | (_, frame) => do
      let pa := frame + off % 2 ^ 24
      if (pa < stackedEnd && ((withdrawnBy s pa).isSome ||
          (unitsOf pa len).any fun u => s.memories.lostChan.contains (channelIndex u) && !s.memories.healed.contains u)) then
        if off / 2 ^ 24 < sl.chunks then direct else finish sWeightsDamaged (0x02 + c.slot * 2 ^ 8)
      else do
        let _ ← liftE (checkLocal s { a with tenant := none, place := .hub } false pa len)
        pure (.frame sl pa off)

/-- Notes the bytes of a piece of the weight window on their lines. -/
def noteWeight (s : State) (pt : Pattern) (len : Nat) : WeightSpot → Run Unit
  | .vault sl off =>
    if pt.mult = 0 then pure ()
    else note fun g => { g with lines :=
      (vaultPieces sl off len).map (fun p => ⟨.vault p.1, p.2.2 * pt.mult, p.2.1, false, false⟩) ++ g.lines }
  | .frame _ pa _ => noteLine (lineOf s (.mem pa)) pt len false

/-- A piece of the weight window within one chunk: the bytes read. A poisoned unit of a frame kills the command until its repair (R213). -/
def readWeight (s : State) (a : Actor) (pt : Pattern) (model off len : Nat) : Run (List Byte) := do
  let w ← weightSpot s a model off len
  noteWeight s pt len w
  match w with
  | .vault sl o => pure (memRead sl.payload o len)
  | .frame sl pa o =>
    match (unitsOf pa len).find? (isPoisoned s) with
    | some u => stopWith (.repair u)
    | none => pure (frameBytes s sl pa o len)

/-! ## Sealed places (R424, R426) -/

/-- The XTS tweak of a 64-byte unit reached through an encrypted leaf (R426). -/
def leafTweak (asid va : Nat) : Nat := asid * 2 ^ 64 + va / 64

/-- Units of 64 bytes enciphered or deciphered under a slot's memory key, from a 64-byte aligned virtual address. -/
def leafCrypt (enc : Bool) (k : KeySlot) (asid va : Nat) (bs : List Byte) : List Byte :=
  ((chunksOf (ceilDiv bs.length 64) 64 bs).zipIdx).flatMap fun c => xts enc k.memKey (leafTweak asid (va + 64 * c.2)) c.1

/-- Reads bytes held under a slot's memory key. -/
def readEnc (s : State) (slot asid va pa len : Nat) : List Byte :=
  let lo := va / 64 * 64
  let hi := (va + len + 63) / 64 * 64
  slice (leafCrypt false (keySlotOf s slot) asid lo (memRead s.memories.mem (pa - (va - lo)) (hi - lo))) (va - lo) len

/-- The additional data of a window unit (R424). -/
def windowAad (k : KeySlot) (slot va : Nat) : List Byte := natLe 2 k.tenant ++ natLe 2 slot ++ natLe 4 0 ++ natLe 8 va

/-- The host place of the tag record of the window unit at a virtual address: a plain leaf to host memory (R424). -/
def tagPlace (s : State) (p : Place) (slot va : Nat) (write : Bool) : Except Stop (Nat × Nat) := do
  let k := keySlotOf s slot
  let tva := k.tagVa + 32 * ((va - k.windowVa) / 4096)
  let (e, l) ← translate s p k.windowAsid false write tva
  if bitOf e 5 || bitsOf e 7 6 = 0 || bitsOf e 7 6 = 3 then sealed sealWindow slot
  else .ok (bitsOf e 7 6 - 1, hostOfLeaf s k.windowAsid (bitsOf e 7 6 - 1) (bitsOf e 55 16 * 65536 + tva % leafBytes l))

/-- Whether a tag record keeps its layout: bytes 12 to 15 zero, and a nonce of a tenant or of the device. -/
def tagRecordOk (r : List Byte) : Bool := zeroRange r 12 4 && zeroRange r 1 3 && decide (fld r 0 1 ≤ 1)

/-- Reads and verifies the whole 4 KiB window unit at a virtual address (R424). -/
def openUnit (s : State) (p : Place) (slot va port addr : Nat) : Except Stop (List Byte) := do
  let k := keySlotOf s slot
  let (tp, ta) ← tagPlace s p slot va false
  if hostRefuses s port addr 4096 || hostRefuses s tp ta 32 then .error (.done sFault (faultCode codeHostRefused))
  else
    let r := hostRead s tp ta 32
    match gcmOpen k.ioKey (r.take 12) (windowAad k slot va) (hostRead s port addr 4096) (r.drop 16) with
    | some pt => if tagRecordOk r then .ok pt else sealed sealTag slot
    | none => sealed sealTag slot

/-- Reads a run of a sealed window, whole units at a time. -/
def readWindow (s : State) (p : Place) (slot va port addr len : Nat) : Except Stop (List Byte) := do
  let lo := va / 4096 * 4096
  let n := (va + len + 4095) / 4096 - va / 4096
  let units ← (List.range n).mapM fun i => openUnit s p slot (lo + 4096 * i) port (addr - (va - lo) + 4096 * i)
  .ok (slice units.flatten (va - lo) len)

/-! ## Reading -/

/-- Whether two runs of bytes of one store or memory overlap. -/
def locsMeet (l : Loc) (len : Nat) (l' : Loc) (len' : Nat) : Bool :=
  let meet (x y : Nat) : Bool := decide (x < y + len' && y < x + len)
  match l, l' with
  | .mem x, .mem y => meet x y
  | .area n x, .area n' y => n == n' && meet x y
  | .host p x, .host p' y => p == p' && meet x y
  | .peer q x, .peer q' y => q == q' && meet x y
  | _, _ => false

/-- Whether a write-out that is under way covers a byte of a run: its command is past its commit point (R107). -/
def underWriteOut (s : State) (l : Loc) (len : Nat) : Bool :=
  s.flights.list.any fun f => (match f.phase with | .committed | .peer _ => true | _ => false) && f.staged.any fun w => locsMeet l len w.loc w.data.length

/-- Reads bytes of a place of this device or of a host (R168, R110, R222). A read of a byte that a write-out under way covers waits until the
write-out ends (R107). -/
def readLoc (s : State) (a : Actor) (enc : Bool) (va : Nat) (l : Loc) (len : Nat) : Except Stop (List Byte) :=
  if underWriteOut s l len then .error .hold
  else
  match l with
  | .mem pa =>
    if clusterBase ≤ pa then
      if s.memories.wordPoison.any fun w => decide (pa < w + 8 && w < pa + len) then .error (.done sPoison 0)
      else .ok (memRead s.memories.mem pa len)
    else if anyPoison s pa len then .error (.done sPoison 0)
    else if enc then .ok (readEnc s a.slot a.asid va pa len)
    else .ok (memRead s.memories.mem pa len)
  | .area n off => .ok (memRead s.memories.areas (areaAt n + off) len)
  | .host p addr =>
    if enc then readWindow s a.place a.slot va p addr len
    else if hostRefuses s p addr len then .error (.done sFault (faultCode codeHostRefused))
    else .ok (hostRead s p addr len)
  | .peer _ _ => denied

/-- Reads one piece, wherever it lies; `weights` says whether the weight window may be read here (R97). -/
def readPiece (s : State) (a : Actor) (pt : Pattern) (weights : Bool) (p : Nat × Nat) : Run (List Byte) := do
  match (← spotOf s a false p.1 p.2) with
  | .weight m off => if weights then readWeight s a pt m off p.2 else liftE denied
  | .loc l enc => do
    let bs ← liftE (readLoc s a enc p.1 l p.2)
    match l with
    | .host _ addr => noteLine (lineOf s l) pt (if enc then sealedBytes addr p.2 else p.2) false
    | _ => noteLine (lineOf s l) pt p.2 false
    pure bs

/-- Reads a run of virtual addresses of a command. -/
def readVa (s : State) (a : Actor) (pt : Pattern) (weights : Bool) (va len : Nat) : Run (List Byte) := do
  let parts ← (piecesOf va len).mapM (readPiece s a pt weights)
  pure parts.flatten

/-! ## Destinations -/

/-- A queue pair bound to a port that is not live, whose send ring or tail word a range of its address space overlaps (R487). -/
def deadQueue (s : State) (asid va len : Nat) : Option Nat :=
  (s.net.qps.find? fun q =>
    q.2.asid == asid && !portLive s (4 + q.2.port)
      && (inRange va len (q.2.sendVa, 64 * 2 ^ q.2.log2Send) || inRange va len (q.2.tailVa, 8))).map fun q => q.2.port

/-- The ranges of this device's memory that a run of virtual addresses of the network engine maps now. -/
def netRanges (s : State) (asid va len : Nat) : List Range :=
  (piecesOf va len).filterMap fun p =>
    match translate s .hub asid false false p.1 with
    | .ok (e, l) =>
      let addr := bitsOf e 55 16 * 65536 + p.1 % leafBytes l
      if bitsOf e 7 6 = 0 ∧ addr / 2 ^ 53 = position s then some (addr % 2 ^ 53, p.2) else none
    | .error _ => none

/-- The same for a range of this device's memory, whatever mapping a command reaches it by (R487). -/
def deadQueueAt (s : State) (pa len : Nat) : Option Nat :=
  (s.net.qps.find? fun q =>
    !portLive s (4 + q.2.port)
      && (netRanges s q.2.asid q.2.sendVa (64 * 2 ^ q.2.log2Send) ++ netRanges s q.2.asid q.2.tailVa 8).any (inRange pa len)).map
    fun q => q.2.port

/-- Whether a place is an operand area or a TENANT segment, which a key slot's data may enter (R423, R427). -/
def inStore (s : State) : Loc → Bool
  | .area _ _ => true
  | .mem pa =>
    decide (clusterBase ≤ pa)
      && (segOf s ((pa - clusterBase) / clusterStride) ((pa - clusterBase) % clusterStride / 65536)).kind == 2
  | _ => false

/-- Whether a destination keeps the rule of R423 for a key slot. -/
def destRules (s : State) (a : Actor) (spot : Spot) : Except Stop Unit :=
  match spot with
  | .weight _ _ => denied
  | .loc l enc => if a.slot ≠ 0xFFF && !enc && !inStore s l && !a.plainOk then sealed sealPlainDest a.slot else .ok ()

/-- Checks one destination piece and gives its place with the sealing of its bytes. -/
def destPiece (s : State) (a : Actor) (peers : Bool) (p : Nat × Nat) : Run (Loc × Bool) := do
  match deadQueue s a.asid p.1 p.2 with
  | some port => liftE (absent 6 (4 + port))
  | none =>
    let spot ← spotOf s a true p.1 p.2
    liftE (destRules s a spot)
    match spot with
    | .weight _ _ => liftE denied
    | .loc (.peer q pa) enc =>
      if !peers then liftE denied
      else if (portTo s q).isNone then liftE (absent 6 (16 + meshPort s q))
      else pure (.peer q pa, enc)
    | .loc (.host port addr) true => do
      -- every unit that the write-out will merge into must verify (R424)
      let _ ← liftE (readWindow s a.place a.slot p.1 port addr p.2)
      let _ ← liftE (tagPlace s a.place a.slot (p.1 / 4096 * 4096) true)
      pure (.host port addr, true)
    | .loc (.mem pa) enc =>
      match deadQueueAt s pa p.2 with
      | some port => liftE (absent 6 (4 + port))
      | none => pure (.mem pa, enc)
    | .loc l enc => pure (l, enc)

/-- Stages a run of bytes for a destination after checking it (R109). -/
def stageVa (s : State) (a : Actor) (pt : Pattern) (peers : Bool) (va : Nat) (bs : List Byte) : Run (List SWrite) := do
  let parts ← (piecesOf va bs.length).mapM fun p => do
    let (l, enc) ← destPiece s a peers p
    match l with
    | .host _ addr => noteLine (lineOf s l) pt (if enc then sealedBytes addr p.2 else p.2) true
    | _ => noteLine (lineOf s l) pt p.2 true
    pure (⟨l, slice bs (p.1 - va) p.2, if enc then some (a.asid, p.1, a.slot) else none⟩ : SWrite)
  pure parts

/-- Checks a destination whose bytes are not known yet, and notes its bytes on their lines. A far destination counts as an operand of R179
whatever the pattern. -/
def placeDest (s : State) (a : Actor) (pt : Pattern) (peers : Bool) (va len : Nat) : Run Unit := do
  let _ ← (piecesOf va len).mapM fun p => do
    let (l, enc) ← destPiece s a peers p
    match lineOf s l with
    | some (.host q) => noteLine (some (.host q)) pt (if enc then (match l with | .host _ addr => sealedBytes addr p.2 | _ => p.2) else p.2) true
    | some (.far k) => noteLine (some (.far k)) pt p.2 true
    | line => if pt.mult = 0 then pure () else noteLine line pt p.2 true
  pure ()

/-- Checks a destination whose bytes are not known yet. -/
def checkDest (s : State) (a : Actor) (peers : Bool) (va len : Nat) : Run Unit := placeDest s a ⟨1024, 0, 0⟩ peers va len

end Sys2Proof.Machine
end

