-- ==== Sys2Proof/Machine/Cost.lean ====
section
/-!
DEFINITION. Sys2Proof/Machine/Cost.lean: the cost model's estimate for a command running alone (R49, R50): its step count S
against the time of its bytes on the fixed-rate lines, at the shares of Tables 7-4 and 7-8.
-/

namespace Sys2Proof.Machine

/-- A step time in hundredths of a nanosecond: nominal, by level (Table 2-2). -/
def nominalStep (level : Nat) : Nat :=
  match level with
  | 7 => 66 | 6 => 72 | 5 => 80 | 4 => 92 | 3 => 108 | 2 => 132 | _ => 80

/-- A non-negative fraction. -/
abbrev Frac := Nat × Nat

def fracAdd (a b : Frac) : Frac := (a.1 * b.2 + b.1 * a.2, a.2 * b.2)

/-- The share of a stack in percent for the shortest run of a command on it (Table 7-4). -/
def stackShare (us : List Use) : Nat :=
  if us.any Use.bank then 21
  else
    let run := us.foldl (fun m u => min m u.run) 1024
    if 1024 ≤ run then 93 else if 512 ≤ run then 86 else if 256 ≤ run then 76 else if 128 ≤ run then 66 else 58

/-- The time in ns of a command's bytes on one line (R48, R50, R169, R170, R174, R178, R186, R465). -/
def lineTime (s : State) (us : List Use) (l : Line) : Frac :=
  let mine := us.filter fun u => u.line == l
  let bytes := mine.foldl (fun a u => a + u.bytes) 0
  match l with
  | .stack _ =>
    let share := stackShare mine
    if mine.any (fun u => u.write) && mine.any (fun u => !u.write) then (bytes * 100 * 93, 2560 * share * 78)
    else (bytes * 100, 2560 * share)
  | .vault _ =>
    let charge (g : Nat) : Nat := max 262144 ((mine.filter fun u => u.run == g).foldl (fun a u => a + u.bytes) 0)
    (((mine.map Use.run).eraseDups.map charge).foldl (· + ·) 0, 1200)
  | .vaultWrite _ => (bytes * 2, 1)
  | .host _ => (bytes, 128)
  | .far k =>
    let e := expanderOf s k
    let rate := if e.speed = 5 then 64 else 128
    let part (w : Bool) : Frac :=
      let vs := mine.filter fun u => u.write == w
      let b := vs.foldl (fun a u => a + u.bytes) 0
      let share := if w then 90 else if vs.all (fun u => decide (1024 ≤ u.run)) then 88 else 62
      let cap := if w then e.writeMbs else e.readMbs
      (b * 1000, max 1 (min (rate * share * 10) cap))
    fracAdd (part false) (part true)
  | .binik p =>
    let lanes := (tabFind s.domain.links p).elim 4 (fun k => k.lanes)
    (bytes * 10, 252 * max 1 lanes)
  | .narrow _ => (bytes, 3)

/-- estimate_steps of R50 for a step count, the bytes on lines, and a step time in hundredths of a nanosecond. -/
def estimate (s : State) (steps t : Nat) (us : List Use) : Nat :=
  let total := ((us.map Use.line).eraseDups.map (lineTime s us)).foldl fracAdd (0, 1)
  max steps (ceilDiv (total.1 * 100) (total.2 * t))

/-- The level at which the steps of a region are charged (R47): while it changes between two working levels, the lower; while it drains
towards level 1 or 0, the level that it leaves. -/
def chargedLevel (s : State) (r : Nat) : Nat :=
  match oldLevelOf s r with
  | none => regionLevel s r
  | some old => if regionLevel s r < 2 then old else min old (regionLevel s r)

/-- The nominal step time of the unit that runs a command (R45, R47, R303). -/
def stepTimeOf (s : State) : Place → Nat
  | .engine n => nominalStep (chargedLevel s (n / 8))
  | .mover c _ => nominalStep (chargedLevel s (c / 2))
  | _ => 80

end Sys2Proof.Machine
end

