-- ==== Sys2Proof/Machine/Domain.lean ====
section
/-!
DEFINITION. Sys2Proof/Machine/Domain.lean: the device in its domain: frames (R467, R469), the domain record and its checks (R473 to R476), and
the epoch barrier (R477 to R479).
-/

namespace Sys2Proof.Machine

/-! ## Ports -/

def freeLink : Link := { state := 0, protocol := 0, lanes := 0, failed := 0, peer := [], sendSeq := 0, recvSeq := 0 }
def linkOf (s : State) (p : Nat) : Link := tabGet s.domain.links p freeLink
def putLink (s : State) (p : Nat) (l : Link) : State :=
  { s with domain := { s.domain with links := tabSet s.domain.links p l freeLink } }

/-- The ports that carry management messages: live and probation. -/
def openPorts (s : State) : List Nat := (List.range 16).filter fun p => (linkOf s p).state != 0

/-- The frames of a message: its 32-byte header and its payload, 192 bytes to a frame (R466, R469). -/
def framesOf (len : Nat) : Nat := ceilDiv (32 + len) 192

/-- Sends a message on a port: its frames take the next sequence numbers, modulo 4,096 (Table 18-3). -/
def sendFrames (s : State) (port len : Nat) (msg : Nat → Out) : State :=
  let l := linkOf s port
  send (putLink s port { l with sendSeq := (l.sendSeq + framesOf len) % 4096 }) (msg l.sendSeq)

/-- A message has arrived whole on a port. -/
def takeFrames (s : State) (port len : Nat) : State :=
  let l := linkOf s port
  putLink s port { l with recvSeq := (l.recvSeq + framesOf len) % 4096 }

/-- EV_LINK (Table 20-4). -/
def linkEvent (s : State) (port reason detail : Nat) : State :=
  raiseEvent s evLink (natLe 1 port ++ natLe 1 reason ++ natLe 2 0 ++ natLe 4 detail)

def linkLive : Nat := 1
def linkProbation : Nat := 2
def linkDown : Nat := 3
def linkVersion : Nat := 4
def linkEpoch : Nat := 5
def linkStall : Nat := 6
def linkRoute : Nat := 7

/-! ## The installation record (Table 18-6) -/

def domainId (s : State) : Nat := fld (installOf s) 0 8
def domainModels (s : State) : Nat := fld (installOf s) 21 2
/-- COMPAT. -/
def compat (s : State) : Bool := bitOf (fld (installOf s) 20 1) 0
/-- Whether a device ID is a member of the domain. -/
def isMember (s : State) (id : Nat) : Bool := bitOf (fld (installOf s) (88 + id / 8) 1) (id % 8) && decide (id < 16384)
/-- The members of the domain. -/
def members (s : State) : List Nat :=
  (((installOf s).drop 88).zipIdx).flatMap fun b => (oneBits 8 b.1.toNat).map fun i => 8 * b.2 + i

/-! ## The domain record (R473, R474) -/

def configHash (s : State) : List Byte :=
  let r := installOf s
  sha384 (slice r 0 8 ++ slice r 10 6 ++ slice r 20 3)

/-- The slot whose copy of a model serves deals of the device's epoch. -/
def epochSlot (s : State) (m : Nat) : Option Nat :=
  let x := modelOf s m
  match x.armed, x.next with
  | some e, some c => if e ≠ 0 && e ≤ s.domain.barrier.epoch then some c.slot else x.live.map (·.slot)
  | _, _ => x.live.map (·.slot)

/-- The entry of a model under MODEL_HASH: the MANIFEST_HASH of its slot if the domain must agree on it. -/
def modelMeasure (s : State) (m : Nat) : List Byte :=
  if bitOf (domainModels s) m then
    match epochSlot s m with
    | some k => padTo 48 (vaultSlot s k).hash
    | none => fillBytes 48 0#8
  else fillBytes 48 0#8

def modelHash (s : State) : List Byte := sha384 ((List.range 16).flatMap (modelMeasure s))

/-- The 160-byte record that a port sends (Table 18-7). -/
def domainRecord (s : State) (port : Nat) : List Byte :=
  natLe 4 0x4B4E4942 ++ natLe 1 (linkOf s port).protocol ++ natLe 1 (b2n s.domain.barrier.known) ++ natLe 2 (deviceId s)
    ++ natLe 8 (domainId s) ++ natLe 4 s.vault.pegs.securityVersion ++ natLe 1 port ++ natLe 3 0 ++ natLe 8 s.domain.barrier.epoch
    ++ configHash s ++ modelHash s ++ natLe 8 Config.serial ++ natLe 24 0

/-- Whether two epochs differ by at most 1. -/
def epochsNear (a b : Nat) : Bool := decide (a ≤ b + 1 && b ≤ a + 1)

/-- Whether the far end's device ID and port are those that a port expects (Table 18-8, bit 5). -/
def wiringOk (s : State) (port id peerPort : Nat) : Bool :=
  if port < 7 then id == expectOf s port && peerPort == 6 - port
  else
    let e := expectOf s port
    (e == 0xFFFE && compat s) || (decide (e < 0xFFFE) && id == e && peerPort == fld (installOf s) (26 + 4 * port) 1)

/-- The bitmap of the checks of Table 18-8 that a peer's record fails on a port. -/
def failedChecks (s : State) (port : Nat) (r : List Byte) : Nat :=
  let near := fld r 24 8
  let ok (i : Nat) (b : Bool) : Nat := if b then 0 else 2 ^ i
  ok 0 (fld r 8 8 == domainId s) + ok 1 (slice r 32 48 == configHash s) + ok 2 (fld r 16 4 == s.vault.pegs.securityVersion)
    + ok 3 (s.domain.barrier.known && bitOf (fld r 5 1) 0 && epochsNear near s.domain.barrier.epoch)
    + ok 4 (near != s.domain.barrier.epoch || slice r 80 48 == modelHash s)
    + ok 5 (wiringOk s port (fld r 6 2) (fld r 20 1)) + ok 6 (isMember s (fld r 6 2))

/-- Compares the records of a port again: it is live if they agree, and in probation if not (R475). -/
def compareLink (s : State) (port : Nat) : State :=
  let l := linkOf s port
  if l.state = 0 then s
  else
    let bad := failedChecks s port l.peer
    if bad ≠ 0 then linkEvent (setTpLive (putLink s port { l with state := 1, failed := bad }) port false) port linkProbation bad
    else if l.state = 2 then s
    else linkEvent (setTpLive (putLink s port { l with state := 2, failed := 0 }) port true) port linkLive l.lanes

/-- Sends a management message of this device on a port. -/
def sendManagement (s : State) (port kind src epoch : Nat) (payload : List Byte) : State :=
  sendFrames s port payload.length fun seq => .management port kind src epoch seq payload

def kindRecord : Nat := 16
def kindProposal : Nat := 17
def kindArrival : Nat := 18

/-- A field of the record has changed: it is sent on every live and probation port, and every port compares again (R474). -/
def announce (s : State) : State :=
  let s1 := (openPorts s).foldl (fun s p => sendManagement s p kindRecord (deviceId s) s.domain.barrier.epoch (domainRecord s p)) s
  (openPorts s1).foldl compareLink s1

/-! ## The barrier (Table 18-10) -/

def putBarrier (s : State) (b : Barrier) : State := { s with domain := { s.domain with barrier := b } }

/-- Sends a proposal or an arrival on every live and probation port but one. -/
def flood (s : State) (kind src epoch : Nat) (from_ : Option Nat) : State :=
  ((openPorts s).filter fun p => some p != from_).foldl (fun s p => sendManagement s p kind src epoch []) s

/-- Remembers a proposal or an arrival, so that it is not forwarded again. -/
def noteSeen (s : State) (key : Nat × Nat × Nat) : State := { s with domain := { s.domain with seen := s.domain.seen ++ [key] } }

/-- Step 5: with an arrival of every member the device enters the next epoch. Arrivals are never withdrawn: those that have come for the barrier
after it are held. -/
def tryEnter (s : State) : State :=
  let b := s.domain.barrier
  if b.sent && (members s).all b.arrived.contains then
    let e := wrapAdd 64 b.epoch 1
    let early := (s.domain.seen.filter fun k => k.1 == kindArrival && k.2.1 == e).map fun k => k.2.2
    let s1 := putBarrier s { b with epoch := e, proposed := false, arrived := early, sent := false, withheld := [] }
    linkEvent (announce s1) (Config.linkEventPort linkEpoch) linkEpoch (low 32 e)
  else s

/-- Whether every domain cut that is due lets the device arrive (step 4, R212). -/
def cutsReady (s : State) : Bool :=
  let next := s.domain.barrier.epoch + 1
  (s.domain.barrier.withheld.all fun w => decide (next < w.2)) &&
    (s.models.all fun e =>
      match e.2.armed, e.2.next with
      | some x, some c => x == 0 || decide (next < x) || (vaultSlot s c.slot).state == .ready
      | _, _ => true)

/-- Step 4: the device arrives once it holds the proposal and its cuts are ready. -/
def tryArrive (s : State) : State :=
  let b := s.domain.barrier
  if b.proposed && !b.sent && cutsReady s then
    let s1 := noteSeen (putBarrier s { b with sent := true, arrived := b.arrived ++ [deviceId s] }) (kindArrival, b.epoch, deviceId s)
    tryEnter (flood s1 kindArrival (deviceId s) b.epoch none)
  else s

end Sys2Proof.Machine
end

