-- ==== Sys2Proof/Machine/Flags.lean ====
section
/-!
DEFINITION. Sys2Proof/Machine/Flags.lean: the FLAGS word of Table 5-2 and the roundings that raise its bits (R66, R78, R81, R86).

A floating value is a NaN, an infinity or a signed dyadic number, so that a result can be formed exactly and rounded once.
-/

namespace Sys2Proof.Machine

/-- INVALID, bit 0 of FLAGS. -/
def flInvalid : FlagWord := 1#32
/-- DIVIDE_BY_ZERO, bit 1 of FLAGS. -/
def flDivZero : FlagWord := 2#32
/-- OVERFLOW, bit 2 of FLAGS. -/
def flOverflow : FlagWord := 4#32
/-- UNDERFLOW, bit 3 of FLAGS. -/
def flUnderflow : FlagWord := 8#32
/-- INEXACT, bit 4 of FLAGS. -/
def flInexact : FlagWord := 16#32
/-- SATURATE, bit 5 of FLAGS. -/
def flSaturate : FlagWord := 32#32

/-- A flag raised under a condition. -/
def flIf (b : Bool) (f : FlagWord) : FlagWord := if b then f else 0#32

/-- The OR of the flags that a list of element operations raised (R120). -/
def flAll (fs : List FlagWord) : FlagWord := fs.foldl (· ||| ·) 0#32

/-- A number as every format decodes to it: a NaN (signalling or quiet), an infinity, or (-1)^neg * m * 2^e.
A zero keeps its sign. -/
inductive Num where
  | nan (signalling : Bool)
  | inf (neg : Bool)
  | fin (neg : Bool) (m : Nat) (e : Int)
deriving DecidableEq, Repr

/-- The positive zero. -/
def Num.zero : Num := .fin false 0 0

def Num.isNan : Num → Bool
  | .nan _ => true
  | _ => false

/-- A signalling NaN raises INVALID wherever it is an input (R66). -/
def Num.isSnan : Num → Bool
  | .nan s => s
  | _ => false

def Num.isInf : Num → Bool
  | .inf _ => true
  | _ => false

def Num.isZero : Num → Bool
  | .fin _ m _ => m == 0
  | _ => false

/-- The sign bit of a number; a NaN has none. -/
def Num.neg? : Num → Bool
  | .nan _ => false
  | .inf n => n
  | .fin n _ _ => n

def Num.negate : Num → Num
  | .nan s => .nan s
  | .inf n => .inf (!n)
  | .fin n m e => .fin (!n) m e

def Num.abs : Num → Num
  | .nan s => .nan s
  | .inf _ => .inf false
  | .fin _ m e => .fin false m e

/-- An integer as a number; zero is +0. -/
def Num.ofInt (i : Int) : Num := .fin (i < 0) i.natAbs 0

/-- INVALID if an input is a signalling NaN (R66). -/
def snanFlag (ns : List Num) : FlagWord := flIf (ns.any Num.isSnan) flInvalid

/-- The signed mantissa of a finite number at exponent `x`, where `x` is at most its own exponent. -/
def mantAt (n : Num) (x : Int) : Int :=
  match n with
  | .fin neg m e =>
    let k := (m <<< (e - x).toNat : Nat)
    if neg then -(k : Int) else k
  | _ => 0

/-- The exponent of a finite number, for aligning. -/
def Num.exp : Num → Int
  | .fin _ _ e => e
  | _ => 0

/-- The product of two numbers, formed exactly; 0 times an infinity gives NaN and INVALID (R78). -/
def mulNum (a b : Num) : Num × FlagWord :=
  let fl := snanFlag [a, b]
  match a, b with
  | .nan _, _ => (.nan false, fl)
  | _, .nan _ => (.nan false, fl)
  | .inf n, .inf n' => (.inf (n != n'), fl)
  | .inf n, .fin n' m _ => if m = 0 then (.nan false, fl ||| flInvalid) else (.inf (n != n'), fl)
  | .fin n m _, .inf n' => if m = 0 then (.nan false, fl ||| flInvalid) else (.inf (n != n'), fl)
  | .fin n m e, .fin n' m' e' => (.fin (n != n') (m * m') (e + e'), fl)

/-- The exact sum of a list of numbers (R78): NaN wins, infinities of both signs give NaN and INVALID, and an exact
zero is +0 unless every addend is -0. -/
def sumNum (ns : List Num) : Num × FlagWord :=
  let fl := snanFlag ns
  if ns.any Num.isNan then (.nan false, fl)
  else if ns.any Num.isInf then
    if ns.contains (.inf true) && ns.contains (.inf false) then (.nan false, fl ||| flInvalid)
    else (.inf (ns.contains (.inf true)), fl)
  else
    let x := ns.foldl (fun a n => min a n.exp) 0
    let t := ns.foldl (fun (a : Int) n => a + mantAt n x) 0
    if t = 0 then (.fin (!ns.isEmpty && ns.all (fun n => n.isZero && n.neg?)) 0 0, fl)
    else (.fin (t < 0) t.natAbs x, fl)

/-- a - b as an exact sum. -/
def subNum (a b : Num) : Num × FlagWord := sumNum [a, b.negate]

/-- Compares the magnitudes (m, e) of two finite numbers. -/
def cmpMag (m : Nat) (e : Int) (m' : Nat) (e' : Int) : Ordering :=
  let x := min e e'
  compare (m <<< (e - x).toNat) (m' <<< (e' - x).toNat)

/-- a < b for numbers that are no NaN; -0 and +0 are equal here. -/
def Num.lt (a b : Num) : Bool :=
  match a, b with
  | .nan _, _ => false
  | _, .nan _ => false
  | .inf n, .inf n' => n && !n'
  | .inf n, .fin _ _ _ => n
  | .fin _ _ _, .inf n' => !n'
  | .fin _ _ e, .fin _ _ e' =>
    let x := min e e'
    mantAt a x < mantAt b x

/-- a = b for numbers that are no NaN; -0 equals +0. -/
def Num.eqv (a b : Num) : Bool := !a.isNan && !b.isNan && !a.lt b && !b.lt a

/-- The order of vx.min and vx.max, in which -0 lies below +0 (R127). -/
def Num.ltTotal (a b : Num) : Bool := a.lt b || (a.eqv b && a.neg? && !b.neg?)

/-- floor(log2 (n / d)) for n, d above 0. -/
def ratLog2 (n d : Nat) : Int :=
  let a : Int := (Nat.log2 n : Int) - (Nat.log2 d : Int)
  if d <<< a.toNat ≤ n <<< (-a).toNat then a else a - 1

/-- (n / d) * 2^k rounded to a whole number, ties to even (R81), and whether that lost anything. -/
def roundRat (n d : Nat) (k : Int) : Nat × Bool :=
  let num := n <<< k.toNat
  let den := d <<< (-k).toNat
  let q := num / den
  let r := num % den
  (if den < 2 * r || (2 * r == den && q % 2 == 1) then q + 1 else q, r != 0)

/-- A floating format of Table 3-2: its field widths, its bias, and the encodings of Table 3-3 without the sign. -/
structure FSpec where
  ebits  : Nat
  mbits  : Nat
  bias   : Nat
  maxEnc : Nat
  infEnc : Option Nat
  nanEnc : Option Nat
deriving DecidableEq, Repr

def FSpec.width (s : FSpec) : Nat := 1 + s.ebits + s.mbits

/-- What a finite result above the largest finite value becomes (Table 3-7). -/
inductive OverKind where
  | toInf
  | saturate
deriving DecidableEq, Repr

/-- The sign bit over a magnitude encoding. -/
def FSpec.signed (s : FSpec) (neg : Bool) (mag : Nat) : Nat := mag + b2n neg * 2 ^ (s.ebits + s.mbits)

/-- The quantum exponent of the subnormal range of a format. -/
def FSpec.qmin (s : FSpec) : Int := 1 - (s.bias : Int) - s.mbits

/-- Whether the magnitude (n / d) * 2^e is tiny: rounded to the format's precision with unbounded exponent range, it lies below the
smallest normal value (R78). -/
def tinyMag (s : FSpec) (n d : Nat) (e : Int) : Bool :=
  let top := ratLog2 n d + e
  let mU := (roundRat n d (e - (top - s.mbits))).1
  let minNormal : Int := 1 - (s.bias : Int)
  (top < minNormal) && !(mU == 2 ^ (s.mbits + 1) && top + 1 == minNormal)

/-- The magnitude (n / d) * 2^e rounded to nearest even into a format (R78, R81): the encoding, and the flags.
Rounding is done with unbounded exponent range first: tininess is judged after it, and only the rounded result is
compared with the largest finite value. -/
def roundMag (s : FSpec) (ov : OverKind) (neg : Bool) (n d : Nat) (e : Int) : Nat × FlagWord :=
  if n = 0 then (s.signed neg 0, 0#32)
  else
    let top := ratLog2 n d + e
    let qU := top - s.mbits
    let tiny := tinyMag s n d e
    let q := max qU s.qmin
    let (m, inexact) := roundRat n d (e - q)
    let enc := (q - s.qmin).toNat * 2 ^ s.mbits + m
    if s.maxEnc < enc then
      match ov, s.infEnc with
      | .toInf, some i => (s.signed neg i, flOverflow ||| flInexact)
      | _, _ => (s.signed neg s.maxEnc, flSaturate ||| flInexact)
    else (s.signed neg enc, flIf inexact flInexact ||| flIf (tiny && inexact) flUnderflow)

/-- A number rounded once into a format that has infinities and NaNs: the arithmetic of R78 and R127. -/
def roundNum (s : FSpec) (x : Num) : Nat × FlagWord :=
  match x with
  | .nan sg => (s.nanEnc.getD 0, flIf sg flInvalid)
  | .inf neg => (s.signed neg (s.infEnc.getD s.maxEnc), 0#32)
  | .fin neg m e => roundMag s .toInf neg m 1 e

/-- (n / d) * 2^k rounded to the nearest integer, ties to even, and clamped to a range (Table 3-7, R79, R127). -/
def roundInt (lo hi : Int) (neg : Bool) (n d : Nat) (k : Int) : Int × FlagWord :=
  let (m, inexact) := roundRat n d k
  let v : Int := if neg then -(m : Int) else m
  if v < lo then (lo, flSaturate)
  else if hi < v then (hi, flSaturate)
  else (v, flIf inexact flInexact)

/-- The 16-bit draw of stochastic rounding for linear index `i` (R86). -/
def stochasticDraw (seed i : Nat) : Nat :=
  let w := 2 ^ 64
  let z := (seed + (i + 1) * 0x9E3779B97F4A7C15) % w
  let z := ((z ^^^ (z >>> 30)) * 0xBF58476D1CE4E5B9) % w
  let z := ((z ^^^ (z >>> 27)) * 0x94D049BB133111EB) % w
  let z := z ^^^ (z >>> 31)
  z >>> 48

/-- Stochastic rounding of a number into binary16 or bfloat16 (R86).
DESIGN CHOICE (log entry 62): a value beyond the largest finite one that lies on the format's grid (f = 0) becomes an infinity
with OVERFLOW and without INEXACT: R86 raises INEXACT only where f is above 0. -/
def roundStochastic (s : FSpec) (seed i : Nat) (x : Num) : Nat × FlagWord :=
  match x with
  | .nan sg => (s.nanEnc.getD 0, flIf sg flInvalid)
  | .inf neg => (s.signed neg (s.infEnc.getD s.maxEnc), 0#32)
  | .fin neg m e =>
    if m = 0 then (s.signed neg 0, 0#32)
    else
      let top := ratLog2 m 1 + e
      let q := max (top - s.mbits) s.qmin
      let num := m <<< (e - q).toNat
      let den := 1 <<< (q - e).toNat
      let k := num / den
      let r := num % den
      let inexact := r != 0
      let up := inexact && decide (65536 ≤ r * 65536 / den + stochasticDraw seed i)
      let enc := (q - s.qmin).toNat * 2 ^ s.mbits + (if up then k + 1 else k)
      if s.maxEnc < enc then
        (s.signed neg (s.infEnc.getD s.maxEnc), flOverflow ||| flIf inexact flInexact)
      else
        (s.signed neg enc, flIf inexact flInexact ||| flIf (inexact && enc < 2 ^ s.mbits) flUnderflow)

end Sys2Proof.Machine
end

