-- ==== Sys2Proof/Machine/Formats.lean ====
section
/-!
DEFINITION. Sys2Proof/Machine/Formats.lean: the sixteen number formats (R63 to R75), packing below one byte (R68),
scales (R69, R70, R73), the LOG4 tile record (R74) and every conversion of R81 to R86.
-/

namespace Sys2Proof.Machine

/-- The formats of Table 3-1, in code order. -/
inductive Fmt where
  | f32 | f16 | bf16 | f64 | e4m3 | e5m2 | mxE4m3 | mxE5m2
  | e3m2 | e2m3 | e2m1 | mxInt8 | int8 | uint8 | int4 | log4
deriving DecidableEq, Repr

/-- The 4-bit code of a format (Table 3-1). -/
def fmtCode : Fmt → Nat
  | .f32 => 0 | .f16 => 1 | .bf16 => 2 | .f64 => 3 | .e4m3 => 4 | .e5m2 => 5 | .mxE4m3 => 6 | .mxE5m2 => 7
  | .e3m2 => 8 | .e2m3 => 9 | .e2m1 => 10 | .mxInt8 => 11 | .int8 => 12 | .uint8 => 13 | .int4 => 14 | .log4 => 15

/-- The format of a code; codes above 15 name none (R63). -/
def fmtOfCode : Nat → Option Fmt
  | 0 => some .f32 | 1 => some .f16 | 2 => some .bf16 | 3 => some .f64
  | 4 => some .e4m3 | 5 => some .e5m2 | 6 => some .mxE4m3 | 7 => some .mxE5m2
  | 8 => some .e3m2 | 9 => some .e2m3 | 10 => some .e2m1 | 11 => some .mxInt8
  | 12 => some .int8 | 13 => some .uint8 | 14 => some .int4 | 15 => some .log4
  | _ => none

/-- Bits per element (Table 3-1). -/
def fmtBits : Fmt → Nat
  | .f32 => 32 | .f16 => 16 | .bf16 => 16 | .f64 => 64 | .e3m2 => 6 | .e2m3 => 6 | .e2m1 => 4 | .int4 => 4 | .log4 => 4
  | _ => 8

/-- The formats with one E8M0 scale per block of 32: codes 0x6 to 0xB. -/
def fmtIsMx : Fmt → Bool
  | .mxE4m3 | .mxE5m2 | .e3m2 | .e2m3 | .e2m1 | .mxInt8 => true
  | _ => false

/-- The formats with one binary32 scale per tensor: codes 0x4 and 0x5 (R69). -/
def fmtIsFp8 : Fmt → Bool
  | .e4m3 | .e5m2 => true
  | _ => false

/-- The unscaled integer formats of R67. -/
def fmtIsInt : Fmt → Bool
  | .int8 | .uint8 | .int4 => true
  | _ => false

def specF32 : FSpec := ⟨8, 23, 127, 0x7F7FFFFF, some 0x7F800000, some 0x7FC00000⟩
def specF16 : FSpec := ⟨5, 10, 15, 0x7BFF, some 0x7C00, some 0x7E00⟩
def specBf16 : FSpec := ⟨8, 7, 127, 0x7F7F, some 0x7F80, some 0x7FC0⟩
def specF64 : FSpec := ⟨11, 52, 1023, 0x7FEFFFFFFFFFFFFF, some 0x7FF0000000000000, some 0x7FF8000000000000⟩
def specE4m3 : FSpec := ⟨4, 3, 7, 0x7E, none, some 0x7F⟩
def specE5m2 : FSpec := ⟨5, 2, 15, 0x7B, some 0x7C, some 0x7E⟩
def specE3m2 : FSpec := ⟨3, 2, 3, 0x1F, none, none⟩
def specE2m3 : FSpec := ⟨2, 3, 1, 0x1F, none, none⟩
def specE2m1 : FSpec := ⟨2, 1, 1, 0x7, none, none⟩

/-- The floating element format of a code (Tables 3-2 and 3-3); the integer formats and LOG4 have none. -/
def fmtSpec : Fmt → Option FSpec
  | .f32 => some specF32 | .f16 => some specF16 | .bf16 => some specBf16 | .f64 => some specF64
  | .e4m3 | .mxE4m3 => some specE4m3 | .e5m2 | .mxE5m2 => some specE5m2
  | .e3m2 => some specE3m2 | .e2m3 => some specE2m3 | .e2m1 => some specE2m1
  | _ => none

/-- The range of an integer element (R67). -/
def intRange : Fmt → Int × Int
  | .uint8 => (0, 255)
  | .int4 => (-8, 7)
  | _ => (-128, 127)

/-- Decodes a floating element (R65). A NaN with infinities in its format is signalling when its top mantissa bit is 0;
E4M3 has one NaN, and it is quiet. -/
def decodeFloat (s : FSpec) (w : Nat) : Num :=
  let neg := w.testBit (s.ebits + s.mbits)
  let mag := w % 2 ^ (s.ebits + s.mbits)
  let field := mag >>> s.mbits
  let mant := mag % 2 ^ s.mbits
  let number : Num :=
    if field = 0 then .fin neg mant s.qmin
    else .fin neg (mant + 2 ^ s.mbits) (s.qmin + (field : Int) - 1)
  match s.infEnc with
  | some i =>
    if mag = i then .inf neg
    else if i < mag then .nan (!(mant.testBit (s.mbits - 1)))
    else number
  | none => if s.nanEnc = some mag then .nan false else number

/-- A LOG4 element before its scales: K = 7 is +0 whatever S is (R72). -/
def decodeLog4 (w : Nat) : Num :=
  if w % 8 = 7 then Num.zero else .fin (w.testBit 3) 1 (-((w % 8 : Nat) : Int))

/-- The value of an element's encoding before any scale (R65, R67, R72). -/
def decodeElem (f : Fmt) (w : Nat) : Num :=
  match f with
  | .int8 => Num.ofInt (signedOf 8 w)
  | .uint8 => Num.ofInt w
  | .int4 => Num.ofInt (signedOf 4 w)
  | .mxInt8 => let v := signedOf 8 w; .fin (v < 0) v.natAbs (-6)
  | .log4 => decodeLog4 w
  | g =>
    match fmtSpec g with
    | some s => decodeFloat s w
    | none => Num.zero

/-- The scale that applies to an element (R69, R70, R73). -/
inductive Scale where
  | one
  | tensor (bits : Nat)
  | block (e : Nat)
  | log4 (e : Nat) (tile : Nat)
deriving DecidableEq, Repr

/-- An E8M0 scale byte: 2^(e-127), or NaN for 0xFF (R70). -/
def e8m0 (e : Nat) : Num := if e = 255 then .nan false else .fin false 1 ((e : Int) - 127)

/-- The value of an element with every scale that applies to it, and the flags that forming it raises (R69 to R73).
DESIGN CHOICE (log entry 62): a LOG4 zero is the +0 of R72 before its scales, so a negative tile scale makes it -0, as the value
of an element is its encoding multiplied by every scale; and a block whose scale is 0xFF reads as a quiet NaN that raises
nothing, whatever its elements and its tile scale are (R70). -/
def scaledValue (f : Fmt) (sc : Scale) (w : Nat) : Num × FlagWord :=
  let v := decodeElem f w
  match sc with
  | .one => (v, 0#32)
  | .tensor t => mulNum v (decodeFloat specF32 t)
  | .block e => if e = 255 then (.nan false, 0#32) else mulNum v (e8m0 e)
  | .log4 e t =>
    if e = 255 then (.nan false, 0#32)
    else
      let (p, fl) := mulNum v (e8m0 e)
      let (r, fl') := mulNum p (decodeFloat specF16 t)
      (r, fl ||| fl')

/-- Whether a binary32 pattern is a legal per-tensor scale: a positive normal value (R69). -/
def scaleLegal (t : Nat) : Bool := 0x00800000 ≤ t && t ≤ 0x7F7FFFFF

/-- Bytes of a packed run of `m` elements (R68, R95). -/
def runBytes (f : Fmt) (m : Nat) : Nat :=
  if fmtBits f = 6 then 3 * ceilDiv m 4 else ceilDiv (m * fmtBits f) 8

/-- The elements of a packed run, from the little-endian value of its bytes (R68). -/
def unpackRun (w : Nat) : Nat → Nat → List Nat
  | 0, _ => []
  | k + 1, v => v % 2 ^ w :: unpackRun w k (v >>> w)

/-- The little-endian value of a packed run; pad bits are 0 (R68). -/
def packRun (w : Nat) : List Nat → Nat
  | [] => 0
  | x :: xs => x % 2 ^ w + (packRun w xs) <<< w

/-- The bytes of a packed run of elements (R68). -/
def packBytes (f : Fmt) (xs : List Nat) : List Byte := natLe (runBytes f xs.length) (packRun (fmtBits f) xs)

/-- The elements of a run of bytes. -/
def unpackBytes (f : Fmt) (m : Nat) (bs : List Byte) : List Nat := unpackRun (fmtBits f) m (leNat bs)

/-- The elements per group that share a byte or a 3-byte group (R68). -/
def groupOf (f : Fmt) : Nat := if fmtBits f = 4 then 2 else if fmtBits f = 6 then 4 else 1

/-- An integer result as the element encoding of its width. -/
def encodeInt (w : Nat) (v : Int) : Nat := (v % (2 ^ w : Int)).toNat

/-- Converts one number into a format with no block scale (R81, R82, Table 3-7).
`scale` is the destination's per-tensor scale, which only the FP8 formats divide by. -/
def convElem (f : Fmt) (oti : Bool) (scale : Nat) (x : Num) : Nat × FlagWord :=
  match f with
  | .int8 | .uint8 | .int4 =>
    let (lo, hi) := intRange f
    match x with
    | .nan _ => (0, flInvalid)
    | .inf neg => (encodeInt (fmtBits f) (if neg then lo else hi), flSaturate)
    | .fin neg m e =>
      let (v, fl) := roundInt lo hi neg m 1 e
      (encodeInt (fmtBits f) v, fl)
  | .e4m3 | .e5m2 =>
    let s := if f = .e4m3 then specE4m3 else specE5m2
    match x with
    | .nan sg => (s.nanEnc.getD 0, flIf sg flInvalid)
    | .inf neg =>
      match s.infEnc with
      | some i => (s.signed neg i, 0#32)
      | none => (s.signed neg s.maxEnc, flSaturate)
    | .fin neg m e =>
      match decodeFloat specF32 scale with
      | .fin _ sm se =>
        roundMag s (if oti then .toInf else .saturate) neg m sm (e - se)
      | _ => (s.nanEnc.getD 0, 0#32)
  | g =>
    match fmtSpec g with
    | some s => roundNum s x
    | none => (0, 0#32)

/-- emax of an MX element format (R83, step 3). -/
def mxEmax : Fmt → Int
  | .mxE4m3 => 8 | .mxE5m2 => 15 | .e3m2 => 4 | .e2m3 => 2 | .e2m1 => 2 | _ => 0

/-- floor(log2 |x|) of the largest magnitude of a block of finite numbers; none if all are zero. -/
def blockLog2 (xs : List Num) : Option Int :=
  xs.foldl (fun a x =>
    match x with
    | .fin _ m e =>
      if m = 0 then a else
        let l := (Nat.log2 m : Int) + e
        match a with
        | none => some l
        | some b => some (max b l)
    | _ => a) none

def clampExp (x : Int) : Int := max (-127) (min 127 x)

/-- Converts the values of one block into an MX format (R83): scale byte, elements, flags. -/
def convMxBlock (f : Fmt) (oti : Bool) (xs : List Num) : Nat × List Nat × FlagWord :=
  if xs.any (fun x => x.isNan || x.isInf) then (0xFF, xs.map (fun _ => 0), flInvalid)
  else
    match blockLog2 xs with
    | none => (0x7F, xs.map (fun _ => 0), 0#32)
    | some l =>
      let x := clampExp (l - mxEmax f)
      let one (v : Num) : Nat × FlagWord :=
        match v with
        | .fin neg m e =>
          match fmtSpec f with
          | some s => roundMag s (if oti && f == .mxE5m2 then .toInf else .saturate) neg m 1 (e - x)
          | none =>
            let (i, fl) := roundInt (-128) 127 neg m 1 (e - x + 6)
            (encodeInt 8 i, fl)
        | _ => (0, 0#32)
      let rs := xs.map one
      ((x + 127).toNat, rs.map (·.1), flAll (rs.map (·.2)))

/-- n / d * 2^k compared with n' / d' from below: n'/d' ≤ (n/d) * 2^k. -/
def ratGe (n d : Nat) (k : Int) (n' d' : Nat) : Bool :=
  decide (n' * (d <<< (-k).toNat) ≤ (n <<< k.toNat) * d')

/-- The LOG4 offset K for |x| = (n/d) * 2^k (R84, step 4); none is the zero element. -/
def log4Offset (n d : Nat) (k : Int) : Option Nat :=
  if ratGe n d k 3 4 then some 0
  else
    match (List.range 6).find? (fun (j : Nat) => ratGe n d (k + (j : Int) + 1) 3 4) with
    | some j => some (j + 1)
    | none => if ratGe n d (k + 7) 1 1 then some 6 else none

/-- Converts the values of one block into LOG4 under a tile scale (R84): scale byte, elements, flags. -/
def convLog4Block (tile : Nat) (xs : List Num) : Nat × List Nat × FlagWord :=
  let bad := (0xFF, xs.map (fun _ => 7), flInvalid)
  match decodeFloat specF16 tile with
  | .nan _ => bad
  | .inf _ =>
    if xs.any (fun x => x.isNan || x.isInf) then bad else (0x7F, xs.map (fun _ => 7), 0#32)
  | .fin tneg tm te =>
    if tm = 0 then bad
    else if xs.any (fun x => x.isNan || x.isInf) then bad
    else
      let mag := xs.foldl (fun (a : Option Int) x =>
        match x with
        | .fin _ m e =>
          if m = 0 then a else
            let l := ratLog2 (m * 4) (tm * 3) + (e - te)
            some (match a with | none => l | some b => max b l)
        | _ => a) none
      match mag with
      | none => (0x7F, xs.map (fun _ => 7), 0#32)
      | some l =>
        let x := clampExp l
        let one (v : Num) : Nat × FlagWord :=
          match v with
          | .fin neg m e =>
            if m = 0 then (7, 0#32)
            else
              let k := e - te - x
              match log4Offset m tm k with
              | none => (7, flInexact)
              | some o =>
                let j := k + (o : Int)
                let exact := tm <<< (-j).toNat == m <<< j.toNat
                (b2n (neg != tneg) * 8 + o,
                  flIf (!exact) flInexact ||| flIf (o == 0 && ratGe m tm k 3 2) flSaturate)
          | _ => (7, 0#32)
        let rs := xs.map one
        ((x + 127).toNat, rs.map (·.1), flAll (rs.map (·.2)))

/-- The place of element (k, n) of a LOG4 tile record: byte offset of its block scale (Table 3-5). -/
def log4ScaleAt (k n : Nat) : Nat := 8192 + 4 * n + k / 32

/-- The number of bytes of a LOG4 tile record (R74). -/
def tileBytes : Nat := 8768

/-- Element (k, n) of a tile record with its scales (R73, R74). -/
def log4Value (rec : List Byte) (k n : Nat) : Num × FlagWord :=
  let byte := fld rec (64 * n + k / 2) 1
  let w := if k % 2 = 0 then byte % 16 else byte / 16
  scaledValue .log4 (.log4 (fld rec (log4ScaleAt k n) 1) (fld rec 8704 2)) w

/-- Whether the accumulator of a pair is INT32 (R76). -/
def accIsInt (a b : Fmt) : Bool := fmtIsInt a && fmtIsInt b

/-- The rate classes of Table 3-6. -/
inductive RateClass where
  | c4 | c8 | c16 | c32
deriving DecidableEq, Repr

/-- The rate class of an operand pair (R75): that of its wider operand, LOG4 counted as 4 bits. -/
def rateClass (a b : Fmt) : RateClass :=
  let w := max (fmtBits a) (fmtBits b)
  if w ≤ 4 then .c4 else if w ≤ 8 then .c8 else if w ≤ 16 then .c16 else .c32

/-- The accumulator of one output element: binary32 bits or an INT32 value (R76). -/
inductive Acc where
  | f (bits : Nat)
  | i (v : Int)
deriving DecidableEq, Repr

/-- One cube step (R77, R79, R89): the products of up to 8 live pairs and the incoming accumulator are added exactly
and rounded once. -/
def cubeStep (acc : Acc) (pairs : List ((Num × FlagWord) × (Num × FlagWord))) : Acc × FlagWord :=
  let ps := pairs.map fun (a, b) =>
    let (p, fl) := mulNum a.1 b.1
    (p, fl ||| a.2 ||| b.2)
  let pfl := flAll (ps.map (·.2))
  match acc with
  | .f bits =>
    let (t, fl) := sumNum (decodeFloat specF32 bits :: ps.map (·.1))
    let (r, fl') := roundNum specF32 t
    (.f r, pfl ||| fl ||| fl')
  | .i v =>
    let t := ps.foldl (fun (s : Int) p => s + mantAt p.1 0) v
    let hi : Int := 2147483647
    let lo : Int := -2147483648
    if hi < t then (.i hi, pfl ||| flSaturate)
    else if t < lo then (.i lo, pfl ||| flSaturate)
    else (.i t, pfl)

/-- The whole reduction of one output element (R77): cubes of 8 along K in ascending order; a cube beyond K makes no
addition. The first argument bounds the number of cubes. -/
def reduceK : Nat → Acc → List ((Num × FlagWord) × (Num × FlagWord)) → Acc × FlagWord
  | 0, acc, _ => (acc, 0#32)
  | _ + 1, acc, [] => (acc, 0#32)
  | n + 1, acc, ps =>
    let (a, fl) := cubeStep acc (ps.take 8)
    let (r, fl') := reduceK n a (ps.drop 8)
    (r, fl ||| fl')

end Sys2Proof.Machine
end

