-- ==== Sys2Proof/Machine/Operands.lean ====
section
/-!
DEFINITION. Sys2Proof/Machine/Operands.lean: the 64-byte command (R254, R255), its checks at fetch (Table 10-6, checks 2 to 6),
the DETAIL of a failed check (R553), and the operand descriptor with its layouts (R94, R95).
-/

namespace Sys2Proof.Machine

/-! ## DETAIL (R553) -/

/-- A field of the command at a byte offset. -/
def detCmd (off : Nat) : Nat := 2 ^ 31 + off
/-- A field of the parameter block. -/
def detParam (off : Nat) : Nat := 2 ^ 31 + 2 ^ 30 + off
/-- A field of an entry of a structure named by a pointer. -/
def detEntry (i off : Nat) : Nat := 2 ^ 31 + 2 ^ 30 + 2 ^ 29 + (i % 65536) * 2 ^ 12 + off
/-- An instruction of a vector program. -/
def detInstr (i : Nat) : Nat := detEntry i 0

/-- One item of a check table: whether it holds, and the status and DETAIL if it does not. -/
abbrev Check := Bool × Nat × Nat

/-- The first item that fails (R256). -/
def firstFail : List Check → Option (Nat × Nat)
  | [] => none
  | (ok, st, d) :: r => if ok then firstFail r else some (st, d)

/-- Applies the items of a check table in order. -/
def checkAll (cs : List Check) : Run Unit :=
  match firstFail cs with
  | none => pure ()
  | some (st, d) => finish st d

/-- S_BAD_FORMAT for a field of the parameter block unless a condition holds. -/
def fmtAt (off : Nat) (ok : Bool) : Check := (ok, sBadFormat, detParam off)
/-- S_LENGTH for a field of the parameter block unless a condition holds. -/
def lenAt (off : Nat) (ok : Bool) : Check := (ok, sLength, detParam off)
/-- STRIDE of rows of `n` elements (Table 4-3): a multiple of 64 that holds one row. An `n` of all ones is left to check 4 (R258). -/
def strideRows (rowBytes n stride : Nat) : Bool := stride % 64 == 0 && (n == 0xFFFFFFFF || decide (rowBytes ≤ stride))

/-- A length field that is not its all-ones value (R258). -/
def notOnes (p : List Byte) (off len : Nat) : Check := lenAt off (fld p off len != 2 ^ (8 * len) - 1)
/-- A reserved range of the parameter block reads zero. -/
def rsvAt (p : List Byte) (off len : Nat) : Check := fmtAt off (zeroRange p off len)

/-- A pointer of 56 bits with an alignment (R218). -/
def ptrOk (v align : Nat) : Bool := decide (v < 2 ^ 56) && v % align == 0

/-- Where a run of virtual addresses lies in this device's stacked memory, for a structure that the device keeps by its physical range (R286,
R306, R389): its base, and each piece's address and bytes with whether its leaf has ENC, which needs a key slot (R422). Another place, and a
range that is not contiguous, is S_BAD_FORMAT for the field at `off`. -/
def stackRange (s : State) (a : Actor) (off va len : Nat) : Run (Nat × List (Nat × Nat × Bool)) := do
  let bad {α : Type} : Run α := finish sBadFormat (detParam off)
  let parts ← (piecesOf va len).mapM fun p => do
    let (e, l) ← liftE (translate s a.place a.asid (actorKernel a) true p.1)
    note fun g => { g with pages := (p.1 / 65536, true) :: g.pages }
    if bitOf e 5 && a.slot = 0xFFF then liftE (sealed (α := Unit) sealNoSlot 0xFFF) else pure ()
    let addr := bitsOf e 55 16 * 65536 + p.1 % leafBytes l
    if bitsOf e 7 6 = 0 && addr / 2 ^ 53 = position s && addr % 2 ^ 53 < stackedEnd then pure (addr % 2 ^ 53, p, bitOf e 5) else bad
  let base := (parts.headD (0, (va, 0), false)).1
  need (parts.all fun q => q.1 == base + (q.2.1.1 - va)) sBadFormat (detParam off)
  pure (base, parts.map fun q => (q.1, q.2.1.2, q.2.2))

/-- The base of such a range that the command may write (R307, R245). -/
def ownRange (s : State) (a : Actor) (off va len : Nat) : Run Nat := do
  let (base, parts) ← stackRange s a off va len
  let _ ← parts.mapM fun q => liftE (checkLocal s a true q.1 q.2.1)
  pure base

/-! ## The command (Table 10-4) -/

/-- The command in a 64-byte slot. -/
def cmdOfBytes (b : List Byte) : Cmd :=
  { opcode := fld b 0 2, flags := fld b 2 1, version := fld b 3 1, ticket := fld b 4 4, context := fld b 8 4,
    asid := fld b 12 2, keySlot := fld b 14 2, paramPtr := fld b 16 8, paramLen := fld b 24 4, waitFence := fld b 28 4,
    completion := fld b 32 8, sigTarget := fld b 40 8, sigValue := fld b 48 8, imm := fld b 56 8 }

/-- Whether an opcode exists (Table 10-5 and the opcode tables of the class chapters). -/
def opcodeExists (op : Nat) : Bool :=
  let n := op % 4096
  match op / 4096 with
  | 1 => n == 1 || n == 2
  | 2 => n == 1
  | 3 => n == 1 || n == 2
  | 4 => decide (1 ≤ n && n ≤ 6)
  | 5 => decide (1 ≤ n && n ≤ 4)
  | 6 => n == 1 || n == 2
  | 7 => decide (1 ≤ n && n ≤ 4)
  | 8 => n == 1 || n == 2
  | 0xF => decide (1 ≤ n && n ≤ 12)
  | _ => false

/-- FORMAT_VERSION 3 always; 2 where the opcode's chapter accepts it (R93, R121, R149, R255, Table 10-8). -/
def versionOk (op v : Nat) : Bool :=
  v == 3 || (v == 2 && ([0x1001, 0x2001, 0x3001, 0x3002, 0x8001, 0x8002, 0xF001, 0xF002, 0xF003, 0xF004].contains op))

/-- The PARAM_LEN values that an opcode accepts (R99, R112, R121, R149, R155, R272, R273, Tables 10-8, 12-7, 13-3, 14-3, 15-2). -/
def paramLenOk (op len : Nat) : Bool :=
  let list (head entry most : Nat) : Bool := decide (head ≤ len) && (len - head) % entry == 0 && decide ((len - head) / entry ≤ most)
  decide (1 ≤ len && len ≤ 4096) &&
  match op with
  | 0x1001 => len == 128
  | 0x1002 => list 32 128 31
  | 0x2001 => len == 416
  | 0x3001 => len == 96
  | 0x3002 => len == 48
  | 0x4001 | 0x4002 | 0x4003 | 0x4006 => list 128 16 248
  | 0x4004 => len == 144
  | 0x4005 => len == 64
  | 0x5001 | 0x5002 | 0x5004 => list 192 16 244
  | 0x5003 => len == 192
  | 0x6001 | 0x6002 => list 64 16 252
  | 0x7001 => len == 64
  | 0x7002 => len == 144
  | 0x7003 | 0x7004 => len == 224
  | 0x8001 => len == 16
  | 0x8002 => len == 32
  | 0xF001 => len == 64
  | 0xF002 => len == 16
  | 0xF003 | 0xF004 | 0xF009 => len == 32
  | 0xF005 | 0xF006 => len == 16
  | 0xF007 | 0xF008 | 0xF00A | 0xF00B | 0xF00C => len == 64
  | _ => false

/-- The opcodes that may carry OPEN (R349, R374). -/
def openLegal (op : Nat) : Bool :=
  [0x1001, 0x1002, 0x2001, 0x3001, 0x3002, 0x4001, 0x4002, 0x4004, 0x4006, 0x5001, 0x5002, 0x5003, 0x5004].contains op

/-- Checks 2 to 6 of Table 10-6, made at fetch, for a command of a shoe of a class and address space. -/
def fetchCheck (cls shoeAsid : Nat) (c : Cmd) : Option (Nat × Nat) :=
  let k := c.opcode / 4096
  let noCtx := k == 8 || k == 0xF
  let sig := c.flags.testBit 0
  let bad (off : Nat) (ok : Bool) : Check := (ok, sBadFormat, detCmd off)
  firstFail [
    (k != 0xF || cls == 0, sPrivilege, detCmd 0),
    bad 0 (opcodeExists c.opcode),
    bad 3 (versionOk c.opcode c.version),
    (paramLenOk c.opcode c.paramLen, sLength, detCmd 24),
    bad 2 (decide (c.flags < 16) && (!c.flags.testBit 2 || openLegal c.opcode)),
    bad 8 (decide (c.context < 2 ^ 20) && (!noCtx || c.context == 0)),
    bad 14 (decide (c.keySlot < 4096) && (!noCtx || c.keySlot == 0xFFF)),
    bad 16 (ptrOk c.paramPtr 8),
    bad 28 (decide (c.waitFence ≤ 255)),
    bad 32 (ptrOk c.completion 32 && (c.completion != 0 || c.flags.testBit 3)),
    bad 40 (if sig then c.sigTarget != 0 && ptrOk c.sigTarget 8 else c.sigTarget == 0),
    bad 48 (sig || c.sigValue == 0),
    bad 56 (c.imm == 0),
    (cls == 0 || c.asid == shoeAsid, sPrivilege, detCmd 12)]

/-! ## Operand descriptors (Table 4-3) -/

/-- An operand descriptor. -/
structure Desc where
  ptr      : Nat
  bytes    : Nat
  stride   : Nat
  scalePtr : Nat
  scale    : Nat
  format   : Nat
  dflags   : Nat
deriving DecidableEq, Repr

def descAt (p : List Byte) (off : Nat) : Desc :=
  { ptr := fld p off 8, bytes := fld p (off + 8) 4, stride := fld p (off + 12) 4, scalePtr := fld p (off + 16) 8,
    scale := fld p (off + 24) 4, format := fld p (off + 28) 1, dflags := fld p (off + 29) 1 }

/-- The format code of a descriptor: bits [4:0]. -/
def descCode (d : Desc) : Nat := d.format % 32

def descFmt (d : Desc) : Option Fmt := fmtOfCode (descCode d)

/-- Whether formats 0x8, 0x9 and 0xF are refused: FORMAT_VERSION 2 (R93, R121, R149). -/
def oldVersionBars (version code : Nat) : Bool := version == 2 && (code == 8 || code == 9 || code == 15)

/-- Whether a format has block scales in a separate array. -/
def isMxCode (c : Nat) : Bool := decide (6 ≤ c && c ≤ 11)
def isFp8Code (c : Nat) : Bool := c == 4 || c == 5

/-- The extent of `rows` runs of `m` elements at a stride (Table 4-4); none has extent 0. -/
def rowsExtent (f : Fmt) (rows m stride : Nat) : Nat := if rows = 0 then 0 else (rows - 1) * stride + runBytes f m
/-- The scale extent of `rows` runs of `m` elements of an MX format. -/
def scaleExtent (rows m : Nat) : Nat := rows * ceilDiv m 32
/-- The extent of a LOG4 B operand (Table 4-4). -/
def log4Extent (k n : Nat) : Nat := ceilDiv k 128 * ceilDiv n 128 * tileBytes

/-- The rule on SCALE_PTR and SCALE of a descriptor at `off`: per-tensor scales of FP8, bounds of MX, zero otherwise. -/
def scaleChecks (d : Desc) (off : Nat) : List Check :=
  let c := descCode d
  [fmtAt (off + 16) (if isMxCode c then ptrOk d.scalePtr 1 else d.scalePtr == 0),
   fmtAt (off + 24) (if isFp8Code c then scaleLegal d.scale else isMxCode c || d.scale == 0)]

/-- The scale of element j of row i, given the row's block scale bytes. -/
def elemScale (f : Fmt) (tensor : Nat) (blocks : List Byte) (j : Nat) : Scale :=
  if fmtIsFp8 f then .tensor tensor else if fmtIsMx f then .block (fld blocks (j / 32) 1) else .one

/-- The values of a run of `m` elements of a row with their scales. -/
def rowValues (f : Fmt) (tensor : Nat) (row blocks : List Byte) (m : Nat) : List (Num × FlagWord) :=
  (unpackBytes f m row).mapIdx fun j w => scaledValue f (elemScale f tensor blocks j) w

/-- Reads `rows` rows of `m` elements of an operand that is not LOG4 (Table 4-4). -/
def readRows (s : State) (a : Actor) (weights : Bool) (d : Desc) (f : Fmt) (rows m mult : Nat) : Run (List (List (Num × FlagWord))) :=
  let nb := runBytes f m
  let ns := ceilDiv m 32
  (List.range rows).mapM fun i => do
    let row ← readVa s a ⟨if d.stride = nb then rows * nb else nb, d.stride, mult⟩ weights (d.ptr + i * d.stride) nb
    let blocks ← if fmtIsMx f then readVa s a ⟨rows * ns, 0, mult⟩ weights (d.scalePtr + i * ns) ns else pure []
    pure (rowValues f d.scale row blocks m)

/-- Translates and places a run that a command will read, without reading it (R97), and notes its bytes on their lines: the weight window only
where it may be. -/
def placeRead (s : State) (a : Actor) (pt : Pattern) (weights : Bool) (va len : Nat) : Run Unit := do
  let _ ← (piecesOf va len).mapM fun p => do
    match (← spotOf s a false p.1 p.2) with
    | .weight m off =>
      if weights then do
        let w ← weightSpot s a m off p.2
        noteWeight s pt p.2 w
      else liftE denied
    | .loc (.peer _ _) _ => liftE denied
    | .loc l enc =>
      match l with
      | .host _ addr => noteLine (lineOf s l) pt (if enc then sealedBytes addr p.2 else p.2) false
      | _ => noteLine (lineOf s l) pt p.2 false
  pure ()

/-- The pattern of an operand of rows of `nb` bytes with an extent: its rows join into one run where STRIDE leaves no gap (R170). -/
def rowPattern (nb extent stride mult : Nat) : Pattern := ⟨if stride = nb then extent else nb, stride, mult⟩

/-- Reads the tile records of a LOG4 operand of N columns of K elements, tile (kt, nt) at nt * Kt + kt (Table 4-4). -/
def readTiles (s : State) (a : Actor) (d : Desc) (k n mult : Nat) : Run (List (List Byte)) :=
  (List.range (ceilDiv k 128 * ceilDiv n 128)).mapM fun t =>
    readVa s a ⟨tileBytes, 0, mult⟩ true (d.ptr + t * tileBytes) tileBytes

/-- Column n of a LOG4 operand: its K values. -/
def tileColumn (tiles : List (List Byte)) (k n : Nat) : List (Num × FlagWord) :=
  let kt := ceilDiv k 128
  (List.range k).map fun i => log4Value (tiles.getD (n / 128 * kt + i / 128) []) (i % 128) (n % 128)

end Sys2Proof.Machine
end

