-- ==== Sys2Proof/Machine/Commit.lean ====
section
/-!
DEFINITION. Sys2Proof/Machine/Commit.lean: the life of a command in flight that every family shares: its records in the shoe
(R260, R265), its write-out as one unit (R106, R107, R168, R512), its completion record and signal (R262 to R264),
kills (R108), and its way into and out of the kitty (R235 to R242).
-/

namespace Sys2Proof.Machine

/-! ## Shoes and flights -/

def freeShoe : Shoe :=
  { state := 0, cls := 0, log2 := 0, dbPorts := 0#2, pending := false, sealSlot := 0, ringHigh := 0, ringUnits := [],
    asid := 0, tenant := 0, engines := 0#64, ringPtr := 0, tailPtr := 0, headPtr := 0, head := 0, tail := 0, area := 0,
    lastTicket := 0, fetched := 0, window := [], ring := [], asked := [], got := [], resume := false }

def shoeOf (s : State) (n : Nat) : Shoe := tabGet s.shoes.tab n freeShoe
def putShoe (s : State) (n : Nat) (h : Shoe) : State :=
  { s with shoes := { s.shoes with tab := tabSet s.shoes.tab n h freeShoe } }
def modShoe (s : State) (n : Nat) (f : Shoe → Shoe) : State := putShoe s n (f (shoeOf s n))

def flightOf (s : State) (cid : Nat) : Option Flight := s.flights.list.find? fun f => f.cid == cid
def setFlights (s : State) (l : List Flight) : State := { s with flights := { s.flights with list := l } }
/-- Replaces a flight by its fetch order. -/
def putFlight (s : State) (f : Flight) : State :=
  setFlights s (s.flights.list.map fun g => if g.cid == f.cid then f else g)
/-- The command named for an engine is named no more; with `lose` its prefetch entries go too. -/
def unname (s : State) (cid : Nat) (lose : Bool) : State :=
  let mine := s.memories.named.filter fun e => e.2 == cid
  { s with memories := { s.memories with
      named := s.memories.named.filter fun e => e.2 != cid
      prefetch := if lose then s.memories.prefetch.filter fun p => !(mine.any fun e => e.1 == p.engine) else s.memories.prefetch } }

/-- A flight ends. If it was named for an engine and not placed there, its prefetch entries are discarded (R305). -/
def dropFlight (s : State) (cid : Nat) : State := unname (setFlights s (s.flights.list.filter fun g => g.cid != cid)) cid true
/-- INFLIGHT of Table 10-2. -/
def inflight (s : State) (shoe : Nat) : Nat := (s.flights.list.filter fun f => f.shoe == shoe).length

/-- Whether a flight has read its parameter block in its present attempt and is not past its commit point. -/
def isStarted (f : Flight) : Bool :=
  match f.phase with
  | .draining .post _ => false
  | .running | .vector _ | .staging | .draining _ _ | .watch _ _ _ _ _ _ | .watchQueue _ _ _ _ | .board _ _ _ | .peerRead _ _ => true
  | _ => false

/-- Whether a flight is past its commit point. -/
def isCommitted (f : Flight) : Bool :=
  match f.phase with
  | .committed | .heldEngine _ | .peer _ | .draining .post _ => true
  | _ => false

/-- Whether a flight occupies its unit. -/
def onUnit (f : Flight) : Bool :=
  match f.phase with
  | .placed => true
  | _ => isStarted f || isCommitted f

def inKitty (f : Flight) : Bool :=
  match f.phase with
  | .kitty _ _ _ => true
  | _ => false

def opClass (opcode : Nat) : Nat := opcode / 4096

/-- FLAGS of Table 10-4. -/
def hasSignal (c : Cmd) : Bool := bitOf c.flags 0
def hasFence (c : Cmd) : Bool := bitOf c.flags 1
def hasOpen (c : Cmd) : Bool := bitOf c.flags 2
def noCompletion (c : Cmd) : Bool := bitOf c.flags 3

/-! ## Contexts, as every family sees them -/

def freeCtx : Ctx :=
  { state := 0, hold := 0, model := 0, keySlot := 0, tenant := 0, adapter := 0, position := 0, segBase := 0, segLimit := 0,
    ring := 0, dir := 0, lastDeal := 0, deals := 0, reportAsid := 0, heldDeal := 0, reportPtr := 0 }
def ctxOf (s : State) (c : Nat) : Ctx := tabGet s.kv.ctxs c freeCtx
/-- A context is registered while it is LIVE or HELD (Table 12-1). -/
def ctxRegistered (s : State) (c : Nat) : Bool := (ctxOf s c).state == 1 || (ctxOf s c).state == 2

/-- The tenant of a command: that of its context; classes 0x8 and 0xF have none. -/
def cmdTenant (s : State) (c : Cmd) : Option Nat :=
  if opClass c.opcode = 8 || opClass c.opcode = 0xF then none
  else if ctxRegistered s c.context then some (ctxOf s c.context).tenant else none

/-- The slot of each model's LIVE copy now. -/
def liveNow (s : State) : List (Option Nat) := (List.range 16).map fun m => (modelOf s m).live.map (·.slot)

/-- The command of a flight as it accesses memory from its unit. -/
def actorOf (s : State) (f : Flight) : Actor :=
  { place := f.place, cls := f.cls, asid := f.cmd.asid, opcode := f.cmd.opcode, tenant := cmdTenant s f.cmd,
    slot := f.cmd.keySlot % 4096, isOpen := hasOpen f.cmd, deal := (f.deal.getD 0) % 2 ^ 32,
    live := f.live.getD (liveNow s), ctx := f.cmd.context }

/-! ## Words that writes ring (R249, R158) -/

/-- The 64-byte unit of this device's stacked memory that holds a word at a virtual address, if it lies there. -/
def unitAtVa (s : State) (asid va : Nat) : Option Nat :=
  match translate s .hub asid true false va with
  | .ok (e, l) =>
    let addr := bitsOf e 55 16 * 65536 + va % leafBytes l
    if bitsOf e 7 6 = 0 && addr / 2 ^ 53 == position s && addr % 2 ^ 53 < stackedEnd then some (unitOf (addr % 2 ^ 53)) else none
  | .error _ => none

/-- PENDING of a shoe after a write of some units: set if its tail word lies in one and it is LIVE (R249). -/
def rungBy (s : State) (units : List Nat) (h : Shoe) : Shoe :=
  if h.state = 1 && ((unitAtVa s h.asid h.tailPtr).map units.contains).getD false then { h with pending := true } else h

/-- Sets PENDING of every LIVE shoe whose tail word lies in a written unit (R249). -/
def ringTails (s : State) (units : List Nat) : State :=
  { s with shoes := { s.shoes with tab := s.shoes.tab.map fun h => (h.1, rungBy s units h.2) } }

/-- What every write of this device's memory does beside its bytes: it discards the prefetch entries of its lines (R158). -/
def afterWrite (s : State) (pa len : Nat) : State :=
  let keep (p : Prefetch) : Bool := !decide (p.line * 4096 < pa + len && pa < p.line * 4096 + 4096)
  { s with memories := { s.memories with prefetch := s.memories.prefetch.filter keep } }

/-- Whether a set of runs covers a whole 64-byte unit. -/
def coversUnit (cov : List (Nat × Nat)) (u : Nat) : Bool :=
  cov.any (fun r => decide (r.1 ≤ u && u + 64 ≤ r.1 + r.2))
    || (List.range 64).all fun i => cov.any fun r => decide (r.1 ≤ u + i && u + i < r.1 + r.2)

/-- Units of a channel that lost its data come back as they are written whole (R166). -/
def healUnits (s : State) (us : List Nat) : List Nat :=
  if s.memories.lostChan.isEmpty then s.memories.healed
  else s.memories.healed ++ us.filter fun u => decide (u < stackedEnd) && s.memories.lostChan.contains (channelIndex u)

/-- Writes one run of a write of this device's memory whose runs are `cov` (R167, R168): a unit that they cover whole loses its poison; of a
poisoned unit that they cover in part nothing is written, and the second component says so. -/
def putCovered (cov : List (Nat × Nat)) (s : State) (pa : Nat) (bs : List Byte) : State × Bool :=
  let len := bs.length
  if clusterBase ≤ pa then
    (afterWrite { s with memories := { s.memories with
        mem := memWrite s.memories.mem pa bs
        wordPoison := s.memories.wordPoison.filter fun w => !decide (pa ≤ w && w + 8 ≤ pa + len) } } pa len, false)
  else if anyPoison s pa len then
    let sick := (unitsOf pa len).filter (isPoisoned s)
    let bad := sick.filter fun u => !coversUnit cov u
    let whole := sick.filter (coversUnit cov)
    let mem := (unitsOf pa len).foldl (fun m u =>
      if bad.contains u then m
      else
        let lo := max pa u
        memWrite m lo (slice bs (lo - pa) (min (pa + len) (u + 64) - lo))) s.memories.mem
    (afterWrite { s with memories := { s.memories with
        mem := mem
        poison := s.memories.poison.filter fun u => !whole.contains u
        healed := healUnits s whole } } pa len, !bad.isEmpty)
  else (afterWrite { s with memories := { s.memories with mem := memWrite s.memories.mem pa bs } } pa len, false)

/-- A write of one run. -/
def putMem (s : State) (pa : Nat) (bs : List Byte) : State × Bool := putCovered [(pa, bs.length)] s pa bs

/-- Zeroes a range of this device's own structures; poison of whole units goes with it, and lost units come back. -/
def zeroMem (s : State) (pa len : Nat) : State :=
  afterWrite { s with memories := { s.memories with
      mem := memZero s.memories.mem pa len
      poison := s.memories.poison.filter fun u => !decide (pa ≤ u && u + 64 ≤ pa + len)
      healed := healUnits s ((unitsOf pa len).filter fun u => decide (pa ≤ u && u + 64 ≤ pa + len))
      wordPoison := s.memories.wordPoison.filter fun u => !decide (pa ≤ u && u + 8 ≤ pa + len) } } pa len

/-! ## The write-out -/

/-- Tags the segments or the operand area that a write-out reaches (R142, R355, R427). -/
def tagStores (s : State) (f : Flight) (l : Loc) (len : Nat) : State :=
  let a := actorOf s f
  let tag := (a.tenant.getD 0, a.deal)
  match l with
  | .area n _ =>
    let t := tagOf s n
    let t' := { t with valid := true, keySlot := a.slot, tenant := a.tenant.or t.tenant,
                       openTag := if a.isOpen then some tag else t.openTag }
    { s with memories := { s.memories with areaTags := tabPut s.memories.areaTags n t' } }
  | .mem pa =>
    if clusterBase ≤ pa && (a.isOpen || a.slot ≠ 0xFFF) then
      let c := (pa - clusterBase) / clusterStride
      let k0 := (pa - clusterBase) % clusterStride / 65536
      let k1 := ((pa - clusterBase) % clusterStride + max len 1 - 1) / 65536
      (List.range (k1 + 1 - k0)).foldl (fun s i =>
        let g := segOf s c (k0 + i)
        let g' := { g with keySlot := if a.slot ≠ 0xFFF then a.slot else g.keySlot,
                           openTag := if a.isOpen then some tag else g.openTag }
        { s with memories := { s.memories with segs := tabSet s.memories.segs (384 * c + k0 + i) g' ⟨0, 0, 0xFFF, none⟩ } }) s
    else s
  | _ => s

/-- The device nonce of a window unit: byte 0 is 1, then OUT_SEQ (R424). -/
def deviceNonce (seq : Nat) : List Byte := 1#8 :: List.replicate 3 0#8 ++ natLe 8 seq

/-- A unit of a sealed window: its key slot, port, virtual address and host address. -/
abbrev WinUnit := Nat × Nat × Nat × Nat

/-- The window units that a staged run touches. -/
def winUnits (w : SWrite) : List WinUnit :=
  match w.loc, w.enc with
  | .host port addr, some (_, va, slot) =>
    (List.range ((va + w.data.length + 4095) / 4096 - va / 4096)).map fun i =>
      let base := va / 4096 * 4096 + 4096 * i
      (slot, port, base, addr + base - va)
  | _, _ => []

/-- A unit's bytes with those that a write-out merges into it. -/
def patchUnit (ws : List SWrite) (u : WinUnit) (pt : List Byte) : List Byte :=
  ws.foldl (fun b w =>
    match w.enc with
    | some (_, va, _) =>
      if (winUnits w).contains u then
        let lo := max va u.2.2.1
        patch b (lo - u.2.2.1) (slice w.data (lo - va) (min (va + w.data.length) (u.2.2.1 + 4096) - lo))
      else b
    | none => b) pt

/-- Reads and verifies the window units of a write-out, each with the place of its tag record (R424). -/
def openUnits (s : State) (p : Place) (us : List WinUnit) : Except Stop (List (WinUnit × List Byte × Nat × Nat)) :=
  us.mapM fun u => do
    let pt ← openUnit s p u.1 u.2.2.1 u.2.1 u.2.2.2
    let (tp, ta) ← tagPlace s p u.1 u.2.2.1 true
    .ok (u, pt, tp, ta)

/-- Seals one window unit after merging new bytes, and writes it with its tag record (R424). -/
def sealUnit (ws : List SWrite) (s : State) (x : WinUnit × List Byte × Nat × Nat) : State :=
  let (u, pt, tp, ta) := x
  let k := keySlotOf s u.1
  let nonce := deviceNonce k.outSeq
  let (ct, tag) := gcmSeal k.ioKey nonce (windowAad k u.1 u.2.2.1) (patchUnit ws u pt)
  let s1 := hostPut (hostPut s u.2.1 u.2.2.2 ct) tp ta (nonce ++ natLe 4 0 ++ tag)
  { s1 with keys := { s1.keys with slots := tabPut s1.keys.slots u.1 { k with outSeq := wrapAdd 64 k.outSeq 1 } } }

/-- Writes the part of a write-out that lies in sealed windows: every unit is verified, merged with all its runs and sealed once. The second
component says whether a unit failed, whereupon nothing of the write-out is written (R424); the third is the status of a part that did not
land. -/
def writeWindows (p : Place) (s : State) (ws : List SWrite) : State × Bool × Nat :=
  let us := (ws.flatMap winUnits).eraseDups
  let good := us.filter fun u => portLive s u.2.1 && !hostRefuses s u.2.1 u.2.2.2 4096
  let st := if us.any fun u => !portLive s u.2.1 then sUe else if good.length < us.length then sFault else 0
  match openUnits s p good with
  | .ok xs => (xs.foldl (sealUnit ws) s, false, st)
  | .error (.done q _) => (s, true, q)
  | .error _ => (s, true, sUe)

/-- A staged write of a unit held under a memory key: whole 64-byte units are read, merged and enciphered (R426). -/
def mergeEnc (s : State) (slot asid va pa : Nat) (data : List Byte) : Nat × List Byte :=
  let lo := va / 64 * 64
  let hi := (va + data.length + 63) / 64 * 64
  let old := readEnc s slot asid lo (pa - (va - lo)) (hi - lo)
  (pa - (va - lo), leafCrypt true (keySlotOf s slot) asid lo (patch old (va - lo) data))

/-- Whether a far-tier address lies behind a link that is down (R179). -/
def farDown (s : State) (pa : Nat) : Bool :=
  decide (farBase ≤ pa && pa < farEnd) && ((farSlotOf s pa).map fun e => e.2.state == 3).getD false

/-- Writes one staged run of a write-out that covers the runs `cov` of this device's memory. The second component is 0, or the status of
R512 that a write that did not land gives. Runs in sealed windows go with their units. -/
def writeOne (cov : List (Nat × Nat)) (f : Flight) (s : State) (w : SWrite) : State × Nat :=
  match w.loc, w.enc with
  | .area n off, _ =>
    (tagStores { s with memories := { s.memories with areas := memWrite s.memories.areas (areaAt n + off) w.data } } f w.loc
      w.data.length, 0)
  | .mem pa, none =>
    if farDown s pa then (s, sUe)
    else
      let (s1, bad) := putCovered cov s pa w.data
      (tagStores s1 f w.loc w.data.length, if bad then sPoison else 0)
  | .mem pa, some (asid, va, slot) =>
    if clusterBase ≤ pa then
      let (s1, _) := putCovered cov s pa w.data
      (tagStores s1 f w.loc w.data.length, 0)
    else if farDown s pa then (s, sUe)
    else
      let (pa', bs) := mergeEnc s slot asid va pa w.data
      let (s1, bad) := putCovered cov s pa' bs
      (s1, if bad then sPoison else 0)
  | .host port addr, none =>
    if !portLive s port then (s, sUe)
    else if hostRefuses s port addr w.data.length then (s, sFault)
    else (hostPut s port addr w.data, 0)
  | .host _ _, some _ => (s, 0)
  | .peer _ _, _ => (s, 0)

/-- The runs of a write-out in this device's memory. -/
def coverOf (ws : List SWrite) : List (Nat × Nat) :=
  ws.filterMap fun w => match w.loc with | .mem pa => some (pa, w.data.length) | _ => none

/-- A write-out, a mover's write or a signal rings the tail words in the units that it writes (R249). -/
def ringFor (s : State) (ws : List SWrite) : State :=
  (coverOf ws).foldl (fun s r => if r.1 < stackedEnd then ringTails s (unitsOf r.1 r.2) else s) s

/-- Writes runs as one unit: the status is that of the first part that did not land. -/
def writeRuns (f : Flight) (s : State) (ws : List SWrite) : State × Nat :=
  match writeWindows f.place s ws with
  | (s1, true, st) => (s1, st)
  | (s1, false, st) => ws.foldl (fun (acc : State × Nat) w =>
      let (t, q) := writeOne (coverOf ws) f acc.1 w
      (t, if acc.2 = 0 then q else acc.2)) (s1, st)

/-- The whole write-out (R107). -/
def writeAll (f : Flight) (s : State) (ws : List SWrite) : State × Nat :=
  let (s1, st) := writeRuns f s ws
  (ringFor s1 ws, st)

/-! ## Tickets and statuses of a shoe (R260, R265) -/

/-- Enters a command's ticket at its commit point; the 4,097th entry drops the oldest. -/
def enterTicket (s : State) (f : Flight) : State :=
  if f.cmd.ticket = 0 then
    modShoe s f.shoe fun h => { h with lastTicket := 0 }
  else
    modShoe s f.shoe fun h =>
      let w := h.window ++ [(f.cmd.ticket, if noCompletion f.cmd then 0 else f.cmd.completion)]
      { h with window := w.drop (w.length - 4096), lastTicket := f.cmd.ticket }

/-- Removes a ticket whose write-out was lost (R512). -/
def removeTicket (s : State) (f : Flight) : State :=
  modShoe s f.shoe fun h => { h with window := h.window.filter fun e => e.1 != f.cmd.ticket }

/-- Enters a final status in the status ring, which keeps the last 256 commands fetched; the status of an older command stands while a command
in flight waits for it (R260). -/
def pushStatus (s : State) (f : Flight) (status : Nat) : State :=
  modShoe s f.shoe fun h => { h with ring := (h.ring ++ [(f.seq, status)]).filter fun e =>
    h.fetched ≤ e.1 + 256 || s.flights.list.any fun g =>
      g.shoe == f.shoe && g.cmd.waitFence != 0 && g.seq == e.1 + g.cmd.waitFence }

/-! ## Deal figures (R291, R303) -/

/-- Adds a charge to a deal: the sums, and the slot of its context, whose highest non-OK status stands (R291). -/
def addCharge (d : Deal) (c : Charge) : Deal :=
  { d with measured := d.measured + c.measured, est := d.est + c.est,
           slots := d.slots.map fun t =>
             if t.ctx = c.ctx then
               { t with measured := t.measured + c.measured, est := t.est + c.est,
                        status := if c.status = sOk || c.status = sDuplicate then t.status else max t.status c.status }
             else t }

/-- Charges a deal: the open one, or the next to open while none is open, which takes the charge when it opens (R280). -/
def chargeDeal (s : State) (seq : Nat) (c : Charge) : State :=
  match s.dealer.cur with
  | some d => if d.seq = seq then { s with dealer := { s.dealer with cur := some (addCharge d c) } } else s
  | none =>
    if seq = s.dealer.dealSeq + 1 then { s with dealer := { s.dealer with early := s.dealer.early ++ [c] } } else s

/-- Charges a status to a context's slot of a deal (R291). -/
def chargeStatus (s : State) (seq ctx status : Nat) : State :=
  if status = sOk || status = sDuplicate then s else chargeDeal s seq ⟨ctx, status, 0, 0⟩

/-- Charges a finished command to its context and its deal (R303). The S of a command that ended before it was formed is a free value. -/
def chargeCommand (s : State) (f : Flight) (status measured : Nat) : State :=
  match f.deal with
  | none => s
  | some seq =>
    let k := opClass f.cmd.opcode
    if k = 8 || k = 0xF || hasOpen f.cmd then s
    else if measured ≠ 0 && f.est = 0 then
      chargeDeal { s with fresh := s.fresh + 1 } seq ⟨f.cmd.context, status, measured, Config.endedEstimate f.cmd.opcode s.fresh⟩
    else chargeDeal s seq ⟨f.cmd.context, status, measured, f.est⟩

/-! ## Completion records and signals (R262 to R264) -/

/-- The local counter of the unit that runs a command. -/
def stepUnitOf (f : Flight) : StepUnit :=
  match f.place with
  | .engine n => .engine n
  | .mover c _ => .cluster c
  | _ => if [0xF00C, 0xF009, 0x4003, 0x6001].contains f.cmd.opcode then .dealer else .frontEnd

/-- The measured steps of the present attempt (R56). -/
def measuredNow (s : State) (f : Flight) : Nat := (counterOf s (stepUnitOf f) + 2 ^ 64 - f.t0) % 2 ^ 64

/-- The 32 bytes of a completion record (Table 10-7). -/
def recordBytes (stamp : Stamp) (steps detail ticket status flags aux : Nat) : List Byte :=
  natLe 2 (low 10 aux + low 6 flags * 2 ^ 10) ++ natLe 2 status ++ natLe 4 ticket ++ natLe 4 detail ++ natLe 4 steps
    ++ stampBytes stamp

/-- Where a record or a signal goes: checked as a destination, outside the protected ranges (R263, R264). A signal goes only to stacked memory,
to a host or to the stacked memory of a board peer, and never into a master range (R386); one into the weight window is refused
whatever the leaf's rights are. -/
def postSpot (s : State) (f : Flight) (signal : Bool) (va len : Nat) : Except Stop (Loc × Bool) := do
  let a := { actorOf s f with opcode := 0, isOpen := false }
  let weights : Bool := match translate s f.place f.cmd.asid true false va with
    | .ok (e, _) => bitsOf e 7 6 == 3
    | .error _ => false
  if signal && weights then denied
  else do
    let (e, lv) ← translate s f.place f.cmd.asid (actorKernel a) true va
    match (← resolveLeaf s (if signal then { a with place := .hub, tenant := none } else a) true va len e lv) with
    | .weight _ _ => denied
    | .loc (.peer q pa) enc =>
      if signal && a.slot = 0xFFF then
        if (portTo s q).isNone then absent 6 (16 + meshPort s q) else .ok (.peer q pa, enc)
      else denied
    | .loc (.mem pa) enc => if signal && stackedEnd ≤ pa then denied else .ok (.mem pa, enc)
    | .loc l enc => .ok (l, enc)

/-- The epoch that a message carries: the DOMAIN_EPOCH of the command's deal (R478). -/
def dealEpoch (s : State) (deal : Option Nat) : Nat :=
  match s.dealer.cur with
  | some d => if deal = some d.seq then d.epoch else s.dealer.lastEpoch
  | none => s.dealer.lastEpoch

/-- A new message leaves on a port: it takes the next message number and waits for its answer (R469). -/
def sendNew (s : State) (port kind dest epoch addr : Nat) (payload : List Byte) : State × Nat :=
  let id := s.flights.nextMsg
  let s1 := { s with
    flights := { s.flights with nextMsg := wrapAdd 32 id 1, sent := s.flights.sent ++ [(id, port)] }
    fresh := s.fresh + 1 }
  let e := if (linkOf s port).protocol = 2 then low 32 epoch else epoch
  (sendFrames s1 port payload.length fun seq => .tensor port kind dest (deviceId s) 0 e addr id seq payload, id)

/-- Sends a tensor message towards a board device and gives its message number. -/
def sendTensor (s : State) (kind q epoch addr : Nat) (payload : List Byte) : Option (State × Nat) :=
  (peerRoute s q).map fun r => sendNew s r.1 kind r.2 epoch addr payload

/-- Remembers a signal or a head word until the peer has acknowledged it. -/
def notePosted (s : State) (p : Posted) : State := { s with flights := { s.flights with posted := s.flights.posted ++ [p] } }

/-- Posts the bytes of a record or a signal; false if they could not be delivered. -/
def postBytes (s : State) (f : Flight) (signal : Bool) (va : Nat) (bs : List Byte) : State × Bool :=
  match postSpot s f signal va bs.length with
  | .error _ => (s, false)
  | .ok (.peer q pa, _) =>
    match sendTensor s 4 q (dealEpoch s f.deal) pa bs with
    | some (s1, id) => (notePosted s1 ⟨id, 0x05, f.shoe, f.cmd.ticket, 0⟩, true)
    | none => (s, false)
  | .ok (l, enc) =>
    let w : SWrite := ⟨l, bs, if enc then some (f.cmd.asid, va, f.cmd.keySlot % 4096) else none⟩
    let (s1, st) := writeRuns { f with cmd := { f.cmd with flags := 0 } } s [w]
    (if signal then ringFor s1 [w] else s1, st == 0)

def shoeError (s : State) (cause shoe ticket status addr : Nat) : State :=
  raiseError s ⟨2, cause, 0xC, shoe, ticket, status, addr⟩

/-- Stops a shoe (R253). -/
def stopShoe (s : State) (n cause va : Nat) : State :=
  shoeError (modShoe s n fun h => { h with state := 2, asked := [], got := [], resume := false }) cause n 0 0 va

/-- Writes a completion record under R263. -/
def writeRecord (s : State) (f : Flight) (status detail steps flags aux : Nat) : State :=
  let quiet := noCompletion f.cmd && (status = sOk || status = sDuplicate)
  if quiet then s
  else if f.cmd.completion = 0 then shoeError s 0x06 f.shoe f.cmd.ticket status 0
  else
    let bs := recordBytes (stampNow s) (min steps 0xFFFFFFFF) detail f.cmd.ticket status flags aux
    let (s1, ok) := postBytes s f false f.cmd.completion bs
    if ok then s1 else shoeError s 0x04 f.shoe f.cmd.ticket status 0

/-- Posts an 8-byte signal, or raises SIGNAL_LOST (R264). -/
def postSignal (s : State) (f : Flight) (target value : Nat) : State :=
  let (s1, ok) := postBytes s f true target (natLe 8 value)
  if ok then s1 else shoeError s 0x05 f.shoe f.cmd.ticket 0 0

/-- Which statuses keep their DETAIL for an OPEN command (R352). -/
def openDetail (status : Nat) : Bool :=
  status == sLength || status == sBadFormat || status == sPrivilege || status == sFault || status == 0x0024

/-! ## Final status -/

/-- Writes the record and the signal of a final status, enters it in the status ring, charges it and drops the flight.
`signal` is false where R512 withholds the signal. -/
def finalStatus (s : State) (f : Flight) (status detail aux : Nat) (signal : Bool) : State :=
  let now := if isStarted f || isCommitted f then measuredNow s f else 0
  let steps := if hasOpen f.cmd then 0 else now
  let flags := if hasOpen f.cmd then 0 else f.flags.toNat
  let det := if hasOpen f.cmd && !openDetail status then 0 else detail
  let s1 :=
    if status = sDuplicate && !hasOpen f.cmd then writeRecord s f status (low 32 detail) (detail / 2 ^ 32) flags aux
    else writeRecord s f status det steps flags aux
  let s2 :=
    if signal && hasSignal f.cmd && (status = sOk || status = sDuplicate) then postSignal s1 f f.cmd.sigTarget f.cmd.sigValue
    else s1
  dropFlight (chargeCommand (pushStatus s2 f status) f status (f.measured + now)) f.cid

/-- The duplicates that wait for a command, in fetch order. -/
def dupsOf (s : State) (cid : Nat) : List Flight :=
  s.flights.list.filter fun g => match g.phase with | .dup o => o == cid | _ => false

/-- Resolves the duplicates of a command that has reached its final status (R266): with S_OK each completes as a
duplicate; with any other status the first is checked and run as a new command and the rest wait for it. The first
argument bounds how many duplicates fail their checks in turn. -/
def resolveDups : Nat → State → Flight → Nat → State
  | 0, s, _, _ => s
  | n + 1, s, f, status =>
    let orig := if noCompletion f.cmd then 0 else f.cmd.completion
    if status = sOk then (dupsOf s f.cid).foldl (fun s g => finalStatus s g sDuplicate orig 0 true) s
    else
      match dupsOf s f.cid with
      | [] => s
      | g :: rest =>
        let s1 := rest.foldl (fun s h => putFlight s { h with phase := .dup g.cid }) s
        match fetchCheck g.cls (shoeOf s g.shoe).asid g.cmd with
        | none => putFlight s1 { g with phase := .waiting }
        | some (st, d) => resolveDups n (finalStatus s1 g st d 0 true) g st

/-! ## The kitty (R235 to R242) -/

def emptyBatch (seq : Nat) : Batch :=
  { seq := seq, records := [], overflow := 0, openedAt := 0, opened := noStamp, closed := noStamp, cause := 0, causes := [] }

/-- The 64 bytes of a fault record (Table 9-7). -/
def faultBytes (r : FaultRec) : List Byte :=
  natLe 64 (r.asid + r.reason * 2 ^ 16 + r.access * 2 ^ 24 + r.level * 2 ^ 26 + b2n r.hub * 2 ^ 28 + r.count * 2 ^ 32
    + r.va * 2 ^ 64 + r.engines.toNat * 2 ^ 128 + r.movers.toNat * 2 ^ 192 + r.context * 2 ^ 224 + r.shoe * 2 ^ 256
    + r.ticket * 2 ^ 288)

/-- The bytes of a closed batch: header of Table 9-8, then the records. -/
def batchBytes (b : Batch) : List Byte :=
  natLe 4 b.seq ++ natLe 2 b.records.length ++ natLe 1 b.cause ++ natLe 1 0 ++ natLe 4 b.overflow ++ natLe 4 0
    ++ stampBytes b.opened ++ stampBytes b.closed ++ natLe 16 0 ++ b.records.flatMap faultBytes

/-- Writes the batch that awaits release to the owner's area and raises EV_KITTY (R241). -/
def deliverBatch (s : State) : State :=
  match s.kitty.waiting, s.kitty.area, s.heldun.owner with
  | some b, some addr, some port =>
    let bs := batchBytes b
    if !portLive s port || hostRefuses s port addr bs.length then
      raiseError { s with kitty := { s.kitty with area := none } } ⟨2, 0x07, 0, 0, 0, 0, 0⟩
    else
      raiseEvent (hostPut s port addr bs) evKitty
        (natLe 4 b.seq ++ natLe 2 b.records.length ++ natLe 1 b.cause)
  | _, _, _ => s

def batchEmpty (b : Batch) : Bool := b.records.isEmpty && b.overflow == 0

/-- Closes the open batch with the first cause that occurred, if no batch awaits release (R240). -/
def closeBatch (s : State) : State :=
  let k := s.kitty
  match k.waiting, k.cur.causes with
  | none, c :: _ =>
    if batchEmpty k.cur then s
    else
      deliverBatch { s with kitty := { k with
        waiting := some { k.cur with cause := c, closed := stampNow s }
        cur := emptyBatch (wrapAdd 32 k.cur.seq 1) } }
  | _, _ => s

/-- Whether KITTY_STEPS hub steps have passed since the first record of the open batch (R240, cause 4). -/
def kittyDue (s : State) : Bool :=
  !batchEmpty s.kitty.cur && decide (s.kitty.steps ≤ (hubNow s + 2 ^ 64 - s.kitty.cur.openedAt) % 2 ^ 64)

/-- Notes a cause of R240 for the open batch. -/
def noteCause (s : State) (c : Nat) : State :=
  let k := s.kitty
  if batchEmpty k.cur || k.cur.causes.contains c then s
  else { s with kitty := { k with cur := { k.cur with causes := k.cur.causes ++ [c] } } }

/-- Notes that cause 4 has occurred by now. -/
def noteDue (s : State) : State := if kittyDue s then noteCause s 4 else s

/-- A cause of R240 occurs for the open batch. -/
def kittyCause (s : State) (c : Nat) : State := closeBatch (noteCause (noteDue s) c)

/-- Whether a unit waits for or runs its in-service test (R520). -/
def underTest (s : State) (kind index : Nat) : Bool := s.units.tests.any fun t => t.kind == kind && t.index == index

/-- Whether an engine is an ante engine (R298). -/
def isAnte (s : State) (n : Nat) : Bool := s.dealer.anteSet.getLsbD n

/-- An engine that the dealer may give a command to, free or not (R18, R520). -/
def engineOpen (s : State) (n : Nat) : Bool := engineUsable s n && !underTest s 1 n && !underTest s 2 (n / 4)

/-- Whether a flight needs an engine: classes 0x1, 0x2 and 0x4 to 0x7, but for the hub commands among them. -/
def hubOpcode (opcode : Nat) : Bool :=
  let k := opClass opcode
  k == 8 || k == 0xF || opcode == 0x4003 || opcode == 0x4005 || opcode == 0x6001 || opcode == 0x7001

def needsEngine (opcode : Nat) : Bool := opClass opcode != 3 && !hubOpcode opcode

/-- Whether the fences of a command let it start (R259, R260): ready, waiting, or a dependency that failed. -/
inductive Fences where
  | ready | wait | failed (status : Nat)
deriving DecidableEq, Repr

def fencesOf (s : State) (f : Flight) : Fences :=
  let mine := s.flights.list.filter fun g => g.shoe == f.shoe && decide (g.seq < f.seq)
  if hasFence f.cmd && !mine.isEmpty then .wait
  else if f.cmd.waitFence = 0 || f.seq < f.cmd.waitFence then .ready
  else
    let q := f.seq - f.cmd.waitFence
    if mine.any fun g => g.seq == q then .wait
    else
      match (shoeOf s f.shoe).ring.find? fun e => e.1 == q with
      | some (_, st) => if st = sOk || st = sDuplicate then .ready else .failed st
      | none => .ready

/-- The place of a command among those that a batch released: none for every other command (R242). -/
def releaseRank (f : Flight) : Option Nat := match f.phase with | .rerun r => r | _ => none

/-- Whether a flight waits for placement and its shoe is not held, by a command in the kitty (R237) or by one that a batch has released and
that has not been placed yet (R242). -/
def isReady (s : State) (f : Flight) : Bool :=
  (match f.phase with | .waiting | .rerun _ => true | _ => false) && fencesOf s f == .ready
    && !(s.flights.list.any fun g => g.shoe == f.shoe && (inKitty g || (releaseRank f).isNone && (releaseRank g).isSome) && decide (g.seq < f.seq))

/-- Whether a command that a batch released comes after another one that waits for the same kind of unit (R242). -/
def outranked (s : State) (f : Flight) (same : Flight → Bool) : Bool :=
  match releaseRank f with
  | none => false
  | some r => s.flights.list.any fun g => same g && isReady s g && (match releaseRank g with | some q => decide (q < r) | none => false)

/-- The engines a command may use (R296). -/
def allowedEngines (s : State) (f : Flight) : List Nat :=
  (List.range 64).filter fun n =>
    (shoeOf s f.shoe).engines.getLsbD n && engineOpen s n && (isAnte s n == (f.cls == 2))

/-- No command outside the kitty runs or can be placed on a present and powered engine outside the ante (R240, cause 2). -/
def kittyIdle (s : State) : Bool :=
  !s.flights.list.any fun f =>
    needsEngine f.cmd.opcode &&
      ((match f.place with
        | .engine n => onUnit f && engineUsable s n && !isAnte s n
        | _ => false) ||
       (isReady s f && (allowedEngines s f).any fun n => !isAnte s n))

/-! ## What the end of a command frees (R308, R356) -/

def pagePa (s : State) (p : Nat) : Nat := s.kv.poolBase + 65536 * p

/-- Zeroes a page and returns it to the free pool. -/
def freePage (s : State) (p : Nat) : State :=
  let s1 := afterWrite (zeroMem s (pagePa s p) 65536) (pagePa s p) 65536
  { s1 with kv := { s1.kv with pages := tabErase s1.kv.pages p } }

/-- Whether a command that has read its parameter block may read open state: OPEN, or sp.verify. -/
def readsOpen (f : Flight) : Bool := hasOpen f.cmd || f.cmd.opcode == 0x6002

/-- Frees the old open pages whose readers have all ended (R356). -/
def sweepOld (s : State) : State :=
  let waits (o : OldOpen) : Bool := o.on.any fun c => s.flights.list.any fun f => f.cid == c && isStarted f
  let gone := s.kv.old.filter fun o => !waits o
  if gone.isEmpty then s
  else
    let s1 := { s with kv := { s.kv with old := s.kv.old.filter waits } }
    (gone.flatMap fun o => o.pages).foldl freePage s1

/-- The last deal that has closed, low 32 bits. -/
def closedDeal (s : State) : Nat :=
  (match s.dealer.cur with | some d => d.seq + 2 ^ 32 - 1 | none => s.dealer.dealSeq) % 2 ^ 32

/-- Whether deal a lies above deal b, modulo 2^32. -/
def dealAbove (a b : Nat) : Bool := let d := (a + 2 ^ 32 - b) % 2 ^ 32; decide (0 < d && d < 2 ^ 31)

/-- Zeroes the tagged segments whose scratch has expired and whose readers have ended (Table 13-2, R356). -/
def sweepScratch (s : State) : State :=
  let due (g : Seg) : Bool :=
    match g.openTag with
    | none => false
    | some t =>
      dealAbove (closedDeal s) t.2 && !(s.flights.list.any fun f =>
        isStarted f && readsOpen f && cmdTenant s f.cmd == some t.1
          && ((f.deal.getD 0) % 2 ^ 32 == t.2 || (f.deal.getD 0) % 2 ^ 32 == (t.2 + 1) % 2 ^ 32))
  (s.memories.segs.filter fun e => due e.2).foldl (fun s e =>
    let s1 := zeroMem s (segAt (e.1 / 384) (e.1 % 384)) 65536
    { s1 with memories := { s1.memories with
      segs :=
        tabSet s1.memories.segs e.1 { e.2 with openTag := none } ⟨0, 0, 0xFFF, none⟩ } }) s

/-- Cause 2 of R240, tested whenever a command ends, is killed or is placed. -/
def settleKitty (s : State) : State :=
  if batchEmpty s.kitty.cur then s else if kittyIdle s then kittyCause s 2 else s

/-- The most words that are watched at once (R274). -/
def watchLimit : Nat := 4096

/-- Whether a flight watches a word. -/
def watches (f : Flight) : Bool := match f.phase with | .watch _ _ _ _ _ _ => true | _ => false
/-- Whether a flight waits for a watch. -/
def wantsWatch (f : Flight) : Bool := match f.phase with | .watchQueue _ _ _ _ => true | _ => false

/-- As watches free, the sy.wait commands fetched first take them (R274). -/
def promoteWatch (s : State) : State :=
  ((s.flights.list.filter wantsWatch).take (watchLimit - (s.flights.list.filter watches).length)).foldl (fun s f =>
    match f.phase with
    | .watchQueue pa v c t => putFlight s { f with phase := .watch pa v c t s.steps.frontEnd 0 }
    | _ => s) s

/-- What follows whenever a command ends, is killed or is placed: what waited for its end is freed, and cause 2 is tested. -/
def settle (s : State) : State := settleKitty (promoteWatch (sweepScratch (sweepOld s)))

/-- The staging units of a mover command return to its cluster's pool; its record of use is its flight (R154). -/
def discard (s : State) (f : Flight) : Flight :=
  { f with staged := [], post := .none, units := 0, place := .none, pages := [], wrote := [], block := [], ctxs := [], uses := [], touches := [], far := [], marks := [],
           seen := false, flags := 0#32, measured := f.measured + (if isStarted f then measuredNow s f else 0) }

/-- The unit that a place belongs to, as a retirable unit: an engine, or a mover's cluster (Table 1-5). -/
def killUnit : Place → Option Nat
  | .engine n => some (unitKey 1 n)
  | .mover c _ => some (unitKey 2 c)
  | _ => none

/-- A unit is told of a kill: it has not acknowledged it yet (R519). -/
def noteKill (s : State) (p : Place) : State :=
  match killUnit p with
  | none => s
  | some k => { s with units := { s.units with kills := tabPut s.units.kills k (hubNow s) } }

/-- A unit that starts a command has acknowledged every kill (R519). -/
def noteAck (s : State) (p : Place) : State :=
  match killUnit p with
  | none => s
  | some k => { s with units := { s.units with kills := tabErase s.units.kills k } }

/-- Kills a command before its commit point so that it is re-run (R108). -/
def killForRerun (s : State) (f : Flight) (phase : Phase) : State := putFlight s { discard s f with phase := phase }

/-- Adds a fault to the open batch (R235, R239): its record index, or none on the overflow list. -/
def recordFault (b : Batch) (f : Flight) (asid va reason level : Nat) (write : Bool) : Batch × Option Nat :=
  let page := va / 65536 * 65536
  let eng : BitVec 64 := match f.place with | .engine n => BitVec.twoPow 64 n | _ => 0#64
  let mov : BitVec 32 := match f.place with | .mover c m => BitVec.twoPow 32 (2 * c + m) | _ => 0#32
  let hub : Bool := match f.place with | .hub | .none => true | _ => false
  let acc := if write then 2 else 1
  match b.records.findIdx? fun r => r.asid == asid && r.va == page with
  | some i =>
    ({ b with records := b.records.mapIdx fun j r =>
        if j = i then
          { r with count := satAdd 16 r.count 1, engines := r.engines ||| eng, movers := r.movers ||| mov,
                   hub := r.hub || hub, access := r.access ||| acc }
        else r }, some i)
  | none =>
    if 512 ≤ b.records.length then ({ b with overflow := b.overflow + 1 }, none)
    else
      ({ b with records := b.records ++ [
          { asid := asid, va := page, reason := reason, level := level, access := acc, count := 1, engines := eng,
            movers := mov, hub := hub, shoe := f.shoe, ticket := f.cmd.ticket, context := f.cmd.context % 2 ^ 20 }] },
        some b.records.length)

/-- A command completes: its final status, then its duplicates, then cause 2 of the kitty. -/
def complete (s : State) (f : Flight) (status detail aux : Nat) : State :=
  settle (resolveDups (s.flights.list.length + 1) (finalStatus s f status detail aux true) f status)

/-- A command commits and completes at once with S_OK: its ticket enters, then its record and signal are posted. -/
def commitComplete (s : State) (f : Flight) (detail aux : Nat) : State := complete (enterTicket s f) f sOk detail aux

/-- A translation fault ends a command (R109, R235, R236, R241). A command of an address space that is being destroyed enters no batch: it
completes with S_FAULT (R226). -/
def faultCommand (s : State) (f : Flight) (asid va reason level : Nat) (write : Bool) : State :=
  if (asidRec s f.cmd.asid).state ≠ 1 then complete s f sFault (faultCode codeAsid) 0
  else if f.cls = 2 then complete s f sFault (reason + level * 2 ^ 8 + 0x1FF * 2 ^ 10) 0
  else
    match s.kitty.area with
    | none => complete s f sFault (faultCode codeNoKitty) 0
    | some _ =>
      let k := s.kitty
      let cur := if batchEmpty k.cur then { k.cur with openedAt := hubNow s, opened := stampNow s, causes := [] } else k.cur
      let (b, idx) := recordFault cur f asid va reason level write
      let s1 := { s with kitty := { k with cur := b, order := k.order + 1 } }
      let s2 := killForRerun s1 f (.kitty b.seq idx k.order)
      let s3 := if b.records.length = 512 then kittyCause s2 1 else s2
      let s4 := if k.steps = 0 then kittyCause s3 4 else s3
      settle s4

/-- Ends a command that stopped before its commit point; `hold` and `noWalker` are left to the caller. -/
def stopCommand (s : State) (f : Flight) (e : Stop) : State :=
  match e with
  | .done st d => complete s f st d 0
  | .walk a va r l w => faultCommand s f a va r l w
  | .repair pa => settle (killForRerun s f (.repair pa))
  | .hold => s
  | .noWalker => s

end Sys2Proof.Machine
end

