-- ==== Sys2Proof/Machine/Kv.lean ====
section
/-!
DEFINITION. Sys2Proof/Machine/Kv.lean: the key-value cache as state. Page geometry (R310, R311), rows read and written under a
context's key slot (R426), the taking of pages with spill (Table 12-13, R180, R335, R336), bring-back (R339), holds
(R337), open state and its discard (R346 to R356), and what RELEASE and TRIM do once their waits end (Table 12-6).
-/

namespace Sys2Proof.Machine

/-! ## Records -/

def freeSpec : Spec := { isOpen := false, limit := 0, dir := 0, deal := 0, verifies := 0, madeTokens := 0 }
def specOf (s : State) (c : Nat) : Spec := tabGet s.kv.specs c freeSpec
def putCtx (s : State) (c : Nat) (x : Ctx) : State := { s with kv := { s.kv with ctxs := tabSet s.kv.ctxs c x freeCtx } }
def modCtx (s : State) (c : Nat) (g : Ctx → Ctx) : State := putCtx s c (g (ctxOf s c))
def putSpec (s : State) (c : Nat) (x : Spec) : State := { s with kv := { s.kv with specs := tabSet s.kv.specs c x freeSpec } }

/-- The attention record of a model (R314); `layers` 0 for none. -/
def noAttn : AttnRec := { layers := 0, qHeads := 0, groups := 0, format := 0, kvScale := 0, bias := false, base := 0, freqs := [] }
def attnOf (s : State) (m : Nat) : AttnRec := tabGet s.kv.models m noAttn
def ctxAttn (s : State) (c : Nat) : AttnRec := attnOf s (ctxOf s c).model

/-- GRANT and SPILL_EN of a tenant (R308). -/
def grantOf (s : State) (t : Nat) : Nat × Bool := tabGet s.kv.tenants t (0, false)
/-- A tenant's resident pages. -/
def residentOf (s : State) (t : Nat) : Nat := (s.kv.pages.filter fun p => p.2.tenant == t).length

/-! ## Geometry (R310, R311) -/

def rowBytes (r : AttnRec) : Nat := 2 * r.groups * 128 * (if r.format == 4 || r.format == 5 then 1 else 2)
def rowsPerPage (r : AttnRec) : Nat := 2 ^ Nat.log2 (65536 / max 1 (rowBytes r))

/-- The page-list entry of a position in a layer, and the row within its page. -/
def madeEntry (r : AttnRec) (segBase layer pos : Nat) : Nat × Nat :=
  ((pos - segBase) / rowsPerPage r * r.layers + layer, (pos - segBase) % rowsPerPage r)
/-- The open directory entry of open row i of a layer, and the row within its page (R353). -/
def openEntry (r : AttnRec) (layer i : Nat) : Nat × Nat := (layer * 16 + i / rowsPerPage r, i % rowsPerPage r)

def emptyEntry : PageEntry := ⟨0, false, 0, 0⟩
def madeList (s : State) (c : Nat) : Tab PageEntry := tabGet s.kv.lists c []
def madeAt (s : State) (c e : Nat) : PageEntry := tabGet (madeList s c) e emptyEntry
def openAt (s : State) (c e : Nat) : PageEntry := tabGet (tabGet s.kv.openDirs c []) e emptyEntry
def putMade (s : State) (c e : Nat) (x : PageEntry) : State :=
  { s with kv := { s.kv with lists := tabSet s.kv.lists c (tabSet (madeList s c) e x emptyEntry) [] } }

/-! ## Page contents (R426) -/

/-- The tweak of unit u of a pool page. -/
def poolTweak (isOpen : Bool) (c e u : Nat) : Nat := 2 ^ 127 + b2n isOpen * 2 ^ 126 + c * 2 ^ 96 + e * 2 ^ 16 + u

/-- Whole units of a page from unit u on, enciphered or deciphered under a slot's memory key. -/
def poolCrypt (enc : Bool) (k : KeySlot) (isOpen : Bool) (c e u : Nat) (bs : List Byte) : List Byte :=
  ((chunksOf (ceilDiv bs.length 64) 64 bs).zipIdx).flatMap fun x => xts enc k.memKey (poolTweak isOpen c e (u + x.2)) x.1

/-- The bytes of a run of a page as its context holds them. -/
def pagePlain (s : State) (c : Nat) (isOpen : Bool) (e pa off len : Nat) : List Byte :=
  let slot := (ctxOf s c).keySlot
  if slot = 0xFFF then memRead s.memories.mem (pa + off) len
  else
    let lo := off / 64 * 64
    let hi := (off + len + 63) / 64 * 64
    slice (poolCrypt false (keySlotOf s slot) isOpen c e (lo / 64) (memRead s.memories.mem (pa + lo) (hi - lo))) (off - lo) len

/-- Reads a run of a resident page (R168, R37, R501). -/
def readPage (s : State) (c : Nat) (isOpen : Bool) (e page off len : Nat) : Except Stop (List Byte) :=
  let pa := pagePa s page
  match withdrawnBy s pa with
  | some k => absent 4 k
  | none =>
    if stackAsleep s pa then .error .hold
    else if anyPoison s (pa + off) len then .error (.done sPoison 0)
    else .ok (pagePlain s c isOpen e pa off len)

/-- Writes a run of a resident page; the second component says that a poisoned unit was covered in part. -/
def writePage (s : State) (c : Nat) (isOpen : Bool) (e page off : Nat) (data : List Byte) : State × Bool :=
  let pa := pagePa s page
  let slot := (ctxOf s c).keySlot
  if slot = 0xFFF then putMem s (pa + off) data
  else
    let lo := off / 64 * 64
    let hi := (off + data.length + 63) / 64 * 64
    let old := pagePlain s c isOpen e pa lo (hi - lo)
    putMem s (pa + lo) (poolCrypt true (keySlotOf s slot) isOpen c e (lo / 64) (patch old (off - lo) data))

/-! ## Pages of the pool (R308, R313) -/

/-- The first number at or above n that is no key of an ascending table. -/
def firstGap {α : Type} : Tab α → Nat → Nat
  | [], n => n
  | (k, _) :: r, n => if k = n then firstGap r (n + 1) else n

/-- Allocates the lowest free page for a tenant below its GRANT. A page of a context with a key slot reads as zero through it. -/
def allocPage (s : State) (r : PageRec) : Option (State × Nat) :=
  let p := firstGap s.kv.pages 0
  if p < s.kv.poolPages && residentOf s r.tenant < (grantOf s r.tenant).1 then
    let s1 := { s with kv := { s.kv with pages := tabPut s.kv.pages p r } }
    let slot := (ctxOf s r.ctx).keySlot
    if r.kind = 1 && slot ≠ 0xFFF then
      some ({ s1 with memories := { s1.memories with
        mem := memWrite s1.memories.mem (pagePa s p)
          (poolCrypt true (keySlotOf s slot) r.isOpen r.ctx r.entry 0 (List.replicate 65536 0#8)) } }, p)
    else some (s1, p)
  else none

/-! ## Narrow reads of lists and descriptors (R173, R312) -/

/-- A narrow read of the 32 bytes that hold an address of a structure of the device: its unit must be readable. -/
def narrowRead (s : State) (pa : Nat) : Except Stop Unit :=
  match withdrawnBy s pa with
  | some k => absent 4 k
  | none =>
    if stackAsleep s pa then .error .hold
    else if isPoisoned s (unitOf pa) then .error (.done sPoison 0)
    else .ok ()

/-- The physical address of a context's descriptor, and of a page's record (R306). -/
def ctxPa (s : State) (c : Nat) : Nat := s.kv.area.getD 0 + 33554432 + 256 * c
def recPa (s : State) (p : Nat) : Nat := s.kv.area.getD 0 + 33554432 + 256 * s.kv.ctxCount + 16 * p

/-- A command reads the descriptors of the contexts that its entries name. -/
def readCtxs (s : State) (cs : List Nat) : Except Stop Unit :=
  cs.eraseDups.forM fun c => if s.kv.area.isSome && decide (c < s.kv.ctxCount) then narrowRead s (ctxPa s c) else .ok ()

/-- Reads the page-list entry e of a context: the entry of its list block in the directory, then the entry itself. -/
def readListEntry (s : State) (c e : Nat) : Except Stop Unit := do
  narrowRead s (pagePa s (ctxOf s c).dir + 8 * (e / 8192))
  match tabFind (tabGet s.kv.dirs c []) (e / 8192) with
  | some d => narrowRead s (pagePa s d.index + 8 * (e % 8192))
  | none => .ok ()

/-! ## Spill (R180, R335, R336) -/

/-- DEAL_SEQ that commands started now belong to: the open deal, or the next one. -/
def dealNow (s : State) : Nat := match s.dealer.cur with | some d => d.seq | none => s.dealer.dealSeq + 1

/-- The cold page with the lowest LAST_DEAL (R336). -/
def coldPage (s : State) (tenant : Nat) (fore : List Nat) : Option (Nat × PageRec) :=
  let busy (c : Nat) : Bool :=
    fore.contains c || (match s.dealer.cur with
      | some d => d.slots.any fun t => t.ctx == c && decide (0 < t.tokens)
      | none => false)
  let cold := s.kv.pages.filter fun p =>
    p.2.kind == 1 && !p.2.isOpen && p.2.tenant == tenant && !busy p.2.ctx && decide (p.2.lastDeal < dealNow s % 2 ^ 32)
  cold.foldl (fun best p =>
    match best with
    | none => some p
    | some b => if p.2.lastDeal < b.2.lastDeal then some p else best) none

/-- The frame that a spill takes: the lowest free one of the lowest far pool, else of the lowest host pool. -/
def freeFrame (s : State) : Option (Nat × Nat × SpillFrame) :=
  let pick (tier : Nat) : Option (Nat × Nat × SpillFrame) :=
    (s.kv.pools.filter fun p => p.2.tier == tier).findSome? fun p =>
      (p.2.frames.find? fun f =>
        f.2.page.isNone && (tier == 1 || ((farSlotOf s f.2.loc).map fun k => k.2.state == 1).getD false)).map fun f => (p.1, f.1, f.2)
  (pick 0).or (pick 1)

/-- Sets the page that a frame holds; a frame of a pool under withdrawal leaves the pool when its page comes back (R182). -/
def setFrame (s : State) (pool i : Nat) (page : Option (Nat × Nat)) : State :=
  match tabFind s.kv.pools pool with
  | none => s
  | some p =>
    match tabFind p.frames i with
    | none => s
    | some f =>
      let frames := if page.isNone && p.withdrawing then tabErase p.frames i else tabPut p.frames i { f with page := page }
      { s with kv := { s.kv with
        pools :=
          if frames.isEmpty then tabErase s.kv.pools pool else tabPut s.kv.pools pool { p with frames := frames } } }

/-- Writes a page's bytes to a frame as they are held; false if the write-out is lost. -/
def frameOut (s : State) (f : SpillFrame) (pa : Nat) : State × Bool :=
  let bs := memRead s.memories.mem pa 65536
  let bad := (unitsOf pa 65536).filter (isPoisoned s)
  if f.host = 0 then
    let s1 := (putMem s f.loc bs).1
    ({ s1 with memories := { s1.memories with poison := s1.memories.poison ++ bad.map fun u => u - pa + f.loc } }, true)
  else if !bad.isEmpty || !portLive s (f.host - 1) || hostRefuses s (f.host - 1) f.loc 65536 then (s, false)
  else (hostPut s (f.host - 1) f.loc bs, true)

/-- Spills a page (Table 12-13, step 4); none if no frame is free. -/
def spillPage (s : State) (page : Nat) (r : PageRec) : Option State :=
  (freeFrame s).map fun (pool, i, f) =>
    let (s1, ok) := frameOut s f (pagePa s page)
    let s2 := if ok then setFrame (putMade s1 r.ctx r.entry ⟨2, false, pool, i⟩) pool i (some (r.ctx, r.entry))
      else putMade s1 r.ctx r.entry ⟨3, false, 0, 0⟩
    let s3 := freePage s2 page
    { s3 with dealer := { s3.dealer with spilledInDeal := s3.dealer.spilledInDeal + 1 } }

/-- Takes a page (Table 12-13, steps 2 to 5): the page, or none with the cause of step 6. -/
def takePage (fore : List Nat) : Nat → State → PageRec → State × Except Nat Nat
  | 0, s, _ => (s, .error 2)
  | n + 1, s, r =>
    match allocPage s r with
    | some (s1, p) => (s1, .ok p)
    | none =>
      let cause := if (grantOf s r.tenant).1 ≤ residentOf s r.tenant then 1 else 2
      if !(grantOf s r.tenant).2 then (s, .error cause)
      else
        match coldPage s r.tenant fore with
        | none => (s, .error cause)
        | some (v, vr) =>
          match spillPage s v vr with
          | none => (s, .error cause)
          | some s1 => takePage fore n s1 r

def takeFuel (s : State) : Nat := s.kv.pages.length + 1

/-! ## Open state (R356) -/

/-- Whether a command names a context: in CONTEXT or in an entry. -/
def namesCtx (f : Flight) (c : Nat) : Bool :=
  let k := opClass f.cmd.opcode
  (decide (1 ≤ k && k ≤ 7) && f.cmd.context == c) || f.ctxs.contains c

/-- Discards the open state of a context (R356). -/
def discardOpen (s : State) (c : Nat) : State :=
  let sp := specOf s c
  if !sp.isOpen then s
  else
    let dir := tabGet s.kv.openDirs c []
    let pages := (if dir.isEmpty then [] else [sp.dir]) ++ dir.map fun e => e.2.index
    let on := (s.flights.list.filter fun f => isStarted f && readsOpen f && namesCtx f c).map fun f => f.cid
    let s1 := putSpec s c { sp with isOpen := false }
    let s2 := { s1 with kv := { s1.kv with
      openDirs := tabErase s1.kv.openDirs c
      old := if pages.isEmpty then s1.kv.old else s1.kv.old ++ [⟨pages, on⟩] } }
    sweepOld s2

/-! ## Holds (R337) -/

/-- Makes a LIVE context held in a deal. -/
def holdCtx (s : State) (c hold deal : Nat) : State :=
  if (ctxOf s c).state ≠ 1 then s
  else
    let s1 := modCtx s c fun x => { x with state := 2, hold := hold, heldDeal := deal % 2 ^ 32 }
    let s2 := { s1 with dealer := { s1.dealer with heldInDeal := s1.dealer.heldInDeal + 1 } }
    discardOpen s2 c

/-- Why a command or entry of a held context fails (R337), with its cause. -/
def heldStatus (s : State) (c deal : Nat) : Option (Nat × Nat) :=
  let x := ctxOf s c
  if x.state ≠ 2 then none else if x.heldDeal = deal % 2 ^ 32 then some (sKvFull, 5) else some (sHeld, x.hold)

/-- DETAIL of the key-value statuses (R341). -/
def kvDetail (c cause : Nat) : Nat := cause + c * 2 ^ 8

def sKvLost : Nat := 0x0023
def sOpenGone : Nat := 0x0024

/-- Whether a context has open state that a command of a deal may read (R349, R351). -/
def openReadable (s : State) (c deal : Nat) : Bool :=
  let sp := specOf s c
  sp.isOpen && (sp.deal == deal % 2 ^ 32 || (sp.deal + 1) % 2 ^ 32 == deal % 2 ^ 32)

/-! ## Pages that a row needs (R335, R339, R353) -/

/-- What a step on a row's page gives: nothing more to do, or a failure with status and cause. -/
abbrev RowFail := Option (Nat × Nat)

/-- The directory entry of a list block is made resident. -/
def takeList (s : State) (c blk deal : Nat) : State × Except Nat Unit :=
  let dir := tabGet s.kv.dirs c []
  match tabFind dir blk with
  | some _ => (s, .ok ())
  | none =>
    let t := (ctxOf s c).tenant
    match takePage [] (takeFuel s) s ⟨2, false, t, c, blk, deal % 2 ^ 32⟩ with
    | (s1, .ok p) => ({ s1 with kv := { s1.kv with dirs := tabPut s1.kv.dirs c (tabPut dir blk ⟨1, false, 0, p⟩) } }, .ok ())
    | (s1, .error q) => (s1, .error q)

/-- Takes the pages of entry e of a context in ascending need: list block, then page (Table 12-13). -/
def takeMade (s : State) (c e deal : Nat) : State × Except Nat Unit :=
  match takeList s c (e / 8192) deal with
  | (s1, .error q) => (s1, .error q)
  | (s1, .ok _) =>
    if (madeAt s1 c e).state ≠ 0 then (s1, .ok ())
    else
      match takePage [] (takeFuel s1) s1 ⟨1, false, (ctxOf s1 c).tenant, c, e, deal % 2 ^ 32⟩ with
      | (s2, .ok p) => (putMade s2 c e ⟨1, false, 0, p⟩, .ok ())
      | (s2, .error q) => (s2, .error q)

/-- The frame that a SPILLED entry names. -/
def frameOf (s : State) (pe : PageEntry) : Option SpillFrame := (tabFind s.kv.pools pe.pool).bind fun p => tabFind p.frames pe.index

/-- Reads a frame back; none if it cannot be read. -/
def frameIn (s : State) (f : SpillFrame) : Except Stop (List Byte) :=
  if f.host = 0 then .ok (memRead s.memories.mem f.loc 65536)
  else if !portLive s (f.host - 1) then absent 6 (f.host - 1)
  else if hostRefuses s (f.host - 1) f.loc 65536 then .error (.done sFault (faultCode codeHostRefused))
  else .ok (hostRead s (f.host - 1) f.loc 65536)

/-- Brings back a SPILLED page (R339): done, or the failure of its entry, or a stop of the command. -/
def bringBack (fore : List Nat) (s : State) (c e deal : Nat) : State × Except Stop RowFail :=
  let x := madeAt s c e
  if x.state = 3 then (holdCtx s c 2 deal, .ok (some (sKvLost, 0)))
  else if x.state ≠ 2 then (s, .ok none)
  else
    match frameOf s x with
    | none => (s, .ok none)
    | some f =>
      match frameIn s f with
      | .error q => (s, .error q)
      | .ok bs =>
        match takePage fore (takeFuel s) s ⟨1, false, (ctxOf s c).tenant, c, e, deal % 2 ^ 32⟩ with
        | (s1, .error _) => (holdCtx s1 c 1 deal, .ok (some (sKvFull, 6)))
        | (s1, .ok p) =>
          let bad := (unitsOf f.loc 65536).filter fun u => f.host == 0 && isPoisoned s u
          let s2 := (putMem s1 (pagePa s1 p) bs).1
          let s3 := { s2 with memories := { s2.memories with
            poison := s2.memories.poison ++ bad.map fun u => u - f.loc + pagePa s1 p } }
          let s4 := setFrame (putMade s3 c e ⟨1, false, 0, p⟩) x.pool x.index none
          ({ s4 with dealer := { s4.dealer with broughtInDeal := s4.dealer.broughtInDeal + 1 } }, .ok none)

/-- Marks the deal in which a page was last read or written (R313). -/
def touchPage (s : State) (p deal : Nat) : State :=
  { s with kv := { s.kv with
    pages :=
      s.kv.pages.map fun r => if r.1 = p then (p, { r.2 with lastDeal := deal % 2 ^ 32 }) else r } }

/-- Marks the list block and the directory that a command read or wrote for entry e of a context (R313). -/
def touchLists (s : State) (c e deal : Nat) : State :=
  let s1 := touchPage s (ctxOf s c).dir deal
  match tabFind (tabGet s.kv.dirs c []) (e / 8192) with
  | some d => touchPage s1 d.index deal
  | none => s1

/-- What an at.append or sp.verify entry needs before it writes a made row: its page present (R326, R335). -/
def needMade (s : State) (c layer pos deal : Nat) : State × Except Stop RowFail :=
  let r := ctxAttn s c
  let x := ctxOf s c
  let e := (madeEntry r x.segBase layer pos).1
  let fail (s : State) (cause : Nat) : State × Except Stop RowFail := (holdCtx s c 1 deal, .ok (some (sKvFull, cause)))
  if 67108864 ≤ e then fail s 4
  else if x.segLimit ≠ 0 && x.segLimit ≤ pos - x.segBase then fail s 3
  else
    match readListEntry s c e with
    | .error q => (s, .error q)
    | .ok _ =>
      match takeMade (touchLists s c e deal) c e deal with
      | (s1, .error q) => fail s1 q
      | (s1, .ok _) => bringBack s1.dealer.forecast s1 c e deal

/-- The directory page of an open state, taken with its first page; the second component says whether it is there. -/
def openDirFor (s : State) (c deal : Nat) : State × Bool :=
  if (tabGet s.kv.openDirs c []).isEmpty then
    match takePage [] (takeFuel s) s ⟨3, true, (ctxOf s c).tenant, c, 0, deal % 2 ^ 32⟩ with
    | (s1, .ok p) => (putSpec s1 c { specOf s1 c with dir := p }, true)
    | (s1, .error _) => (s1, false)
  else (touchPage s (specOf s c).dir deal, true)

/-- What an OPEN at.append entry needs before it writes an open row (R353). An entry whose state a page failure of an earlier entry of the command
has discarded finds none (DESIGN CHOICE, log 68). -/
def needOpen (s : State) (c layer i deal : Nat) : State × RowFail :=
  let r := ctxAttn s c
  let x := ctxOf s c
  let e := (openEntry r layer i).1
  let fail (s : State) : State × RowFail := (discardOpen s c, some (sKvFull, 7))
  if !(specOf s c).isOpen then (s, some (sOpenGone, 0))
  else if x.segLimit ≠ 0 && x.segLimit ≤ x.position + i - x.segBase then fail s
  else
    match openDirFor s c deal with
    | (s1, false) => fail s1
    | (s1, true) =>
      if (openAt s1 c e).state ≠ 0 then (s1, none)
      else
        match takePage [] (takeFuel s1) s1 ⟨1, true, x.tenant, c, e, deal % 2 ^ 32⟩ with
        | (s2, .ok p) =>
          ({ s2 with kv := { s2.kv with
            openDirs := tabPut s2.kv.openDirs c (tabPut (tabGet s2.kv.openDirs c []) e ⟨1, true, 0, p⟩) } }, none)
        | (s2, .error _) =>
          -- a directory page that holds no entry goes back with the discard
          let s3 := if (tabGet s2.kv.openDirs c []).isEmpty then freePage s2 (specOf s2 c).dir else s2
          fail s3

/-- Bytes as a page of a context holds them, whole units where a key slot holds them (R426). -/
def sealPage (s : State) (c e off : Nat) (bs : List Byte) : List Byte :=
  let slot := (ctxOf s c).keySlot
  if slot = 0xFFF then bs else poolCrypt true (keySlotOf s slot) false c e (off / 64) bs

/-- Writes a run of a page where its frame holds it; the second component says that a poisoned unit was covered in part. -/
def writeFrame (s : State) (c e : Nat) (f : SpillFrame) (off : Nat) (data : List Byte) : State × Bool :=
  let lo := off / 64 * 64
  let hi := (off + data.length + 63) / 64 * 64
  let slot := (ctxOf s c).keySlot
  let held (n m : Nat) : List Byte := if f.host = 0 then memRead s.memories.mem (f.loc + n) m else hostRead s (f.host - 1) (f.loc + n) m
  let (o, bs) :=
    if slot = 0xFFF then (off, data)
    else (lo, sealPage s c e lo (patch (poolCrypt false (keySlotOf s slot) false c e (lo / 64) (held lo (hi - lo))) (off - lo) data))
  if f.host = 0 then putMem s (f.loc + o) bs else (hostPut s (f.host - 1) (f.loc + o) bs, false)

/-- Reads a row of a layer: zeros where no page is (R323). A page that a later bring-back of the same command spilled again is read from its frame,
whose bytes are the page's (R339; DEDUCED, log 68). -/
def readRow (s : State) (c layer pos : Nat) (isOpen : Bool) : Except Stop (List Byte) :=
  let r := ctxAttn s c
  let x := ctxOf s c
  let (e, row) := if isOpen then openEntry r layer (pos - x.position) else madeEntry r x.segBase layer pos
  let pe := if isOpen then openAt s c e else madeAt s c e
  let zeros := List.replicate (rowBytes r) 0#8
  if pe.state = 1 then readPage s c isOpen e pe.index (row * rowBytes r) (rowBytes r)
  else if pe.state = 2 then
    match frameOf s pe with
    | none => .ok zeros
    | some f => do
      let page ← frameIn s f
      if f.host = 0 && anyPoison s (f.loc + row * rowBytes r) (rowBytes r) then .error (.done sPoison 0)
      else
        let slot := (ctxOf s c).keySlot
        .ok (slice (if slot = 0xFFF then page else poolCrypt false (keySlotOf s slot) false c e 0 page) (row * rowBytes r) (rowBytes r))
  else .ok zeros

/-- The place of an open row of a context now, if it has a page. -/
def openSpot (s : State) (c layer pos : Nat) : Option OpenSpot :=
  let (e, row) := openEntry (ctxAttn s c) layer (pos - (ctxOf s c).position)
  let pe := openAt s c e
  if pe.state = 1 then some ⟨pe.index, e, row⟩ else none

/-- Writes a run of a resident page for a row, and marks the page. -/
def putPage (deal : Nat) (acc : State × Nat) (c : Nat) (isOpen : Bool) (e page off : Nat) (data : List Byte) : State × Nat :=
  let (s1, bad) := writePage acc.1 c isOpen e page off data
  (touchPage s1 page deal, if acc.2 = 0 && bad then sPoison else acc.2)

/-- Writes one key-value row; the status of R512 if it did not land. An open row goes to the page that the command found for it, which the device
keeps apart after a discard until the command ends (R356). A made row goes to its page, or to the frame that holds it if the page was spilled
while the command ran (R339; DEDUCED, log 68). -/
def putRow (deal : Nat) (acc : State × Nat) (w : RowWrite) : State × Nat :=
  let s := acc.1
  let r := ctxAttn s w.ctx
  match w.isOpen with
  | some o =>
    if (tabFind s.kv.pages o.page).any fun p => p.isOpen && p.ctx == w.ctx then
      putPage deal acc w.ctx true o.entry o.page (o.row * rowBytes r) w.data
    else acc
  | none =>
    let (e, row) := madeEntry r (ctxOf s w.ctx).segBase w.layer w.pos
    let pe := madeAt s w.ctx e
    if pe.state = 1 then putPage deal acc w.ctx false e pe.index (row * rowBytes r) w.data
    else if pe.state = 2 then
      match frameOf s pe with
      | none => acc
      | some f =>
        let (s1, bad) := writeFrame s w.ctx e f (row * rowBytes r) w.data
        (s1, if acc.2 = 0 && bad then sPoison else acc.2)
    else acc

def putRows (s : State) (deal : Nat) (ws : List RowWrite) : State × Nat := ws.foldl (putRow deal) (s, 0)

/-! ## RELEASE and TRIM (Table 12-6) -/

/-- Frees what one page-list entry holds: its page or its frame. -/
def freeEntry (s : State) (e : PageEntry) : State :=
  if e.state = 1 then freePage s e.index else if e.state = 2 then setFrame s e.pool e.index none else s

/-- The end of RELEASE: pages and frames are freed, and the descriptor becomes zero. -/
def finishRelease (s : State) (c : Nat) : State :=
  let x := ctxOf s c
  let s1 := (madeList s c).foldl (fun s e => freeEntry s e.2) s
  let s2 := (tabGet s.kv.dirs c []).foldl (fun s e => freeEntry s e.2) s1
  let s3 := freePage s2 x.dir
  { s3 with
    kv := { s3.kv with
      lists := tabErase s3.kv.lists c
      dirs := tabErase s3.kv.dirs c
      specs := tabErase s3.kv.specs c
      ctxs := tabErase s3.kv.ctxs c }
    dealer := { s3.dealer with holdEnd := s3.dealer.holdEnd ++ [x.tenant], requests := tabErase s3.dealer.requests c } }

/-- Zeroes rows from `row` on of a page-list entry's page or frame. -/
def zeroRows (s : State) (c e : Nat) (pe : PageEntry) (row : Nat) : State :=
  let r := ctxAttn s c
  let off := row * rowBytes r
  let zeros := List.replicate (65536 - off) 0#8
  if pe.state = 1 then (putPage (dealNow s) (s, 0) c false e pe.index off zeros).1
  else if pe.state = 2 then
    match frameOf s pe with
    | none => s
    | some f => (writeFrame s c e f off zeros).1
  else s

/-- The end of TRIM. -/
def finishTrim (s : State) (c newPos : Nat) : State :=
  let x := ctxOf s c
  let r := ctxAttn s c
  let rpp := rowsPerPage r
  let rows := newPos - x.segBase
  let first := ceilDiv rows rpp
  let gone := (madeList s c).filter fun e => first * r.layers ≤ e.1
  let s1 := gone.foldl (fun s e => freeEntry s e.2) s
  let s2 := { s1 with kv := { s1.kv with
    lists := tabSet s1.kv.lists c ((madeList s c).filter fun e => e.1 < first * r.layers) [] } }
  let s3 :=
    if rows % rpp = 0 then s2
    else ((madeList s2 c).filter fun e => e.1 / r.layers == rows / rpp).foldl (fun s e => zeroRows s c e.1 e.2 (rows % rpp)) s2
  let lists := touchPage ((tabGet s3.kv.dirs c []).foldl (fun s d => touchPage s d.2.index (dealNow s)) s3) x.dir (dealNow s3)
  let s4 := modCtx lists c fun x => { x with position := newPos }
  { s4 with dealer := { s4.dealer with holdEnd := s4.dealer.holdEnd ++ [x.tenant] } }

/-! ## The descriptor as bytes (Tables 12-1, 13-1) -/

/-- PAGES, SPILLED and OPEN_PAGES of a context. -/
def ctxPages (s : State) (c : Nat) : Nat := (s.kv.pages.filter fun p => p.2.ctx == c).length
def ctxSpilled (s : State) (c : Nat) : Nat := ((madeList s c).filter fun e => e.2.state == 2).length
def openPages (s : State) (c : Nat) : Nat :=
  let d := tabGet s.kv.openDirs c []
  if d.isEmpty then 0 else d.length + 1

def specNat (s : State) (c : Nat) : Nat :=
  let p := specOf s c
  b2n p.isOpen + p.limit * 2 ^ 4 + p.dir * 2 ^ 26 + openPages s c * 2 ^ 50 + p.deal * 2 ^ 64 + p.verifies * 2 ^ 96
    + p.madeTokens * 2 ^ 128

def ctxBytes (s : State) (c : Nat) : List Byte :=
  let x := ctxOf s c
  natLe 256 (x.state + x.hold * 2 ^ 4 + x.model * 2 ^ 8 + x.keySlot * 2 ^ 48 + x.tenant * 2 ^ 64 + x.adapter * 2 ^ 80
    + x.position * 2 ^ 96 + specNat s c * 2 ^ 128 + x.segBase * 2 ^ 296 + x.ring * 2 ^ 336 + x.segLimit * 2 ^ 344
    + x.dir * 2 ^ 368 + ctxPages s c * 2 ^ 416 + ctxSpilled s c * 2 ^ 448 + x.lastDeal * 2 ^ 480 + x.deals * 2 ^ 512
    + x.reportAsid * 2 ^ 544 + x.heldDeal * 2 ^ 576 + x.reportPtr * 2 ^ 608)

/-! ## The context area and the pool as bytes (R306, Tables 12-3, 12-4) -/

/-- The 8 bytes of a page-list or directory entry. -/
def entryNat (e : PageEntry) : Nat := e.state * 2 ^ 62 + b2n e.isOpen * 2 ^ 61 + e.pool * 2 ^ 56 + e.index

/-- The 16 bytes of a page record. -/
def recNat (r : PageRec) : Nat :=
  r.lastDeal * 2 ^ 96 + r.entry * 2 ^ 64 + r.ctx * 2 ^ 44 + r.tenant * 2 ^ 28 + b2n r.isOpen * 2 ^ 2 + r.kind

/-- The entry i of a LIST or DIRECTORY page. -/
def pageEntryAt (s : State) (r : PageRec) (i : Nat) : PageEntry :=
  if r.kind = 2 then madeAt s r.ctx (r.entry * 8192 + i)
  else if r.isOpen then openAt s r.ctx i else tabGet (tabGet s.kv.dirs r.ctx []) i emptyEntry

/-- A byte of the context area or of a LIST or DIRECTORY page, which the device keeps in its own records; none for the others. -/
def kvByte (s : State) (pa : Nat) : Option Byte :=
  match s.kv.area with
  | none => none
  | some base =>
    if ctxPa s 0 ≤ pa && pa < recPa s 0 then
      let o := pa - ctxPa s 0
      some (if (ctxOf s (o / 256)).state = 0 then 0#8 else (ctxBytes s (o / 256)).getD (o % 256) 0#8)
    else if base ≤ pa && recPa s 0 ≤ pa && pa < recPa s s.kv.poolPages then
      let o := pa - recPa s 0
      some (match tabFind s.kv.pages (o / 16) with
        | none => 0#8
        | some r => BitVec.ofNat 8 (recNat r / 2 ^ (8 * (o % 16))))
    else if s.kv.poolBase ≤ pa then
      let o := pa - s.kv.poolBase
      match tabFind s.kv.pages (o / 65536) with
      | none => none
      | some r =>
        if r.kind = 1 then none
        else some (BitVec.ofNat 8 (entryNat (pageEntryAt s r (o % 65536 / 8)) / 2 ^ (8 * (o % 8))))
    else none

end Sys2Proof.Machine
end

