-- ==== Sys2Proof/Machine/Service.lean ====
section
/-!
DEFINITION. Sys2Proof/Machine/Service.lean: errors, the fatal path, retirement and the ante. Hardware errors found inside a step
(R510, R511), the charging of faults (R32, R519 to R521), retirement (R33, R36, R37, R164 to R166), lost write-outs
(R512), the fatal path (R516 to R518), damaged slots (R214 to R216) and the resize of the ante (R41, R298).
-/

namespace Sys2Proof.Machine

/-! ## The sideband's report of a stop (R543) -/

/-- Drives ALERT_N low and raises the in-band interrupt, if the controller enables it. -/
def raiseAlert (s : State) (byte : Nat) : State :=
  let s1 := { s with module := { s.module with alertLow := true } }
  if s.sideband.ibiOn then
    send { s1 with sideband := { s1.sideband with pending := some byte } } (.ibi byte)
  else s1

/-! ## The fatal path (R516 to R518) -/

/-- Delivers an event to every set ring, whatever the roles (Table 20-7, step 5; Table 19-7, step 2); an unset ring counts it
as every event is counted. -/
def raiseEverywhere (s : State) (code : Nat) (payload : List Byte) : State :=
  let seq := wrapAdd 32 s.units.eventSeq 1
  let s1 := { s with units := { s.units with eventSeq := seq } }
  let record := natLe 2 code ++ natLe 2 0 ++ natLe 4 seq ++ stampBytes (stampNow s) ++ padTo 40 payload
  let one (s : State) (port : Nat) : State :=
    let m := mboxOf s port
    match m.ring with
    | none => deliverEvent record s port
    | some base =>
      if (m.evtTail + 2 ^ 32 - m.evtHead) % 2 ^ 32 = 2 ^ m.log2 || !portLive s port
          || hostRefuses s port (base + 64 * (m.evtTail % 2 ^ m.log2)) 64 then deliverEvent record s port
      else
        send (setMbox (hostPut s port (base + 64 * (m.evtTail % 2 ^ m.log2)) record) port
          { m with evtTail := wrapAdd 32 m.evtTail 1 }) (.msix port 1)
  one (one s1 0) 1

/-- The host bytes of the write-outs in progress at a stop: some units are written, and nothing says which (R516). -/
def stopWriteOuts (s : State) : State :=
  let ws := (s.flights.list.filter isCommitted).flatMap fun f => f.staged
  let one (acc : State × Nat) (w : SWrite) : State × Nat :=
    match w.loc, w.enc with
    | .host port addr, none =>
      let us := unitsOf addr w.data.length
      (us.zipIdx.foldl (fun st u =>
        let lo := max addr u.1
        let hi := min (addr + w.data.length) (u.1 + 64)
        if Config.stopWrote s.fresh (acc.2 + u.2) && portLive s port && !hostRefuses s port lo (hi - lo) then
          hostPut st port lo (slice w.data (lo - addr) (hi - lo))
        else st) acc.1, acc.2 + us.length)
    | _, _ => acc
  let s1 := (ws.foldl one (s, 0)).1
  { s1 with fresh := s1.fresh + 1 }

/-! ## A full start (R526, R528) -/

/-- The units-present map that a start begins with: every unit but those that the vault records as retired (R34). -/
def startMap (v : Vault) : UnitsMap := v.retired.foldl (fun m u => clearUnit u.1 u.2 m) UnitsMap.full

/-- The bands that the recorded channel retirements withdraw, per stack (R164). -/
def startBands (v : Vault) : Tab (List Nat) :=
  (v.retired.filter fun u => u.1 == 4).foldl (fun t u => tabMod t (u.2 / 32) [] fun l => l ++ [u.2 % 32]) []

/-- A stop that the vault could not record (R518). -/
def unrecorded : StopRec := { cause := 0, cls := 0, kind := 0, index := 0, addr := 0, dealSeq := 0, stamp := noStamp }

/-- The stop that the next start reports, if its record was not written. -/
def lostStop (s : State) : Option StopRec :=
  match s.boot.stop with
  | some r => if s.heldun.ready = 2 && s.vault.stopRec ≠ some r then some unrecorded else none
  | none => none

/-- What persists over a start, beside the module's pins: the vault. The hosts' memories, what has left the module, and the model's own
queue and counter are no state of the device. -/
def rebuilt (s : State) : State :=
  { State.reset with
    module := s.module
    vault := s.vault
    units := { State.reset.units with map := startMap s.vault }
    memories := { Memories.zeroed with withdrawn := startBands s.vault }
    heldun := { State.reset.heldun with prevStop := lostStop s }
    host0 := s.host0
    host1 := s.host1
    out := s.out
    fresh := s.fresh
    pending := s.pending }

/-- A full start begins at step 1: write-outs in progress may have written some of their units (R517), ALERT_N is released, and the far
ports' PERST goes low (R537). -/
def fullStart (s : State) : State :=
  let s1 := if s.flights.list.isEmpty then s else stopWriteOuts s
  let s2 := rebuilt { s1 with module := { s1.module with alertLow := false, railsOff := 0#16 } }
  send (send s2 (.perst 0 true)) (.perst 1 true)

/-! ## Mailbox responses (R443 to R447) -/

/-- Results of Table 17-9. -/
def mrOk : Nat := 0x0000
def mrNoHello : Nat := 0x0001
def mrUnsupported : Nat := 0x0002
def mrFormat : Nat := 0x0003
def mrRange : Nat := 0x0004
def mrRole : Nat := 0x0005
def mrState : Nat := 0x0006
def mrSig : Nat := 0x0007
def mrTxnConflict : Nat := 0x0008
def mrFault : Nat := 0x0009
def mrLimit : Nat := 0x000A
def mrSv : Nat := 0x000B

/-- Bit 31 of DETAIL: the field lies in the header. -/
def inHeader (off : Nat) : Nat := 2 ^ 31 + off

/-- The most payload bytes of a message (R443). -/
def mbLimit : Nat := 4064

/-- MB_HELLO. -/
def cmdHello : Nat := 0x0001

/-- The 32-byte response header of Table 17-8. -/
def responseHead (s : State) (code txn result len detail : Nat) : List Byte :=
  natLe 2 code ++ natLe 2 txn ++ natLe 2 result ++ natLe 2 len ++ natLe 1 0 ++ natLe 3 0 ++ natLe 4 detail ++ stampBytes (stampNow s)

/-- The response to a request; it has a payload only with MR_OK. -/
def responseOf (s : State) (code txn result detail : Nat) (payload : List Byte) : List Byte :=
  let body := if result = mrOk then payload else []
  responseHead s code txn result body.length detail ++ body

/-- Writes the response page, sets LAST_TXN and DONE, and sends MSI-X vector 0 (Table 17-6, step 5). -/
def respond (s : State) (port txn : Nat) (response : List Byte) : State :=
  send (setMbox s port { mboxOf s port with response := response, lastTxn := txn, done := true }) (.msix port 0)

/-- The entries that the reply cache keeps. -/
def cacheEntries : Nat := 64

/-- Enters a response in the reply cache (R447). -/
def cacheReply (s : State) (port code : Nat) (rq : MbReq) (digest response : List Byte) : State :=
  if rq.txn = 0 || code = cmdHello then s
  else
    let m := mboxOf s port
    let l := m.cache ++ [⟨rq.txn, code, rq.length, digest, response⟩]
    setMbox s port { m with cache := l.drop (l.length - cacheEntries) }

/-- Whether a port's request is being served. -/
def mailboxBusy (s : State) : Bool := s.heldun.port0.busy || s.heldun.port1.busy

/-- A request that ran ends with its response; a device reset that waited for it begins (R461). -/
def endRequest (s : State) (code : Nat) (rq : MbReq) (result detail : Nat) (payload : List Byte) : State :=
  let s1 := setMbox s rq.port { mboxOf s rq.port with busy := false }
  let r := responseOf s1 code rq.txn result detail payload
  let s2 := respond (cacheReply s1 rq.port code rq (sha384 (padTo rq.length rq.payload)) r) rq.port rq.txn r
  if s2.heldun.resetDue && !mailboxBusy s2 then fullStart s2 else s2

/-! ## The stop itself -/

/-- DEAL_SEQ of the open deal, or 0. -/
def openDeal (s : State) : Nat := match s.dealer.cur with | some d => d.seq | none => 0

/-- Stops the device (Table 20-7). The first cause is the cause of the stop; `vaultUp` says whether the vault is reachable. -/
def fatalWith (s : State) (cause kind index addr : Nat) (vaultUp : Bool) : State :=
  if s.heldun.ready ≠ 1 then s
  else
    let r : StopRec :=
      { cause := cause, cls := 3, kind := kind, index := index, addr := addr, dealSeq := openDeal s, stamp := stampNow s }
    let s1 := stopWriteOuts s
    let s2 := { s1 with
      vault := { s1.vault with stopRec := if vaultUp then some r else s1.vault.stopRec }
      boot := { s1.boot with stop := some r }
      flights := { s1.flights with list := [] } }
    let s3 := raiseEverywhere s2 evError (errPayload ⟨3, cause, kind, index, 0, 0, addr⟩ 1 0 0)
    raiseAlert { s3 with heldun := { s3.heldun with ready := 2 } } cause

def fatal (s : State) (cause kind index addr : Nat) : State := fatalWith s cause kind index addr true

/-! ## The ante (R41, R298) -/

/-- The engines that are present and powered, ascending. -/
def poweredEngines (s : State) : List Nat := (List.range 64).filter (engineUsable s)

/-- The effective ante (R41). -/
def effectiveAnte (s : State) : Nat :=
  let n := (poweredEngines s).length
  if n ≤ s.dealer.ante then n - 1 else s.dealer.ante

/-- Recomputes the ante engines and raises EV_ANTE (R298). -/
def resizeAnte (s : State) : State :=
  let e := effectiveAnte s
  let set := ((poweredEngines s).take e).foldl (fun m n => putBit m n true) 0#64
  settleKitty (raiseEvent { s with dealer := { s.dealer with anteSet := set } } evAnte (natLe 8 e ++ natLe 8 set.toNat))

/-! ## The vault system area (Table 20-9) -/

/-- Raises VAULT_WEAR for an item once, when its count has reached 90 % of its limit (R522). -/
def wearCheck (s : State) (item index stack count limit : Nat) : State :=
  if count * 10 < limit * 9 || s.vault.wearRaised.contains item then s
  else
    raiseError { s with vault := { s.vault with wearRaised := item :: s.vault.wearRaised } }
      ⟨0, 0x24, 9, index, 0, 0, stack⟩

/-- One record write of the system area. -/
def recordWrite (s : State) : State :=
  let n := s.vault.systemWrites + 1
  wearCheck { s with vault := { s.vault with systemWrites := n } } 0x30000 Config.systemWearIndex 0 n 1536000

/-- The limit of record writes: 3,000 per row over 512 rows. -/
def systemLimit : Nat := 1536000

/-! ## Fault counts (R519) -/

def windowOf (s : State) (kind index : Nat) : FaultCount := tabGet s.units.window (unitKey kind index) ⟨0, 0, 0⟩

/-- The life count of a unit: what the vault records, and what is kept only until reset. -/
def lifeOf (s : State) (kind index : Nat) : Nat :=
  tabGet s.vault.life (unitKey kind index) 0 + (windowOf s kind index).life

/-- Adds 1 to a life count; past the record budget it is kept only until reset (Table 20-9). -/
def bumpLife (s : State) (kind index : Nat) : State :=
  let k := unitKey kind index
  if s.vault.systemWrites < systemLimit then
    recordWrite { s with vault := { s.vault with life := tabMod s.vault.life k 0 (· + 1) } }
  else
    { s with units := { s.units with
        window :=
          tabMod s.units.window k ⟨0, 0, 0⟩ fun c => { c with life := c.life + 1 } } }

/-- Whether the counts of a unit have reached a threshold of Table 20-8. -/
def overThreshold (kind : Nat) (c : FaultCount) (life : Nat) : Bool :=
  match kind with
  | 1 | 2 => decide (4 ≤ c.window) || decide (16 ≤ life)
  | 3 => decide (4 ≤ c.window) || decide (32 ≤ life)
  | 4 => decide (8 ≤ c.window) || decide (64 ≤ life) || decide (65536 ≤ c.window2)
  | 5 => decide (64 ≤ c.window) || decide (3 ≤ c.window2)
  | _ => false

/-- The EV_UNIT_RETIRED payload (Table 20-4). -/
def retiredPayload (s : State) (kind phase cause index : Nat) : List Byte :=
  natLe 1 kind ++ natLe 1 phase ++ natLe 1 cause ++ natLe 1 0 ++ natLe 4 index ++ natLe 4 s.units.map.mapSeq
    ++ natLe 4 (lifeOf s kind index)

/-- Records a retirement in the vault (R34). -/
def recordRetired (s : State) (kind index : Nat) : State :=
  if s.vault.retired.contains (kind, index) then s
  else recordWrite { s with vault := { s.vault with retired := s.vault.retired ++ [(kind, index)] } }

/-! ## What a retired unit leaves behind -/

/-- The lanes of a port that are present (R40). -/
def lanesHere (s : State) (p : Nat) : Nat := ((List.range 4).filter fun l => laneHere s (4 * p + l)).length

/-- The width of a port with n lanes (R40). -/
def widthOf (n : Nat) : Nat := if n = 4 then 4 else if 2 ≤ n then 2 else n

/-- Withdraws the next band of a stack for a channel (R164). -/
def withdrawBand (s : State) (channel : Nat) : State :=
  { s with memories := { s.memories with
      withdrawn :=
        tabMod s.memories.withdrawn (channel / 32) [] fun l => l ++ [channel % 32] } }

/-- Kills the uncommitted commands that a test selects, so that they are re-run (R36, R108). -/
def killWhere (s : State) (p : Flight → Bool) : State :=
  settle (setFlights s (s.flights.list.map fun f =>
    if onUnit f && !isCommitted f && p f then { discard s f with phase := .rerun none } else f))

/-- Poisons every unit of a run of stacked memory or the far tier. -/
def poisonRun (s : State) (pa len : Nat) : State :=
  { s with memories := { s.memories with
      poison :=
        s.memories.poison ++ (unitsOf pa len).filter fun u => !s.memories.poison.contains u } }

/-- The first device-local address of a list of staged runs. -/
def firstAddr (ws : List SWrite) : Nat :=
  (ws.findSome? fun w => match w.loc with | .mem pa => some pa | .host _ a => some a | _ => none).getD 0

/-- A write-out that was lost after its commit point: the ticket leaves the window, the record carries the status, no
signal is posted, and EV_ERROR is raised (R512). -/
def lostCommand (s : State) (f : Flight) (status detail kind index : Nat) : State :=
  let s1 := finalStatus (removeTicket s f) f status detail 0 false
  let s2 := raiseError s1 ⟨2, 0x18, kind, index, f.cmd.ticket, status, firstAddr f.staged⟩
  settle (resolveDups (s2.flights.list.length + 1) s2 f status)

/-- Poisons the 8-byte words of a cluster store that lie in the 64-byte units of a run. -/
def poisonWords (s : State) (pa len : Nat) : State :=
  let words := (unitsOf pa len).flatMap fun u => (List.range 8).map fun i => u + 8 * i
  { s with memories := { s.memories with
      wordPoison := s.memories.wordPoison ++ words.filter fun w => !s.memories.wordPoison.contains w } }

/-- Poisons every unit of the local destinations of a write-out that were not written (R512). -/
def poisonStaged (s : State) (f : Flight) : State :=
  f.staged.foldl (fun s w =>
    match w.loc with
    | .mem pa => if pa < storeBase then poisonRun s pa w.data.length else poisonWords s pa w.data.length
    | _ => s) s

/-- Loses the whole write-out of a command (R512). -/
def loseWriteOut (s : State) (f : Flight) (kind index : Nat) : State := lostCommand (poisonStaged s f) f sUe 0 kind index

/-! ## The end of a message that this device sent -/

/-- The message is answered: it waits no longer. -/
def answered (s : State) (id : Nat) : State :=
  { s with flights := { s.flights with
      sent := s.flights.sent.filter fun m => m.1 != id
      posted := s.flights.posted.filter fun p => p.msg != id } }

/-- MB_SHOE_INIT. -/
def cmdShoeInit : Nat := 0x4001

/-- The tail word of shoe 0 cannot be read: MB_SHOE_INIT responds MR_FAULT (R457). -/
def failInit (s : State) (id : Nat) : State :=
  match s.shoes.init with
  | some (i, rq) =>
    if i ≠ id then s
    else
      let s1 := { s with shoes := { s.shoes with init := none } }
      if serving s then endRequest s1 cmdShoeInit rq mrFault 0 [] else s1
  | none => s

/-- A message was refused or lost: the command that sent it ends with a status, a shoe that asked for bytes stops (R253), and a signal
or head word is lost (R251, R264). A command past its commit point loses its ticket (R512). -/
def failMessage (s : State) (id status detail port : Nat) : State :=
  let s1 := answered s id
  match s.flights.posted.find? fun p => p.msg == id with
  | some p => raiseError s1 ⟨2, p.cause, 0xC, p.shoe, p.ticket, 0, p.addr⟩
  | none =>
    match s.flights.list.find? fun f =>
      (match f.phase with | .peer ids => ids.contains id | .peerRead asked _ => asked.any fun a => a.1 == id | _ => false) with
    | some f =>
      match f.phase with
      | .peer _ => lostCommand (if status = sEpoch then s1 else poisonStaged s1 f) f status detail 6 (16 + port)
      | _ => complete s1 f status detail 0
    | none =>
      match s.shoes.tab.find? fun h => h.2.asked.any fun a => a.1 == id with
      | some h => stopShoe s1 h.1 0x02 (((h.2.asked.find? fun a => a.1 == id).map (·.2)).getD 0 % 2 ^ 53)
      | none => failInit s1 id

/-- DETAIL of S_UNIT_ABSENT for a Binik port (R39). -/
def portAbsent (port : Nat) : Nat := 6 + (16 + port) * 2 ^ 8

/-! ## A port goes down (R468) -/

/-- A port goes down: its bit clears, EV_LINK is raised, and what its peer has not acknowledged is lost. -/
def portDownOp (port reason : Nat) (s : State) : State :=
  let s1 := setTpLive (putLink s port { freeLink with peer := (linkOf s port).peer }) port false
  let s2 := linkEvent s1 port linkDown reason
  (s.flights.sent.filter fun m => m.2 == port).foldl (fun s m => failMessage s m.1 sUnitAbsent (portAbsent port) port) s2

/-! ## What follows a retirement -/

/-- Whether a command runs in a cluster: on one of its engines or movers. -/
def inCluster (c : Nat) (f : Flight) : Bool :=
  match f.place with
  | .engine n => n / 4 == c
  | .mover d _ => d == c
  | _ => false

/-- What follows when a unit's bits have been cleared: its commands, its buffers, R20, R23, and the ante (R36, R298).
`failed` says that the unit left service at once: only then are its running commands killed; at a boundary they run on (R36, R292). A port whose
last lane is gone goes down as by a loss of lock (R40, R468; DESIGN CHOICE, log 60). -/
def afterRetire (s : State) (kind index : Nat) (failed : Bool) : State :=
  match kind with
  | 1 =>
    let s1 := if failed then killWhere s (fun f => f.place == .engine index) else s
    let s2 := { s1 with trans := { s1.trans with level1 := tabErase s1.trans.level1 index } }
    if s2.units.map.engines = 0#64 then fatal s2 0x53 0 0 0 else resizeAnte s2
  | 2 =>
    let s1 := if failed then killWhere s (inCluster index) else s
    let s2 := if failed then (s1.flights.list.filter fun f => isCommitted f && inCluster index f).foldl
      (fun s f => loseWriteOut s f 2 index) s1 else s1
    let s3 := { s2 with trans := { s2.trans with
      level1 := s2.trans.level1.filter fun e => e.1 / 4 != index
      level2 := tabErase s2.trans.level2 index } }
    if s3.units.map.engines = 0#64 then fatal s3 0x53 0 0 0 else resizeAnte s3
  | 3 => if s.units.map.walkers = 0#32 then fatal s 0x55 0 0 0 else s
  | 4 => if s.units.map.channels = 0#256 then fatal s 0x54 0 0 0 else s
  | 5 =>
    let p := index / 4
    let w := widthOf (lanesHere s p)
    let s1 := { s with domain := { s.domain with
      links :=
        s.domain.links.map fun e => if e.1 = p then (p, { e.2 with lanes := min e.2.lanes w }) else e } }
    if w ≠ 0 then s1 else if (linkOf s1 p).state = 0 then setTpLive s1 p false else portDownOp p 1 s1
  | _ => s

/-- Takes a unit out of service and raises EV_UNIT_RETIRED with phase EFFECTIVE. -/
def retireEffective (s : State) (kind index cause : Nat) (failed : Bool) : State :=
  if !unitHere s kind index then s
  else
    let s0 :=
      if kind = 4 then
        let st := index / 32
        let q := tabGet s.memories.copying st []
        let s1 := if failed then { s with memories := { s.memories with lostChan := s.memories.lostChan ++ [index] } } else s
        if failed && q.isEmpty then withdrawBand s1 index
        else
          let s2 := { s1 with memories := { s1.memories with copying := tabSet s1.memories.copying st (q ++ [index % 32]) [] } }
          if q.isEmpty then withdrawBand s2 index else s2
      else s
    let s1 := mapChange s0 (clearUnit kind index)
    let s2 := { s1 with units := { s1.units with
      tests := s1.units.tests.filter fun t => !(t.kind == kind && t.index == index)
      acked := s1.units.acked.filter fun u => u != (kind, index)
      causes := tabErase s1.units.causes (unitKey kind index) } }
    let s3 := raiseEvent s2 evUnitRetired (retiredPayload s2 kind 1 cause index)
    afterRetire s3 kind index failed

/-- The immediate path of R33. -/
def retireNow (s : State) (kind index cause : Nat) : State :=
  if !unitHere s kind index then s else retireEffective (recordRetired s kind index) kind index cause true

/-- The deferred path of R33: recorded, pending, and EV_UNIT_RETIRED with phase PENDING; a unit that is pending raises no
second event (R521). -/
def retireDeferred (s : State) (kind index cause : Nat) : State :=
  if !unitHere s kind index || unitPending s kind index then s
  else
    let s0 := mapChange (recordRetired s kind index) (setPending kind index true)
    let s1 := { s0 with units := { s0.units with causes := tabPut s0.units.causes (unitKey kind index) cause } }
    raiseEvent s1 evUnitRetired (retiredPayload s1 kind 0 cause index)

/-- Charges a fault to a unit (R32, R519, R520): `second` for the second count of Table 20-8, `life` for its life count. -/
def charge (s : State) (kind index cause : Nat) (second life : Bool) : State :=
  if !unitHere s kind index then s
  else
    let k := unitKey kind index
    let s1 := { s with units := { s.units with window := tabMod s.units.window k ⟨0, 0, 0⟩ fun c =>
      if second then { c with window2 := c.window2 + 1 } else { c with window := c.window + 1 } } }
    let s2 := if life then bumpLife s1 kind index else s1
    let s3 :=
      if kind ≤ 3 && !underTest s2 kind index then
        { s2 with units := { s2.units with tests := s2.units.tests ++ [⟨kind, index, false⟩] } }
      else s2
    if overThreshold kind (windowOf s3 kind index) (lifeOf s3 kind index) then retireDeferred s3 kind index cause else s3

/-! ## Damaged weights (R212, R214 to R216) -/

/-- The EV_CUT_DONE payload. -/
def cutPayload (model slot result deals : Nat) : List Byte :=
  natLe 1 model ++ natLe 1 slot ++ natLe 1 result ++ natLe 1 0 ++ natLe 4 deals

/-- Changes a model; a change of what MODEL_HASH covers is announced on every port (R473, R474). -/
def putModel (s : State) (m : Nat) (x : Model) : State :=
  let t := { s with models := tabSet s.models m x ⟨none, none, none, none, 0, 0⟩ }
  if modelMeasure s m = modelMeasure t m then t else announce t

/-- A domain cut whose NEXT slot is damaged before the arrival withholds the arrival (R212). -/
def withholdArrival (s : State) (m epoch : Nat) : State :=
  if s.domain.barrier.sent then s
  else { s with domain := { s.domain with barrier := { s.domain.barrier with withheld := s.domain.barrier.withheld ++ [(m, epoch)] } } }

/-- A READY slot becomes DAMAGED: EV_ERROR, its readers end, and a domain cut to it is disarmed (R212, R215). -/
def damageSlot (s : State) (k : Nat) : State :=
  let sl := vaultSlot s k
  if sl.state ≠ .ready then s
  else
    let s1 := recordWrite { s with vault := { s.vault with slots := tabPut s.vault.slots k { sl with state := .damaged } } }
    let s2 := raiseError s1 ⟨2, 0x21, 0xD, k, 0, 0, 0⟩
    let readers := s2.flights.list.filter fun f => isStarted f && f.uses.any fun u => u.2 == k
    let s3 := readers.foldl (fun s f => complete s f sWeightsDamaged (0x01 + k * 2 ^ 8) 0) s2
    (List.range 16).foldl (fun s m =>
      let x := modelOf s m
      match x.next, x.armed with
      | some c, some e =>
        if c.slot = k && e ≠ 0 then
          raiseEvent (putModel (withholdArrival s m e) m { x with armed := none }) evCutDone (cutPayload m k 1 0)
        else s
      | _, _ => s) s3

/-- The slot that holds an extent. -/
def slotOfExtent (s : State) (x : Nat) : Option (Nat × Slot) := s.vault.slots.find? fun e => e.2.extents.contains x

/-- The granules of a row beside one of its group's: the data granules and the parity. -/
def rowOthers (extent : Nat) : List Nat :=
  [vaultGroup extent * 3, vaultGroup extent * 3 + 1, vaultGroup extent * 3 + 2, 1152 + vaultGroup extent].filter fun x => x != extent

/-- Whether the parity of a row does not cover what was written last: a slot that is WRITING has written a chunk of the row, and CLOSE or ABORT has
not written its parity yet (R198). The XOR of the row then has another hash (R214, log 67). -/
def staleRow (s : State) (group granule : Nat) : Bool :=
  s.vault.slots.any fun e => e.2.state == .writing && e.2.written.any fun c =>
    e.2.extents.getD (c / 64) 0 / 3 == group && c % 64 == granule / 16

/-- Whether a granule cannot be read. -/
def granuleGone (s : State) (extent granule : Nat) : Bool :=
  s.vault.stackFailed.getLsbD (granuleStack extent granule) || s.vault.badGranules.contains (extent, granule)

/-- Whether a data granule can be rebuilt: no other granule of its row is lost, and their XOR is the granule (R184, R214). -/
def canRebuild (s : State) (extent granule : Nat) : Bool :=
  !staleRow s (vaultGroup extent) granule && (rowOthers extent).all fun x => !granuleGone s x granule

/-- The data granules of a slot that hold payload. -/
def slotGranules (sl : Slot) : List (Nat × Nat) :=
  (List.range sl.chunks).flatMap fun c => (List.range 16).map fun i => (sl.extents.getD (c / 64) 0, c % 64 * 16 + i)

/-- The READY slots in a row that have a granule there which can be neither read nor rebuilt become DAMAGED (R214). -/
def damageRow (s : State) (group granule : Nat) : State :=
  ([3 * group, 3 * group + 1, 3 * group + 2].filter fun x => granuleGone s x granule && !canRebuild s x granule).foldl (fun s x =>
    match slotOfExtent s x with
    | some (k, sl) => if (slotGranules sl).contains (x, granule) then damageSlot s k else s
    | none => s) s

/-- Remembers a granule that its stack cannot correct. -/
def noteBad (s : State) (extent granule : Nat) : State :=
  if s.vault.badGranules.contains (extent, granule) then s
  else { s with vault := { s.vault with badGranules := s.vault.badGranules ++ [(extent, granule)] } }

/-- A granule that its stack cannot correct (R214): it stays so until it is written again, whichever slot holds it, and parity too. -/
def badGranule (s : State) (extent granule : Nat) : State :=
  let known := s.vault.badGranules.contains (extent, granule)
  let s1 := noteBad s extent granule
  let s2 :=
    match slotOfExtent s1 extent with
    | some (k, sl) =>
      if sl.state = .ready && canRebuild s1 extent granule then
        raiseError (if known then s1 else
            { s1 with vault := { s1.vault with slots := tabPut s1.vault.slots k { sl with degraded := satAdd 16 sl.degraded 1 } } })
          ⟨0, 0x20, 9, granuleStack extent granule, 0, 0, 0⟩
      else s1
    | none => s1
  damageRow s2 (vaultGroup extent) granule

/-- Whether a slot has a granule that can be neither read nor rebuilt. -/
def slotLost (s : State) (sl : Slot) : Bool := (slotGranules sl).any fun g => granuleGone s g.1 g.2 && !canRebuild s g.1 g.2

/-- The READY slots that a test selects become DAMAGED. -/
def damageWhere (s : State) (p : Slot → Bool) : State :=
  (s.vault.slots.filter fun e => e.2.state = .ready && p e.2).foldl (fun s e => damageSlot s e.1) s

/-- A vault stack fails as a whole (R216): each of its granules is served by rebuild, four to a chunk; a second failure
damages every READY slot, and so does a row that already lacks a granule of another stack. -/
def vaultStackLost (s : State) (stack : Nat) : State :=
  if 4 ≤ stack || s.vault.stackFailed.getLsbD stack then s
  else
    let second := s.vault.stackFailed != 0#4
    let lost (sl : Slot) : List (Nat × Nat) :=
      s.vault.badGranules.filter fun g => sl.extents.contains g.1 && granuleStack g.1 g.2 != stack
    let s1 := { s with vault := { s.vault with
      stackFailed := putBit s.vault.stackFailed stack true
      slots := s.vault.slots.map fun e =>
        if e.2.state = .ready then (e.1, { e.2 with degraded := min 0xFFFF (4 * e.2.chunks + (lost e.2).length) }) else e } }
    let s2 := raiseError s1 ⟨2, 0x22, 9, stack, 0, 0, 0⟩
    damageWhere s2 fun sl => second || slotLost s2 sl

/-! ## Hardware errors inside a step (Table 20-2, R511) -/

/-- The unit kind and index that a place names in an event. -/
def placeUnit : Place → Nat × Nat
  | .engine n => (1, n)
  | .mover c _ => (2, c)
  | _ => (8, 0)

/-- Applies one hardware error that a step of a command on a unit found. -/
def applyErr (place : Place) (ticket : Nat) (s : State) (e : HwErr) : State :=
  if s.heldun.ready ≠ 1 then s
  else
    match e with
    | .memCorrected pa =>
      charge (raiseError s ⟨0, 0x10, 4, channelIndex pa, 0, 0, pa⟩) 4 (channelIndex pa) 0x10 true false
    | .memPoisoned pa =>
      let s1 := poisonRun s (unitOf pa) 1
      charge (raiseError s1 ⟨1, 0x11, 4, channelIndex pa, 0, 0, unitOf pa⟩) 4 (channelIndex pa) 0x11 false true
    | .engineStoreCorrected n => raiseError s ⟨0, 0x12, 1, n, 0, 0, 0⟩
    | .engineStoreUe n =>
      charge (raiseError s ⟨2, 0x13, 1, n, ticket, if place == .engine n then sUe else 0, 0⟩) 1 n 0x13 false true
    | .clusterStoreCorrected c => raiseError s ⟨0, 0x12, 2, c, 0, 0, 0⟩
    | .clusterStoreUe pa =>
      let c := (pa - clusterBase) / clusterStride
      let w := pa / 8 * 8
      let s1 := { s with memories := { s.memories with
        wordPoison :=
          if s.memories.wordPoison.contains w then s.memories.wordPoison else s.memories.wordPoison ++ [w] } }
      charge (raiseError s1 ⟨1, 0x13, 2, c, 0, 0, w⟩) 2 c 0x13 false true
    | .datapath =>
      let (kind, index) := placeUnit place
      charge (raiseError s ⟨2, 0x14, kind, index, ticket, sUe, 0⟩) kind index 0x14 false true
    | .walkRedone w => charge (raiseError s ⟨0, 0x15, 3, w, 0, 0, 0⟩) 3 w 0x15 false true
    | .hubCorrected => raiseError s ⟨0, 0x16, 8, 0, 0, 0, 0⟩
    | .hubUe => fatal s 0x50 8 0 0
    | .bridgeUe b => fatal s 0x51 0xA b 0
    | .fabricUe r => fatal s 0x52 0xB r 0
    | .farPoison pa =>
      match farSlotOf s pa with
      | none => s
      | some (k, _) => raiseError (poisonRun s (unitOf pa) 1) ⟨1, 0x31, 6, 2 + k / 2, 0, 0, unitOf pa⟩
    | .vaultGranule x g => badGranule s x g
    | .vaultStackFailed st => vaultStackLost s st
    | .vaultWrite _ => s
    | .laneCorrected l => raiseError s ⟨0, 0x40, 5, l, 0, 0, 0⟩

/-- Applies the hardware errors of a step, in order. -/
def applyErrs (s : State) (place : Place) (ticket : Nat) (es : List HwErr) : State := es.foldl (applyErr place ticket) s

/-- Whether an error of a step ends the command that runs there with S_UE (R110, Table 20-2). -/
def endsUe (place : Place) (es : List HwErr) : Bool :=
  es.any fun e => match e with
    | .datapath => (match place with | .engine _ | .mover _ _ => true | _ => false)
    | .engineStoreUe n => place == .engine n
    | _ => false

end Sys2Proof.Machine
end

