-- ==== Sys2Proof/Machine/Release.lean ====
section
/-!
DEFINITION. Sys2Proof/Machine/Release.lean: what an action of the hub does once the commands that it waits for have committed or been
killed: invalidation (R232), the end of an address space (R226), of a shoe (R270, R271), of a store reassignment (R145),
of a context (R318), of an adapter (R390) and of a key slot (R419).
-/

namespace Sys2Proof.Machine

/-! ## Invalidation (R232) -/

/-- Removes from every buffer and walker cache the entries that two tests select. -/
def invalWhere (s : State) (leaf : Leaf → Bool) (node : NonLeaf → Bool) : State :=
  let t := s.trans
  { s with trans := { t with
    level1 := t.level1.map fun e => (e.1, e.2.filter fun l => !leaf l)
    level2 := t.level2.map fun e => (e.1, e.2.filter fun l => !leaf l)
    walkers := t.walkers.map fun e => (e.1, e.2.filter fun n => !node n) } }

/-- Whether any buffer holds a leaf that a test selects. -/
def anyLeaf (s : State) (leaf : Leaf → Bool) : Bool :=
  s.trans.level1.any (fun e => e.2.any leaf) || s.trans.level2.any fun e => e.2.any leaf

/-- Removes every entry of an address space. -/
def invalAsid (s : State) (a : Nat) : State := invalWhere s (fun l => l.asid == a) fun n => n.asid == a

/-- The started commands that a test selects. -/
def startedWhere (s : State) (self : Nat) (p : Flight → Bool) : List Nat :=
  (s.flights.list.filter fun f => f.cid != self && isStarted f && p f).map fun f => f.cid

/-! ## Segments (R143, R145) -/

def putSeg (s : State) (i : Nat) (g : Seg) : State :=
  { s with memories := { s.memories with segs := tabSet s.memories.segs i g ⟨0, 0, 0xFFF, none⟩ } }

/-- Whether kn.cstore_assign zeroes a segment: its kind or tenant changes, or it carries a tag (R145, R355, R427). -/
def segChanges (g : Seg) (kind tenant : Nat) : Bool :=
  g.kind != kind || g.tenant != tenant || g.openTag.isSome || g.keySlot != 0xFFF

/-- Zeroes and retags one segment of a run. -/
def assignSeg (c kind tenant : Nat) (s : State) (k : Nat) : State :=
  let g := segOf s c k
  if segChanges g kind tenant then putSeg (zeroMem s (segAt c k) 65536) (384 * c + k) ⟨kind, tenant, 0xFFF, none⟩ else s

/-! ## Shoes -/

/-- Returns a shoe area to the pool and zeroes the entry; a serving binding goes with it (Table 10-11, step 5, R294). -/
def freeShoeEntry (s : State) (n : Nat) : State :=
  { s with
    shoes := { s.shoes with tab := tabErase s.shoes.tab n, cache := s.shoes.cache.filter fun m => m != n }
    dealer := { s.dealer with serve := tabErase s.dealer.serve n } }

/-! ## The ends -/

/-- Whether what an action waits for has happened. -/
def drainDone (s : State) (d : Drain) (on : List Nat) : Bool :=
  match d with
  | .shoeDestroy n => !(s.flights.list.any fun f => f.shoe == n)
  | _ => !(s.flights.list.any fun f => on.contains f.cid && (isStarted f || f.phase == .placed))

/-- The state changes that end an action; the completion is posted after them. -/
def drainEffect (s : State) : Drain → State
  | .post => s
  | .asidDestroy a =>
    let s1 := invalAsid s a
    { s1 with trans := { s1.trans with asids := tabErase s1.trans.asids a } }
  | .shoeDestroy n => freeShoeEntry s n
  | .cstore c kind first count tenant => (List.range count).foldl (fun s i => assignSeg c kind tenant s (first + i)) s
  | .ctxRelease c => finishRelease s c
  | .ctxTrim c p => finishTrim s c p
  | .adapter a =>
    let r := tabFind s.adapters a
    match r with
    | none => s
    | some r => { afterWrite (zeroMem s r.base r.bytes) r.base r.bytes with adapters := tabErase s.adapters a }
  | .keySlot k =>
    let s1 := (s.memories.segs.filter fun e => e.2.keySlot == k).foldl (fun s e =>
      putSeg (zeroMem s (segAt (e.1 / 384) (e.1 % 384)) 65536) e.1 { e.2 with keySlot := 0xFFF, openTag := none }) s
    { s1 with keys := { s1.keys with slots := tabErase s1.keys.slots k } }

/-- Ends an action whose wait is over: its commit point, where that was not at its start, and its completion. -/
def finishDrain (s : State) (f : Flight) (d : Drain) : State :=
  match d with
  | .post => complete s f sOk f.result.detail f.result.aux
  | .shoeDestroy n =>
    let last := (shoeOf s n).lastTicket
    commitComplete (drainEffect s d) f last f.result.aux
  | d => commitComplete (drainEffect s d) f f.result.detail f.result.aux

/-- Puts an action into its wait, or ends it at once. -/
def drainOn (s : State) (f : Flight) (d : Drain) (on : List Nat) : State :=
  if drainDone s d on then finishDrain s f d else putFlight s { f with phase := .draining d on }

/-- A command that is placed, or that starts without being placed, starts anew: no action waits for its earlier attempt any more. -/
def forgetAttempt (s : State) (cid : Nat) : State :=
  let s1 := setFlights s (s.flights.list.map fun f =>
    match f.phase with
    | .draining d on => { f with phase := .draining d (on.filter fun c => c != cid) }
    | _ => f)
  { s1 with kv := { s1.kv with old := s1.kv.old.map fun o => { o with on := o.on.filter fun c => c != cid } } }

end Sys2Proof.Machine
end

