-- ==== Sys2Proof/Machine/Start.lean ====
section
/-!
DEFINITION. Sys2Proof/Machine/Start.lean: the start of a command, which every family shares: the taking of its unit, the zeroing of a
foreign operand area (R142, R355, R427), checks 7 to 9 of Table 10-6 (R422, R337, R349), the reading of the parameter
block (R257, R423), and what becomes of the outcome.
-/

namespace Sys2Proof.Machine

/-! ## What a command's start gives -/

/-- What a unit has staged when it has computed a command: destinations, other effects of its commit, FLAGS, and the step
count S of the cost model. -/
structure Staged where
  writes : List SWrite
  post   : Post
  flags  : FlagWord
  ctxs   : List Nat
  steps  : Nat
  detail : Nat
  marks  : List (Nat × Nat)
  units  : Nat
deriving DecidableEq, Repr

/-- The outcome of a start that did not stop. -/
inductive Plan where
  /-- A no-op that completes with S_OK at once (R258); its S. -/
  | noop (steps : Nat)
  /-- Results are staged; the commit point follows. -/
  | staged (r : Staged)
  /-- A vector program is ready to run; its S. -/
  | vector (vx : Vx) (steps : Nat)
  /-- The hub acted at once: the state after, the writes of its write-out, the S, and the record's DETAIL and AUX. -/
  | act (t : State) (writes : List SWrite) (steps detail aux : Nat)
  /-- The hub acted and waits: the state after, what follows, for whom, the S, and the record's DETAIL and AUX. -/
  | drain (t : State) (d : Drain) (on : List Nat) (steps detail aux : Nat)
  /-- The command waits in a phase: the state after and the S. -/
  | wait (t : State) (phase : Phase) (steps : Nat)
  /-- The command ends with a status after it changed state. -/
  | ended (t : State) (status detail : Nat)

/-- A staged outcome that only writes. -/
def onlyWrites (ws : List SWrite) (steps : Nat) : Plan := .staged ⟨ws, .none, 0#32, [], steps, 0, [], 0⟩

/-! ## Operand areas before the parameter block is read -/

def putArea (s : State) (n : Nat) (t : AreaTag) : State :=
  { s with memories := { s.memories with areaTags := tabPut s.memories.areaTags n t } }

/-- Zeroes an engine's operand area for a tenant. -/
def zeroArea (s : State) (n : Nat) (tenant : Option Nat) : State :=
  putArea { s with memories := { s.memories with areas := memZero s.memories.areas (areaAt n) areaBytes } } n
    ⟨tenant, false, 0xFFF, none⟩

/-- Readies an engine's operand area for a command: it stays, is taken, or is zeroed. -/
def readyArea (s : State) (n : Nat) (a : Actor) : State :=
  let t := tagOf s n
  match t.tenant with
  | none => putArea s n { t with tenant := a.tenant }
  | some _ =>
    let foreign := t.tenant ≠ a.tenant || t.keySlot ≠ a.slot || (t.openTag.map fun o => !openReader o a).getD false
    if foreign then zeroArea s n a.tenant else s

/-! ## Check 8 -/

/-- KEY_SLOT under R422: the cause of S_SEAL, if any. -/
def keyCause (s : State) (f : Flight) : Option Nat :=
  let k := f.cmd.keySlot % 4096
  let named := decide (1 ≤ opClass f.cmd.opcode && opClass f.cmd.opcode ≤ 7)
  let x := ctxOf s f.cmd.context
  if k = 0xFFF then if named && x.keySlot ≠ 0xFFF then some sealNoSlot else none
  else
    let ks := keySlotOf s k
    if ks.state ≠ 2 then some sealNoSlot
    else if ks.tenant ≠ f.tenant then some sealTenant
    else if f.sealedBy ≠ some k then some sealNotSealed
    else if named && (x.keySlot ≠ k ||
        (x.adapter ≠ 0xFFFF && (tabFind s.adapters x.adapter).any fun a => a.keySlot ≠ k)) then some sealNoSlot
    else none

/-- Check 8 of Table 10-6 with the hold of R337 and the OPEN check of R349. -/
def check8 (s : State) (f : Flight) : Run Unit := do
  let c := f.cmd.context
  let op := f.cmd.opcode
  let deal := f.deal.getD 0
  need ((asidRec s f.cmd.asid).state == 1) sFault (faultCode codeAsid)
  let named := decide (1 ≤ opClass op && opClass op ≤ 7)
  if named then
    need (ctxRegistered s c) sBadFormat (detCmd 8)
    need (f.cls == 0 || (ctxOf s c).tenant == f.tenant) sPrivilege (detCmd 8)
  match keyCause s f with
  | some q => finish sSeal (q + f.cmd.keySlot % 4096 * 2 ^ 8)
  | none => pure ()
  if named && op ≠ 0x4005 && op ≠ 0x6001 then
    match heldStatus s c deal with
    | some (st, q) => finish st (kvDetail c q)
    | none => pure ()
  if hasOpen f.cmd && opClass op ≠ 4 then
    need (openReadable s c deal) sOpenGone (c * 2 ^ 8)

/-! ## The parameter block -/

/-- Reads the parameter block; a command that names a key slot may not read it from a plain page (R423). Its bytes count in S and not
on a line (R49, R102). -/
def readParams (s : State) (f : Flight) (a : Actor) : Run (List Byte) := do
  let parts ← (piecesOf f.cmd.paramPtr f.cmd.paramLen).mapM fun p => do
    match (← spotOf s a false p.1 p.2) with
    | .weight _ _ => liftE denied
    | .loc l enc =>
      if a.slot ≠ 0xFFF && !enc && !inStore s l then liftE (sealed sealPlainDest a.slot)
      else
        liftE (readLoc s a enc p.1 l p.2)
  note fun g => { g with block := parts.flatten }
  pure parts.flatten

/-- The pages of COMPLETION_PTR and SIGNAL_TARGET, checked before the commit point (R263, R264). -/
def checkPosts (s : State) (f : Flight) : Run Unit := do
  if f.cmd.completion ≠ 0 then
    let _ ← liftE (postSpot s f false f.cmd.completion 32)
    note fun g => { g with pages := (f.cmd.completion / 65536, true) :: g.pages }
  if hasSignal f.cmd then
    let _ ← liftE (postSpot s f true f.cmd.sigTarget 8)
    note fun g => { g with pages := (f.cmd.sigTarget / 65536, true) :: g.pages }

/-- Whether the log touches a segment of a run that is being reassigned (R145). -/
def touchesReassigned (s : State) (segs : List (Nat × Nat)) : Bool :=
  s.flights.list.any fun g =>
    match g.phase with
    | .draining (.cstore c _ first count _) _ => segs.any fun x => x.1 == c && decide (first ≤ x.2 && x.2 < first + count)
    | _ => false

/-- A body of a command family: from the state, the actor, the flight and the parameter block to a plan. -/
abbrev Body := State → Actor → Flight → List Byte → Run Plan

/-- The row of one ACTION of a command: with another row's ACTION this row has not happened, and an ACTION that no row has
completes with S_BAD_FORMAT. -/
def onActionAt (off : Nat) (p : List Byte) (mine count : Nat) (act : Run Plan) : Run Plan :=
  if fld p off 1 = mine then act
  else if fld p off 1 < count then stopWith .hold
  else finish sBadFormat (detParam off)

/-- The row of one ACTION at byte 0. -/
def onAction (p : List Byte) (mine count : Nat) (act : Run Plan) : Run Plan := onActionAt 0 p mine count act

/-- The body of a command with its parameter block, then the checks of the posts. -/
def runBlock (s : State) (f : Flight) (body : Body) (p : List Byte) : Run Plan := do
  let plan ← body s (actorOf s f) f p
  checkPosts s f
  pure plan

/-- Checks 8 and 9, the body, and the checks of the posts. -/
def runBody (s : State) (f : Flight) (body : Body) : Run Plan := do
  check8 s f
  let p ← readParams s f (actorOf s f)
  runBlock s f body p

/-- A started command goes on with the parameter block that it has read: the block is not read again (R257). -/
def resumeBody (s : State) (f : Flight) (body : Body) : Run Plan := do
  note fun g => { g with block := f.block, pages := f.pages.map (fun p => (p, f.wrote.contains p)) ++ g.pages }
  runBlock s f body f.block

/-! ## Taking the unit -/

/-- The deal that a command belongs to (R303): the open one, else the next. -/
def withDeal (s : State) (f : Flight) : Flight :=
  { f with deal := f.deal.or (some (dealNow s)), live := f.live.or (some (liveNow s)) }

/-- How a row of a command begins: it does not happen, the command has ended, or it runs. -/
inductive Begun where
  | no
  | over (t : State)
  | go (t : State) (f : Flight)

/-- The flight of a start row: placed on its engine, or ready for the hub. -/
def startable (f : Flight) : Bool :=
  if needsEngine f.cmd.opcode then f.phase == .placed else (match f.phase with | .waiting | .rerun _ => true | _ => false)

/-- Takes the unit for an attempt: its counter runs from here, and the hardware errors of the step are applied. -/
def takeUnit (s : State) (f : Flight) (st : Start) : Begun :=
  let f0 := withDeal s { f with phase := .running, measured := f.measured }
  let f1 := { f0 with t0 := counterOf s (stepUnitOf f0), stepTime := stepTimeOf s f0.place, flags := 0#32, result := ⟨0, 0, 0⟩ }
  let s1 := match f1.place with
    | .engine n => readyArea s n (actorOf s f1)
    | _ => s
  let s1 := if needsEngine f.cmd.opcode then s1 else forgetAttempt s1 f1.cid
  let s2 := advance (putFlight (noteAck s1 f1.place) f1) (stepUnitOf f1) st.steps
  let s3 := applyErrs s2 f1.place f1.cmd.ticket st.errs
  if !serving s3 then .over s3
  else
    match flightOf s3 f1.cid with
    | none => .over s3
    | some f2 =>
      if f2.phase ≠ .running then .over s3
      else if endsUe f2.place st.errs then .over (complete s3 f2 sUe 0 0)
      else .go s3 f2

/-- Whether a mover's write-out holds an engine (R154). -/
def moverHolds (s : State) (n : Nat) : Bool :=
  s.flights.list.any fun f =>
    (match f.phase with
      | .heldEngine _ | .committed => true
      | _ => false) &&
    (match f.place with
      | .mover _ _ => f.staged.any fun w => match w.loc with | .area m _ => m == n | _ => false
      | _ => false)

/-- Whether a mover's write-out keeps a placed command from starting on its engine (R154). -/
def heldByMover (s : State) (f : Flight) : Bool := match f.place with | .engine n => moverHolds s n | _ => false

/-- A command begins on its unit: an engine command once its engine is not held by a mover, a hub or mover command once its fences, its shoe
and the order of a released batch let it (R237, R242, R259). -/
def begin (s : State) (st : Start) (place : Place) (p : Flight → Bool) : Begun :=
  if !serving s then .no
  else
    match flightOf s st.cid with
    | none => .no
    | some f =>
      if !p f || !startable f then .no
      else if needsEngine f.cmd.opcode then (if heldByMover s f then .no else takeUnit s f st)
      else
        match fencesOf s f with
        | .failed q => .over (complete s f sDependency q 0)
        | .wait => .no
        | .ready => if isReady s f && !(place == .hub && outranked s f fun g => hubOpcode g.cmd.opcode) then takeUnit s { f with place := place } st else .no

/-! ## Buffers (R227 to R229) -/

/-- Entries of the first level. -/
def level1Entries : Nat := 48

def sameLeaf (a b : Leaf) : Bool := a.asid == b.asid && a.va == b.va && a.level == b.level

/-- The set of a second-level entry. -/
def setOf (l : Leaf) : Nat := Config.l2Set l.asid (l.va / 65536) % 256

/-- The ways of a set (R227). -/
def ways : Nat := 8

/-- Puts a leaf in front of a second-level buffer, newest first; a set that is full drops its oldest leaf that is not pinned. -/
def fillL2 (ls : List Leaf) (l : Leaf) : List Leaf :=
  let rest := ls.filter fun m => !sameLeaf m l
  let mine := rest.filter fun m => setOf m == setOf l
  if mine.length < ways then l :: rest
  else
    match (mine.filter fun m => !m.pinned).getLast? with
    | some old => l :: rest.filter fun m => m != old
    | none => rest

def putLevel1 (s : State) (n : Nat) (ls : List Leaf) : State :=
  { s with trans := { s.trans with level1 := tabPut s.trans.level1 n (ls.take level1Entries) } }
def putLevel2 (s : State) (c : Nat) (ls : List Leaf) : State :=
  { s with trans := { s.trans with level2 := tabPut s.trans.level2 c ls } }

/-- The leaf that an access used where its unit holds `l` for the page: `l` itself, or the one of a new walk where `l` refuses the access (R229). -/
def usedLeaf (s : State) (p : Place) (kernel write : Bool) (va : Nat) (l : Leaf) : Leaf :=
  if (accessReason l.entry kernel write).isNone then l
  else
    match walkTables s p l.asid va true with
    | .ok (.leaf e lv) => ⟨l.asid, va / leafBytes lv * leafBytes lv, lv, e, false⟩
    | _ => l

/-- A cluster's second level takes the new leaf of a page, unless it holds a pinned one (R229, R233). -/
def renewL2 (s : State) (c : Nat) (va : Nat) (old new : Leaf) : State :=
  let ls := tabGet s.trans.level2 c []
  if old == new || ls.any (fun m => m.pinned && leafCovers m new.asid va) then s
  else if ls.any fun m => leafCovers m new.asid va then
    putLevel2 s c (fillL2 (ls.filter fun m => !leafCovers m new.asid va) new)
  else s

/-- One access of a unit: its leaf becomes the most recent of an engine's first level, which takes it from the second level if it has it there
(R227, R228). A page that no buffer holds is left to its walk. -/
def touchPage1 (p : Place) (asid : Nat) (kernel : Bool) (s : State) (pg : Nat × Bool) : State :=
  let va := 65536 * pg.1
  match p with
  | .engine n =>
    let l1 := tabGet s.trans.level1 n []
    match (l1.find? fun l => leafCovers l asid va).or ((tabGet s.trans.level2 (n / 4) []).find? fun l => leafCovers l asid va) with
    | none => s
    | some l =>
      let l' := usedLeaf s p kernel pg.2 va l
      let s1 := putLevel1 s n ({ l' with pinned := false } :: l1.filter fun m => !leafCovers m asid va)
      renewL2 s1 (n / 4) va l l'
  | .mover c _ =>
    match (tabGet s.trans.level2 c []).find? fun l => leafCovers l asid va with
    | none => s
    | some l => renewL2 s c va l (usedLeaf s p kernel pg.2 va l)
  | _ => s

/-- The accesses of a command, in order. -/
def touchBuffers (s : State) (f : Flight) (pages : List (Nat × Bool)) : State :=
  pages.eraseDups.reverse.foldl (touchPage1 f.place f.cmd.asid (f.cls == 0)) s

/-! ## The outcome -/

/-- The estimate of R50 for a command, at the step time of the level at which it started (R303). -/
def estOf (s : State) (f : Flight) (steps : Nat) (log : Log) : Nat := estimate s steps f.stepTime log.lines

/-- DETAIL of a status that a write-out which did not land gives (R512). -/
def lostDetail (f : Flight) (st : Nat) : Nat :=
  if st = sFault then faultCode codeHostRefused else if st = sSeal then sealTag + f.cmd.keySlot % 4096 * 2 ^ 8 else 0

/-- A write-out of the hub: it lands within the row, and R512 applies to it. -/
def hubWriteOut (s : State) (f : Flight) (ws : List SWrite) (detail aux : Nat) : State :=
  let s1 := enterTicket s f
  let (s2, st) := writeAll f s1 ws
  if st = 0 then complete s2 f sOk detail aux
  else lostCommand s2 { f with staged := ws } st (lostDetail f st) 8 0

/-- The far slots on which a log has bytes. -/
def farSlots (log : Log) : List Nat := (log.lines.filterMap fun u => match u.line with | .far k => some k | _ => none).eraseDups

/-- Neighbouring runs joined, for runs in ascending order. -/
def joinRuns : List (Nat × Nat) → List (Nat × Nat)
  | [] => []
  | (a, n) :: rest =>
    match joinRuns rest with
    | (b, m) :: more => if a + n = b then (a, n + m) :: more else (a, n) :: (b, m) :: more
    | [] => [(a, n)]

/-- A write of less than a whole unit of stacked memory reads the unit too: it counts as both under Table 7-4 (R167). -/
def partialUses (ws : List SWrite) : List Use :=
  let cov := coverOf ws
  (joinRuns cov).filterMap fun r =>
    let first := unitOf r.1
    let last := unitOf (r.1 + r.2 - 1)
    if r.2 = 0 || stackedEnd ≤ r.1 || ((r.1 % 64 == 0 || coversUnit cov first) && ((r.1 + r.2) % 64 == 0 || coversUnit cov last)) then none
    else some ⟨.stack (stackOf r.1), 0, 1024, false, false⟩

/-- The pages that a log names, and those among them that it wrote. -/
def pagesOf (log : Log) : List Nat := (log.pages.map (·.1)).eraseDups
def wrotePages (log : Log) : List Nat := ((log.pages.filter (·.2)).map (·.1)).eraseDups

/-- Applies a plan. -/
def applyPlan (s0 : State) (f : Flight) (plan : Plan) (log : Log) : State :=
  let s := touchBuffers s0 f log.pages
  let seen (t : State) : State := touchBuffers t f log.pages
  let g := { f with block := log.block, pages := pagesOf log, wrote := wrotePages log, touches := log.segs.eraseDups,
                    uses := log.uses.eraseDups, far := farSlots log }
  let est (n : Nat) : Flight := { g with cost := n, est := estOf s g n log }
  match plan with
  | .noop n => commitComplete s (est n) 0 0
  | .staged r =>
    putFlight s { g with
      cost := r.steps, est := estOf s g r.steps { log with lines := partialUses r.writes ++ log.lines }
      phase := .running, staged := r.writes, post := r.post, flags := r.flags, ctxs := r.ctxs, marks := r.marks, units := r.units, result := ⟨sOk, r.detail, 0⟩ }
  | .vector vx n => putFlight s { est n with phase := .vector vx, ctxs := [] }
  | .act t ws n d x => if serving t then hubWriteOut t (est n) ws d x else t
  | .drain t dr on n d x =>
    let f1 := { est n with result := ⟨sOk, d, x⟩ }
    drainOn (if dr = .post then enterTicket t f1 else t) f1 dr on
  | .wait t ph n => putFlight (seen t) { est n with phase := ph, units := ((flightOf t f.cid).map (·.units)).getD 0 }
  | .ended t st d => complete t g st d 0

/-- What becomes of a body's outcome: `s0` is the state before the row, which stands if the row waits. -/
def settleStart (s0 s : State) (f : Flight) (r : Except Stop (Plan × Log)) : State :=
  match r with
  | .error .hold => s0
  | .error .noWalker => fatal s 0x55 0 0 0
  | .error e => stopCommand s f e
  | .ok (plan, log) => if touchesReassigned s log.segs then s0 else applyPlan s f plan log

/-- A row that starts a command on its unit. -/
def startWith (place : Place) (p : Flight → Bool) (body : Body) (st : Start) (s : State) : State :=
  match begin s st place p with
  | .no => s
  | .over t => t
  | .go t f => settleStart s t f (runBody t f body emptyLog)

/-- A row whose command changes state before it computes, and keeps those changes if it is killed later (R326, R361): `check`
makes the checks, and gives none with an S for a no-op; `prep` takes pages and makes holds; `body` computes. -/
def startPrep {α β : Type} (place : Place) (p : Flight → Bool) (check : State → Actor → Flight → List Byte → Run (Except Nat α))
    (prep : State → Flight → α → State × Except Stop β) (body : State → Actor → Flight → α → β → Run Plan) (st : Start) (s : State) :
    State :=
  match begin s st place p with
  | .no => s
  | .over t => t
  | .go t f =>
    let first : Run (Except Nat α) := do
      check8 t f
      let ps ← readParams t f (actorOf t f)
      let r ← check t (actorOf t f) f ps
      match r with
      | .error n => do
        checkPosts t f
        pure (.error n)
      | .ok x => pure (.ok x)
    match first emptyLog with
    | .error e => settleStart s t f (.error e)
    | .ok (.error n, log) => settleStart s t f (.ok (.noop n, log))
    | .ok (.ok x, log) =>
      if touchesReassigned t log.segs then s
      else
        match prep t f x with
        | (t1, .error e) => settleStart s t1 f (.error e)
        | (t1, .ok y) =>
          let rest : Run Plan := do
            let plan ← body t1 (actorOf t1 f) f x y
            checkPosts t1 f
            pure plan
          settleStart s t1 f (rest log)

/-- The answer of a row: every row of this device gives a next state. -/
def answer (s : State) : Host.Outcome State Fault Refusal := .next s

/-- A row that starts a command of an opcode on its engine. -/
def startEngine (opcode : Nat) (body : Body) (st : Start) (s : State) : Host.Outcome State Fault Refusal :=
  answer (startWith .none (fun f => f.cmd.opcode == opcode) body st s)

/-- A row that runs a command of an opcode on the hub. -/
def startHub (opcode : Nat) (body : Body) (st : Start) (s : State) : Host.Outcome State Fault Refusal :=
  answer (startWith .hub (fun f => f.cmd.opcode == opcode) body st s)

end Sys2Proof.Machine
end

