-- ==== Sys2Proof/Machine/Post.lean ====
section
/-!
DEFINITION. Sys2Proof/Machine/Post.lean: what a command changes at its commit point beside its destinations: key-value rows (R326,
R360), routing boards (R372, R373, R377, R378) and gradient counts (R385), and the write-out that follows (R106, R107, R512).
-/

namespace Sys2Proof.Machine

/-! ## Routing boards -/

def sRoute : Nat := 0x0025
def routeClosed : Nat := 1
def routeGone : Nat := 2
def routeNotDealt : Nat := 3
def routeTwice : Nat := 4
def routeUnrouted : Nat := 5

/-- The number of routing boards (R372). -/
def boardCount : Nat := 16

/-- The board of a key, with its number. -/
def boardFor (s : State) (deal model layer : Nat) : Option (Nat × Board) :=
  s.boards.tab.find? fun b => b.2.deal == deal && b.2.model == model && b.2.layer == layer

def putBoard (s : State) (n : Nat) (b : Board) : State :=
  { s with boards := { s.boards with tab := tabPut s.boards.tab n b } }

/-- Releases a board: its contents are zeroed, and its key is remembered while its deal is open (R373). -/
def releaseBoard (s : State) (n : Nat) (b : Board) : State :=
  { s with boards := { s.boards with
      tab := tabErase s.boards.tab n
      released := ⟨b.deal, b.model, b.layer, b.deposits.map fun d => (d.ctx, d.t, d.isOpen)⟩ :: s.boards.released } }

/-- The boards of a key that have been released in its deal. -/
def releasedOf (s : State) (deal model layer : Nat) : List Released :=
  s.boards.released.filter fun r => r.deal == deal && r.model == model && r.layer == layer

/-- An entry of ex.route against a board that gathers: a token that has a deposit fails it (R377). -/
def routeEntryAt (b : Board) (e : RouteEntry) : RouteEntry :=
  if e.counted && e.status = sOk &&
      e.deposits.any (fun d => b.deposits.any fun x => x.ctx == d.ctx && x.t == d.t) then
    { e with status := sRoute, detail := routeTwice + e.ctx * 2 ^ 8 }
  else e

/-- An entry of ex.route against a closed board. -/
def routeEntryClosed (e : RouteEntry) : RouteEntry :=
  if e.counted && e.status = sOk then { e with status := sRoute, detail := routeClosed + e.ctx * 2 ^ 8 } else e

/-- The entry's status vector bytes with its final status in bytes 0 and 1 (R376). -/
def routeVector (e : RouteEntry) : List SWrite :=
  match e.vector with
  | [] => []
  | w :: ws => { w with data := patch w.data 0 (natLe 2 e.status) } :: ws

/-- The highest status of counted entries and the DETAIL of the first that failed (R325). -/
def worstEntry (es : List (Nat × Nat)) : Nat × Nat :=
  let bad := es.filter fun e => e.1 ≠ sOk
  (bad.foldl (fun m e => max m e.1) 0, (bad.head?.map (·.2)).getD 0)

/-- What happens at a commit point: the row waits, the command ends there, or it goes on with its write-out. -/
inductive AtCommit where
  | wait
  | failed (status detail : Nat) (marks : List (Nat × Nat))
  | go (s : State) (f : Flight)

/-- The commit point of ex.route. -/
def commitRoute (s : State) (f : Flight) (model layer : Nat) (recd : List Byte) (es : List RouteEntry) : AtCommit :=
  let deal := f.deal.getD 0
  let finish (es : List RouteEntry) (n : Nat) (b : Board) : AtCommit :=
    let counted := es.filter RouteEntry.counted
    let marks := counted.map fun e => (e.ctx, e.status)
    if !counted.isEmpty && counted.all (fun e => e.status ≠ sOk) then
      let w := worstEntry (counted.map fun e => (e.status, e.detail))
      .failed w.1 w.2 marks
    else
      let good := counted.filter fun e => e.status = sOk
      let s1 := putBoard s n { b with deposits := b.deposits ++ good.flatMap RouteEntry.deposits }
      .go s1 { f with staged := good.flatMap RouteEntry.writes ++ es.flatMap routeVector, marks := marks }
  match boardFor s deal model layer with
  | some (n, b) =>
    if b.closed then
      let counted := (es.map routeEntryClosed).filter RouteEntry.counted
      let w := worstEntry (counted.map fun e => (e.status, e.detail))
      .failed w.1 w.2 (counted.map fun e => (e.ctx, e.status))
    else finish (es.map (routeEntryAt b)) n b
  | none =>
    let n := firstGap s.boards.tab 0
    if !es.any RouteEntry.counted then .go s { f with staged := es.flatMap routeVector }
    else if boardCount ≤ n then .wait
    else finish es n ⟨deal, model, layer, false, false, recd, [], []⟩

/-- The commit point of ex.settle: its tokens are reported, and a board whose every deposit has been is released. A board that was released since the
settle read it, though its number or its key serve again, is none of the settle's. -/
def commitSettle (s : State) (n deal model layer gen : Nat) (toks : List (Nat × Nat)) : State :=
  match tabFind s.boards.tab n with
  | none => s
  | some b =>
    if b.deal = deal && b.model = model && b.layer = layer && (releasedOf s deal model layer).length = gen then
      let b' := { b with reported := b.reported ++ toks }
      if b'.deposits.all fun d => b'.reported.contains (d.ctx, d.t) then releaseBoard s n b' else putBoard s n b'
    else s

/-! ## Rows and counters -/

/-- The commit of one sp.verify entry: POSITION, the counters of Table 13-1, and the discard (R360). -/
def commitVerify (s : State) (e : VerifyEntry) : State :=
  let s1 := modCtx s e.ctx fun x => { x with position := x.position + e.made }
  let sp := specOf s1 e.ctx
  discardOpen (putSpec s1 e.ctx { sp with verifies := wrapAdd 32 sp.verifies 1, madeTokens := satAdd 40 sp.madeTokens e.made }) e.ctx

/-- An entry whose context another verify has advanced since it read its parameter block fails (Table 13-7). -/
def verifyEntryAt (s : State) (e : VerifyEntry) : VerifyEntry :=
  if e.status = sOk && (specOf s e.ctx).verifies ≠ e.verifies then { e with status := sOpenGone, detail := e.ctx * 2 ^ 8 } else e

/-- Keeps the status of R512 of rows that did not land. -/
def withRowStatus (f : Flight) (st : Nat) : Flight :=
  if st = 0 then f else { f with result := { f.result with status := st } }

/-- A write to an adapter's gradients counts in GRAD_WRITES (R385). -/
def countGrad (s : State) (a : Nat) : State :=
  match tabFind s.adapters a with
  | none => s
  | some r => { s with adapters := tabPut s.adapters a { r with gradWrites := wrapAdd 32 r.gradWrites 1 } }

/-- The commit point of sp.verify (R360): the rows, positions, counters and records of every successful entry as one unit. -/
def commitVerifies (s : State) (f : Flight) (es : List VerifyEntry) : AtCommit :=
  let good := es.filter fun e => e.status = sOk
  let marks := es.map fun e => (e.ctx, e.status)
  if good.isEmpty then
    let w := worstEntry (es.map fun e => (e.status, e.detail))
    .failed w.1 w.2 marks
  else
    let (s1, st) := putRows s (f.deal.getD 0) (good.flatMap VerifyEntry.rows)
    let vector (e : VerifyEntry) : List SWrite := e.vector.map fun w => { w with data := natLe 2 e.status }
    .go (good.foldl commitVerify s1)
      (withRowStatus { f with staged := good.flatMap VerifyEntry.writes ++ es.flatMap vector, marks := marks } st)

/-- What a command changes at its commit point. -/
def commitPost (s : State) (f : Flight) : AtCommit :=
  let deal := f.deal.getD 0
  match f.post with
  | .none => .go s f
  | .rows ws => let (s1, st) := putRows s deal ws; .go s1 (withRowStatus f st)
  | .verify es => commitVerifies s f (es.map (verifyEntryAt s))
  | .route model layer recd es => commitRoute s f model layer recd es
  | .settle n deal model layer gen toks => .go (commitSettle s n deal model layer gen toks) f
  | .grad a => .go (countGrad s a) f

/-- Charges the statuses that a command reports for the contexts of its entries (R291). -/
def chargeMarks (s : State) (f : Flight) (marks : List (Nat × Nat)) : State :=
  match f.deal with
  | none => s
  | some d => if hasOpen f.cmd then s else marks.foldl (fun s m => chargeStatus s d m.1 m.2) s

/-- Whether an engine runs a command that has not committed. -/
def engineRuns (s : State) (n : Nat) : Bool := s.flights.list.any fun g => g.place == .engine n && isStarted g

/-- Whether a mover's write-out must wait for an engine that runs an uncommitted command (R154). -/
def heldEngineOf (s : State) (f : Flight) : Option Nat :=
  match f.place with
  | .mover _ _ =>
    f.staged.findSome? fun w => match w.loc with
      | .area n _ =>
        if engineRuns s n then some n else none
      | _ => none
  | _ => none

/-- A command passes its commit point (R106): its ticket enters, its effects beside the destinations happen, and its
write-out is under way. -/
def passCommit (s : State) (f : Flight) : State :=
  match commitPost s f with
  | .wait => s
  | .failed st d marks => complete (chargeMarks s f marks) f st d 0
  | .go s1 f1 =>
    let s2 := enterTicket (chargeMarks s1 f1 f1.marks) f1
    let phase : Phase := match heldEngineOf s2 f1 with | some n => .heldEngine n | none => .committed
    settle (putFlight s2 { f1 with phase := phase })

/-- COMMIT_POINT (R106): the unit has finished its computation. -/
def commitPointOp (cid : Nat) (s : State) : State :=
  if !serving s then s
  else
    match flightOf s cid with
    | none => s
    | some f =>
      match f.place with
      | .engine _ | .mover _ _ => if f.phase = .running then passCommit s f else s
      | _ => s

/-! ## The write-out -/

/-- The contiguous runs of a list of staged writes to peers: device, address and bytes. -/
def peerRuns : List SWrite → List (Nat × Nat × List Byte)
  | [] => []
  | w :: ws =>
    match w.loc with
    | .peer q pa =>
      match peerRuns ws with
      | (q', pa', bs) :: rest =>
        if q = q' && pa + w.data.length = pa' then (q, pa, w.data ++ bs) :: rest else (q, pa, w.data) :: (q', pa', bs) :: rest
      | [] => [(q, pa, w.data)]
    | _ => peerRuns ws

/-- Sends the runs of a write-out to peers as peer writes (R154); none if a port is not live. -/
def sendRuns (epoch : Nat) : State → List (Nat × Nat × List Byte) → Option (State × List Nat)
  | s, [] => some (s, [])
  | s, (q, pa, bs) :: rest =>
    match sendTensor s 1 q epoch pa bs with
    | none => none
    | some (s1, id) =>
      match sendRuns epoch s1 rest with
      | none => none
      | some (s2, ids) => some (s2, id :: ids)

/-- Readies the operand areas that a mover's write-out reaches: contents of another tenant, deal or key slot are zeroed (R355, R432). -/
def readyAreas (s : State) (f : Flight) : State :=
  match f.place with
  | .mover _ _ =>
    let a := actorOf s f
    (f.staged.filterMap fun w => match w.loc with | .area n _ => some n | _ => none).eraseDups.foldl (fun s n =>
      let t := tagOf s n
      let foreign := (t.tenant.isSome && (t.tenant ≠ a.tenant || t.keySlot ≠ a.slot)) || (t.openTag.map fun o => !openReader o a).getD false
      if foreign then zeroArea s n a.tenant else s) s
  | _ => s

/-- The unit kind and index that a lost write-out names: its first port, else the unit that ran it (Table 20-6). -/
def lostUnit (f : Flight) : Nat × Nat :=
  match f.staged.findSome? fun w => match w.loc with | .host p _ => some p | _ => none with
  | some p => (6, p)
  | none => placeUnit f.place

/-- A write-out lands on this device and in host memory, and its command completes (R106, R107, R512). -/
def landWriteOut (s : State) (f : Flight) : State :=
  let (s1, st) := writeAll f (readyAreas s f) f.staged
  let st := if f.result.status ≠ sOk then f.result.status else st
  if st ≠ 0 then lostCommand s1 f st (lostDetail f st) (lostUnit f).1 (lostUnit f).2
  else complete s1 f sOk f.result.detail f.result.aux

/-- The write-out of a command past its commit point ends (R106, R107). A block with a part on another board device goes there first: nothing
is written here until that device has acknowledged all of it, and nothing at all if it refuses (R154). DESIGN CHOICE (log 64): the header of
Table 18-4 holds one address, so a destination of several runs goes as one message a run. -/
def endWriteOut (s : State) (f : Flight) : State :=
  match peerRuns f.staged with
  | [] => landWriteOut s f
  | runs =>
    match sendRuns (dealEpoch s f.deal) s runs with
    | none =>
      let port := 16 + meshPort s (runs.headD (0, 0, [])).1
      lostCommand (poisonStaged s f) f sUnitAbsent (6 + port * 2 ^ 8) 6 port
    | some (s1, ids) => putFlight s1 { f with phase := .peer ids }

/-- WRITE_OUT_END (R106): the unit's counter has advanced, and the errors found inside the write-out apply first. -/
def writeOutEndOp (st : Start) (s : State) : State :=
  if !serving s then s
  else
    match flightOf s st.cid with
    | none => s
    | some f =>
      if f.phase ≠ .committed then s
      else
        let s1 := applyErrs (advance s (stepUnitOf f) st.steps) f.place f.cmd.ticket st.errs
        if !serving s1 then s1
        else
          match flightOf s1 f.cid with
          | none => s1
          | some f1 =>
            if endsUe f1.place st.errs then loseWriteOut s1 f1 (placeUnit f1.place).1 (placeUnit f1.place).2
            else endWriteOut s1 f1

/-- COMMIT_POINT (R106). -/
def execCommitPoint (cid : Nat) (s : State) : Host.Outcome State Fault Refusal := answer (commitPointOp cid s)

/-- WRITE_OUT_END (R106). -/
def execWriteOutEnd (st : Start) (s : State) : Host.Outcome State Fault Refusal := answer (writeOutEndOp st s)

/-- DRAIN_COMPLETE (R145, R226, R232, R270, R390, R419, Table 12-6): the last command that an action waits for has committed
or been killed. -/
def drainCompleteOp (cid : Nat) (s : State) : State :=
  if !serving s then s
  else
    match flightOf s cid with
    | none => s
    | some f =>
      match f.phase with
      | .draining d on => if drainDone s d on then finishDrain s f d else s
      | _ => s

/-- DRAIN_COMPLETE (R232). -/
def execDrainComplete (cid : Nat) (s : State) : Host.Outcome State Fault Refusal := answer (drainCompleteOp cid s)

end Sys2Proof.Machine
end

