-- ==== Sys2Proof/Machine/Fetch.lean ====
section
/-!
DEFINITION. Sys2Proof/Machine/Fetch.lean: the front end. Doorbells (R249), the fetching of shoes (R251 to R253) with sealed rings
(R425) and rings on board peers (R248), and the checks made at fetch (R256, R266).
-/

namespace Sys2Proof.Machine

/-! ## Doorbells -/

/-- What a host reads from BAR2 at any offset (R249); the read changes nothing, and the table has no row for it. -/
def bar2Read (_ : Nat) : Nat := 0

/-- HOST_DOORBELL (R249): the bytes that the host wrote into its memory before it rang stand first. -/
def hostDoorbellOp (port shoe : Nat) (writes : List HostWrite) (s : State) : State :=
  let s1 := writes.foldl (fun s w => hostPut s w.port w.addr w.data) s
  let h := shoeOf s1 shoe
  if serving s1 && portLive s1 port && decide (port < 2) && h.state == 1 && h.dbPorts.getLsbD port then
    putShoe s1 shoe { h with pending := true }
  else s1

/-! ## Reading a ring -/

/-- Why a read of the front end does not give bytes: cause of Table 20-6, a wait, no walker, or bytes of a peer to ask for. -/
inductive FetchStop where
  | bad (cause : Nat)
  | hold
  | noWalker
  | ask (device addr len : Nat)
deriving DecidableEq, Repr

/-- The front end as it accesses memory for a shoe, with the rights of its class (R248). -/
def shoeActor (s : State) (h : Shoe) : Actor :=
  { place := .hub, cls := h.cls, asid := h.asid, opcode := 0, tenant := if h.cls = 0 then none else some h.tenant,
    slot := h.sealSlot, isOpen := false, deal := 0, live := liveNow s }

def fetchErr (e : Stop) : FetchStop :=
  match e with
  | .hold => .hold
  | .noWalker => .noWalker
  | _ => .bad 0x02

/-- Reads bytes within one page for a shoe: a peer's bytes come from what it has sent. -/
def fetchRead (s : State) (h : Shoe) (va len : Nat) : Except FetchStop (List Byte) :=
  let a := shoeActor s h
  match translate s .hub h.asid (actorKernel a) false va with
  | .error e => .error (fetchErr e)
  | .ok (e, l) =>
    match resolveLeaf s a false va len e l with
    | .error e => .error (fetchErr e)
    | .ok (.weight _ _) => .error (.bad 0x02)
    | .ok (.loc (.peer q pa) _) =>
      match h.got.find? fun g => g.1 == q * 2 ^ 53 + pa && g.2.length == len with
      | some g => .ok g.2
      | none => .error (.ask q pa len)
    | .ok (.loc l enc) =>
      match readLoc s a enc va l len with
      | .error e => .error (fetchErr e)
      | .ok bs => .ok bs

/-- Reads a sealed ring unit under its slot (R424, R425): the tenant counter, the sealed unit with its tag record, and its
plain bytes. Anything but a verified tenant unit gives SHOE_SEAL. -/
def ringUnit (s : State) (h : Shoe) (va : Nat) : Except FetchStop (Nat × List Byte × List Byte) :=
  let a := shoeActor s h
  let k := keySlotOf s h.sealSlot
  if k.state ≠ 2 then .error (.bad 0x03)
  else
    match translate s .hub h.asid (actorKernel a) false va with
    | .error e => .error (fetchErr e)
    | .ok (e, l) =>
      match resolveLeaf s a false va 4096 e l with
      | .ok (.loc (.host port addr) true) =>
        match openUnit s .hub h.sealSlot va port addr, tagPlace s .hub h.sealSlot va false with
        | .ok pt, .ok (tp, ta) =>
          let r := hostRead s tp ta 32
          if fld r 0 1 ≠ 0 then .error (.bad 0x03) else .ok (fld r 4 8, hostRead s port addr 4096 ++ r, pt)
        | .error (.done st _), _ => if st = sSeal then .error (.bad 0x03) else .error (.bad 0x02)
        | .error e, _ => .error (fetchErr e)
        | _, .error e => .error (fetchErr e)
      | .ok _ => .error (.bad 0x03)
      | .error (.done st _) => if st = sSeal then .error (.bad 0x03) else .error (.bad 0x02)
      | .error e => .error (fetchErr e)

/-- Accepts a sealed unit: its counter above the shoe's highest, or equal to it and the unit accepted with it (R425). -/
def acceptUnit (s : State) (n : Nat) (va ctr : Nat) (unit : List Byte) : Option State :=
  let h := shoeOf s n
  let u := va / 4096
  if h.ringHigh < ctr then
    let s1 := putShoe s n { h with ringHigh := ctr, ringUnits := [(u, unit)] }
    let k := keySlotOf s h.sealSlot
    some { s1 with keys := { s1.keys with
      slots := tabPut s1.keys.slots h.sealSlot { k with ringSeq := max k.ringSeq ctr } } }
  else if h.ringHigh = ctr && tabFind h.ringUnits u == some unit then some s
  else none

/-- Reads the slot at the head of a shoe. -/
def readSlot (s : State) (n : Nat) : Except FetchStop (State × List Byte) :=
  let h := shoeOf s n
  let va := h.ringPtr + 64 * (h.head % 2 ^ h.log2)
  if h.sealSlot = 0xFFF then (fetchRead s h va 64).map fun bs => (s, bs)
  else
    match ringUnit s h (va / 4096 * 4096) with
    | .error e => .error e
    | .ok (ctr, unit, pt) =>
      match acceptUnit s n va ctr unit with
      | none => .error (.bad 0x03)
      | some s1 => .ok (s1, slice pt (va % 4096) 64)

/-! ## A command at fetch -/

/-- A command as the front end fetches it. -/
def fetchedFlight (s : State) (n : Nat) (h : Shoe) (c : Cmd) : Flight :=
  { cid := s.flights.nextCid, shoe := n, seq := h.fetched, cls := h.cls, tenant := h.tenant,
    sealedBy := if h.sealSlot = 0xFFF then none else some h.sealSlot
    cmd := c, phase := .waiting, place := .none, deal := none, live := none, block := [], pages := [], wrote := [], ctxs := [], uses := [], t0 := 0,
    measured := 0, stepTime := 80, cost := 0, est := 0, preempt := 0, rank := none, flags := 0#32, result := ⟨0, 0, 0⟩, staged := [], post := .none,
    units := 0, touches := [], far := [], marks := [], seen := false }

/-- The command that a duplicate waits for: the earliest of its shoe with the same ticket that is itself no duplicate. -/
def originalOf (s : State) (f : Flight) : Option Flight :=
  s.flights.list.find? fun g =>
    g.shoe == f.shoe && g.cmd.ticket == f.cmd.ticket && g.cid != f.cid
      && (match g.phase with | .dup _ => false | _ => true)

/-- Checks 1 to 6 of Table 10-6 on a fetched command (R256, R266). -/
def checkFetched (s : State) (f : Flight) : State :=
  let fresh : State :=
    match fetchCheck f.cls (shoeOf s f.shoe).asid f.cmd with
    | none => s
    | some (st, d) => complete s f st d 0
  if f.cmd.ticket = 0 then fresh
  else
    match originalOf s f with
    | some g => putFlight s { f with phase := .dup g.cid }
    | none =>
      match ((shoeOf s f.shoe).window.filter fun e => e.1 == f.cmd.ticket).getLast? with
      | some (_, ptr) => complete s f sDuplicate ptr 0
      | none => fresh

/-- Takes one slot: HEAD and the counts advance, and the command is checked. -/
def takeSlot (s : State) (n : Nat) (bs : List Byte) : State :=
  let h := shoeOf s n
  let f := fetchedFlight s n h (cmdOfBytes bs)
  let s1 := putShoe s n { h with head := wrapAdd 32 h.head 1, fetched := h.fetched + 1 }
  let s2 := { s1 with flights := { s1.flights with list := s1.flights.list ++ [f], nextCid := s1.flights.nextCid + 1 } }
  checkFetched s2 f

/-! ## A turn of the front end -/

/-- The deal epoch that messages of the front end carry (R478). -/
def openEpoch (s : State) : Nat := match s.dealer.cur with | some d => d.epoch | none => s.dealer.lastEpoch

/-- Writes HEAD to the head word after a batch (R251); none if the write must wait. -/
def postHead (s : State) (n : Nat) : Option State :=
  let h := shoeOf s n
  if h.headPtr = 0 then some s
  else
    let a := shoeActor s h
    let bs := natLe 8 h.head
    let lost := some (raiseError s ⟨2, 0x08, 0xC, n, 0, 0, h.headPtr⟩)
    match translate s .hub h.asid (actorKernel a) true h.headPtr with
    | .error .hold => none
    | .error _ => lost
    | .ok (e, l) =>
      match resolveLeaf s a true h.headPtr 8 e l with
      | .error .hold => none
      | .error _ => lost
      | .ok (.weight _ _) => lost
      | .ok (.loc (.peer q pa) _) =>
        match sendTensor s 1 q (openEpoch s) pa bs with
        | some (s1, id) => some (notePosted s1 ⟨id, 0x08, n, 0, h.headPtr⟩)
        | none => lost
      | .ok (.loc l enc) =>
        let f := { fetchedFlight s n h (cmdOfBytes []) with place := .hub }
        let (s1, st) := writeRuns f s [⟨l, bs, if enc then some (h.asid, h.headPtr, h.sealSlot) else none⟩]
        if st = 0 then some s1 else lost

/-- The end of a batch of k slots. -/
def endBatch (s : State) (n k : Nat) : Option State :=
  if k = 0 then some s else postHead (advance s .frontEnd (8 + k)) n

/-- How a turn ends. -/
inductive Turn where
  | idle
  | full
  | stop (e : FetchStop) (va : Nat)
deriving DecidableEq, Repr

/-- Fetches slots HEAD to TAIL - 1 in batches of 16 while INFLIGHT is below 256; none if a write must wait. -/
def fetchSlots (n : Nat) : Nat → Nat → State → Option (State × Turn)
  | 0, k, s => (endBatch s n k).map fun s => (s, .idle)
  | m + 1, k, s =>
    let h := shoeOf s n
    if h.head = h.tail then (endBatch s n k).map fun s => (s, .idle)
    else if 256 ≤ inflight s n then (endBatch s n k).map fun s => (s, .full)
    else
      match readSlot s n with
      | .error e => (endBatch s n k).map fun s => (s, .stop e (h.ringPtr + 64 * (h.head % 2 ^ h.log2)))
      | .ok (s1, bs) =>
        let s2 := takeSlot s1 n bs
        if k = 15 then
          match endBatch s2 n 16 with
          | none => none
          | some s3 => fetchSlots n m 0 s3
        else fetchSlots n m (k + 1) s2

/-- Asks a board peer for bytes of a ring or a word; a port that is not live stops the shoe. The turn goes on when they have come: a doorbell
rung meanwhile sets PENDING, and the tail word is then read again (R252). -/
def askPeer (s : State) (n q pa len va : Nat) : State :=
  match sendTensor s 2 q (openEpoch s) pa (natLe 4 len) with
  | none => stopShoe s n 0x02 va
  | some (s1, id) => modShoe s1 n fun h => { h with resume := true, asked := h.asked ++ [(id, q * 2 ^ 53 + pa)] }

/-- What follows the end of a turn. -/
def endTurn (s0 s : State) (n : Nat) (t : Turn) : State :=
  match t with
  | .idle => modShoe s n fun h => { h with asked := [], got := [], resume := false }
  | .full => modShoe s n fun h => { h with pending := true, asked := [], got := [], resume := false }
  | .stop (.bad c) va => stopShoe s n c va
  | .stop .hold _ => s0
  | .stop .noWalker _ => fatal s 0x55 0 0 0
  | .stop (.ask q pa len) va => askPeer s n q pa len va

/-- Whether the front end may serve a shoe of a class (R251). -/
def servable (s : State) (cls n : Nat) (h : Shoe) : Bool :=
  h.state == 1 && h.cls == cls && (h.pending || h.resume) && h.asked.isEmpty && decide (inflight s n < 256)

/-- The next shoe of a class after the one last served. -/
def nextOf (s : State) (cls last : Nat) : Option Nat :=
  let mine := (s.shoes.tab.filter fun e => servable s cls e.1 e.2).map (·.1)
  (mine.find? fun n => decide (last < n)).or mine.head?

/-- The shoe that the front end serves: real-time first, then kernel, then user; and the shoes last served after it. -/
def nextShoe (s : State) : Option (Nat × (Nat × Nat × Nat)) :=
  let (k, u, r) := s.shoes.lastServed
  match nextOf s 2 r with
  | some n => some (n, (k, u, n))
  | none =>
    match nextOf s 0 k with
    | some n => some (n, (n, u, r))
    | none => (nextOf s 1 u).map fun n => (n, (k, n, r))

/-- The shoe entries that the front end holds (R251). -/
def cacheShoes : Nat := 4096

/-- The cache after a fetch of shoe n: it is the most recent; where the cache was full, the entry least recently fetched that is not a real-time
shoe's has gone (R251). -/
def cacheShoe (s : State) (n : Nat) : List Nat :=
  let rest := s.shoes.cache.filter fun m => m != n
  if rest.length < cacheShoes then n :: rest
  else
    match (rest.filter fun m => (shoeOf s m).cls != 2).getLast? with
    | some old => n :: rest.filter fun m => m != old
    | none => n :: rest

/-- A turn of a shoe begins, or goes on with what a peer has sent: its PENDING clears when it begins, it is the one last served of its class, and
its entry is in the cache. -/
def takeTurn (s : State) (n : Nat) (last : Nat × Nat × Nat) : State :=
  let s1 := modShoe s n fun h => if h.resume then { h with resume := false } else { h with pending := false }
  { s1 with shoes := { s1.shoes with lastServed := last, cache := cacheShoe s n } }

/-- Whether the entry of a shoe that is not in the cache cannot be read: its units in the shoe table are poisoned, or their band is withdrawn
(R173). DESIGN CHOICE (log 66): the shoe then stops as R253 says for a tail word. -/
def entryLost (s : State) (n : Nat) : Bool :=
  !s.shoes.cache.contains n && (anyPoison s (s.shoes.tableBase + 128 * n) 128 || (withdrawnBy s (s.shoes.tableBase + 128 * n)).isSome)

/-- The slots from HEAD up to a tail, modulo 2^32. -/
def slotsTo (h : Shoe) (tail : Nat) : Nat := (tail + 2 ^ 32 - h.head) % 2 ^ 32

/-- The rest of a turn once the tail word is read; `s0` is the state before the turn, which stands if the turn must wait. -/
def runTurn (s0 s : State) (n tail : Nat) : State :=
  let h := shoeOf s n
  let s1 := putShoe s n { h with tail := tail }
  if 2 ^ h.log2 < slotsTo h tail then stopShoe s1 n 0x01 h.tailPtr
  else
    match fetchSlots n (slotsTo h tail + 1) 0 s1 with
    | none => s0
    | some (t, turn) => endTurn s0 t n turn

/-- SHOE_FETCH (R252): one turn of the front end. -/
def shoeFetchOp (errs : List HwErr) (s : State) : State :=
  if !serving s then s
  else
    let s1 := applyErrs s .hub 0 errs
    if !serving s1 then s1
    else
      match nextShoe s1 with
      | none => s1
      | some (n, last) =>
        let s2 := takeTurn s1 n last
        let h := shoeOf s2 n
        if entryLost s1 n then stopShoe s2 n 0x02 (s1.shoes.tableBase + 128 * n) else
        match fetchRead s2 h h.tailPtr 8 with
        | .error e => endTurn s1 s2 n (.stop e h.tailPtr)
        | .ok w => runTurn s1 s2 n (fld w 0 4)

/-- HOST_DOORBELL (R249). -/
def execHostDoorbell (port shoe : Nat) (writes : List HostWrite) (s : State) : Host.Outcome State Fault Refusal :=
  answer (hostDoorbellOp port shoe writes s)

/-- SHOE_FETCH (R252). -/
def execShoeFetch (errs : List HwErr) (s : State) : Host.Outcome State Fault Refusal := answer (shoeFetchOp errs s)

end Sys2Proof.Machine
end

