-- ==== Sys2Proof/Machine/Shoes.lean ====
section
/-!
DEFINITION. Sys2Proof/Machine/Shoes.lean: kn.shoe (R268 to R271), sy.signal (R272) and sy.wait (R273, R274).
-/

namespace Sys2Proof.Machine

/-! ## The shoe table entry (Table 10-2) -/

/-- The physical address of a shoe area. -/
def areaPa (s : State) (i : Nat) : Nat := s.shoes.areaBase + 131072 * i

/-- The 128 bytes of a shoe table entry. -/
def shoeBytes (s : State) (n : Nat) : List Byte :=
  let h := shoeOf s n
  if h.state = 0 then List.replicate 128 0#8
  else
    natLe 128 (h.state + h.cls * 2 ^ 2 + h.log2 * 2 ^ 4 + b2n h.pending * 2 ^ 9 + h.dbPorts.toNat * 2 ^ 10
      + h.sealSlot * 2 ^ 52 + h.asid * 2 ^ 64 + h.tenant * 2 ^ 96 + h.engines.toNat * 2 ^ 128 + h.ringPtr * 2 ^ 192
      + h.tailPtr * 2 ^ 256 + h.headPtr * 2 ^ 320 + h.head * 2 ^ 384 + h.tail * 2 ^ 416
      + areaPa s h.area / 2 ^ 17 * 2 ^ 473 + inflight s n * 2 ^ 512 + h.lastTicket * 2 ^ 544 + h.ringHigh * 2 ^ 576)

/-! ## Checks of Table 10-9 -/

def shoeCreate : Nat := 0
def shoeDestroy : Nat := 1
def shoeSet : Nat := 2
def shoeQuery : Nat := 3

/-- Whether a shoe's state meets the requirement of an action (Table 10-10). -/
def shoeStateOk (s : State) (act n : Nat) : Bool :=
  let st := (shoeOf s n).state
  match act with
  | 0 => st == 0
  | 1 | 2 => st == 1 || st == 2
  | _ => true

/-- The checks of the parameter block for one action, in the order of R256. -/
def shoeChecks (s : State) (f : Flight) (p : List Byte) (act : Nat) : List Check :=
  let create := act == shoeCreate
  let n := fld p 4 4
  let cls := fld p 1 1
  let dest := fld p 56 4
  [fmtAt 1 (if create then decide (cls < 3) else cls == 0),
   fmtAt 2 (if create then decide (4 ≤ fld p 2 1 && fld p 2 1 ≤ 20) else fld p 2 1 == 0),
   fmtAt 3 (if create || act == shoeSet then decide (fld p 3 1 < 4) else fld p 3 1 == 0),
   fmtAt 4 (decide (n < s.shoes.count) && n != f.shoe && shoeStateOk s act n),
   fmtAt 8 (if create then (asidRec s (fld p 8 2)).state == 1 else fld p 8 2 == 0),
   fmtAt 10 (if create && cls != 0 then fld p 10 2 != 0 else fld p 10 2 == 0),
   rsvAt p 12 4,
   fmtAt 16 (if create then ptrOk (fld p 16 8) 4096 else fld p 16 8 == 0),
   fmtAt 24 (if create then ptrOk (fld p 24 8) 8 && fld p 24 8 != 0 else fld p 24 8 == 0),
   fmtAt 32 (if create then ptrOk (fld p 32 8) 8 else fld p 32 8 == 0),
   fmtAt 40 (if create || act == shoeSet then fld p 40 8 != 0 else fld p 40 8 == 0),
   fmtAt 48 (if act == shoeQuery then ptrOk (fld p 48 8) 64 else fld p 48 8 == 0),
   fmtAt 56 (act == shoeQuery || dest == 0),
   rsvAt p 60 4,
   lenAt 56 (act != shoeQuery || dest == 0 || (decide (128 ≤ dest) && dest != 0xFFFFFFFF))]

/-! ## CREATE -/

/-- The key slot that seals a new ring (R425): the lowest that qualifies. -/
def bindSlot (s : State) (cls asid tenant ring log2 : Nat) : Nat :=
  if cls = 0 then 0xFFF
  else
    ((s.keys.slots.find? fun e =>
      e.1 != 0xFFF && e.2.state == 2 && e.2.tenant == tenant && e.2.windowAsid == asid
        && decide (e.2.windowVa ≤ ring && ring + 64 * 2 ^ log2 ≤ e.2.windowVa + e.2.windowBytes)).map (·.1)).getD 0xFFF

/-- The lowest shoe area that no shoe holds. -/
def freeArea (s : State) : Nat :=
  let used := (s.shoes.tab.filter fun e => e.2.state != 0).map fun e => e.2.area
  ((List.range (used.length + 1)).find? fun i => !used.contains i).getD used.length

/-- A read of a word that a command may name only where R271 or R275 lists its statuses: S_POISON is in neither list, and an absent unit only in
the second. DESIGN CHOICE (log 66): such a read ends with S_FAULT, detail 0x84 DENIED. -/
def wordFault {α : Type} (m : Except Stop α) : Except Stop α :=
  match m with
  | .error (.done st d) => if st = sPoison || st = sUnitAbsent || st = sUe then denied else .error (.done st d)
  | r => r

/-- A run whose statuses pass through `wordFault`. -/
def wordRun {α : Type} (m : Run α) : Run α := fun g => wordFault (m g)

/-- The tail word of a new shoe, or the peer's bytes to ask for. -/
def createTail (s : State) (f : Flight) (h : Shoe) : Run (Except (Nat × Nat) Nat) := do
  let a := { shoeActor s h with opcode := f.cmd.opcode }
  match (← wordRun (spotOf s a false h.tailPtr 8)) with
  | .weight _ _ => liftE denied
  | .loc (.peer q pa) _ =>
    let got : List (Nat × List Byte) := match f.phase with | .peerRead _ g => g | _ => []
    match got.find? fun g => g.1 == q * 2 ^ 53 + pa with
    | some g => pure (.ok (fld g.2 0 4))
    | none => if (portTo s q).isNone then liftE denied else pure (.error (q, pa))
  | .loc l enc =>
    let bs ← liftE (wordFault (readLoc s a enc h.tailPtr l 8))
    pure (.ok (fld bs 0 4))

/-- The entry that CREATE writes. -/
def newShoe (p : List Byte) (slot ringHigh area tail : Nat) : Shoe :=
  { freeShoe with
    state := 1, cls := fld p 1 1, log2 := fld p 2 1, dbPorts := BitVec.ofNat 2 (fld p 3 1), sealSlot := slot
    ringHigh := ringHigh, asid := fld p 8 2, tenant := fld p 10 2, engines := BitVec.ofNat 64 (fld p 40 8)
    ringPtr := fld p 16 8, tailPtr := fld p 24 8, headPtr := fld p 32 8, head := tail, tail := tail, area := area }

/-- The live real-time shoes. -/
def liveRt (s : State) : Nat := (s.shoes.tab.filter fun e => e.2.state != 0 && e.2.cls == 2).length

def knShoeCreateBody : Body := fun s _ f p => onAction p shoeCreate 4 do
  checkAll (shoeChecks s f p shoeCreate)
  let n := fld p 4 4
  let slot := bindSlot s (fld p 1 1) (fld p 8 2) (fld p 10 2) (fld p 16 8) (fld p 2 1)
  let high := if slot = 0xFFF then 0 else (keySlotOf s slot).ringSeq
  match (← createTail s f (newShoe p slot high 0 0)) with
  | .error (q, pa) =>
    match sendTensor s 2 q (openEpoch s) pa (natLe 4 8) with
    | none => liftE denied
    | some (s1, id) => pure (.wait s1 (.peerRead [(id, q * 2 ^ 53 + pa)] []) 64)
  | .ok tail => do
    let area := freeArea s
    checkPosts s f
    need (decide (area < s.shoes.areaCount) && !(fld p 1 1 == 2 && decide (1024 ≤ liveRt s))) sTooLarge 0
    pure (.act (putShoe s n (newShoe p slot high area tail)) [] 64 0 0)

/-! ## DESTROY, SET, QUERY -/

/-- What a kn. action that is killed while it waits leaves: its structure as it was before the action's start. -/
def undoDrain (s : State) (d : Drain) : State :=
  match d with
  | .asidDestroy a =>
    { s with trans := { s.trans with
        asids := s.trans.asids.map fun e => if e.1 = a then (a, { e.2 with state := 1 }) else e } }
  | .shoeDestroy n => modShoe s n fun h => { h with state := 1 }
  | .ctxRelease c =>
    { s with kv := { s.kv with
        ctxs := s.kv.ctxs.map fun e => if e.1 = c then (c, { e.2 with state := if e.2.hold = 0 then 1 else 2 }) else e } }
  | .adapter a =>
    { s with adapters := s.adapters.map fun e => if e.1 = a then (a, { e.2 with state := 1 }) else e }
  | .keySlot k =>
    { s with keys := { s.keys with
        slots := s.keys.slots.map fun e => if e.1 = k then (k, { e.2 with state := if e.2.ioKey.isEmpty then 1 else 2 }) else e } }
  | _ => s

/-- Kills or drops a command that is before its commit point: nothing is posted (R271). -/
def dropCommand (s : State) (f : Flight) : State :=
  let s1 := match f.phase with | .draining d _ => undoDrain s d | _ => s
  let s2 := if onUnit f then noteKill s1 f.place else s1
  dropFlight s2 f.cid

/-- Steps 1 to 3 of Table 10-11: the state after, and KILLED. -/
def startDestroy (s : State) (n : Nat) : State × Nat :=
  let s1 := modShoe s n fun h => { h with state := 3, pending := false, asked := [], got := [], resume := false }
  let doomed := s1.flights.list.filter fun f => f.shoe == n && !isCommitted f
  (settle (doomed.foldl dropCommand s1), doomed.length)

def knShoeDestroyBody : Body := fun s _ f p => onAction p shoeDestroy 4 do
  checkAll (shoeChecks s f p shoeDestroy)
  let n := fld p 4 4
  let (t, killed) := startDestroy s n
  pure (.drain t (.shoeDestroy n) [] 96 0 killed)

def knShoeSetBody : Body := fun s _ f p => onAction p shoeSet 4 do
  checkAll (shoeChecks s f p shoeSet)
  let t := modShoe s (fld p 4 4) fun h =>
    { h with dbPorts := BitVec.ofNat 2 (fld p 3 1), engines := BitVec.ofNat 64 (fld p 40 8)
             pending := h.pending || h.state == 2, state := 1 }
  pure (.act t [] 32 0 0)

/-- A hub command that copies a structure to DEST_PTR: DEST_LEN 0 is a no-op. -/
def copyOut (s : State) (a : Actor) (dest len : Nat) (bs : List Byte) (steps : Nat) : Run Plan := do
  if len = 0 then pure (.noop (steps / 2))
  else
    let ws ← stageVa s a (onePass bs.length) false dest bs
    pure (.act s ws steps 0 0)

def knShoeQueryBody : Body := fun s a f p => onAction p shoeQuery 4 do
  checkAll (shoeChecks s f p shoeQuery)
  copyOut s a (fld p 48 8) (fld p 56 4) (shoeBytes s (fld p 4 4)) 32

/-- KN_SHOE_CREATE (R269). -/
def execKnShoeCreate (st : Start) (s : State) : Host.Outcome State Fault Refusal := startHub 0xF001 knShoeCreateBody st s
/-- KN_SHOE_DESTROY (R270). -/
def execKnShoeDestroy (st : Start) (s : State) : Host.Outcome State Fault Refusal := startHub 0xF001 knShoeDestroyBody st s
/-- KN_SHOE_SET (R269). -/
def execKnShoeSet (st : Start) (s : State) : Host.Outcome State Fault Refusal := startHub 0xF001 knShoeSetBody st s
/-- KN_SHOE_QUERY (R269). -/
def execKnShoeQuery (st : Start) (s : State) : Host.Outcome State Fault Refusal := startHub 0xF001 knShoeQueryBody st s

/-! ## sy.signal (R272) -/

/-- The checks of sy.signal: both signals' pages are checked before the commit point. -/
def sySignalBody : Body := fun s _ f p => do
  let target := fld p 0 8
  checkAll [fmtAt 0 (ptrOk target 8)]
  checkPosts s f
  if target ≠ 0 then
    let _ ← liftE (postSpot s f true target 8)
  pure (.noop 16)

/-- Runs sy.signal: the ticket enters, the record and the own signal are posted, then VALUE2 to TARGET2. -/
def sySignalOp (st : Start) (s : State) : State :=
  match begin s st .hub (fun f => f.cmd.opcode == 0x8001) with
  | .no => s
  | .over t => t
  | .go t f =>
    match runBody t f sySignalBody emptyLog with
    | .error .hold => s
    | .error .noWalker => fatal t 0x55 0 0 0
    | .error e => stopCommand t f e
    | .ok (_, log) =>
      let t1 := commitComplete t f 0 0
      if fld log.block 0 8 = 0 then t1 else postSignal t1 f (fld log.block 0 8) (fld log.block 8 8)

/-- SY_SIGNAL (R272). -/
def execSySignal (st : Start) (s : State) : Host.Outcome State Fault Refusal := answer (sySignalOp st s)

/-! ## sy.wait (R273, R274) -/

/-- Table 10-12a, COMPARE. -/
def waitHolds (cmp word value : Nat) : Bool :=
  match cmp with
  | 0 => decide (value ≤ word)
  | 1 => word == value
  | _ => word != value

/-- The watched word as the device reads it now. -/
def watchedWord (s : State) (pa : Nat) : Nat := leNat (memRead s.memories.mem pa 8)

/-- Whether a virtual address translates to this device's stacked memory. -/
def onStack (s : State) (a : Actor) (va : Nat) : Run Bool := do
  let (e, l) ← liftE (translate s a.place a.asid (actorKernel a) false va)
  let pa := bitsOf e 55 16 * 65536 + va % leafBytes l
  pure (bitsOf e 7 6 == 0 && pa / 2 ^ 53 == position s && decide (pa % 2 ^ 53 < stackedEnd))

/-- sy.wait: a word anywhere but in this device's stacked memory ends it with S_FAULT (Table 10-12a). -/
def syWaitBody : Body := fun s a f p => do
  let addr := fld p 0 8
  let value := fld p 8 8
  let cmp := fld p 16 1
  checkAll [fmtAt 0 (ptrOk addr 8), fmtAt 16 (decide (cmp < 3)), rsvAt p 17 3, rsvAt p 24 8]
  if !(← onStack s a addr) then liftE (denied (α := Unit)) else pure ()
  match (← spotOf s a false addr 8) with
  | .loc (.mem pa) enc => do
      let bs ← liftE (match readLoc s a enc addr (.mem pa) 8 with
        | .error (.done st d) => if st = sPoison then denied else .error (.done st d)
        | r => r)
      checkPosts s f
      if watchLimit ≤ (s.flights.list.filter watches).length then
        pure (.wait s (.watchQueue pa value cmp (fld p 20 4)) 32)
      else if waitHolds cmp (leNat bs) value then pure (.act s [] 32 (low 32 (leNat bs)) 0)
      else pure (.wait s (.watch pa value cmp (fld p 20 4) s.steps.frontEnd (leNat bs)) 32)
  | _ => liftE denied

/-- SY_WAIT (R274). -/
def execSyWait (st : Start) (s : State) : Host.Outcome State Fault Refusal := startHub 0x8002 syWaitBody st s

/-- The word that a sy.wait watches has been written, and its comparison holds. Poison in it ends the command with S_FAULT (log 66). -/
def syWaitSatisfiedOp (cid : Nat) (s : State) : State :=
  if !serving s then s
  else
    match flightOf s cid with
    | none => s
    | some f =>
      match f.phase with
      | .watch pa value cmp _ _ _ =>
        if isPoisoned s (unitOf pa) then complete s f sFault (faultCode codeDenied) 0
        else if waitHolds cmp (watchedWord s pa) value then commitComplete s f (low 32 (watchedWord s pa)) 0
        else s
      | _ => s

/-- SY_WAIT_SATISFIED (R274). -/
def execSyWaitSatisfied (cid : Nat) (s : State) : Host.Outcome State Fault Refusal := answer (syWaitSatisfiedOp cid s)

/-- The TIMEOUT count of a sy.wait passes, counted on the front end from the start of its watch (R57), before its comparison holds. -/
def syWaitTimeoutOp (cid : Nat) (s : State) : State :=
  if !serving s then s
  else
    match flightOf s cid with
    | none => s
    | some f =>
      match f.phase with
      | .watch pa value cmp timeout since _ =>
        if timeout ≠ 0 && !waitHolds cmp (watchedWord s pa) value && timeout ≤ (s.steps.frontEnd + 2 ^ 64 - since) % 2 ^ 64 then
          complete s f sTimeout (low 32 (watchedWord s pa)) 0
        else s
      | _ => s

/-- SY_WAIT_TIMEOUT (R274). -/
def execSyWaitTimeout (cid : Nat) (s : State) : Host.Outcome State Fault Refusal := answer (syWaitTimeoutOp cid s)

end Sys2Proof.Machine
end

