-- ==== Sys2Proof/Machine/Place.lean ====
section
/-!
DEFINITION. Sys2Proof/Machine/Place.lean: the dealer's placement of engine commands (R247, R295, R296, R299), kills to make way
(R301, R302), and the naming of next commands with the prefetch that follows (R157, R159, R297).
-/

namespace Sys2Proof.Machine

/-! ## Order -/

/-- Whether a shoe is a serving shoe (R294). -/
def isServing (s : State) (n : Nat) : Bool := (tabFind s.dealer.serve n).isSome

/-- The tier of a command (R295). -/
def tierOf (s : State) (f : Flight) : Nat :=
  if f.cls = 2 then 1 else if isServing s f.shoe then 2 else if f.cls = 0 then 3 else 4

/-- The place of a command in the order of R295: tier, released from a batch or not, its rank there, and fetch order. -/
def orderKey (s : State) (f : Flight) : Nat × Nat × Nat × Nat :=
  match f.phase with
  | .rerun (some r) => (tierOf s f, 0, r, f.cid)
  | _ => (tierOf s f, 1, 0, f.cid)

/-- Whether one place comes before another. -/
def keyBefore (a b : Nat × Nat × Nat × Nat) : Bool :=
  let (a1, a2, a3, a4) := a
  let (b1, b2, b3, b4) := b
  decide (a1 < b1 ∨ (a1 = b1 ∧ (a2 < b2 ∨ (a2 = b2 ∧ (a3 < b3 ∨ (a3 = b3 ∧ a4 < b4))))))

/-- Puts a command into an ordered list. -/
def insertOrdered (s : State) (f : Flight) : List Flight → List Flight
  | [] => [f]
  | g :: r => if keyBefore (orderKey s f) (orderKey s g) then f :: g :: r else g :: insertOrdered s f r

/-- The ready engine commands in the order of R295. -/
def readyOrder (s : State) : List Flight :=
  (s.flights.list.filter fun f => needsEngine f.cmd.opcode && isReady s f).foldr (insertOrdered s) []

/-! ## Engines -/

/-- Whether an engine is free. -/
def engineFree (s : State) (n : Nat) : Bool :=
  !(s.flights.list.any fun f => f.place == .engine n && onUnit f) && !moverHolds s n

/-- The lowest-indexed free engine that a command may use (R296). -/
def freeEngineFor (s : State) (f : Flight) : Option Nat := (allowedEngines s f).find? (engineFree s)

/-- The present engines of a shoe's set. -/
def presentSet (s : State) (shoe : Nat) : List Nat :=
  (List.range 64).filter fun n => (shoeOf s shoe).engines.getLsbD n && engineHere s n

/-! ## Kills to make way (R301) -/

/-- The stray that a real-time command displaces: the ordinary command on the lowest ante engine of its set that holds one. A stray past its
commit point is not killed; the real-time command then waits for it. -/
def strayFor (s : State) (f : Flight) : Option Flight :=
  match (allowedEngines s f).findSome? fun n => s.flights.list.find? fun g => g.place == .engine n && onUnit g && g.cls != 2 with
  | some g => if isCommitted g then none else some g
  | none => none

/-- The victim that a serving command may displace: the one with the highest engine. -/
def victimFor (s : State) (f : Flight) : Option Flight :=
  if !s.dealer.preempt || !isServing s f.shoe then none
  else
    (allowedEngines s f).reverse.findSome? fun n =>
      s.flights.list.find? fun g =>
        g.place == .engine n && onUnit g && !isCommitted g && g.cls == 1 && !isServing s g.shoe
          && decide (g.preempt < s.dealer.limit)

/-- Kills a command to make way: it is re-run, and the kill counts (R302). -/
def killForWay (s : State) (g : Flight) : State :=
  noteKill (putFlight s { discard s g with phase := .rerun none, preempt := g.preempt + 1 }) g.place

/-! ## Placement -/

/-- Gives an engine to a command: prefetch entries for another are discarded (R158), and the engine's name is used up. -/
def placeOn (s : State) (f : Flight) (n : Nat) : State :=
  let g := withDeal s { f with phase := .placed, place := .engine n }
  let keep (p : Prefetch) : Bool :=
    p.engine != n || (p.context == f.cmd.context % 2 ^ 20 && p.asid == f.cmd.asid && p.keySlot == f.cmd.keySlot % 4096)
  let s1 := forgetAttempt s f.cid
  putFlight { s1 with memories := { s1.memories with
      prefetch := s1.memories.prefetch.filter keep
      named := (unname s1 f.cid false).memories.named.filter fun e => e.1 != n } } g

/-- Places one command if it can be placed now. -/
def placeOne (s : State) (f : Flight) : Option State :=
  match freeEngineFor s f with
  | some n => some (placeOn s f n)
  | none =>
    match (if f.cls = 2 then strayFor s f else victimFor s f) with
    | none => none
    | some g =>
      match g.place with
      | .engine n => some (placeOn (killForWay s g) f n)
      | _ => none

/-- Commands that end because no engine can ever take them: none of the set is present (R247), or a real-time command
whose set holds no ante engine when it becomes ready (R299). One whose last ante engine leaves later waits. -/
def unplaceable (s : State) (f : Flight) : Option (Nat × Nat) :=
  if (presentSet s f.shoe).isEmpty then some (sUnitAbsent, 1 + 0xFF * 2 ^ 8)
  else if f.cls = 2 && !f.seen && !((List.range 64).any fun n => (shoeOf s f.shoe).engines.getLsbD n && isAnte s n) then
    some (sFault, faultCode codePlacement)
  else none

/-- A command whose dependency has failed (R260). -/
def failedWait (s : State) : Option (Flight × Nat) :=
  s.flights.list.findSome? fun f =>
    match f.phase with
    | .waiting | .rerun _ =>
      if needsEngine f.cmd.opcode then (match fencesOf s f with | .failed st => some (f, st) | _ => none) else none
    | _ => none

/-- One action of the dealer; none when nothing is left to do. -/
def placeNext (s : State) : Option State :=
  match failedWait s with
  | some (f, st) => some (complete s f sDependency st 0)
  | none =>
    (readyOrder s).findSome? fun f =>
      match unplaceable s f with
      | some (st, d) => some (complete s f st d 0)
      | none =>
        match placeOne s f with
        | some t => some t
        | none => if f.seen then none else some (putFlight s { f with seen := true })

/-- The dealer's actions in turn. -/
def placeAll : Nat → State → State
  | 0, s => s
  | n + 1, s =>
    match placeNext s with
    | none => s
    | some t => placeAll n t

/-- COMMAND_PLACEMENT (R296). From step 1 to step 6 of a boundary nothing is placed; a boundary is one row here. -/
def commandPlacementOp (s : State) : State :=
  if !serving s then s else settle (placeAll (4 * s.flights.list.length + 64) s)

/-- COMMAND_PLACEMENT (R296). -/
def execCommandPlacement (s : State) : Host.Outcome State Fault Refusal := answer (commandPlacementOp s)

/-! ## Next commands and prefetch (R297, R157) -/

/-- The command that R296 would place on an engine if it became free: the first that would not take a lower free engine. -/
def nextFor (s : State) (n : Nat) : Option Flight :=
  (readyOrder s).find? fun f =>
    (unplaceable s f).isNone && (allowedEngines s f).contains n
      && !((allowedEngines s f).any fun m => decide (m < n) && engineFree s m)

/-- The first operand of a command, by its parameter block: address and bytes. -/
def firstOperand (opcode : Nat) (p : List Byte) : Nat × Nat :=
  if opcode = 0x1002 then (fld p 32 8, fld p 40 4)
  else if opcode = 0x2001 then
    match (List.range 8).find? fun b => bitOf (fld p 12 1) b && !bitOf (fld p 13 1) b with
    | some b => (fld p (160 + 32 * b) 8, fld p (168 + 32 * b) 4)
    | none => (0, 0)
  else if opcode = 0x6002 then (fld p 8 8, fld p 16 4)
  else if opcode = 0x5002 then (0, 0)
  else (fld p 0 8, fld p 8 4)

/-- Whether prefetch may read a place: stacked memory, or a SHARED segment of the engine's cluster (R157). -/
def prefetchFrom (s : State) (l : Loc) : Option Nat :=
  match l with
  | .mem pa =>
    if pa < stackedEnd then (if anyPoison s (pa / 4096 * 4096) 4096 then none else some pa)
    else if clusterBase ≤ pa then
      let g := segOf s ((pa - clusterBase) / clusterStride) ((pa - clusterBase) % clusterStride / 65536)
      if g.kind = 1 && !(s.memories.wordPoison.any fun w => w / 4096 == pa / 4096) then some pa else none
    else none
  | _ => none

/-- The lines of the first operand of a command that prefetch fills; a line that faults is dropped, and so is every line if the command's key slot
fails (R159). -/
def prefetchLines (s : State) (n : Nat) (f : Flight) : List Prefetch :=
  let g := withDeal s { f with place := .engine n }
  let a := actorOf s g
  match readParams s g a emptyLog with
  | .error _ => []
  | .ok (p, _) =>
    let (va, len) := if (keyCause s g).isSome then (0, 0) else firstOperand f.cmd.opcode p
    let count := min 32 ((va + len + 4095) / 4096 - va / 4096)
    (List.range count).filterMap fun i =>
      let lo := max va ((va / 4096 + i) * 4096)
      match spotOf s a false lo 1 emptyLog with
      | .ok (.loc l _, _) => (prefetchFrom s l).map fun pa =>
          ⟨n, f.cmd.context % 2 ^ 20, f.cmd.asid, f.cmd.keySlot % 4096, pa / 4096⟩
      | _ => none

/-- NEXT_COMMAND_NAMED (R297): the measured steps of the command on the engine have reached its S less 2,048. A command that is placed and has
not started has no measured steps yet. -/
def nextCommandNamedOp (n : Nat) (s : State) : State :=
  if !serving s then s
  else
    match s.flights.list.find? fun f => f.place == .engine n && (isStarted f || isCommitted f) with
    | none => s
    | some r =>
      if measuredNow s r + 2048 < r.cost then s
      else
        match nextFor s n with
        | none => s
        | some f =>
          let keep := s.memories.prefetch.filter fun p => p.engine != n
          { s with memories := { s.memories with prefetch := keep ++ prefetchLines s n f, named := tabPut s.memories.named n f.cid } }

/-- NEXT_COMMAND_NAMED (R297). -/
def execNextCommandNamed (engine : Nat) (s : State) : Host.Outcome State Fault Refusal := answer (nextCommandNamedOp engine s)

end Sys2Proof.Machine
end

