-- ==== Sys2Proof/Machine/Movers.lean ====
section
/-!
DEFINITION. Sys2Proof/Machine/Movers.lean: the movers, mv.copy and mv.fill (R146 to R156), and kn.cstore_assign (R144, R145).
-/

namespace Sys2Proof.Machine

/-! ## The choice of a mover (R147) -/

/-- Whether a mover runs a command. -/
def moverBusy (s : State) (c m : Nat) : Bool := s.flights.list.any fun f => f.place == .mover c m && onUnit f

/-- The first free mover of a cluster, mover 0 before mover 1. -/
def freeMover (s : State) (c : Nat) : Option Nat :=
  if !moverBusy s c 0 then some 0 else if !moverBusy s c 1 then some 1 else none

/-- The lowest-numbered present cluster. -/
def lowestCluster (s : State) : Nat := ((List.range 16).find? (clusterHere s)).getD 0

/-- The CLUSTER byte of a mover command, if its parameter block can be read. -/
def clusterByte (s : State) (f : Flight) (off : Nat) : Option Nat :=
  let g := { f with place := .mover (lowestCluster s) 0 }
  match readParams s g (actorOf s g) emptyLog with
  | .ok (p, _) => some (fld p off 1)
  | .error _ => none

/-- The cluster that a mover command runs in: the one that it names, or the lowest present one. A command with a named cluster that
is not present is checked, and fails, on the lowest present one. -/
def clusterFor (s : State) (f : Flight) (off : Nat) : Nat :=
  match clusterByte s f off with
  | some c => if clusterHere s c then c else lowestCluster s
  | none => lowestCluster s

/-- Whether a mover command must wait for its cluster: the cluster is under test (R520), or it is 0xFF and has no power. -/
def clusterWaits (s : State) (f : Flight) (off : Nat) : Bool :=
  let c := clusterFor s f off
  underTest s 2 c || (!clusterPowered s c && clusterByte s f off == some 0xFF)

/-- Where a mover opcode has its CLUSTER byte. -/
def clusterAtOf (opcode : Nat) : Nat := if opcode = 0x3001 then 76 else 44

/-- Whether a mover command is served before another: one that a batch released comes first, by its first fault, then the order of fetching
(R147, R242). DESIGN CHOICE (log 64): R147 gives the order of fetching alone; released commands go ahead as R295 puts them for engines. -/
def servedBefore (g f : Flight) : Bool :=
  match releaseRank g, releaseRank f with
  | some q, some r => decide (q < r)
  | some _, none => true
  | none, some _ => false
  | none, none => decide (g.cid < f.cid)

/-- Whether another command waits for the same cluster's movers and is served first. -/
def moverQueued (s : State) (f : Flight) (off : Nat) : Bool :=
  s.flights.list.any fun g => opClass g.cmd.opcode == 3 && g.cid != f.cid && isReady s g && servedBefore g f
    && clusterFor s g (clusterAtOf g.cmd.opcode) == clusterFor s f off

/-- A row that starts a mover command whose CLUSTER byte is at `off`. -/
def startMover (opcode off : Nat) (body : Body) (st : Start) (s : State) : State :=
  match flightOf s st.cid with
  | none => s
  | some f =>
    if f.cmd.opcode ≠ opcode || clusterWaits s f off || moverQueued s f off then s
    else
      match freeMover s (clusterFor s f off) with
      | none => s
      | some m => startWith (.mover (clusterFor s f off) m) (fun g => g.cmd.opcode == opcode) body st s

/-! ## The parameter block of mv.copy (Tables 6-7 and 6-8) -/

/-- A mv.copy. -/
structure Move where
  src     : Desc
  dst     : Desc
  rows    : Nat
  cols    : Nat
  turn    : Nat
  toArea  : Bool
  engine  : Nat
  cluster : Nat
  tile    : Nat
deriving DecidableEq, Repr

def moveAt (p : List Byte) : Move :=
  let ctrl := fld p 72 4
  let t := fld p 78 2
  { src := descAt p 0, dst := descAt p 32, rows := fld p 64 4, cols := fld p 68 4, turn := bitsOf ctrl 1 0
    toArea := bitOf ctrl 2, engine := 4 * fld p 76 1 + bitsOf ctrl 4 3, cluster := fld p 76 1
    tile := if t = 0 then 0x3C00 else t }

def Move.sf (d : Move) : Fmt := (descFmt d.src).getD .f32
def Move.df (d : Move) : Fmt := (descFmt d.dst).getD .f32
/-- The destination block: rows and columns. -/
def Move.dRows (d : Move) : Nat := if d.turn = 0 then d.rows else d.cols
def Move.dCols (d : Move) : Nat := if d.turn = 0 then d.cols else d.rows

/-- The extent of a block of rows (Table 4-4); a LOG4 block is a B operand with N rows and K columns. -/
def blockExtent (f : Fmt) (rows cols stride : Nat) : Nat :=
  if f = .log4 then log4Extent cols rows else rowsExtent f rows cols stride

/-- The bytes of a block shape with its scales (R153). -/
def shapeBytes (f : Fmt) (rows cols : Nat) : Nat :=
  if f = .log4 then log4Extent cols rows
  else rows * runBytes f cols + (if fmtIsMx f then scaleExtent rows cols else 0)

/-- A size rounded up to whole granules of a turn (R153). -/
def granules (turn n : Nat) : Nat := if turn = 1 then ceilDiv n 8 * 8 else if turn = 2 then ceilDiv n 32 * 32 else n

def Move.srcBytes (d : Move) : Nat := shapeBytes d.sf (granules d.turn d.rows) (granules d.turn d.cols)
def Move.dstBytes (d : Move) : Nat := shapeBytes d.df (granules d.turn d.dRows) (granules d.turn d.dCols)

/-- Whether a binary16 tile scale is finite and not zero. -/
def tileLegal (t : Nat) : Bool :=
  match decodeFloat specF16 t with
  | .fin _ m _ => m != 0
  | _ => false

/-- STRIDE of a block (Table 4-3). -/
def strideOk (f : Fmt) (cols stride : Nat) : Bool :=
  if f = .log4 then stride == 0 else strideRows (runBytes f cols) cols stride

/-- Whether a destination format may follow a source format with a turn (R63, R151). -/
def pairOk (d : Move) : Bool :=
  let narrow (f : Fmt) : Bool := decide (fmtBits f < 8) || fmtIsMx f || f == .log4
  (d.df != .log4 || [Fmt.f32, .f16, .bf16].contains d.sf || (d.sf == .log4 && d.turn == 0))
    && (d.turn != 1 || !(narrow d.sf || narrow d.df))

/-- Check 3 of Table 4-8 as R156 applies it. -/
def copyForm (version : Nat) (p : List Byte) (d : Move) : List Check :=
  let ctrl := fld p 72 4
  let cs := descCode d.src
  let cd := descCode d.dst
  [fmtAt 28 (d.src.format < 32), fmtAt 29 (d.src.dflags == 0), rsvAt p 30 2,
   fmtAt 60 (d.dst.format < 32), fmtAt 61 (d.dst.dflags < 2), rsvAt p 62 2,
   fmtAt 72 (decide (ctrl < 32) && d.turn != 3 && !(version == 2 && d.turn == 2)),
   fmtAt 76 (decide (d.cluster < 16) || (d.cluster == 0xFF && !d.toArea)), rsvAt p 77 1, rsvAt p 80 16,
   fmtAt 28 (decide (cs < 16) && !oldVersionBars version cs), fmtAt 60 (decide (cd < 16) && !oldVersionBars version cd),
   fmtAt 60 (pairOk d),
   fmtAt 78 (if d.df == .log4 then tileLegal d.tile else fld p 78 2 == 0),
   fmtAt 0 (ptrOk d.src.ptr 64), fmtAt 32 (ptrOk d.dst.ptr 64),
   fmtAt 12 (strideOk d.sf d.cols d.src.stride), fmtAt 44 (strideOk d.df d.dCols d.dst.stride)]
  ++ scaleChecks d.src 0 ++ scaleChecks d.dst 32

/-- Check 4. -/
def copyOnes (p : List Byte) (d : Move) : List Check :=
  [notOnes p 8 4, lenAt 24 (!fmtIsMx d.sf || d.src.scale != 0xFFFFFFFF), notOnes p 40 4,
   lenAt 56 (!fmtIsMx d.df || d.dst.scale != 0xFFFFFFFF), notOnes p 64 4, notOnes p 68 4]

/-- The most units of a cluster's staging pool (R154). -/
def poolUnits : Nat := 128

def Move.dExtent (d : Move) : Nat := blockExtent d.df d.dRows d.dCols d.dst.stride
def Move.dScales (d : Move) : Nat := if fmtIsMx d.df then scaleExtent d.dRows d.dCols else 0
def Move.sExtent (d : Move) : Nat := blockExtent d.sf d.rows d.cols d.src.stride
def Move.sScales (d : Move) : Nat := if fmtIsMx d.sf then scaleExtent d.rows d.cols else 0

/-- Checks 6 and 7. -/
def copyBounds (d : Move) : List Check :=
  [lenAt 64 (decide (d.rows ≤ 1048576)), lenAt 68 (decide (d.cols ≤ 1048576)),
   lenAt 8 (decide (d.sExtent ≤ d.src.bytes)), lenAt 24 (!fmtIsMx d.sf || decide (d.sScales ≤ d.src.scale)),
   lenAt 40 (decide (d.dExtent ≤ d.dst.bytes)), lenAt 56 (!fmtIsMx d.df || decide (d.dScales ≤ d.dst.scale)),
   lenAt 32 (!d.toArea || decide (d.dst.ptr + d.dExtent ≤ areaBytes)),
   lenAt 48 (!d.toArea || decide (d.dst.scalePtr + d.dScales ≤ areaBytes)),
   (decide (ceilDiv d.dstBytes 65536 ≤ poolUnits), sTooLarge, 0)]

/-- The units that a mover command names (R39): its cluster and its destination engine. -/
def namedUnits (s : State) (f : Flight) (cluster engine : Nat) (toArea : Bool) : Run Unit := do
  if cluster < 16 then
    if !clusterHere s cluster then liftE (absent 2 cluster)
    if !clusterPowered s cluster then liftE (absent 7 (0x100 + cluster))
  if toArea then
    if !engineHere s engine then liftE (absent 1 engine)
    if !enginePowered s engine then liftE (absent 7 engine)
    need (f.cls == 2 || !isAnte s engine) sFault (faultCode codePlacement)

/-! ## Staging (R154) -/

/-- The free units of a cluster's pool, those of a command itself apart. -/
def freeUnits (s : State) (c cid : Nat) : Nat :=
  poolUnits - (s.flights.list.filter fun f =>
    f.cid != cid && (match f.place with | .mover d _ => d == c | _ => false)).foldl (fun t f => t + f.units) 0

/-- The cluster of a place. -/
def clusterOf : Place → Nat
  | .mover c _ => c
  | .engine n => n / 4
  | _ => 0

/-! ## Reading the source -/

/-- What a command has received from peers. -/
def gotOf (f : Flight) : List (Nat × List Byte) := match f.phase with | .peerRead _ g => g | _ => []

/-- The key of a peer's bytes: its board-wide address. -/
def peerKey (q pa : Nat) : Nat := q * 2 ^ 53 + pa

/-- Whether a range of memory meets a frame of a staged or far-tier copy of a protected slot (R196). -/
def protFrame (s : State) (pa len : Nat) : Bool :=
  s.models.any fun e => [e.2.live, e.2.next, e.2.retiring].any fun c =>
    match c with
    | none => false
    | some c => (vaultSlot s c.slot).prot &&
        c.map.any fun x => (x.2.1 == 1 || x.2.1 == 2) && decide (x.2.2 < pa + len && pa < x.2.2 + 2 ^ 24)

/-- Places one piece of a source: the peer's bytes that it still needs, if any (Table 6-6, R196). -/
def placeSrc (s : State) (a : Actor) (toArea : Bool) (got : List (Nat × List Byte)) (p : Nat × Nat) :
    Run (Option (Nat × Nat × Nat)) := do
  match (← spotOf s a false p.1 p.2) with
  | .weight m _ =>
    match heldCopy s a m with
    | none => finish sFault (faultCode codeNoRange)
    | some c => if (vaultSlot s c.slot).prot && !toArea then liftE (sealed sealProtected a.slot) else pure none
  | .loc (.peer q pa) _ =>
    if got.any fun g => g.1 == peerKey q pa && g.2.length == p.2 then pure none
    else if (portTo s q).isNone then liftE (absent 6 (16 + meshPort s q))
    else pure (some (q, pa, p.2))
  | .loc (.mem pa) _ => if protFrame s pa p.2 && !toArea then liftE (sealed sealProtected a.slot) else pure none
  | .loc _ _ => pure none

/-- Reads one piece of a source. -/
def readSrc (s : State) (a : Actor) (pt : Pattern) (got : List (Nat × List Byte)) (p : Nat × Nat) : Run (List Byte) := do
  match (← spotOf s a false p.1 p.2) with
  | .loc (.peer q pa) _ =>
    match got.find? fun g => g.1 == peerKey q pa && g.2.length == p.2 with
    | some g => do
      noteLine (lineOf s (.peer q pa)) pt p.2 false
      pure g.2
    | none => liftE denied
  | _ => readPiece s a pt true p

/-- Reads a run of a source. -/
def readSrcVa (s : State) (a : Actor) (pt : Pattern) (got : List (Nat × List Byte)) (va len : Nat) : Run (List Byte) := do
  let parts ← (piecesOf va len).mapM (readSrc s a pt got)
  pure parts.flatten

/-- The runs of a block: address and bytes of each row, then of its scales. -/
def blockRuns (f : Fmt) (d : Desc) (rows cols : Nat) : List (Nat × Nat) :=
  if f = .log4 then [(d.ptr, log4Extent cols rows)]
  else
    (List.range rows).map (fun r => (d.ptr + r * d.stride, runBytes f cols))
      ++ (if fmtIsMx f then [(d.scalePtr, scaleExtent rows cols)] else [])

/-- A block as it lies in memory: the bytes of each row with its block scales, or the tile records of LOG4. -/
structure RawBlock where
  rows  : List (List Byte × List Byte)
  tiles : List (List Byte)
deriving DecidableEq, Repr

/-- The pattern of a block's rows; a turned read takes each source row as a run of its own (R153). -/
def blockPattern (turn : Bool) (f : Fmt) (d : Desc) (rows cols : Nat) : Pattern :=
  if f = .log4 then ⟨tileBytes, 0, 1⟩
  else
    let nb := runBytes f cols
    ⟨if d.stride = nb && !turn then rows * nb else nb, d.stride, 1⟩

/-- Reads a source block. -/
def readBlock (s : State) (a : Actor) (got : List (Nat × List Byte)) (turn : Bool) (f : Fmt) (d : Desc) (rows cols : Nat) :
    Run RawBlock := do
  let pt := blockPattern turn f d rows cols
  if f = .log4 then
    let all ← readSrcVa s a pt got d.ptr (log4Extent cols rows)
    pure ⟨[], (List.range (ceilDiv cols 128 * ceilDiv rows 128)).map fun t => slice all (t * tileBytes) tileBytes⟩
  else
    let ns := ceilDiv cols 32
    let scales ← if fmtIsMx f then readSrcVa s a ⟨rows * ns, 0, 1⟩ got d.scalePtr (rows * ns) else pure []
    let rs ← (List.range rows).mapM fun r => do
      let bs ← readSrcVa s a pt got (d.ptr + r * d.stride) (runBytes f cols)
      pure (bs, slice scales (r * ns) ns)
    pure ⟨rs, []⟩

/-- The values of a block with every scale applied (R152). -/
def blockValues (f : Fmt) (d : Desc) (b : RawBlock) (rows cols : Nat) : List (List (Num × FlagWord)) :=
  if f = .log4 then (List.range rows).map (tileColumn b.tiles cols)
  else b.rows.map fun r => rowValues f d.scale r.1 r.2 cols

/-- The rows of a matrix as its columns: element (j, i) is element (i, j). -/
def turned {α : Type} (m : List (List α)) (cols : Nat) : List (List α) :=
  (List.range cols).map fun j => m.filterMap fun row => row[j]?

/-! ## The destination block -/

/-- A block to be written: per row its bytes and block scales, or whole tile records. -/
abbrev OutBlock := RawBlock

/-- The 8,768 bytes of a tile record (R74) from its elements, block scales and tile scale. -/
def tileRecord (elem : Nat → Nat → Nat) (scale : Nat → Nat → Nat) (tile : Nat) : List Byte :=
  (List.range 128).flatMap (fun n => (List.range 64).flatMap fun h =>
      natLe 1 (elem (2 * h) n % 16 + elem (2 * h + 1) n % 16 * 16))
    ++ (List.range 128).flatMap (fun n => (List.range 4).flatMap fun b => natLe 1 (scale b n))
    ++ natLe 2 tile ++ List.replicate 62 0#8

/-- The same-format copy (R152): every element is copied bit for bit. DESIGN CHOICE (log 62): so a LOG4 element 0xF stays 0xF, though R72 has
the device write zero as 0x7 alone. -/
def copyBlock (f : Fmt) (b : RawBlock) (rows cols : Nat) : OutBlock :=
  if f = .log4 then
    let kt := ceilDiv cols 128
    ⟨[], b.tiles.mapIdx fun t rec =>
      let k0 := t % kt * 128
      let n0 := t / kt * 128
      let elem (k n : Nat) : Nat :=
        if k0 + k < cols && n0 + n < rows then
          let byte := fld rec (64 * n + k / 2) 1
          if k % 2 = 0 then byte % 16 else byte / 16
        else 7
      let scale (j n : Nat) : Nat := if k0 + 32 * j < cols && n0 + n < rows then fld rec (log4ScaleAt (32 * j) n) 1 else 0x7F
      tileRecord elem scale (fld rec 8704 2)⟩
  else ⟨b.rows.map fun r => (packBytes f (unpackBytes f cols r.1), r.2), []⟩

/-- Blocks of 32 of a row. -/
def blocksOf32 {α : Type} (xs : List α) : List (List α) :=
  (List.range (ceilDiv xs.length 32)).map fun i => (xs.drop (32 * i)).take 32

/-- Converts a row of values into a format other than LOG4 (R81 to R83): bytes, block scales and flags. -/
def convRow (f : Fmt) (oti : Bool) (scale : Nat) (xs : List (Num × FlagWord)) : (List Byte × List Byte) × FlagWord :=
  let src := flAll (xs.map (·.2))
  if fmtIsMx f then
    let bs := (blocksOf32 (xs.map (·.1))).map (convMxBlock f oti)
    ((packBytes f (bs.flatMap fun b => b.2.1), bs.flatMap fun b => natLe 1 b.1), src ||| flAll (bs.map fun b => b.2.2))
  else
    let es := xs.map fun x => convElem f oti (if fmtIsFp8 f then scale else 0x3F800000) x.1
    ((packBytes f (es.map (·.1)), []), src ||| flAll (es.map (·.2)))

/-- Converts rows of values into LOG4 tile records under a tile scale (R84). -/
def convTiles (tile : Nat) (m : List (List (Num × FlagWord))) (rows cols : Nat) : List (List Byte) × FlagWord :=
  let cs := m.map fun row => (blocksOf32 (row.map (·.1))).map (convLog4Block tile)
  let kt := ceilDiv cols 128
  let fl := flAll (m.map fun row => flAll (row.map (·.2))) ||| flAll (cs.map fun c => flAll (c.map fun b => b.2.2))
  ((List.range (kt * ceilDiv rows 128)).map fun t =>
    let k0 := t % kt * 128
    let n0 := t / kt * 128
    let blk (k n : Nat) : Option (Nat × List Nat × FlagWord) := (cs[n0 + n]?).bind fun c => (c.drop ((k0 + k) / 32)).head?
    tileRecord (fun k n => ((blk k n).bind fun b => (b.2.1.drop ((k0 + k) % 32)).head?).getD 7)
      (fun j n => ((blk (32 * j) n).map (·.1)).getD 0x7F) tile, fl)

/-- The destination block of a mv.copy and its flags (R150 to R152). -/
def moveBlock (d : Move) (b : RawBlock) : OutBlock × FlagWord :=
  if d.sf = d.df && d.turn = 0 then (copyBlock d.sf b d.rows d.cols, 0#32)
  else
    let m := blockValues d.sf d.src b d.rows d.cols
    let m := if d.turn = 0 then m else turned m d.cols
    if d.df = .log4 then
      let (ts, fl) := convTiles d.tile m d.dRows d.dCols
      (⟨[], ts⟩, fl)
    else
      let rs := m.map (convRow d.df (bitOf d.dst.dflags 0) d.dst.scale)
      (⟨rs.map (·.1), []⟩, flAll (rs.map (·.2)))

/-- The runs to be written, with their offsets or addresses. -/
def outRuns (d : Move) (b : OutBlock) : List (Nat × List Byte) :=
  if d.df = .log4 then b.tiles.mapIdx fun t rec => (d.dst.ptr + t * tileBytes, rec)
  else
    b.rows.mapIdx (fun r x => (d.dst.ptr + r * d.dst.stride, x.1))
      ++ (if fmtIsMx d.df then [(d.dst.scalePtr, b.rows.flatMap (·.2))] else [])

/-- The runs whose places a destination's checks cover. -/
def dstRuns (d : Move) : List (Nat × Nat) := blockRuns d.df d.dst d.dRows d.dCols

/-- The step count of R153. -/
def copySteps (d : Move) : Nat := 32 + ceilDiv (max d.srcBytes d.dstBytes) 512 + ceilDiv d.dstBytes 65536

/-! ## mv.copy -/

/-- Asks peers for the bytes of a source, each piece once. -/
def askPeers (s : State) (epoch : Nat) : List (Nat × Nat × Nat) → Option (State × List (Nat × Nat))
  | [] => some (s, [])
  | (q, pa, len) :: rest =>
    match sendTensor s 2 q epoch pa (natLe 4 len) with
    | none => none
    | some (s1, id) => (askPeers s1 epoch rest).map fun r => (r.1, (id, peerKey q pa) :: r.2)

def mvCopyBody : Body := fun s a f p => do
  let d := moveAt p
  checkAll (copyForm f.cmd.version p d)
  checkAll (copyOnes p d)
  if d.rows = 0 || d.cols = 0 then pure (.noop 16)
  else
    checkAll (copyBounds d)
    namedUnits s f d.cluster d.engine d.toArea
    let got := gotOf f
    let needs ← ((blockRuns d.sf d.src d.rows d.cols).flatMap fun r => piecesOf r.1 r.2).mapM (placeSrc s a d.toArea got)
    if !d.toArea then
      let _ ← (dstRuns d).mapM fun r => checkDest s a true r.1 r.2
    let units : Nat := ceilDiv d.dstBytes 65536
    if freeUnits s (clusterOf f.place) f.cid < units then pure (.wait s .staging (copySteps d))
    else
      match (needs.filterMap id).eraseDups with
      | [] => do
        let b ← readBlock s a got (d.turn != 0) d.sf d.src d.rows d.cols
        let (out, fl) := moveBlock d b
        let pt := blockPattern false d.df d.dst d.dRows d.dCols
        let ws ← (outRuns d out).mapM fun r => do
          if d.toArea then pure [(⟨.area d.engine r.1, r.2, none⟩ : SWrite)] else stageVa s a pt true r.1 r.2
        pure (.staged ⟨ws.flatten, .none, fl, [], copySteps d, 0, [], units⟩)
      | ns =>
        match askPeers s (dealEpoch s f.deal) ns with
        | none => liftE (absent 6 (16 + meshPort s ((ns.head?.map (·.1)).getD 0)))
        | some (t, ids) => pure (.wait (putFlight t { f with units := units }) (.peerRead ids got) (copySteps d))

/-- MV_COPY (R150). -/
def execMvCopy (st : Start) (s : State) : Host.Outcome State Fault Refusal := answer (startMover 0x3001 76 mvCopyBody st s)

/-- Runs the body of a mv.copy that waited again: its staging is granted, or its peers' bytes have come. -/
def resumeCopy (s : State) (f : Flight) : State := settleStart s s f (resumeBody s f mvCopyBody emptyLog)

/-- MOVER_STAGING_GRANTED (R154). -/
def moverStagingGrantedOp (st : Start) (s : State) : State :=
  if !serving s then s
  else
    match flightOf s st.cid with
    | none => s
    | some f =>
      if f.phase ≠ .staging then s
      else
        let s1 := applyErrs (advance s (stepUnitOf f) st.steps) f.place f.cmd.ticket st.errs
        if !serving s1 then s1
        else
          match flightOf s1 f.cid with
          | none => s1
          | some g =>
            if g.phase ≠ .staging then s1
            else if endsUe g.place st.errs then complete s1 g sUe 0 0
            else resumeCopy s1 g

/-- MOVER_STAGING_GRANTED (R154). -/
def execMoverStagingGranted (st : Start) (s : State) : Host.Outcome State Fault Refusal := answer (moverStagingGrantedOp st s)

/-- MOVER_ENGINE_WRITE_OUT (R154): the engine's command has committed or been killed, and the held write-out proceeds. -/
def moverEngineWriteOutOp (cid : Nat) (s : State) : State :=
  if !serving s then s
  else
    match flightOf s cid with
    | none => s
    | some f =>
      match f.phase with
      | .heldEngine n =>
        if engineRuns s n then s
        else putFlight s { f with phase := .committed }
      | _ => s

/-- MOVER_ENGINE_WRITE_OUT (R154). -/
def execMoverEngineWriteOut (cid : Nat) (s : State) : Host.Outcome State Fault Refusal := answer (moverEngineWriteOutOp cid s)

/-! ## mv.fill (R155) -/

def mvFillBody : Body := fun s a f p => do
  let d := descAt p 0
  let ctrl := fld p 40 4
  let cluster := fld p 44 1
  let toArea := bitOf ctrl 2
  let engine := 4 * cluster + bitsOf ctrl 4 3
  let bytes := d.bytes
  checkAll
    [fmtAt 28 (d.format == 0), fmtAt 29 (d.dflags == 0), rsvAt p 30 2, fmtAt 40 (decide (ctrl < 32) && ctrl % 4 == 0),
     fmtAt 44 (decide (cluster < 16) || (cluster == 0xFF && !toArea)), rsvAt p 45 3, fmtAt 0 (ptrOk d.ptr 64),
     fmtAt 12 (d.stride == 0), fmtAt 16 (d.scalePtr == 0), fmtAt 24 (d.scale == 0),
     notOnes p 8 4]
  if bytes = 0 then pure (.noop 16)
  else
    checkAll [lenAt 8 (bytes % 8 == 0), lenAt 0 (!toArea || decide (8388608 < bytes) || decide (d.ptr + bytes ≤ areaBytes)),
      (decide (bytes ≤ 8388608), sTooLarge, 0)]
    namedUnits s f cluster engine toArea
    let data := (List.replicate (bytes / 8) (slice p 32 8)).flatten
    let ws ← if toArea then pure [(⟨.area engine d.ptr, data, none⟩ : SWrite)] else stageVa s a (onePass bytes) true d.ptr data
    pure (onlyWrites ws (32 + ceilDiv bytes 512))

/-- Runs mv.fill: its commit point is the end of its checks. -/
def mvFillOp (st : Start) (s : State) : State :=
  match flightOf s st.cid with
  | none => s
  | some f0 =>
    if !startable f0 then s
    else
      let t := startMover 0x3002 44 mvFillBody st s
      match flightOf t st.cid with
      | none => t
      | some f => if f.phase = .running then passCommit t f else t

/-- MV_FILL (R155). -/
def execMvFill (st : Start) (s : State) : Host.Outcome State Fault Refusal := answer (mvFillOp st s)

/-! ## kn.cstore_assign (R144, R145) -/

def knCstoreAssignBody : Body := fun s _ f p => do
  let c := fld p 0 1
  let kind := fld p 1 1
  let first := fld p 2 2
  let count := fld p 4 2
  let owner := fld p 8 4
  checkAll
    [fmtAt 0 (decide (c < 16)), fmtAt 1 (decide (kind < 3)), rsvAt p 6 2,
     fmtAt 8 (if kind = 2 then decide (owner < 2 ^ 20) && ctxRegistered s owner else owner == 0), rsvAt p 12 4, notOnes p 4 2]
  if count = 0 then pure (.noop 16)
  else
    checkAll [lenAt 2 (decide (first < 384)), lenAt 4 (decide (first + count ≤ 384))]
    if !clusterHere s c then liftE (absent 2 c)
    if !clusterPowered s c then liftE (absent 7 (0x100 + c))
    let tenant := if kind = 2 then (ctxOf s owner).tenant else 0
    let on := startedWhere s f.cid fun g => g.touches.any fun t => t.1 == c && decide (first ≤ t.2 && t.2 < first + count)
    let z := ((List.range count).filter fun i => segChanges (segOf s c (first + i)) kind tenant).length
    pure (.drain s (.cstore c kind first count tenant) on (32 + 128 * z) 0 0)

/-- KN_CSTORE_ASSIGN (R145). -/
def execKnCstoreAssign (st : Start) (s : State) : Host.Outcome State Fault Refusal := startHub 0xF005 knCstoreAssignBody st s

end Sys2Proof.Machine
end

