-- ==== Sys2Proof/Machine/Memory.lean ====
section
/-!
DEFINITION. Sys2Proof/Machine/Memory.lean: kn.spill_pool (R180 to R182) and the events of stacked memory and the far tier (R166, R172,
R179, R340, R458).
-/

namespace Sys2Proof.Machine

/-! ## kn.spill_pool -/

/-- The checks of Table 7-9 but for the translation of the range. -/
def spillChecks (s : State) (p : List Byte) (add : Bool) : List Check :=
  let pool := fld p 12 1
  [fmtAt 0 (ptrOk (fld p 0 8) 65536), fmtAt 12 (decide (pool < 16)), fmtAt 13 (decide (fld p 13 1 < 2)),
   fmtAt 14 (!add || (tabFind s.kv.pools pool).isNone), rsvAt p 15 1, notOnes p 8 4]

/-- The frame at a virtual address (R182). -/
def frameAt (s : State) (a : Actor) (tier va : Nat) : Run SpillFrame := do
  match (← spotOf s a true va 65536) with
  | .loc (.mem pa) _ => if tier = 0 && farBase ≤ pa && pa < farEnd then pure ⟨pa, 0, none⟩ else finish sBadFormat (detParam 0)
  | .loc (.host port addr) _ => if tier = 1 then pure ⟨addr, 1 + port, none⟩ else finish sBadFormat (detParam 0)
  | _ => finish sBadFormat (detParam 0)

/-- The tenants that may spill (R308). -/
def spillTenants (s : State) : List Nat := (s.kv.tenants.filter fun t => t.2.2).map (·.1)

def knSpillPoolAddBody : Body := fun s a _ p => onActionAt 14 p 0 2 do
  let base := fld p 0 8
  let count := fld p 8 4
  let pool := fld p 12 1
  let tier := fld p 13 1
  checkAll (spillChecks s p true)
  if count = 0 then pure (.noop 16)
  else
    checkAll [lenAt 8 (decide (count ≤ 134217728))]
    let frames ← (List.range count).mapM fun i => frameAt s a tier (base + 65536 * i)
    let x : SpillPool := ⟨tier, (List.range count).zip frames, base, count, false⟩
    let t := { s with
      kv := { s.kv with pools := tabPut s.kv.pools pool x }
      dealer := { s.dealer with holdEnd := s.dealer.holdEnd ++ spillTenants s } }
    pure (.act t [] (32 + ceilDiv count 4096) 0 0)

def knSpillPoolWithdrawBody : Body := fun s _ _ p => onActionAt 14 p 1 2 do
  let count := fld p 8 4
  let pool := fld p 12 1
  checkAll (spillChecks s p false)
  if count = 0 then pure (.noop 16)
  else
    checkAll [lenAt 8 (decide (count ≤ 134217728))]
    let t : State := match tabFind s.kv.pools pool with
      | none => s
      | some x =>
        let held := x.frames.filter fun f => f.2.page.isSome
        { s with kv := { s.kv with
          pools :=
            if held.isEmpty then tabErase s.kv.pools pool
            else tabPut s.kv.pools pool { x with frames := held, withdrawing := true } } }
    pure (.act t [] (32 + ceilDiv count 4096) 0 0)

/-- KN_SPILL_POOL_ADD (R182). -/
def execKnSpillPoolAdd (st : Start) (s : State) : Host.Outcome State Fault Refusal := startHub 0xF006 knSpillPoolAddBody st s
/-- KN_SPILL_POOL_WITHDRAW (R182). -/
def execKnSpillPoolWithdraw (st : Start) (s : State) : Host.Outcome State Fault Refusal :=
  startHub 0xF006 knSpillPoolWithdrawBody st s

/-! ## Refresh (R172) -/

/-- The refresh rate of a stack after a reading in 1/16 degrees: 0 for once, 1 for twice, 2 for four times. A rise takes effect
above 85 or 95 degrees, a fall only below 82 or 92. -/
def refreshAfter (rate : Nat) (reading : Int) : Nat :=
  if 95 * 16 < reading then 2
  else if 85 * 16 < reading then (if rate = 2 && 92 * 16 ≤ reading then 2 else 1)
  else if 82 * 16 ≤ reading then min rate 1
  else 0

/-- A sensor reading of a stack crosses, or does not cross, a threshold. -/
def stackTemperatureOp (stack : Nat) (reading : Int) (s : State) : State :=
  if 8 ≤ stack then s
  else
    { s with memories := { s.memories with
        refresh :=
          tabSet s.memories.refresh stack (refreshAfter (tabGet s.memories.refresh stack 0) reading) 0 } }

/-- STACK_TEMPERATURE_CROSSING (R172). -/
def execStackTemperatureCrossing (stack : Nat) (reading : Int) (s : State) : Host.Outcome State Fault Refusal :=
  answer (stackTemperatureOp stack reading s)

/-! ## Far links (R179, R340) -/

def freeExpander : Expander := ⟨0, 0, 0, 0, 0, 0, 0, 0, 0, 0, none⟩
def putExpander (s : State) (k : Nat) (e : Expander) : State :=
  { s with memories := { s.memories with expanders := tabSet s.memories.expanders k e freeExpander } }

/-- The slots of a far port that hold a mapped range. -/
def mappedSlots (s : State) (port : Nat) : List Nat := [2 * port, 2 * port + 1].filter fun k => (expanderOf s k).state == 1

/-- Whether a frame of a pool lies behind one of some slots. -/
def frameBehind (s : State) (ks : List Nat) (f : SpillFrame) : Bool :=
  f.host == 0 && (match farSlotOf s f.loc with | some (k, _) => ks.contains k | none => false)

/-- The pages that lie in frames behind a link that went down are lost, and their frames are free (R340). -/
def losePages (s : State) (ks : List Nat) : State :=
  let gone := s.kv.pools.flatMap fun p => (p.2.frames.filter fun f => frameBehind s ks f.2).filterMap fun f =>
    f.2.page.map fun g => (p.1, f.1, g)
  gone.foldl (fun s g => setFrame (putMade s g.2.2.1 g.2.2.2 ⟨3, false, 0, 0⟩) g.1 g.2.1 none) s

/-- A far link goes down (R179). -/
def farDownOp (port : Nat) (s : State) : State :=
  let ks := mappedSlots s port
  let s1 := ks.foldl (fun s k => putExpander s k { expanderOf s k with state := 3, trained := none }) s
  let s2 := setPortLive s1 (2 + port) false
  let s3 := raiseError s2 ⟨2, 0x30, 6, 2 + port, 0, 0, 0⟩
  let hit := s3.flights.list.filter fun f => isStarted f && f.far.any ks.contains
  let s4 := hit.foldl (fun s f => match flightOf s f.cid with | some g => complete s g sUe 0 0 | none => s) s3
  let lost (a : Nat) : Bool := match farSlotOf s4 a with | some (k, _) => ks.contains k | none => false
  losePages { s4 with memories := { s4.memories with
    mem := s4.memories.mem.filter fun c => !lost c.1
    poison := s4.memories.poison.filter fun u => !lost u } } ks

/-- FAR_LINK_DOWN (R179): the link of a far port that is live goes down. -/
def execFarLinkDown (port : Nat) (s : State) : Host.Outcome State Fault Refusal :=
  answer (if serving s && decide (port < 2) && portLive s (2 + port) then farDownOp port s else s)

/-- FAR_LINK_TRAINED (R458): the link of a far port trains again; what its expanders offer now is kept for MB_FAR_MAP. -/
def farTrainedOp (port : Nat) (offers : List FarOffer) (s : State) : State :=
  if !serving s || 2 ≤ port || portLive s (2 + port) || s.power.portsDown.getLsbD port then s
  else
    offers.foldl (fun s o =>
      if o.slot / 2 = port && (expanderOf s o.slot).state = 3 then
        putExpander s o.slot { expanderOf s o.slot with trained := some (if o.reject = 0 then o.sizeGib else 0) }
      else s) (setPortLive s (2 + port) true)

/-- FAR_LINK_TRAINED (R458). -/
def execFarLinkTrained (port : Nat) (offers : List FarOffer) (s : State) : Host.Outcome State Fault Refusal :=
  answer (farTrainedOp port offers s)

/-! ## The copy of a retiring channel (R166, Table 7-10) -/

/-- The channels of a stack that wait for the first copy, once it has finished: the band of the next is withdrawn, and of every one up to the
next that needs a copy, since a channel that failed has nothing left to copy (R166, Table 7-10). -/
def nextCopies (stack : Nat) (s : State) : List Nat → State
  | [] => { s with memories := { s.memories with copying := tabSet s.memories.copying stack [] [] } }
  | c :: rest =>
    let s1 := withdrawBand s (32 * stack + c)
    if s.memories.lostChan.contains (32 * stack + c) then nextCopies stack s1 rest
    else { s1 with memories := { s1.memories with copying := tabSet s1.memories.copying stack (c :: rest) [] } }

/-- CHANNEL_COPY_DONE (R166): the copy for the first channel has finished; then the band for the next is withdrawn. -/
def channelCopyDoneOp (stack : Nat) (s : State) : State :=
  match tabGet s.memories.copying stack [] with
  | [] => s
  | _ :: rest => nextCopies stack s rest

/-- CHANNEL_COPY_DONE (R166). -/
def execChannelCopyDone (stack : Nat) (s : State) : Host.Outcome State Fault Refusal := answer (channelCopyDoneOp stack s)

end Sys2Proof.Machine
end

