-- ==== Sys2Proof/Machine/Weights.lean ====
section
/-!
DEFINITION. Sys2Proof/Machine/Weights.lean: the weight vault. kn.vault_prov (R197 to R202), kn.weight_place (R206 to R209),
kn.model_cut (R210), the cut and its end (R211, R212) and the repair of a staged weight unit (R213).
-/

namespace Sys2Proof.Machine

def sVaultSpace : Nat := 0x0033
def sVaultWorn : Nat := 0x0034
def sVaultSig : Nat := 0x0035
def sVaultHash : Nat := 0x0036
def sVaultState : Nat := 0x0037

/-- The bytes of a chunk: 16 MiB. -/
def chunkBytes : Nat := 16777216

/-! ## Slots and copies -/

/-- A slot of the table, changed. -/
def setSlot (s : State) (k : Nat) (x : Slot) : State :=
  recordWrite { s with vault := { s.vault with slots := tabPut s.vault.slots k x } }

/-- The bound copies of a model with their numbers: 0 LIVE, 1 NEXT, 2 RETIRING. -/
def copiesOf (m : Model) : List (Nat × Copy) :=
  [(0, m.live), (1, m.next), (2, m.retiring)].filterMap fun c => c.2.map fun x => (c.1, x)

/-- MODEL and BOUND of a slot (Table 8-3). -/
def boundOf (s : State) (k : Nat) : Nat × Nat :=
  s.models.foldl (fun acc e =>
    let bits := ((copiesOf e.2).filter fun c => c.2.slot == k).foldl (fun b c => b + 2 ^ c.1) 0
    if bits = 0 then acc else (e.1, bits)) (0, 0)

/-- The slot record of Table 8-3. -/
def slotRecord (s : State) (k : Nat) : List Byte :=
  let x := vaultSlot s k
  let code := match x.state with | .free => 0 | .writing => 1 | .ready => 2 | .damaged => 3
  let (model, bound) := boundOf s k
  natLe 16 (k + code * 2 ^ 8 + b2n x.prot * 2 ^ 16 + bound * 2 ^ 24 + model * 2 ^ 32)
    ++ natLe 64 (x.degraded * 2 ^ (480 - 128) + x.extents.length * 2 ^ (496 - 128) + x.chunks * 2 ^ (512 - 128)
      + x.total * 2 ^ (544 - 128) + x.imageId * 2 ^ (576 - 128)) ++ padTo 48 x.hash

/-- Write count of an extent, and of a group's parity (R190). -/
def wearOf (s : State) (i : Nat) : Nat := tabGet s.vault.wear i 0
/-- The slot that holds an extent, 0xFF if it is free. -/
def extentSlot (s : State) (x : Nat) : Nat := ((slotOfExtent s x).map (·.1)).getD 0xFF

/-- The group record of Table 8-4. -/
def groupRecord (s : State) (g : Nat) : List Byte :=
  natLe 16 (g + extentSlot s (3 * g) * 2 ^ 24 + extentSlot s (3 * g + 1) * 2 ^ 32 + extentSlot s (3 * g + 2) * 2 ^ 40
    + wearOf s (3 * g) * 2 ^ 64 + wearOf s (3 * g + 1) * 2 ^ 80 + wearOf s (3 * g + 2) * 2 ^ 96
    + wearOf s (1152 + g) * 2 ^ 112)

/-- Whether no slot holds an extent. -/
def extentFree (s : State) (x : Nat) : Bool := extentSlot s x == 0xFF
/-- Whether an extent can be allocated (R191). -/
def allocatable (s : State) (x : Nat) : Bool :=
  extentFree s x && decide (wearOf s x < 3000) && decide (wearOf s (1152 + x / 3) < 3000)

/-- The extents that OPEN takes for n: whole free groups while three or more are wanted, then single extents (Table 8-7). -/
def takeExtents (s : State) (n : Nat) : List Nat :=
  let whole := (List.range 384).filter fun g => (List.range 3).all fun j => allocatable s (3 * g + j)
  let first := (whole.take (n / 3)).flatMap fun g => [3 * g, 3 * g + 1, 3 * g + 2]
  let rest := (List.range 1152).filter fun x => allocatable s x && !first.contains x
  first ++ rest.take (n - first.length)

/-- Counts one write of an extent or a group's parity (R190, R522). -/
def countWear (s : State) (i : Nat) : State :=
  let n := wearOf s i + 1
  wearCheck { s with vault := { s.vault with wear := tabSet s.vault.wear i n 0 } } i i 0 n 3000

/-- The groups that a list of extents touches. -/
def groupsOf (xs : List Nat) : List Nat := (xs.map (· / 3)).eraseDups

/-! ## Manifests (R192 to R195) -/

/-- Whether a manifest header keeps Table 8-5; the offset of the first field that does not. -/
def manifestFault (h : List Byte) : Option Nat :=
  let bad (off : Nat) (ok : Bool) : Option Nat := if ok then none else some off
  let enc := bitOf (fld h 6 1) 0
  let total := fld h 16 4
  let size := fld h 20 4
  let lms := fld h 28 4
  let lmsLen := fld h 32 4
  let sig := fld h 36 4
  [bad 0 (fld h 0 4 == 0x564C5459), bad 4 (fld h 4 2 == 1), bad 6 (decide (fld h 6 1 < 2)), bad 7 (fld h 7 1 == 0),
   bad 16 (decide (1 ≤ total && total ≤ 73728)), bad 20 (decide (4096 ≤ size && size ≤ 16777216)), bad 24 (fld h 24 4 == 320),
   bad 28 (decide (320 + 64 * total ≤ lms)), bad 36 (decide (lms + lmsLen ≤ sig) && decide (sig + 100 ≤ size)),
   bad 136 (enc || zeroRange h 136 96), bad 232 (enc || zeroRange h 232 40), bad 272 (zeroRange h 272 48)].findSome? id

/-- Whether both signatures of a manifest verify (R194). -/
def manifestSigned (m : List Byte) : Bool :=
  let sig := fld m 36 4
  let signed := m.take sig
  let n := fld m (sig + 96) 4
  decide (sig + 100 + n = fld m 20 4) && ecdsaVerify (slice m 40 96) signed (slice m sig 96)
    && hssVerify (slice m (fld m 28 4) (fld m 32 4)) signed (slice m (sig + 100) n)

/-- The content key of an encrypted image (R195). -/
def contentKeyOf (s : State) (m : List Byte) : Option (List Byte) :=
  (ecdhX (provScalar s.vault.pegs.securityVersion s.vault.pegs.debugUnlock) (slice m 136 96)).bind fun z =>
    keyUnwrap (hkdf384 (slice m 8 8) z (m.take 40) 32) (slice m 232 40)

/-- A chunk's plaintext: deciphered if its image is encrypted, and its hash checked (R195, R200). -/
def openChunk (manifest : List Byte) (key : Option (List Byte)) (i : Nat) (data : List Byte) : Option (List Byte) :=
  let entry := slice manifest (320 + 64 * i) 64
  let plain := match key with
    | none => some data
    | some k => gcmOpen k (slice manifest 8 8 ++ natLe 4 i) [] data (entry.drop 48)
  plain.bind fun p => if sha384 p = entry.take 48 then some p else none

/-! ## kn.vault_prov -/

/-- The checks of Table 8-6 for one action but for the bounds that the image gives. -/
def provChecks (p : List Byte) (act : Nat) : List Check :=
  let src := act == 0 || act == 1
  [fmtAt 1 (decide (fld p 1 1 < 64)), rsvAt p 2 2, fmtAt 4 (src || fld p 4 4 == 0), fmtAt 8 (act == 1 || fld p 8 4 == 0),
   rsvAt p 12 4, fmtAt 16 (if src then ptrOk (fld p 16 8) 4096 else fld p 16 8 == 0), fmtAt 24 (src || fld p 24 4 == 0),
   rsvAt p 28 36]
  ++ (if src then [notOnes p 4 4, notOnes p 8 4, notOnes p 24 4] else [])

/-- kn.vault_prov waits while the vault is in standby (R502). -/
def vaultAwake (s : State) : Run Unit := if vaultAsleep s then stopWith .hold else pure ()

/-- Notes bytes written to, or read from, each vault stack. -/
def noteVault (write : Bool) (perStack : Nat) : Run Unit :=
  note fun g => { g with lines := (List.range 4).map (fun v =>
    (⟨if write then .vaultWrite v else .vault v, perStack, 1048576, false, write⟩ : Use)) ++ g.lines }

/-- OPEN's slot record. -/
def openedSlot (s : State) (m : List Byte) (chunks : Nat) (xs : List Nat) (key : Option (List Byte)) (seq : Nat) : Slot :=
  { state := .writing, prot := bitOf (fld m 6 1) 0, chunks := chunks, total := fld m 16 4, imageId := fld m 8 8
    hash := sha384 m, degraded := 0, extents := xs, manifest := m, written := [], payload := [], contentKey := key
    slotKey := some (keyWrap (vaultWrapKey s.vault.pegs.debugUnlock) (padTo 64 (Config.slotKey seq))), wrappedKey := none }

def knVaultProvOpenBody : Body := fun s a _ p => onAction p 0 5 do
  checkAll (provChecks p 0)
  vaultAwake s
  let k := fld p 1 1
  let first := fld p 4 4
  let bytes := fld p 24 4
  let src := fld p 16 8
  need ((vaultSlot s k).state == .free && !(s.vault.slots.any fun e => e.2.state == .writing)) sVaultState 0
  checkAll [lenAt 24 (decide (320 ≤ bytes))]
  let h ← readVa s a ⟨1024, 0, 0⟩ false src 320
  match manifestFault h with
  | some off => finish sBadFormat (detEntry 0 off)
  | none => do
    checkAll [lenAt 24 (decide (fld h 20 4 ≤ bytes)), lenAt 4 (decide (1 ≤ first && first ≤ fld h 16 4))]
    let m ← readVa s a (onePass (fld h 20 4)) false src (fld h 20 4)
    need (manifestSigned m) sVaultSig 0
    if bitOf (fld m 6 1) 0 && s.keys.debugActive then liftE (sealed sealMode a.slot)
    let key := if bitOf (fld m 6 1) 0 then contentKeyOf s m else none
    if bitOf (fld m 6 1) 0 && key.isNone then liftE (sealed sealUnwrap a.slot)
    let n := ceilDiv first 64
    let can := ((List.range 1152).filter (allocatable s)).length
    if can < n then
      finish (if n ≤ ((List.range 1152).filter (extentFree s)).length then sVaultWorn else sVaultSpace) 0
    else
      let xs := takeExtents s n
      let s1 := (xs ++ (groupsOf xs).map (1152 + ·)).foldl countWear s
      let seq := s1.vault.slotKeySeq
      let s2 := setSlot { s1 with vault := { s1.vault with slotKeySeq := seq + 1 } } k (openedSlot s m first xs key seq)
      pure (.act s2 [] (64 + 400000 + ceilDiv (fld m 20 4) 4096) 0 0)

/-- An extent that fails a write check is worn out (R191, R200). -/
def wearOut (s : State) (x : Nat) : State :=
  wearCheck { s with vault := { s.vault with wear := tabSet s.vault.wear x 3000 0 } } x x 0 3000 3000

/-- The granules of some chunks of a slot, which a write makes good again. -/
def chunkGranules (x : Slot) (first count : Nat) : List (Nat × Nat) :=
  (slotGranules x).filter fun g => (List.range count).any fun i =>
    g.1 == x.extents.getD ((first + i) / 64) 0 && g.2 / 16 == (first + i) % 64

/-- The vault once a chunk or parity has been written: what was written can be read again; a slot whose lost granules can be rebuilt no more is
DAMAGED (R214). -/
def vaultWritten (s : State) (good : Nat × Nat → Bool) : State :=
  let s1 := { s with vault := { s.vault with badGranules := s.vault.badGranules.filter fun g => !good g } }
  damageWhere s1 (slotLost s1)

/-- WRITE; `errs` are the write checks that failed in the step. -/
def knVaultProvWriteBody (errs : List HwErr) : Body := fun s a _ p => onAction p 1 5 do
  checkAll (provChecks p 1)
  vaultAwake s
  let k := fld p 1 1
  let first := fld p 4 4
  let count := fld p 8 4
  if count = 0 then pure (.noop 32)
  else
    let x := vaultSlot s k
    need (x.state == .writing) sVaultState 0
    checkAll [lenAt 4 (decide (first < x.chunks)), lenAt 8 (decide (count ≤ 64) && decide (first + count ≤ x.chunks)),
      lenAt 24 (decide (count * chunkBytes ≤ fld p 24 4))]
    let plains ← (List.range count).mapM fun i => do
      let data ← readVa s a (onePass (count * chunkBytes)) false (fld p 16 8 + i * chunkBytes) chunkBytes
      match openChunk x.manifest (if x.prot then some (x.contentKey.getD []) else none) (first + i) data with
      | none => finish sVaultHash 0
      | some pl => pure pl
    noteVault true (count * 4194304)
    let mine := ((List.range count).map fun i => x.extents.getD ((first + i) / 64) 0).eraseDups
    let bad := errs.filterMap fun e => match e with | .vaultWrite v => if mine.contains v then some v else none | _ => none
    if bad.isEmpty then
      let payload := plains.zipIdx.foldl (fun m c => memWrite m ((first + c.2) * chunkBytes) c.1) x.payload
      let marks := (List.range x.chunks).filter fun c => x.written.contains c || decide (first ≤ c && c < first + count)
      let t := { s with vault := { s.vault with slots := tabPut s.vault.slots k { x with payload := payload, written := marks } } }
      pure (.act (vaultWritten t (chunkGranules x first count).contains) [] (64 + 16 * count) 0 0)
    else pure (.ended (bad.foldl wearOut s) sUe 0)

/-- The vault bytes per stack that parity takes: written, and read to form it (R198). -/
def parityWrite (xs : List Nat) : Nat := (groupsOf xs).length * 256 * 1048576
def parityRead (xs : List Nat) : Nat := (groupsOf xs).length * 768 * 1048576

/-- DEGRADED of a slot that becomes READY: with a failed stack every granule on it is served by rebuild. -/
def freshDegraded (s : State) (chunks : Nat) : Nat := if s.vault.stackFailed = 0#4 then 0 else min 0xFFFF (4 * chunks)

def knVaultProvCloseBody : Body := fun s _ _ p => onAction p 2 5 do
  checkAll (provChecks p 2)
  vaultAwake s
  let k := fld p 1 1
  let x := vaultSlot s k
  need (x.state == .writing && (List.range x.chunks).all x.written.contains) sVaultState 0
  noteVault true (parityWrite x.extents)
  noteVault false (parityRead x.extents)
  let key := if x.chunks < x.total then x.contentKey else none
  let good (g : Nat × Nat) : Bool := decide (1152 ≤ g.1) && (groupsOf x.extents).contains (g.1 - 1152)
  let lost := (slotGranules x).filter fun g => s.vault.badGranules.contains g && !s.vault.stackFailed.getLsbD (granuleStack g.1 g.2)
  let t := setSlot s k { x with
    state := .ready, contentKey := key, wrappedKey := key.map (keyWrap (vaultWrapKey s.vault.pegs.debugUnlock)), degraded := min 0xFFFF (freshDegraded s x.chunks + lost.length) }
  pure (.act (vaultWritten t good) [] (64 + 256 * (groupsOf x.extents).length) 0 0)

/-- A slot becomes FREE: its extents and its keys go. -/
def freeSlotOf (s : State) (k : Nat) : State := recordWrite { s with vault := { s.vault with slots := tabErase s.vault.slots k } }

def knVaultProvAbortBody : Body := fun s _ _ p => onAction p 3 5 do
  checkAll (provChecks p 3)
  vaultAwake s
  let k := fld p 1 1
  let x := vaultSlot s k
  need (x.state == .writing) sVaultState 0
  noteVault true (parityWrite x.extents)
  noteVault false (parityRead x.extents)
  let good (g : Nat × Nat) : Bool := decide (1152 ≤ g.1) && (groupsOf x.extents).contains (g.1 - 1152)
  pure (.act (vaultWritten (freeSlotOf s k) good) [] (64 + 256 * (groupsOf x.extents).length) 0 0)

def knVaultProvFreeBody : Body := fun s _ _ p => onAction p 4 5 do
  checkAll (provChecks p 4)
  vaultAwake s
  let k := fld p 1 1
  let x := vaultSlot s k
  need ((x.state == .ready || x.state == .damaged) && (boundOf s k).2 == 0) sVaultState 0
  pure (.act (freeSlotOf s k) [] 64 0 0)

/-- KN_VAULT_PROV_OPEN (R198). -/
def execKnVaultProvOpen (st : Start) (s : State) : Host.Outcome State Fault Refusal := startHub 0xF007 knVaultProvOpenBody st s
/-- KN_VAULT_PROV_WRITE (R198). -/
def execKnVaultProvWrite (st : Start) (s : State) : Host.Outcome State Fault Refusal :=
  startHub 0xF007 (knVaultProvWriteBody st.errs) st s
/-- KN_VAULT_PROV_CLOSE (R198). -/
def execKnVaultProvClose (st : Start) (s : State) : Host.Outcome State Fault Refusal := startHub 0xF007 knVaultProvCloseBody st s
/-- KN_VAULT_PROV_ABORT (R198). -/
def execKnVaultProvAbort (st : Start) (s : State) : Host.Outcome State Fault Refusal := startHub 0xF007 knVaultProvAbortBody st s
/-- KN_VAULT_PROV_FREE (R198). -/
def execKnVaultProvFree (st : Start) (s : State) : Host.Outcome State Fault Refusal := startHub 0xF007 knVaultProvFreeBody st s

/-! ## kn.weight_place -/

/-- The checks of Table 8-10 for one action, before the copy is known. -/
def placeChecks (p : List Byte) (act : Nat) : List Check :=
  let dst := act != 2
  let src := act == 1
  let tier := fld p 3 1
  [fmtAt 0 (decide (fld p 0 1 < 16)), fmtAt 1 (decide (fld p 1 1 < 2)),
   fmtAt 3 (if dst then tier == 1 || tier == 2 else tier == 0), rsvAt p 12 4,
   fmtAt 16 (if dst then ptrOk (fld p 16 8) chunkBytes else fld p 16 8 == 0), fmtAt 24 (dst || fld p 24 8 == 0),
   fmtAt 32 (if src then ptrOk (fld p 32 8) 4096 else fld p 32 8 == 0), fmtAt 40 (src || fld p 40 8 == 0), rsvAt p 48 16,
   notOnes p 8 4] ++ (if dst then [notOnes p 24 8] else []) ++ (if src then [notOnes p 40 8] else [])

/-- The copy that COPY names. -/
def namedCopy (m : Model) (copy : Nat) : Option Copy := if copy = 0 then m.live else m.next

/-- A model with one of its copies changed. -/
def setCopy (m : Model) (copy : Nat) (c : Copy) : Model :=
  if copy = 0 then { m with live := some c } else { m with next := some c }

/-- The frame of the chunk at a virtual address: 256 pages that lie one after the other (Table 8-10). -/
def chunkFrame (s : State) (a : Actor) (tier va : Nat) : Run Nat := do
  let pages ← (List.range 256).mapM fun i => do
    match (← spotOf s a true (va + 65536 * i) 65536) with
    | .loc (.mem pa) _ =>
      need (if tier = 1 then decide (pa < stackedEnd) else decide (farBase ≤ pa && pa < farEnd)) sBadFormat (detParam 16)
      pure (pa - 65536 * i)
    | _ => finish sBadFormat (detParam 16)
  let pa := pages.headD 0
  need (pa % chunkBytes == 0 && pages.all (· == pa)) sBadFormat (detParam 16)
  pure pa

/-- Bytes of a chunk as its frame holds them (R196). -/
def frameForm (s : State) (x : Slot) (chunk : Nat) (plain : List Byte) : List Byte :=
  match x.prot, x.slotKey with
  | true, some key => slotCrypt s true key (chunk * chunkBytes) plain
  | _, _ => plain

/-- Placement from the slot or from a buffer (R207). -/
def placeBody (act : Nat) : Body := fun s a _ p => onActionAt 2 p act 3 do
  checkAll (placeChecks p act)
  let first := fld p 4 4
  let count := fld p 8 4
  let tier := fld p 3 1
  if count = 0 then pure (.noop 32)
  else
    let md := modelOf s (fld p 0 1)
    match namedCopy md (fld p 1 1) with
    | none => finish sVaultState 0
    | some c => do
      let x := vaultSlot s c.slot
      checkAll [lenAt 4 (decide (first < x.total)), lenAt 8 (decide (count ≤ 512) && decide (first + count ≤ x.total)),
        lenAt 24 (decide (count * chunkBytes ≤ fld p 24 8)), lenAt 40 (act != 1 || decide (count * chunkBytes ≤ fld p 40 8))]
      need (act == 1 || (decide (first + count ≤ x.chunks) && x.state == .ready)) sVaultState 0
      if act = 1 && x.prot && x.contentKey.isNone then liftE (sealed sealUnwrap a.slot)
      if act = 0 && vaultAsleep s then stopWith .hold
      let frames ← (List.range count).mapM fun i => chunkFrame s a tier (fld p 16 8 + i * chunkBytes)
      let ws ← (List.range count).mapM fun i => do
        let data ←
          if act = 0 then pure (memRead x.payload ((first + i) * chunkBytes) chunkBytes)
          else readVa s a (onePass (count * chunkBytes)) false (fld p 32 8 + i * chunkBytes) chunkBytes
        let key := if act = 1 && x.prot then x.contentKey else none
        match openChunk x.manifest key (first + i) data with
        | none => finish sVaultHash 0
        | some pl =>
          let pa := frames.getD i 0
          noteLine (lineOf s (.mem pa)) (onePass chunkBytes) chunkBytes true
          pure (⟨.mem pa, frameForm s x (first + i) pl, none⟩ : SWrite)
      if act = 0 then
        note fun g => { g with lines := (List.range 4).map (fun v =>
          (⟨.vault v, count * 4194304, 1048576, false, false⟩ : Use)) ++ g.lines }
      let map := (frames.zipIdx).foldl (fun m f => tabPut m (first + f.2) (tier, f.1)) c.map
      pure (.act (putModel s (fld p 0 1) (setCopy md (fld p 1 1) { c with map := map })) ws (64 + 16 * count) 0 0)

/-- The commands that are placed and hold a copy of a model, started or not (R208, R211). -/
def copyReaders (s : State) (model slot : Nat) : List Nat :=
  (s.flights.list.filter fun f => onUnit f && !isCommitted f
    && (match f.place with | .engine _ | .mover _ _ => true | _ => false)
    && ((f.live.getD [])[model]?).join == some slot).map fun f => f.cid

def knWeightPlaceDropBody : Body := fun s _ _ p => onActionAt 2 p 2 3 do
  checkAll (placeChecks p 2)
  let first := fld p 4 4
  let count := fld p 8 4
  let model := fld p 0 1
  if count = 0 then pure (.noop 32)
  else
    let md := modelOf s model
    match namedCopy md (fld p 1 1) with
    | none => finish sVaultState 0
    | some c => do
      let x := vaultSlot s c.slot
      checkAll [lenAt 4 (decide (first < x.total)), lenAt 8 (decide (count ≤ 512) && decide (first + count ≤ x.total))]
      let map := c.map.filter fun e => !decide (first ≤ e.1 && e.1 < first + count)
      let t := putModel s model (setCopy md (fld p 1 1) { c with map := map })
      pure (.drain t .post (copyReaders s model c.slot) (64 + 16 * count) 0 0)

/-- KN_WEIGHT_PLACE_SLOT (R207). -/
def execKnWeightPlaceSlot (st : Start) (s : State) : Host.Outcome State Fault Refusal := startHub 0xF008 (placeBody 0) st s
/-- KN_WEIGHT_PLACE_BUFFER (R207). -/
def execKnWeightPlaceBuffer (st : Start) (s : State) : Host.Outcome State Fault Refusal := startHub 0xF008 (placeBody 1) st s
/-- KN_WEIGHT_PLACE_DROP (R208). -/
def execKnWeightPlaceDrop (st : Start) (s : State) : Host.Outcome State Fault Refusal := startHub 0xF008 knWeightPlaceDropBody st s

/-! ## kn.model_cut -/

def cutChecks (p : List Byte) (act : Nat) : List Check :=
  [fmtAt 0 (decide (fld p 0 1 < 16)), fmtAt 2 (if act = 0 then decide (fld p 2 1 < 64) else fld p 2 1 == 0), rsvAt p 3 5,
   fmtAt 8 (act == 1 || fld p 8 8 == 0), rsvAt p 16 16]

/-- The units of the weight-map store (R204). -/
def mapUnits : Nat := 36864

/-- The units that no copy's map holds, lowest first. -/
def freeMapUnits (s : State) : List Nat :=
  let used := s.models.flatMap fun e => (copiesOf e.2).flatMap fun c => c.2.units
  (List.range mapUnits).filter fun u => !used.contains u

/-- One action of kn.model_cut: its requirement, then the model's entry after it. -/
def cutBody (act : Nat) (ok : Model → Bool) (f : Model → Model) : Body := fun s _ _ p => onActionAt 1 p act 4 do
  checkAll (cutChecks p act)
  let m := modelOf s (fld p 0 1)
  need (ok m) sVaultState 0
  pure (.act (putModel s (fld p 0 1) (f m)) [] 32 0 0)

def knModelCutBindBody : Body := fun s _ _ p => onActionAt 1 p 0 4 do
  checkAll (cutChecks p 0)
  let m := modelOf s (fld p 0 1)
  let k := fld p 2 1
  let x := vaultSlot s k
  need (x.state == .ready && (boundOf s k).2 == 0 && m.next.isNone && m.retiring.isNone) sVaultState 0
  let n := ceilDiv x.total 64
  let free := (freeMapUnits s).take n
  need (decide (n ≤ free.length)) sTooLarge 0
  pure (.act (putModel s (fld p 0 1) { m with next := some ⟨k, [], free⟩ }) [] 32 0 0)

/-- ARM takes its epoch from the parameter block; a domain cut may let the device arrive at a barrier (R212, Table 18-10). -/
def knModelCutArmBody : Body := fun s _ _ p => onActionAt 1 p 1 4 do
  checkAll (cutChecks p 1)
  let k := fld p 0 1
  let m := modelOf s k
  need (m.next.isSome && m.armed.isNone) sVaultState 0
  let t := putModel s k { m with armed := some (fld p 8 8) }
  let b := t.domain.barrier
  let t1 := { t with domain := { t.domain with barrier := { b with withheld := b.withheld.filter fun w => w.1 != k } } }
  pure (.act (if fld p 8 8 = 0 then t else tryArrive t1) [] 32 0 0)
def knModelCutDisarmBody : Body := cutBody 2 (fun m => m.armed.isSome) fun m => { m with armed := none }
def knModelCutUnbindBody : Body := cutBody 3 (fun m => m.next.isSome && m.armed.isNone) fun m => { m with next := none }

/-- KN_MODEL_CUT_BIND (R210). -/
def execKnModelCutBind (st : Start) (s : State) : Host.Outcome State Fault Refusal := startHub 0xF009 knModelCutBindBody st s
/-- KN_MODEL_CUT_ARM (R210). -/
def execKnModelCutArm (st : Start) (s : State) : Host.Outcome State Fault Refusal := startHub 0xF009 knModelCutArmBody st s
/-- KN_MODEL_CUT_DISARM (R210). -/
def execKnModelCutDisarm (st : Start) (s : State) : Host.Outcome State Fault Refusal := startHub 0xF009 knModelCutDisarmBody st s
/-- KN_MODEL_CUT_UNBIND (R210). -/
def execKnModelCutUnbind (st : Start) (s : State) : Host.Outcome State Fault Refusal := startHub 0xF009 knModelCutUnbindBody st s

/-! ## The cut (R211) -/

/-- Whether a command that is not past its commit point holds a copy of a slot for a model. -/
def copyHeld (s : State) (model slot : Nat) : Bool :=
  s.flights.list.any fun f => !isCommitted f && ((f.live.getD [])[model]?).join == some slot

/-- The end of a RETIRING copy: it is released, and EV_CUT_DONE is raised. -/
def releaseRetiring (s : State) (model : Nat) : State :=
  let m := modelOf s model
  match m.retiring with
  | none => s
  | some c =>
    if copyHeld s model c.slot then s
    else
      let s1 := putModel s model { m with retiring := none, cutDeals := 0, lastUse := 0 }
      raiseEvent s1 evCutDone (cutPayload model ((m.live.map (·.slot)).getD 0) 0 m.cutDeals)

/-- RETIRING_COPY_RELEASE (R211). -/
def execRetiringCopyRelease (model : Nat) (s : State) : Host.Outcome State Fault Refusal :=
  answer (if serving s then releaseRetiring s model else s)

/-- Makes the cut of a model whose armed cut falls due at a deal boundary with a domain epoch (Table 8-11, R211, Table 8-13). -/
def makeCut (epoch : Nat) (s : State) (model : Nat) : State :=
  let m := modelOf s model
  match m.armed, m.next with
  | some e, some c =>
    if (e = 0 || e ≤ epoch) && (vaultSlot s c.slot).state = .ready then
      match m.live with
      | none =>
        raiseEvent (putModel s model { m with live := some c, next := none, armed := none }) evCutDone
          (cutPayload model c.slot 0 0)
      | some old => putModel s model { m with live := some c, next := none, retiring := some old, armed := none, cutDeals := 0 }
    else s
  | _, _ => s

/-- A deal opens after a cut while commands still hold a RETIRING copy: it is a deal that used the copy. -/
def countCutDeal (s : State) (model : Nat) : State :=
  let m := modelOf s model
  match m.retiring with
  | some c => if copyHeld s model c.slot then putModel s model { m with cutDeals := m.cutDeals + 1 } else s
  | none => s

/-! ## Repair of a staged unit (R213) -/

/-- The (model, copy, chunk) whose frame holds an address, and the slot's number. -/
def frameOwner (s : State) (pa : Nat) : Option (Nat × Nat × Nat × Copy) :=
  s.models.findSome? fun e => (copiesOf e.2).findSome? fun c =>
    (c.2.map.find? fun x => (x.2.1 == 1 || x.2.1 == 2) && x.2.2 == pa / chunkBytes * chunkBytes).map fun x =>
      (e.1, c.1, x.1, c.2)

/-- Whether a frame's bytes are the chunk that the manifest names: their SHA-384 is its entry's (Table 8-12, step 3). -/
def frameVerified (s : State) (x : Slot) (chunk : Nat) (bytes : List Byte) : Bool :=
  let plain := match x.prot, x.slotKey with
    | true, some key => slotCrypt s false key (chunk * chunkBytes) bytes
    | _, _ => bytes
  sha384 plain == slice x.manifest (320 + 64 * chunk) 48

/-- The bytes of a 64-byte unit from a far-tier frame of the same chunk in any copy of the slot; a frame that is poisoned or does not verify is no
source. -/
def farSource (s : State) (slot chunk own off : Nat) : Option (List Byte) :=
  (s.models.flatMap fun e => copiesOf e.2).findSome? fun c =>
    if c.2.slot ≠ slot then none
    else
      match tabFind c.2.map chunk with
      | some (2, frame) =>
        if frame ≠ own && !farDown s frame && !anyPoison s frame chunkBytes
            && frameVerified s (vaultSlot s slot) chunk (memRead s.memories.mem frame chunkBytes) then
          some (memRead s.memories.mem (frame + off) 64)
        else none
      | _ => none

/-- Sets a chunk's entry of a copy to TIER 3. -/
def loseChunk (s : State) (model copy chunk : Nat) (c : Copy) : State :=
  let m := modelOf s model
  let c' := { c with map := tabPut c.map chunk (3, 0) }
  putModel s model (match copy with
    | 0 => { m with live := some c' }
    | 1 => { m with next := some c' }
    | _ => { m with retiring := some c' })

/-- The commands that wait for the repair of a unit are re-run. -/
def rerunRepaired (s : State) (pa : Nat) : State :=
  setFlights s (s.flights.list.map fun f => if f.phase = .repair pa then { f with phase := .rerun none } else f)

/-- STAGED_WEIGHT_REPAIR (Table 8-12): `pa` is the poisoned unit. -/
def stagedWeightRepairOp (pa : Nat) (errs : List HwErr) (s : State) : State :=
  let u := unitOf pa
  if !serving s || !isPoisoned s u then s
  else
    match frameOwner s u with
    | none => s
    | some (model, copy, chunk, c) =>
      let s1 := applyErrs s .hub 0 errs
      if !serving s1 then s1
      else
        let x := vaultSlot s1 c.slot
        let own := u / chunkBytes * chunkBytes
        let off := u % chunkBytes
        if x.state ≠ .ready then rerunRepaired s1 u
        else
          let plain := memRead x.payload (chunk * chunkBytes + off / 4096 * 4096) 4096
          let source :=
            if chunk < x.chunks then
              if vaultAsleep s1 then none
              else
                match x.prot, x.slotKey with
                | true, some key =>
                  some (slice (slotCrypt s1 true key (chunk * chunkBytes + off / 4096 * 4096) plain) (off % 4096) 64)
                | _, _ => some (slice plain (off % 4096) 64)
            else farSource s1 c.slot chunk own off
          match source with
          | some bs =>
            let s2 := (putMem s1 u bs).1
            let s3 :=
              if u < stackedEnd then
                charge (raiseError s2 ⟨0, 0x10, 4, channelIndex u, 0, 0, u⟩) 4 (channelIndex u) 0x10 true false
              else s2
            rerunRepaired s3 u
          | none =>
            if chunk < x.chunks then s
            else rerunRepaired (loseChunk s1 model copy chunk c) u

/-- STAGED_WEIGHT_REPAIR (R213). -/
def execStagedWeightRepair (pa : Nat) (errs : List HwErr) (s : State) : Host.Outcome State Fault Refusal :=
  answer (stagedWeightRepairOp pa errs s)

end Sys2Proof.Machine
end

