-- ==== Sys2Proof/Machine/Spaces.lean ====
section
/-!
DEFINITION. Sys2Proof/Machine/Spaces.lean: kn.units_get (R30, R31), address spaces (R225, R226), invalidation and pinning (R231 to
R234), the page walker (R228, R229) and the closing count of the kitty (R240).
-/

namespace Sys2Proof.Machine

/-! ## kn.units_get -/

def knUnitsGetBody : Body := fun s a _ p => do
  checkAll [fmtAt 0 (ptrOk (fld p 0 8) 64), rsvAt p 12 4, notOnes p 8 4]
  checkAll [lenAt 8 (fld p 8 4 == 0 || decide (256 ≤ fld p 8 4))]
  copyOut s a (fld p 0 8) (fld p 8 4) (mapBytes s) 32

/-- KN_UNITS_GET (R31). -/
def execKnUnitsGet (st : Start) (s : State) : Host.Outcome State Fault Refusal := startHub 0xF002 knUnitsGetBody st s

/-! ## kn.as_set -/

/-- A PASID word of Table 9-5. -/
def pasidOk (v : Nat) : Bool := bitsOf v 30 20 == 0
def pasidOf (v : Nat) : Option Nat := if bitOf v 31 then some (bitsOf v 19 0) else none

/-- An address of this device's stacked memory, 64 KiB aligned, in device-local or board-wide form. -/
def rootOk (s : State) (v : Nat) : Bool :=
  ptrOk v 65536 && (v / 2 ^ 53 == 0 || v / 2 ^ 53 == position s) && decide (v % 2 ^ 53 < stackedEnd)

/-- The checks of Table 9-5 for one action, which needs a record in `state`. -/
def asChecks (s : State) (p : List Byte) (act state : Nat) : List Check :=
  let pas := act == 2
  [fmtAt 0 (fld p 0 2 != 0), fmtAt 2 ((asidRec s (fld p 0 2)).state == state), rsvAt p 3 1,
   fmtAt 4 (if pas then pasidOk (fld p 4 4) else fld p 4 4 == 0), fmtAt 8 (if pas then pasidOk (fld p 8 4) else fld p 8 4 == 0),
   rsvAt p 12 4, fmtAt 16 (if act = 0 || act = 1 then rootOk s (fld p 16 8) else fld p 16 8 == 0), rsvAt p 24 8]

def putAsid (s : State) (a : Nat) (r : Asid) : State :=
  { s with trans := { s.trans with asids := tabSet s.trans.asids a r ⟨0, 0, none, none⟩ } }

/-- The commands that have read their parameter blocks and hold a translation that a test selects, that of their record and signal among them
(R232). -/
def holders (s : State) (self : Nat) (asid : Nat → Bool) (page : Nat → Bool) : List Nat :=
  startedWhere s self fun f => asid f.cmd.asid && f.pages.any page

def knAsSetCreateBody : Body := fun s _ _ p => onActionAt 2 p 0 4 do
  checkAll (asChecks s p 0 0)
  pure (.act (putAsid s (fld p 0 2) ⟨1, fld p 16 8, none, none⟩) [] 32 0 0)

/-- A change of a record: every buffered entry of the ASID goes, and the completion waits (R226). -/
def changeAsid (s : State) (f : Flight) (a : Nat) (r : Asid) : Plan :=
  .drain (invalAsid (putAsid s a r) a) .post (holders s f.cid (· == a) fun _ => true) 32 0 0

def knAsSetSetRootBody : Body := fun s _ f p => onActionAt 2 p 1 4 do
  checkAll (asChecks s p 1 1)
  let a := fld p 0 2
  pure (changeAsid s f a { asidRec s a with root := fld p 16 8 })

def knAsSetSetPasidBody : Body := fun s _ f p => onActionAt 2 p 2 4 do
  checkAll (asChecks s p 2 1)
  let a := fld p 0 2
  pure (changeAsid s f a { asidRec s a with pasid0 := pasidOf (fld p 4 4), pasid1 := pasidOf (fld p 8 4) })

/-- The commands of an address space in the kitty complete with S_FAULT (R226). -/
def failKitty (s : State) (a : Nat) : State :=
  (s.flights.list.filter fun f => inKitty f && f.cmd.asid == a).foldl (fun s f =>
    match flightOf s f.cid with
    | some g => complete s g sFault (faultCode codeAsid) 0
    | none => s) s

def knAsSetDestroyBody : Body := fun s _ f p => onActionAt 2 p 3 4 do
  checkAll (asChecks s p 3 1)
  let a := fld p 0 2
  let s1 := failKitty (putAsid s a { asidRec s a with state := 2 }) a
  pure (.drain s1 (.asidDestroy a) (startedWhere s1 f.cid fun g => g.cmd.asid == a) 32 0 0)

/-- KN_AS_SET_CREATE (R226). -/
def execKnAsSetCreate (st : Start) (s : State) : Host.Outcome State Fault Refusal := startHub 0xF003 knAsSetCreateBody st s
/-- KN_AS_SET_SET_ROOT (R226). -/
def execKnAsSetSetRoot (st : Start) (s : State) : Host.Outcome State Fault Refusal := startHub 0xF003 knAsSetSetRootBody st s
/-- KN_AS_SET_SET_PASID (R226). -/
def execKnAsSetSetPasid (st : Start) (s : State) : Host.Outcome State Fault Refusal := startHub 0xF003 knAsSetSetPasidBody st s
/-- KN_AS_SET_DESTROY (R226). -/
def execKnAsSetDestroy (st : Start) (s : State) : Host.Outcome State Fault Refusal := startHub 0xF003 knAsSetDestroyBody st s

/-! ## kn.tlb -/

/-- The checks of Table 9-6 for one action. -/
def tlbChecks (s : State) (p : List Byte) (act : Nat) : List Check :=
  let pins := act == 3 || act == 4
  let ranged := act == 0 || pins
  [fmtAt 1 (if pins then decide (fld p 1 1 < 16) else fld p 1 1 == 0),
   fmtAt 2 (if act = 2 then fld p 2 2 == 0 else (asidRec s (fld p 2 2)).state == 1),
   fmtAt 4 (ranged || fld p 4 4 == 0), fmtAt 8 (if ranged then ptrOk (fld p 8 8) 65536 else fld p 8 8 == 0), rsvAt p 16 16]
  ++ (if ranged then [notOnes p 4 4] else [])

/-- Whether a range of pages meets a range of bytes. -/
def meets (lo n va len : Nat) : Bool := decide (lo < va + len && va < lo + n)

def knTlbInvalRangeBody : Body := fun s _ f p => onAction p 0 5 do
  checkAll (tlbChecks s p 0)
  let a := fld p 2 2
  let va := fld p 8 8
  let pages := fld p 4 4
  if pages = 0 then pure (.noop 32)
  else
    checkAll [lenAt 4 (decide (pages ≤ 2 ^ 24))]
    let n := 65536 * pages
    let hit (l : Leaf) : Bool := l.asid == a && meets va n l.va (leafBytes l.level)
    let t := invalWhere s hit fun w => w.asid == a && meets va n (w.path * 2 ^ levelShift w.level) (2 ^ levelShift w.level)
    let gone := ((s.trans.level1 ++ s.trans.level2).flatMap (·.2)).filter hit
    pure (.drain t .post
      (holders s f.cid (· == a) fun g => meets va n (65536 * g) 65536 || gone.any fun l => leafCovers l a (65536 * g)) 64 0 0)

def knTlbInvalAsidBody : Body := fun s _ f p => onAction p 1 5 do
  checkAll (tlbChecks s p 1)
  let a := fld p 2 2
  pure (.drain (invalAsid s a) .post (holders s f.cid (· == a) fun _ => true) 64 0 0)

def knTlbInvalAllBody : Body := fun s _ f p => onAction p 2 5 do
  checkAll (tlbChecks s p 2)
  pure (.drain (invalWhere s (fun _ => true) fun _ => true) .post (holders s f.cid (fun _ => true) fun _ => true) 64 0 0)

/-- The leaf that a walk of a page gives, for a pin. -/
def pinLeaf (s : State) (asid va : Nat) : Run Leaf := do
  match (← liftE (walkTables s .hub asid va false)) with
  | .leaf e l => pure ⟨asid, va / leafBytes l * leafBytes l, l, e, true⟩
  | .fault q l => finish sFault (q + l * 2 ^ 8 + 0x1FF * 2 ^ 10)
  | .stop st d => finish st d

/-- The pinned ways of a set, and the pinned entries of a cluster (R233). -/
def pinnedWays : Nat := 4
def pinnedEntries : Nat := 256

def knTlbPinBody : Body := fun s _ _ p => onAction p 3 5 do
  checkAll (tlbChecks s p 3)
  let c := fld p 1 1
  let a := fld p 2 2
  let pages := fld p 4 4
  if pages = 0 then pure (.noop 16)
  else
    checkAll [lenAt 4 (decide (pages ≤ 256))]
    if !clusterHere s c then liftE (absent 2 c)
    if !clusterPowered s c then liftE (absent 7 (0x100 + c))
    let all ← (List.range pages).mapM fun i => pinLeaf s a (fld p 8 8 + 65536 * i)
    let new := all.eraseDups
    let old := tabGet s.trans.level2 c []
    let pins := (old.filter fun l => l.pinned && !new.any (sameLeaf l)) ++ new
    need (decide (pins.length ≤ pinnedEntries) &&
      pins.all fun l => decide ((pins.filter fun m => setOf m == setOf l).length ≤ pinnedWays)) sTooLarge 0
    let t := { s with trans := { s.trans with level2 := tabPut s.trans.level2 c (new.foldl fillL2 old) } }
    pure (.act t [] (32 + 16 * new.length) 0 0)

def knTlbUnpinBody : Body := fun s _ _ p => onAction p 4 5 do
  checkAll (tlbChecks s p 4)
  let c := fld p 1 1
  let a := fld p 2 2
  let pages := fld p 4 4
  if pages = 0 then pure (.noop 16)
  else
    checkAll [lenAt 4 (decide (pages ≤ 256))]
    if !clusterHere s c then liftE (absent 2 c)
    if !clusterPowered s c then liftE (absent 7 (0x100 + c))
    let hit (l : Leaf) : Bool := l.pinned && l.asid == a && meets (fld p 8 8) (65536 * pages) l.va (leafBytes l.level)
    let old := tabGet s.trans.level2 c []
    let t := { s with trans := { s.trans with
      level2 := tabSet s.trans.level2 c (old.map fun l => if hit l then { l with pinned := false } else l) [] } }
    pure (.act t [] (32 + 16 * (old.filter hit).length) 0 0)

/-- KN_TLB_INVAL_RANGE (R232). -/
def execKnTlbInvalRange (st : Start) (s : State) : Host.Outcome State Fault Refusal := startHub 0xF004 knTlbInvalRangeBody st s
/-- KN_TLB_INVAL_ASID (R232). -/
def execKnTlbInvalAsid (st : Start) (s : State) : Host.Outcome State Fault Refusal := startHub 0xF004 knTlbInvalAsidBody st s
/-- KN_TLB_INVAL_ALL (R232). -/
def execKnTlbInvalAll (st : Start) (s : State) : Host.Outcome State Fault Refusal := startHub 0xF004 knTlbInvalAllBody st s
/-- KN_TLB_PIN (R233). -/
def execKnTlbPin (st : Start) (s : State) : Host.Outcome State Fault Refusal := startHub 0xF004 knTlbPinBody st s
/-- KN_TLB_UNPIN (R233). -/
def execKnTlbUnpin (st : Start) (s : State) : Host.Outcome State Fault Refusal := startHub 0xF004 knTlbUnpinBody st s

/-! ## The page walker (R227 to R229) -/

/-- The non-leaf entries that a walk passes, from a table whose level is 4 less the levels left. -/
def walkNodes (s : State) (asid va : Nat) : Nat → Nat → List NonLeaf
  | 0, _ => []
  | n + 1, table =>
    let level := 3 - n
    match readEntry s (table + 8 * (va / 2 ^ levelShift level % 2 ^ levelBits level)) with
    | .ok e =>
      if bitOf e 0 && !bitOf e 2 && nonLeafOk s e level then
        ⟨asid, level, va / 2 ^ levelShift level, e⟩ :: walkNodes s asid va n (bitsOf e 55 8 * 256 % 2 ^ 53)
      else []
    | .error _ => []

/-- Entries of a walker cache. -/
def walkerEntries : Nat := 512

/-- Fills the first level of an engine, the second level of its cluster and the walker cache of its die (R227), the newest entry in front; a full
first level drops the leaf used longest ago. -/
def fillBuffers (s : State) (p : Place) (die : Nat) (leaf : Leaf) (nodes : List NonLeaf) : State :=
  let s1 := match p with
    | .engine n => putLevel1 s n (leaf :: (tabGet s.trans.level1 n []).filter fun m => !sameLeaf m leaf)
    | _ => s
  let s2 := match clusterAt p with
    | some c => putLevel2 s1 c (fillL2 (tabGet s1.trans.level2 c []) leaf)
    | none => s1
  let cache := (nodes ++ (tabGet s.trans.walkers die []).filter fun w =>
    !nodes.any fun x => x.asid == w.asid && x.level == w.level && x.path == w.path).take walkerEntries
  { s2 with trans := { s2.trans with walkers := tabSet s2.trans.walkers die cache [] } }

/-- Whether the buffers of a unit miss a page (R228); the hub has no buffers. -/
def misses (s : State) (p : Place) (asid va : Nat) : Bool := !(buffersOf s p).any fun l => leafCovers l asid va

/-- Whether a command runs on the hub, whose accesses have all been made when its row ends. -/
def onHub (f : Flight) : Bool := match f.place with | .engine _ | .mover _ _ => false | _ => true

/-- TRANSLATION_WALK: a walker completes the walk of a page that a started command translates and that its buffers miss. The row does not happen
for a write that the command does not make, or without a miss. -/
def translationWalkOp (cid va : Nat) (write : Bool) (errs : List HwErr) (s : State) : State :=
  if !serving s then s
  else
    match flightOf s cid with
    | none => s
    | some f =>
      if !isStarted f || !(if write then f.wrote else f.pages).contains (va / 65536) || !misses s f.place f.cmd.asid va then s
      else
        let s1 := applyErrs s f.place f.cmd.ticket errs
        if !serving s1 then s1
        else
          match flightOf s1 cid, walkDie s1 f.place with
          | none, _ => s1
          | some _, none => fatal s1 0x55 0 0 0
          | some g, some die =>
            if !isStarted g then s1
            else
              let a := g.cmd.asid
              match walkTables s1 g.place a va false with
              | .error .hold => s
              | .error e => if onHub g then s1 else stopCommand s1 g e
              | .ok (.stop st d) => if onHub g then s1 else complete s1 g st d 0
              | .ok (.fault q l) => if onHub g then s1 else faultCommand s1 g a va q l write
              | .ok (.leaf e l) =>
                match accessReason e (g.cls == 0) write with
                | some q => if onHub g then s1 else faultCommand s1 g a va q l write
                | none =>
                  let (n, table) := match cachedTable s1 die a va with
                    | some (lv, t) => (3 - lv, t)
                    | none => (4, (asidRec s1 a).root % 2 ^ 53)
                  fillBuffers s1 g.place die ⟨a, va / leafBytes l * leafBytes l, l, e, false⟩ (walkNodes s1 a va n table)

/-- TRANSLATION_WALK (R228). -/
def execTranslationWalk (cid va : Nat) (write : Bool) (errs : List HwErr) (s : State) : Host.Outcome State Fault Refusal :=
  answer (translationWalkOp cid va write errs s)

/-! ## The closing count -/

/-- KITTY_STEPS_EXPIRY (R240). -/
def execKittyStepsExpiry (s : State) : Host.Outcome State Fault Refusal :=
  answer (if serving s && kittyDue s then kittyCause s 4 else s)

end Sys2Proof.Machine
end

