-- ==== Sys2Proof/Machine/Dealer.lean ====
section
/-!
DEFINITION. Sys2Proof/Machine/Dealer.lean: deals. The request table (R281 to R283), the forming of a deal (R284, R285), the sheet area (R286
to R289), the boundary (R290 to R292) with its figures and reports (R303, R304, R342), and kn.dealer_set (R293, R294).
-/

namespace Sys2Proof.Machine

/-! ## The sheet area (Tables 11-2 to 11-4) -/

/-- The bytes of the sheet area. -/
def sheetBytes : Nat := 135168

/-- The area that is set: the one in force, or the one that the next boundary takes (Table 11-7). -/
def areaSet (s : State) : Option Nat := s.dealer.cfg.area.or (s.dealer.newCfg.bind DealCfg.area)

/-- The physical address of CLOSE word i. -/
def closeWordAt (base i : Nat) : Nat := base + 0x20200 + 8 * i

/-- Writes bytes of the sheet area by physical address. -/
def sheetPut (s : State) (pa : Nat) (bs : List Byte) : State := (putMem s pa bs).1

/-- RATIO of Table 11-4 for measured and estimated steps (R303). -/
def ratioOf (measured est : Nat) : Nat := if est = 0 then 0 else min 0xFFFF (256 * measured / est)

/-- The 16 bytes of a slot entry (Table 11-4); STATUS and RATIO are 0 until the close. -/
def slotEntry (t : DealSlot) (rowBase status ratio : Nat) : List Byte :=
  natLe 16 (t.ctx % 2 ^ 20 + t.kind * 2 ^ 34 + t.model * 2 ^ 36 + t.firstPos * 2 ^ 40 + t.tokens * 2 ^ 64
    + rowBase * 2 ^ 80 + status * 2 ^ 96 + ratio * 2 ^ 112)

/-- The tokens of the slots of some kinds. -/
def tokensOf (ts : List DealSlot) (kinds : List Nat) : Nat :=
  (ts.filter fun t => kinds.contains t.kind).foldl (fun a t => a + t.tokens) 0

/-- The 128 bytes of a deal header (Table 11-3). -/
def dealHeader (d : Deal) (ratio : Nat) (closed : Stamp) : List Byte :=
  padTo 128 (natLe 8 d.seq ++ natLe 4 d.slots.length ++ natLe 4 (tokensOf d.slots [0, 1, 2]) ++ natLe 4 (tokensOf d.slots [0])
    ++ natLe 4 (tokensOf d.slots [1, 2]) ++ natLe 4 d.held ++ natLe 4 ratio ++ natLe 8 d.epoch ++ stampBytes d.opened
    ++ stampBytes closed ++ d.live.flatMap (fun l => natLe 1 (l.getD 0xFF)) ++ natLe 2 d.ante)

/-- Where the slot entries and the header of a deal lie (R286). -/
def slotsAt (base seq : Nat) : Nat := base + (if seq % 2 = 0 then 0 else 0x10000)
def headerAt (base seq : Nat) : Nat := base + 0x20000 + (if seq % 2 = 0 then 0 else 0x80)

/-- The status of a slot at the close (R291). -/
def closeStatus (t : DealSlot) : Nat := if t.kind = 3 then sHeld else t.status

/-- Writes a deal's slot entries and header. -/
def writeSheet (s : State) (d : Deal) (final : Bool) (closed : Stamp) : State :=
  match s.dealer.cfg.area with
  | none => s
  | some base =>
    let entries := d.slots.flatMap fun t =>
      if final then slotEntry t t.rowBase (closeStatus t) (ratioOf t.measured t.est) else slotEntry t t.rowBase 0 0
    let s1 := sheetPut s (slotsAt base d.seq) entries
    sheetPut s1 (headerAt base d.seq) (dealHeader d (if final then ratioOf d.measured d.est else 0) closed)

/-! ## Requests (R281 to R283) -/

/-- Whether a request is eligible (R283). -/
def eligible (s : State) (c : Nat) (r : Request) : Bool :=
  (r.kind == 1 || r.kind == 2) && (ctxOf s c).state == 1 && (modelOf s (ctxOf s c).model).live.isSome

/-- Whether a request is one of a held context. -/
def heldRequest (s : State) (c : Nat) (r : Request) : Bool := (r.kind == 1 || r.kind == 2) && (ctxOf s c).state == 2

/-- Puts a request into a list by ascending RSEQ. -/
def insertRseq (x : Nat × Request) : List (Nat × Request) → List (Nat × Request)
  | [] => [x]
  | y :: r => if x.2.rseq < y.2.rseq then x :: y :: r else y :: insertRseq x r

/-- The requests that a test selects, by ascending RSEQ. -/
def requestsBy (s : State) (p : Nat → Request → Bool) : List (Nat × Request) :=
  (s.dealer.requests.filter fun r => p r.1 r.2).foldr insertRseq []

/-! ## Forming a deal (R284, R285) -/

/-- The deal as it is being formed: slots (newest last), tokens, prefill tokens, and requests passed over. -/
structure Forming where
  slots   : List DealSlot
  tokens  : Nat
  prefill : Nat
  passed  : Nat
deriving DecidableEq, Repr

/-- A new slot. -/
def newSlot (s : State) (f : Forming) (c kind tokens : Nat) : DealSlot :=
  { ctx := c, kind := kind, tokens := tokens, rowBase := f.tokens, firstPos := (ctxOf s c).position
    model := (ctxOf s c).model, status := sOk, measured := 0, est := 0 }

def addSlot (s : State) (f : Forming) (c kind tokens : Nat) : Forming :=
  { f with slots := f.slots ++ [newSlot s f c kind tokens], tokens := f.tokens + tokens }

/-- The decode pass. -/
def formDecode (s : State) (g : DealCfg) (f : Forming) (r : Nat × Request) : Forming :=
  if g.maxContexts ≤ f.slots.length then f
  else if g.maxTokens < f.tokens + r.2.tokens then { f with passed := f.passed + 1 }
  else addSlot s f r.1 0 r.2.tokens

/-- The prefill pass. -/
def formPrefill (s : State) (g : DealCfg) (f : Forming) (r : Nat × Request) : Forming :=
  if g.maxContexts ≤ f.slots.length then f
  else
    let c := min (min r.2.tokens g.chunk) (min (g.maxTokens - f.tokens) (g.prefillCap - f.prefill))
    if c < min r.2.tokens 128 then { f with passed := f.passed + 1 }
    else { addSlot s f r.1 (if c = r.2.tokens then 2 else 1) c with prefill := f.prefill + c }

/-- The held pass. -/
def formHeld (s : State) (g : DealCfg) (f : Forming) (r : Nat × Request) : Forming :=
  if g.maxContexts ≤ f.slots.length then f else addSlot s f r.1 3 0

/-- The pseudocode of R284. -/
def formDeal (s : State) : Forming :=
  let g := s.dealer.cfg
  let f0 : Forming := ⟨[], 0, 0, 0⟩
  let f1 := (requestsBy s fun c r => r.kind == 1 && eligible s c r).foldl (formDecode s g) f0
  let f2 := (requestsBy s fun c r => r.kind == 2 && eligible s c r).foldl (formPrefill s g) f1
  (requestsBy s (heldRequest s)).foldl (formHeld s g) f2

/-! ## What a dealt slot does to its request and context (R282, R348) -/

/-- A request after a chunk or a group of it has been dealt. -/
def dealtRequest (r : Request) (tokens rseq : Nat) : Option Request :=
  if r.kind = 2 then
    if tokens < r.tokens then some { r with tokens := r.tokens - tokens, rseq := rseq }
    else if r.thenDecode then some ⟨1, false, 1, rseq⟩ else none
  else some { r with rseq := rseq }

/-- The dealing of one slot: its request, its context's counts, and the opening of R348. -/
def dealSlot (seq : Nat) (s : State) (t : DealSlot) : State :=
  let s1 := modCtx s t.ctx fun x => { x with lastDeal := seq % 2 ^ 32, deals := wrapAdd 32 x.deals 1 }
  if t.kind = 3 then s1
  else
    let n := s1.dealer.nextRseq
    let reqs := match tabFind s1.dealer.requests t.ctx with
      | none => s1.dealer.requests
      | some r =>
        match dealtRequest r t.tokens n with
        | some r' => tabPut s1.dealer.requests t.ctx r'
        | none => tabErase s1.dealer.requests t.ctx
    let s2 := { s1 with dealer := { s1.dealer with requests := reqs, nextRseq := n + 1 } }
    let sp := specOf s2 t.ctx
    if t.kind = 0 && decide (1 < t.tokens) && !sp.isOpen then
      putSpec s2 t.ctx { sp with isOpen := true, limit := t.tokens, deal := seq % 2 ^ 32 }
    else s2

/-! ## The close (Table 11-5, step 2) -/

/-- The 8 bytes of a tenant report (R304). -/
def reportBytes (s : State) (t : DealSlot) : List Byte :=
  natLe 8 (closeStatus t + min 0xFFF0 (16 * ((ratioOf t.measured t.est + 8) / 16)) * 2 ^ 16 + (ctxOf s t.ctx).deals * 2 ^ 32)

/-- Writes a slot's report to the address of its context; a report that cannot be written is lost. -/
def writeReport (s : State) (t : DealSlot) : State :=
  let x := ctxOf s t.ctx
  if x.reportPtr = 0 then s
  else
    let a : Actor := { place := .hub, cls := 1, asid := x.reportAsid, opcode := 0, tenant := some x.tenant, slot := x.keySlot,
                       isOpen := false, deal := 0, live := [] }
    match translate s .hub x.reportAsid false true x.reportPtr with
    | .error _ => s
    | .ok (e, l) =>
      match resolveLeaf s a true x.reportPtr 8 e l with
      | .ok (.loc (.peer _ _) _) => s
      | .ok (.loc l enc) =>
        let f := { fetchedFlight s 0 freeShoe (cmdOfBytes []) with place := .hub }
        (writeRuns f s [⟨l, reportBytes s t, if enc then some (x.reportAsid, x.reportPtr, x.keySlot) else none⟩]).1
      | _ => s

/-- EV_SLOWDOWN (R304). -/
def slowAlert (s : State) (d : Deal) : State :=
  let alert := s.dealer.slowAlert
  let ratio := ratioOf d.measured d.est
  let n := (d.slots.filter fun t => decide (alert ≤ ratioOf t.measured t.est)).length
  if alert ≠ 0 && (alert ≤ ratio || 0 < n) then raiseEvent s evSlowdown (natLe 8 d.seq ++ natLe 4 ratio ++ natLe 4 n) else s

/-- The free pages of the pool. -/
def freePages (s : State) : Nat := s.kv.poolPages - s.kv.pages.length

/-- EV_KV_PRESSURE (R342); the counts of the deal begin anew. -/
def pressure (s : State) (d : Deal) : State :=
  let q := s.dealer
  let s1 :=
    if q.heldInDeal = 0 && q.spilledInDeal = 0 && q.broughtInDeal = 0 then s
    else raiseEvent s evKvPressure (natLe 8 d.seq ++ natLe 4 q.heldInDeal ++ natLe 4 q.spilledInDeal ++ natLe 4 q.broughtInDeal
      ++ natLe 4 (freePages s))
  { s1 with dealer := { s1.dealer with heldInDeal := 0, spilledInDeal := 0, broughtInDeal := 0 } }

/-- Open state expires when a deal above OPEN_DEAL closes (Table 13-2). -/
def expireOpen (seq : Nat) (s : State) (c : Nat) : State :=
  let sp := specOf s c
  if sp.isOpen && dealAbove (seq % 2 ^ 32) sp.deal then discardOpen s c else s

/-- The routing boards of a deal are released (R373), and with them a board that a command of an earlier deal took after that deal closed. -/
def releaseBoards (s : State) (seq : Nat) : State :=
  { s with boards := { s.boards with
      tab := s.boards.tab.filter fun b => decide (seq < b.2.deal)
      released := s.boards.released.filter fun r => decide (seq < r.deal) } }

/-- A settle that waits for a board that has been released fails with cause GONE (R378). -/
def goneSettle (s : State) (f : Flight) : State :=
  match f.phase with
  | .board n p ms =>
    if (tabFind s.boards.tab n).isSome then s
    else
      let named := (ms.zipIdx.filter fun m => fld p (192 + 16 * m.2 + 10) 2 != 0).map fun m =>
        let c := fld p (192 + 16 * m.2) 4
        if m.1.1 = sOk then (sRoute, routeGone + c * 2 ^ 8) else m.1
      let w := worstEntry named
      complete s f w.1 w.2 0
  | _ => s

/-- Steps 1 and 2 of a boundary: the open deal closes. -/
def closeDeal (s : State) : State :=
  match s.dealer.cur with
  | none => s
  | some d =>
    let s1 := writeSheet s d true (stampNow s)
    let s2 := d.slots.foldl writeReport s1
    let s3 := pressure (slowAlert s2 d) d
    let s4 := { s3 with dealer := { s3.dealer with cur := none, dealSeq := d.seq, lastEpoch := d.epoch } }
    let s5 := (s4.kv.specs.map (·.1)).foldl (expireOpen d.seq) s4
    let s6 := releaseBoards s5 d.seq
    settle (s6.flights.list.foldl goneSettle s6)

/-! ## Steps 3 to 7 -/

/-- Step 3: the retirements that have been acknowledged take effect (R33). -/
def applyRetirements (s : State) : State :=
  s.units.acked.foldl (fun s u =>
    if unitPending s u.1 u.2 then retireEffective s u.1 u.2 (tabGet s.units.causes (unitKey u.1 u.2) 0) false
    else s) s

/-- Whether a hold ends at step 5 (R338). -/
def holdEnds (s : State) (c : Nat) (x : Ctx) : Bool :=
  x.state == 2 && (if x.hold = 2 then !(madeList s c).any (fun e => e.2.state == 3) else s.dealer.holdEnd.contains x.tenant)

def endHolds (s : State) : State :=
  let s1 := (s.kv.ctxs.filter fun e => holdEnds s e.1 e.2).foldl (fun s e =>
    modCtx s e.1 fun x => { x with state := 1, hold := 0, heldDeal := 0 }) s
  { s1 with dealer := { s1.dealer with holdEnd := [] } }

/-- The new settings come into force at step 5; the rest of a new area is written as 0 (Tables 11-2 and 11-7). -/
def applyConfig (s : State) : State :=
  match s.dealer.newCfg with
  | none => s
  | some g =>
    let s1 := { s with dealer := { s.dealer with cfg := g, newCfg := none } }
    match g.area with
    | none => s1
    | some base =>
      if s.dealer.cfg.area = some base then s1
      else
        sheetPut (sheetPut s1 (base + 0x20100) (natLe 8 s.dealer.dealSeq ++ List.replicate 248 0#8)) (base + 0x20400)
          (List.replicate 3072 0#8)

/-- Steps 5 and 6: the next deal forms, and its sheet, its header and CURRENT are written. -/
def openNext (s : State) (epoch : Nat) (f : Forming) : State :=
  let seq := s.dealer.dealSeq + 1
  let d : Deal :=
    { seq := seq, slots := f.slots, epoch := epoch, opened := stampNow s, ante := effectiveAnte s
      held := (requestsBy s (heldRequest s)).length, live := liveNow s, measured := 0, est := 0 }
  let s1 := f.slots.foldl (dealSlot seq) s
  let s2 := { s1 with dealer := { s1.dealer with cur := some (s1.dealer.early.foldl addCharge d), early := [], dealSeq := seq } }
  let s3 := writeSheet s2 d false noStamp
  let s4 := match s3.dealer.cfg.area with
    | none => s3
    | some base => sheetPut s3 (base + 0x20100) (natLe 8 seq)
  (List.range 16).foldl countCutDeal s4

/-- Brings back every SPILLED page of one context (R339); the first failure ends it. -/
def bringAll (fore : List Nat) (s : State) (c : Nat) : State :=
  let es := ((madeList s c).filter fun e => e.2.state == 2).map (·.1)
  (es.foldl (fun (acc : State × Bool) e =>
    if acc.2 then acc
    else
      match bringBack fore acc.1 c e (dealNow acc.1) with
      | (s1, .ok none) => (s1, false)
      | (s1, _) => (s1, true)) (s, false)).1

/-- Step 7: spilled pages of the contexts of the forecast come back. -/
def forecast (s : State) : State :=
  let fore := (formDeal s).slots.map DealSlot.ctx
  fore.foldl (bringAll fore) { s with dealer := { s.dealer with forecast := fore } }

/-- Whether a deal opens without ADVANCE: an eligible request, or a held context with a request (R290). -/
def dealWanted (s : State) : Bool := s.dealer.requests.any fun r => eligible s r.1 r.2 || heldRequest s r.1 r.2

/-- A boundary (R292): `advanced` says that ADVANCE asked for a deal where none is open. -/
def boundary (s : State) (advanced : Bool) : State :=
  let open_ := s.dealer.cur.isSome
  let s1 := applyRetirements (closeDeal s)
  if !serving s1 then s1
  else
    let epoch := s1.domain.barrier.epoch
    let s2 := (List.range 16).foldl (makeCut epoch) s1
    let s3 := endHolds (applyConfig s2)
    let f := formDeal s3
    let s4 := if dealWanted s3 || (advanced && !open_) then openNext s3 epoch f else s3
    let s5 := forecast s4
    settle (advance s5 .dealer (256 + 8 * f.slots.length + 2 * f.passed))

/-- Whether the CLOSE words of every binding have reached the open deal (R290). -/
def closeDue (s : State) (d : Deal) : Bool :=
  match areaSet s with
  | none => false
  | some base =>
    !s.dealer.serve.isEmpty && s.dealer.serve.all fun b =>
      !anyPoison s (closeWordAt base b.2) 8 && decide (d.seq ≤ leNat (memRead s.memories.mem (closeWordAt base b.2) 8))

/-- DEAL_BOUNDARY (R292): the close condition holds. -/
def dealBoundaryOp (errs : List HwErr) (s : State) : State :=
  if !serving s then s
  else
    match s.dealer.cur with
    | none => s
    | some d =>
      if !closeDue s d then s
      else
        let s1 := applyErrs s .hub 0 errs
        if serving s1 then boundary s1 false else s1

/-- DEAL_OPEN (R290): no deal is open, and one is wanted. -/
def dealOpenOp (errs : List HwErr) (s : State) : State :=
  if !serving s || s.dealer.cur.isSome || !dealWanted s then s
  else
    let s1 := applyErrs s .hub 0 errs
    if serving s1 then boundary s1 false else s1

/-- DEAL_BOUNDARY (R292). -/
def execDealBoundary (errs : List HwErr) (s : State) : Host.Outcome State Fault Refusal := answer (dealBoundaryOp errs s)
/-- DEAL_OPEN (R290). -/
def execDealOpen (errs : List HwErr) (s : State) : Host.Outcome State Fault Refusal := answer (dealOpenOp errs s)

/-! ## kn.dealer_set (Table 11-6) -/

/-- The checks of Table 11-6 for one action: 0 CONFIG, 1 ANTE, 2 SERVE, 3 REQUEST, 4 ADVANCE. -/
def dealerChecks (s : State) (p : List Byte) (act : Nat) : List Check :=
  let cfg := act == 0
  let req := act == 3
  let count := fld p 2 2
  let shoe := fld p 4 4
  let mt := fld p 24 4
  let zero (off len : Nat) : Check := fmtAt off (cfg || fld p off len == 0)
  [fmtAt 1 (if cfg then decide (fld p 1 1 < 2) else fld p 1 1 == 0),
   fmtAt 2 (match act with | 1 => decide (count ≤ 32) | 2 => decide (count ≤ 1) | 3 => true | _ => count == 0),
   fmtAt 4 (if act = 2 then (shoeOf s shoe).state == 1 && (shoeOf s shoe).cls != 2 && decide (shoe < s.shoes.count) else shoe == 0),
   fmtAt 8 (if cfg then ptrOk (fld p 8 8) 65536 else if req then ptrOk (fld p 8 8) 16 else fld p 8 8 == 0),
   fmtAt 16 (cfg || req || fld p 16 4 == 0), zero 20 2, zero 22 2, zero 24 4, zero 28 4, zero 32 2, zero 34 1,
   fmtAt 20 (!cfg || decide (1 ≤ fld p 20 2 && fld p 20 2 ≤ 4096)),
   fmtAt 22 (!cfg || (fld p 22 2 % 128 == 0 && decide (128 ≤ fld p 22 2 && fld p 22 2 ≤ 8192))),
   fmtAt 24 (!cfg || decide (1 ≤ mt && mt ≤ 32768)), fmtAt 28 (!cfg || decide (fld p 28 4 ≤ mt)),
   fmtAt 32 (!cfg || fld p 32 2 == 0 || decide (257 ≤ fld p 32 2)),
   fmtAt 34 (!cfg || decide (1 ≤ fld p 34 1 && fld p 34 1 ≤ 15)), rsvAt p 35 29,
   lenAt 2 (!req || decide (count ≤ 4096)),
   lenAt 16 (!cfg || (decide (sheetBytes ≤ fld p 16 4) && fld p 16 4 != 0xFFFFFFFF)),
   lenAt 16 (!req || (decide (16 * count ≤ fld p 16 4) && fld p 16 4 != 0xFFFFFFFF))]

def knDealerSetConfigBody : Body := fun s a _ p => onAction p 0 5 do
  checkAll (dealerChecks s p 0)
  let base ← ownRange s a 8 (fld p 8 8) sheetBytes
  let g : DealCfg := ⟨some base, fld p 20 2, fld p 24 4, fld p 28 4, fld p 22 2⟩
  let t := { s with dealer := { s.dealer with
    newCfg := some g, preempt := bitOf (fld p 1 1) 0, limit := fld p 34 1, slowAlert := fld p 32 2 } }
  pure (.act t [] 64 0 0)

def knDealerSetAnteBody : Body := fun s _ _ p => onAction p 1 5 do
  checkAll (dealerChecks s p 1)
  pure (.act (resizeAnte { s with dealer := { s.dealer with ante := fld p 2 2 } }) [] 32 0 0)

/-- The row of one COUNT of SERVE: with the other COUNT it has not happened. -/
def onServe (p : List Byte) (mine : Nat) (act : Run Plan) : Run Plan :=
  onAction p 2 5 (if fld p 2 2 = 1 - mine then stopWith .hold else act)

/-- The lowest free binding index. -/
def freeBinding (s : State) : Nat :=
  ((List.range 65).find? fun i => !s.dealer.serve.any fun b => b.2 == i).getD 64

def knDealerSetServeBindBody : Body := fun s _ _ p => onServe p 1 do
  checkAll (dealerChecks s p 2)
  let n := fld p 4 4
  checkAll [fmtAt 4 (!isServing s n)]
  match areaSet s with
  | none => finish sBadFormat (detParam 0)
  | some base => do
    let i := freeBinding s
    need (decide (i < 64)) sTooLarge 0
    let t := { s with dealer := { s.dealer with serve := tabPut s.dealer.serve n i } }
    pure (.act (sheetPut t (closeWordAt base i) (natLe 8 (openDeal s))) [] 32 0 0)

def knDealerSetServeUnbindBody : Body := fun s _ _ p => onServe p 0 do
  checkAll (dealerChecks s p 2)
  let n := fld p 4 4
  checkAll [fmtAt 4 (isServing s n)]
  pure (.act { s with dealer := { s.dealer with serve := tabErase s.dealer.serve n } } [] 32 0 0)

/-- The checks of a request entry (Table 11-1). -/
def requestChecks (s : State) (e : List Byte) (i : Nat) : List Check :=
  let kind := fld e 4 1
  let tokens := fld e 8 4
  let bad (off : Nat) (ok : Bool) : Check := (ok, sBadFormat, detEntry i off)
  [bad 4 (decide (kind < 3)), bad 0 (decide (fld e 0 4 < 2 ^ 20) && ctxRegistered s (fld e 0 4)),
   bad 5 (if kind = 2 then decide (fld e 5 1 < 2) else fld e 5 1 == 0), bad 6 (fld e 6 2 == 0),
   bad 8 (match kind with
     | 0 => tokens == 0
     | 1 => decide (1 ≤ tokens && tokens ≤ 16)
     | _ => decide (1 ≤ tokens && tokens ≤ 16777216)),
   bad 12 (fld e 12 4 == 0)]

/-- Applies one request entry (R282). -/
def applyRequest (s : State) (e : List Byte) : State :=
  let c := fld e 0 4
  if fld e 4 1 = 0 then { s with dealer := { s.dealer with requests := tabErase s.dealer.requests c } }
  else
    let n := s.dealer.nextRseq
    { s with dealer := { s.dealer with
        requests := tabPut s.dealer.requests c ⟨fld e 4 1, bitOf (fld e 5 1) 0, fld e 8 4, n⟩
        nextRseq := n + 1 } }

def knDealerSetRequestBody : Body := fun s a _ p => onAction p 3 5 do
  checkAll (dealerChecks s p 3)
  let count := fld p 2 2
  if count = 0 then pure (.noop 16)
  else
    need (areaSet s).isSome sBadFormat (detParam 0)
    let bs ← readVa s a (onePass (16 * count)) false (fld p 8 8) (16 * count)
    let es := (List.range count).map fun i => slice bs (16 * i) 16
    let _ ← es.zipIdx.mapM fun e => checkAll (requestChecks s e.1 e.2)
    pure (.act (es.foldl applyRequest s) [] (32 + 4 * count) 0 0)

def knDealerSetAdvanceBody : Body := fun s _ _ p => onAction p 4 5 do
  checkAll (dealerChecks s p 4)
  pure (.act (boundary s true) [] 32 0 0)

/-- KN_DEALER_SET_CONFIG (R294). -/
def execKnDealerSetConfig (st : Start) (s : State) : Host.Outcome State Fault Refusal := startHub 0xF00C knDealerSetConfigBody st s
/-- KN_DEALER_SET_ANTE (R294). -/
def execKnDealerSetAnte (st : Start) (s : State) : Host.Outcome State Fault Refusal := startHub 0xF00C knDealerSetAnteBody st s
/-- KN_DEALER_SET_SERVE_BIND (R294). -/
def execKnDealerSetServeBind (st : Start) (s : State) : Host.Outcome State Fault Refusal :=
  startHub 0xF00C knDealerSetServeBindBody st s
/-- KN_DEALER_SET_SERVE_UNBIND (R294). -/
def execKnDealerSetServeUnbind (st : Start) (s : State) : Host.Outcome State Fault Refusal :=
  startHub 0xF00C knDealerSetServeUnbindBody st s
/-- KN_DEALER_SET_REQUEST (R282). -/
def execKnDealerSetRequest (st : Start) (s : State) : Host.Outcome State Fault Refusal :=
  startHub 0xF00C knDealerSetRequestBody st s
/-- KN_DEALER_SET_ADVANCE (R290). -/
def execKnDealerSetAdvance (st : Start) (s : State) : Host.Outcome State Fault Refusal :=
  startHub 0xF00C knDealerSetAdvanceBody st s

end Sys2Proof.Machine
end

