-- ==== Sys2Proof/Machine/Context.lean ====
section
/-!
DEFINITION. Sys2Proof/Machine/Context.lean: kn.context (R306 to R318, R387): the context area and the page pool, the attention records
of the models, the registration, release and trimming of contexts, grants and ring records.
-/

namespace Sys2Proof.Machine

/-! ## Rotary frequencies (R315) -/

/-- The 64th root of a whole number, rounded down. -/
def root64 (n : Nat) : Nat := isqrt (isqrt (isqrt (isqrt (isqrt (isqrt n)))))

/-- ROPE_BASE^(-i/64), correctly rounded to binary64: the root is taken of 2^16384 / ROPE_BASE^i. -/
def ropeFreq (base i : Nat) : Nat :=
  match decodeFloat specF32 base with
  | .fin _ m e =>
    let top := 2 ^ (16384 - e * (i : Int)).toNat
    let q := root64 (top / m ^ i)
    let exact := q ^ 64 * m ^ i == top
    (roundNum specF64 (.fin false (2 * q + b2n (!exact)) (-257))).1
  | _ => 0

def ropeFreqs (base : Nat) : List Nat := (List.range 64).map (ropeFreq base)

/-! ## The checks of Table 12-5 -/

/-- The bytes of the context area (R306). -/
def contextArea (count pages : Nat) : Nat := 33554432 + 256 * count + 16 * pages

/-- Whether an action of kn.context uses the field at an offset (Table 12-5): 0 SETUP, 1 MODEL, 2 REGISTER, 3 RELEASE, 4 TRIM,
5 GRANT, 6 RING, 7 QUERY. -/
def ctxUses (p : List Byte) (act off : Nat) : Bool :=
  let bias := fld p 3 1 == 1
  match off with
  | 1 => act == 1 || act == 2
  | 2 | 3 | 4 | 6 | 7 => act == 1
  | 8 => decide (2 ≤ act)
  | 12 => act == 1 && isFp8Code (fld p 2 1)
  | 16 => act == 1 && !bias
  | 20 | 22 | 24 | 26 | 36 => act == 2
  | 28 => [0, 2, 4, 5, 6].contains act
  | 32 => [0, 2, 5, 6].contains act
  | 40 | 56 => [0, 2, 6, 7].contains act || (act == 1 && bias)
  | 48 | 60 => act == 0
  | _ => false

/-- The alignment of PTR1. -/
def ptr1Align (act : Nat) : Nat := match act with | 0 | 6 => 65536 | 2 => 8 | _ => 64

/-- The least BYTES1 of an action. -/
def bytes1Least (p : List Byte) (act : Nat) : Nat :=
  match act with
  | 0 => contextArea (fld p 28 4) (fld p 32 4)
  | 1 => 16384 * fld p 6 1
  | 2 => 8
  | 6 => fld p 31 1 * fld p 32 4
  | _ => 256

/-- Whether the value of a used field lies in its legal range; lengths have their own checks. -/
def ctxLegal (s : State) (p : List Byte) (act off : Nat) : Bool :=
  let v1 := fld p 28 4
  let v2 := fld p 32 4
  let target := fld p 8 4
  match off with
  | 1 => decide (fld p 1 1 < 16)
  | 2 => [1, 2, 4, 5].contains (fld p 2 1)
  | 3 => decide (fld p 3 1 < 2)
  | 4 => decide (1 ≤ fld p 4 2 && fld p 4 2 ≤ 256)
  | 6 => decide (1 ≤ fld p 6 1 && fld p 6 1 ≤ 128)
  | 7 => decide (1 ≤ fld p 7 1 && fld p 7 1 ≤ 128) && fld p 6 1 % fld p 7 1 == 0
  | 8 =>
    if act = 5 then decide (1 ≤ target && target < 65536)
    else if act = 6 then decide (target < 64) else decide (target < s.kv.ctxCount)
  | 12 => scaleLegal (fld p 12 4)
  | 16 => decide (0x3F800000 < fld p 16 4 && fld p 16 4 < 0x7F800000)
  | 20 => fld p 20 2 != 0
  | 22 => decide (fld p 22 2 ≤ 4094) || fld p 22 2 == 0xFFF
  | 24 => decide (fld p 24 2 < 4096) || fld p 24 2 == 0xFFFF
  | 26 => (fld p 26 2 == 0 && fld p 40 8 == 0) || (fld p 26 2 != 0 && (asidRec s (fld p 26 2)).state == 1)
  | 28 =>
    match act with
    | 0 => isPow2 v1 && decide (16 ≤ v1 && v1 ≤ 1048576)
    | 2 => v1 % 4096 == 0 && decide (v1 < 2 ^ 24)
    | 4 => decide ((ctxOf s target).segBase ≤ v1 && v1 ≤ (ctxOf s target).position)
    | 5 => decide (v1 < 2 ^ 24)
    | _ => decide (1 ≤ fld p 28 1 && fld p 28 1 ≤ 64 && fld p 29 1 < fld p 28 1 && fld p 30 1 < 16 && 1 ≤ fld p 31 1 && fld p 31 1 ≤ 8)
  | 32 =>
    match act with
    | 0 => decide (1 ≤ v2 && v2 < 2 ^ 24)
    | 2 => v2 % 4096 == 0 && decide (v2 < 2 ^ 24 && v2 ≤ 2 ^ 24 - v1)
    | 5 => decide (v2 < 2)
    | _ => v2 % 64 == 0 || v2 == 0xFFFFFFFF
  | 36 => decide (fld p 36 1 < 64) || fld p 36 1 == 0xFF
  | 40 => ptrOk (fld p 40 8) (ptr1Align act)
  | 48 => ptrOk (fld p 48 8) 65536
  | _ => true

/-- The key slot that REGISTER names (R422): the cause of S_SEAL. -/
def bindCause (s : State) (slot tenant : Nat) : Option Nat :=
  if slot = 0xFFF then none
  else
    let k := keySlotOf s slot
    if k.state ≠ 2 then some sealNoSlot else if k.tenant ≠ tenant then some sealTenant else none

/-- The checks of one field: its range, or that it is 0 where it is not used; then its key-slot, privilege and length checks. -/
def ctxField (s : State) (p : List Byte) (act : Nat) (fw : Nat × Nat) : List Check :=
  let (off, w) := fw
  let used := ctxUses p act off
  let slot := fld p 22 2
  let tenant := fld p 20 2
  let base := fmtAt off (if used then ctxLegal s p act off else fld p off w == 0)
  let none_ := act == 2 && fld p 40 8 == 0
  let more : List Check :=
    if !used then []
    else if off = 22 then
      let q := bindCause s slot tenant
      [(q.isNone, sSeal, q.getD 0 + slot * 2 ^ 8)]
    else if off = 24 then
      [(fld p 24 2 == 0xFFFF || (tabFind s.adapters (fld p 24 2)).any fun a => a.state == 1 && a.tenant == tenant, sPrivilege, detParam 24)]
    else if off = 32 && act = 6 then [notOnes p 32 4]
    else if off = 56 then
      if none_ then [fmtAt 56 (fld p 56 4 == 0)] else [lenAt 56 (decide (bytes1Least p act ≤ fld p 56 4)), notOnes p 56 4]
    else if off = 60 then [lenAt 60 (decide (fld p 32 4 ≤ fld p 60 4)), notOnes p 60 4]
    else []
  base :: more

/-- The fields of Table 12-5 in the order in which they are tried: those on which others depend come first (R256). -/
def ctxFields : List (Nat × Nat) :=
  [(2, 1), (3, 1), (1, 1), (4, 2), (6, 1), (7, 1), (8, 4), (12, 4), (16, 4), (20, 2), (22, 2), (24, 2), (26, 2), (28, 4), (32, 4),
   (36, 1), (37, 3), (40, 8), (48, 8), (56, 4), (60, 4)]

def ctxChecks (s : State) (p : List Byte) (act : Nat) : List Check := ctxFields.flatMap (ctxField s p act)

/-- The row of one ACTION whose fields pass. -/
def ctxRow (s : State) (p : List Byte) (act : Nat) (act' : Run Plan) : Run Plan :=
  onAction p act 8 do
    checkAll (ctxChecks s p act)
    act'

/-! ## The actions (Table 12-6) -/

/-- Whether some context is registered, or is registered and bound to a model. -/
def anyCtx (s : State) (t : Ctx → Bool) : Bool := s.kv.ctxs.any fun c => t c.2

/-- SETUP: both ranges are zeroed, every page is free, and the records of models in distance-bias mode go. -/
def setupKv (s : State) (area pool count pages : Nat) : State :=
  let clear (s : State) (pa len : Nat) : State := afterWrite (zeroMem s pa len) pa len
  let s1 := clear (clear s area (contextArea count pages)) pool (65536 * pages)
  { s1 with kv := { s1.kv with
    area := some area, ctxCount := count, poolBase := pool, poolPages := pages
    ctxs := [], specs := [], lists := [], dirs := [], openDirs := [], pages := [], old := []
    models := s1.kv.models.filter fun m => !m.2.bias } }

def knContextSetupBody : Body := fun s a _ p => ctxRow s p 0 do
  let count := fld p 28 4
  let pages := fld p 32 4
  checkAll [fmtAt 0 (!anyCtx s fun c => c.state != 0)]
  let area ← ownRange s a 40 (fld p 40 8) (contextArea count pages)
  let pool ← ownRange s a 48 (fld p 48 8) (65536 * pages)
  checkAll [fmtAt 40 (area % 65536 == 0), fmtAt 48 (pool % 65536 == 0)]
  noteLine (lineOf s (.mem area)) (onePass 1024) (contextArea count pages) true
  noteLine (lineOf s (.mem pool)) (onePass 1024) (65536 * pages) true
  pure (.act (setupKv s area pool count pages) [] 64 0 0)

/-- The attention record that MODEL gives. -/
def attnRec (p : List Byte) : AttnRec :=
  let bias := fld p 3 1 == 1
  { layers := fld p 4 2, qHeads := fld p 6 1, groups := fld p 7 1, format := fld p 2 1, kvScale := fld p 12 4, bias := bias
    base := fld p 16 4, freqs := if bias then [] else ropeFreqs (fld p 16 4) }

/-- The place of a model's bias table (R306). -/
def biasTable (s : State) (m : Nat) : Nat := s.kv.area.getD 0 + m * 2097152

def knContextModelBody : Body := fun s a _ p => ctxRow s p 1 do
  let m := fld p 1 1
  let r := attnRec p
  checkAll [fmtAt 1 (!anyCtx s fun c => (c.state == 1 || c.state == 2) && c.model == m), fmtAt 3 (!r.bias || s.kv.area.isSome)]
  let n := 16384 * r.qHeads
  let table ← if r.bias then readVa s a (onePass n) false (fld p 40 8) n else pure []
  let s1 := if r.bias then (putMem s (biasTable s m) table).1 else s
  if r.bias then noteLine (lineOf s (.mem (biasTable s m))) (onePass n) n true else pure ()
  pure (.act { s1 with kv := { s1.kv with models := tabPut s1.kv.models m r } } [] (64 + ceilDiv (fld p 56 4) 4096) 0 0)

/-- The descriptor that REGISTER writes. -/
def newCtx (p : List Byte) (dir : Nat) : Ctx :=
  { state := 1, hold := 0, model := fld p 1 1, keySlot := fld p 22 2, tenant := fld p 20 2, adapter := fld p 24 2
    position := fld p 28 4, segBase := fld p 28 4, segLimit := fld p 32 4, ring := fld p 36 1, dir := dir, lastDeal := 0
    deals := 0, reportAsid := fld p 26 2, heldDeal := 0, reportPtr := fld p 40 8 }

def knContextRegisterBody : Body := fun s _ f p => ctxRow s p 2 do
  let c := fld p 8 4
  let t := fld p 20 2
  checkAll [fmtAt 8 ((ctxOf s c).state == 0), fmtAt 1 ((tabFind s.kv.models (fld p 1 1)).isSome)]
  match allocPage s ⟨3, false, t, c, 0, f.deal.getD 0 % 2 ^ 32⟩ with
  | none => finish sKvFull (kvDetail c (if (grantOf s t).1 ≤ residentOf s t then 1 else 2))
  | some (s1, page) =>
    -- the descriptor is written whole, which heals its units (R168)
    pure (.act (putCtx (zeroMem s1 (ctxPa s1 c) 256) c (newCtx p page)) [] 64 0 0)

/-- Whether an action's target is LIVE or HELD. -/
def targetLive (s : State) (c : Nat) : Check := fmtAt 8 (ctxRegistered s c)

def knContextReleaseBody : Body := fun s _ f p => ctxRow s p 3 do
  let c := fld p 8 4
  checkAll [targetLive s c]
  let steps := 64 + ceilDiv (ctxPages s c) 64
  let s1 := modCtx (discardOpen s c) c fun x => { x with state := 3 }
  pure (.drain s1 (.ctxRelease c) (startedWhere s1 f.cid fun g => namesCtx g c) steps 0 0)

def knContextTrimBody : Body := fun s _ f p => ctxRow s p 4 do
  let c := fld p 8 4
  checkAll [targetLive s c]
  let s1 := discardOpen s c
  pure (.drain s1 (.ctxTrim c (fld p 28 4)) (startedWhere s1 f.cid fun g => namesCtx g c) (64 + ceilDiv (ctxPages s c) 64) 0 0)

def knContextGrantBody : Body := fun s _ _ p => ctxRow s p 5 do
  let t := fld p 8 4
  pure (.act { s with
    kv := { s.kv with tenants := tabSet s.kv.tenants t (fld p 28 4, fld p 32 4 == 1) (0, false) }
    dealer := { s.dealer with holdEnd := s.dealer.holdEnd ++ [t] } } [] 32 0 0)

def knContextRingBody : Body := fun s a _ p => ctxRow s p 6 do
  let base ← ownRange s a 40 (fld p 40 8) (fld p 31 1 * fld p 32 4)
  let r : RingRec := ⟨fld p 28 1, fld p 29 1, fld p 30 1, fld p 31 1, fld p 32 4, base⟩
  pure (.act { s with kv := { s.kv with rings := tabPut s.kv.rings (fld p 8 4) r } } [] 32 0 0)

def knContextQueryBody : Body := fun s a _ p => ctxRow s p 7 do
  copyOut s a (fld p 40 8) (fld p 56 4) (ctxBytes s (fld p 8 4)) 32

/-- KN_CONTEXT_SETUP (R306). -/
def execKnContextSetup (st : Start) (s : State) : Host.Outcome State Fault Refusal := startHub 0xF00A knContextSetupBody st s
/-- KN_CONTEXT_MODEL (R314). -/
def execKnContextModel (st : Start) (s : State) : Host.Outcome State Fault Refusal := startHub 0xF00A knContextModelBody st s
/-- KN_CONTEXT_REGISTER (R318). -/
def execKnContextRegister (st : Start) (s : State) : Host.Outcome State Fault Refusal := startHub 0xF00A knContextRegisterBody st s
/-- KN_CONTEXT_RELEASE (R318). -/
def execKnContextRelease (st : Start) (s : State) : Host.Outcome State Fault Refusal := startHub 0xF00A knContextReleaseBody st s
/-- KN_CONTEXT_TRIM (R318). -/
def execKnContextTrim (st : Start) (s : State) : Host.Outcome State Fault Refusal := startHub 0xF00A knContextTrimBody st s
/-- KN_CONTEXT_GRANT (R308). -/
def execKnContextGrant (st : Start) (s : State) : Host.Outcome State Fault Refusal := startHub 0xF00A knContextGrantBody st s
/-- KN_CONTEXT_RING (R318). -/
def execKnContextRing (st : Start) (s : State) : Host.Outcome State Fault Refusal := startHub 0xF00A knContextRingBody st s
/-- KN_CONTEXT_QUERY (R318). -/
def execKnContextQuery (st : Start) (s : State) : Host.Outcome State Fault Refusal := startHub 0xF00A knContextQueryBody st s

end Sys2Proof.Machine
end

