-- ==== Sys2Proof/Machine/Reals.lean ====
section
/-!
DEFINITION. Sys2Proof/Machine/Reals.lean: the exact values that the table unit (Table 5-8) and the rotary unit (R315) approximate.

A real number is held in fixed point with 640 bits after the point, or as a number with a 640-bit mantissa. Both lie far closer
to the true value than any bound of R136 or R315 can tell (log entry 61). All recursion is on a number of terms.
-/

namespace Sys2Proof.Machine

/-- The bits after the point of a fixed-point real. -/
def fxBits : Nat := 640

/-- 1.0. -/
def fxOne : Int := 2 ^ fxBits

/-- The product of two fixed-point reals. -/
def fxMul (a b : Int) : Int := a * b / fxOne

/-- The quotient of two fixed-point reals. -/
def fxDiv (a b : Int) : Int := a * fxOne / b

/-- A finite number in fixed point; what lies below the last bit is lost. -/
def fxOf (x : Num) : Int :=
  match x with
  | .fin neg m e =>
    let k : Int := ((m <<< (e + fxBits).toNat) >>> (-(e + fxBits)).toNat : Nat)
    if neg then -k else k
  | _ => 0

/-- A fixed-point real as a number. -/
def fxNum (a : Int) : Num := .fin (a < 0) a.natAbs (-(fxBits : Int))

/-- Sum of t + t z / 1 + t z^2 / (1 * 2) + ... : the exponential series, from term `k` on. -/
def expSeries (z : Int) : Nat → Nat → Int → Int
  | 0, _, _ => 0
  | n + 1, k, t => t + expSeries z n (k + 1) (fxMul t z / (k + 1))

/-- Sum of t z^j / (2 j + 1): the series of atanh for z above 0 and of atan for z below 0. -/
def oddSeries (z : Int) : Nat → Nat → Int → Int
  | 0, _, _ => 0
  | n + 1, k, t => t / (2 * k + 1) + oddSeries z n (k + 1) (fxMul t z)

/-- Sum of t, t z / ((k + 1)(k + 2)), ...: the series of the cosine from k = 0 and of the sine from k = 1, where z = -r^2. -/
def trigSeries (z : Int) : Nat → Nat → Int → Int
  | 0, _, _ => 0
  | n + 1, k, t => t + trigSeries z n (k + 2) (fxMul t z / ((k + 1) * (k + 2)))

/-- Sum of t, t z / 3, t z^2 / (3 * 5), ...: the normal distribution function over its density, where z = x^2. -/
def normalSeries (z : Int) : Nat → Nat → Int → Int
  | 0, _, _ => 0
  | n + 1, k, t => t + normalSeries z n (k + 1) (fxMul t z / (2 * k + 3))

/-- The natural logarithm of 2. -/
def fxLn2 : Int :=
  let t := fxOne / 3
  2 * oddSeries (fxMul t t) 240 0 t

/-- Pi, by Machin's formula. -/
def fxPi : Int :=
  let a := fxOne / 5
  let b := fxOne / 239
  16 * oddSeries (-(fxMul a a)) 160 0 a - 4 * oddSeries (-(fxMul b b)) 60 0 b

/-- A fixed-point real held between -200 and 200, beyond which no function of Table 5-8 has a result that differs. -/
def fxClamp (a : Int) : Int := max (-200 * fxOne) (min (200 * fxOne) a)

/-- The argument of a function of the table unit. -/
def fxArg (x : Num) : Int :=
  match x with
  | .fin neg m e =>
    if 9 ≤ (Nat.log2 m : Int) + e then (if neg then -200 * fxOne else 200 * fxOne) else fxClamp (fxOf x)
  | _ => 0

/-- e^a as a number. -/
def expNum (a : Int) : Num :=
  let k := a / fxLn2
  .fin false (expSeries (a - k * fxLn2) 160 0 fxOne).natAbs (k - fxBits)

/-- The natural logarithm of m * 2^e. -/
def fxLog (m : Nat) (e : Int) : Int :=
  let l := Nat.log2 m
  let f : Int := ((m <<< fxBits) >>> l : Nat)
  let (g, k) := if 4 * fxOne < 3 * f then (f / 2, (l : Int) + e + 1) else (f, (l : Int) + e)
  let z := fxDiv (g - fxOne) (g + fxOne)
  k * fxLn2 + 2 * oddSeries (fxMul z z) 240 0 z

/-- The square root of a fixed-point real. -/
def fxSqrt (a : Int) : Int := isqrt (a.natAbs <<< fxBits)

/-- The density of the normal distribution. -/
def fxDensity (a : Int) : Int :=
  fxMul (fxOf (expNum (-(fxMul a a) / 2))) (fxSqrt (fxDiv fxOne (2 * fxPi)))

/-- The normal distribution function. -/
def fxNormal (a : Int) : Int :=
  if 20 * fxOne < a then fxOne
  else if a < -20 * fxOne then 0
  else fxOne / 2 + fxMul (fxDensity a) (normalSeries (fxMul a a) 1000 0 a)

/-- 1 / (m * 2^e), with 640 bits. -/
def recipNum (neg : Bool) (m : Nat) (e : Int) : Num :=
  let k := fxBits + Nat.log2 m
  .fin neg (2 ^ k / m) (-e - k)

/-- 1 / sqrt (m * 2^e), with 640 bits. -/
def rsqrtNum (m : Nat) (e : Int) : Num :=
  let m1 := m <<< (e % 2).toNat
  let k := fxBits + Nat.log2 m1
  .fin false (isqrt (2 ^ (2 * k) / m1)) (-((e - e % 2) / 2) - k)

/-- The cosine and the sine of a finite number. -/
def cosSin (x : Num) : Num × Num :=
  let a := fxOf x
  let r := a - a / (2 * fxPi) * (2 * fxPi)
  let z := -(fxMul r r)
  (fxNum (trigSeries z 160 0 fxOne), fxNum (trigSeries z 160 1 r))

/-- Whether a finite result lies within `ulps` units in the last place of an exact value, a unit being that of the value's binade
in a binary32, or of 2^floorLog where the value lies below that; an infinity stands for every value that can round to it. -/
def withinUlps (floorLog : Int) (ulps : Nat) (v y : Num) : Bool :=
  match v, y with
  | .fin neg m e, .fin _ _ _ =>
    let tol : Num := .fin false ulps (max floorLog ((Nat.log2 m : Int) + e) - 23)
    !tol.lt (sumNum [y, (Num.fin neg m e).negate]).1.abs
  | .fin neg m e, .inf neg' =>
    let tol : Num := .fin false ulps (max floorLog ((Nat.log2 m : Int) + e) - 23)
    neg == neg' && !(sumNum [.fin false m e, tol]).1.lt (.fin false 1 128)
  | _, _ => false

/-- The binary32 result that a reference gives for an exact value, held to its bound: a reference that broke the bound would be
no reference of this device, and the nearest binary32 stands in for it. -/
def heldToBound (floorLog : Int) (ulps : Nat) (v : Num) (y : Nat) : Num :=
  let d := decodeFloat specF32 y
  if withinUlps floorLog ulps v d then d else decodeFloat specF32 (roundNum specF32 v).1

end Sys2Proof.Machine
end

