-- ==== Sys2Proof/Machine/Lanes.lean ====
section
/-!
DEFINITION. Sys2Proof/Machine/Lanes.lean: the element operations of the vector engine (R126, R127), its reduction tree (R130)
and its table unit (R136, R554).

An element is the number its bits spell in one of the six register formats of R117.
-/

namespace Sys2Proof.Machine

/-- The six register formats (R117). -/
def isRegFmt : Fmt → Bool
  | .f32 | .f16 | .bf16 | .f64 | .int8 | .uint8 => true
  | _ => false

/-- The float formats of Table 5-6. -/
def isFloatReg : Fmt → Bool
  | .f32 | .f16 | .bf16 | .f64 => true
  | _ => false

/-- E(f), the elements of one register (R117). -/
def regElems (f : Fmt) : Nat := 4096 / fmtBits f

/-- A number rounded into a register format: integers clamp (R127). -/
def roundReg (f : Fmt) (x : Num) : Nat × FlagWord :=
  match fmtSpec f with
  | some s => roundNum s x
  | none =>
    match x with
    | .fin neg m e =>
      let (lo, hi) := intRange f
      let (v, fl) := roundInt lo hi neg m 1 e
      (encodeInt (fmtBits f) v, fl)
    | _ => (0, flInvalid)

/-- The canonical NaN of a register format (R66). -/
def canonNan (f : Fmt) : Nat := ((fmtSpec f).bind FSpec.nanEnc).getD 0

/-- A signed infinity of a register format. -/
def infBits (f : Fmt) (neg : Bool) : Nat :=
  match fmtSpec f with
  | some s => s.signed neg (s.infEnc.getD 0)
  | none => 0

/-- A signed zero of a register format. -/
def zeroBits (f : Fmt) (neg : Bool) : Nat :=
  match fmtSpec f with
  | some s => s.signed neg 0
  | none => 0

/-- vx.add. -/
def laneAdd (f : Fmt) (a b : Nat) : Nat × FlagWord :=
  let (t, fl) := sumNum [decodeElem f a, decodeElem f b]
  let (r, fl') := roundReg f t
  (r, fl ||| fl')

/-- vx.sub. -/
def laneSub (f : Fmt) (a b : Nat) : Nat × FlagWord :=
  let (t, fl) := subNum (decodeElem f a) (decodeElem f b)
  let (r, fl') := roundReg f t
  (r, fl ||| fl')

/-- vx.mul. -/
def laneMul (f : Fmt) (a b : Nat) : Nat × FlagWord :=
  let (t, fl) := mulNum (decodeElem f a) (decodeElem f b)
  let (r, fl') := roundReg f t
  (r, fl ||| fl')

/-- vx.fma: a * b + d, rounded once. -/
def laneFma (f : Fmt) (a b d : Nat) : Nat × FlagWord :=
  let (p, fl) := mulNum (decodeElem f a) (decodeElem f b)
  let (t, fl') := sumNum [p, decodeElem f d]
  let (r, fl'') := roundReg f t
  (r, fl ||| fl' ||| fl'')

/-- vx.min and vx.max: a NaN input gives the canonical NaN, and -0 lies below +0 (R127). -/
def laneMinMax (f : Fmt) (takeMax : Bool) (a b : Nat) : Nat × FlagWord :=
  let x := decodeElem f a
  let y := decodeElem f b
  if x.isNan || y.isNan then (canonNan f, snanFlag [x, y])
  else if y.ltTotal x then (if takeMax then a else b, 0#32)
  else (if takeMax then b else a, 0#32)

/-- vx.div, correctly rounded, with the special operands of IEEE 754. -/
def laneDiv (f : Fmt) (a b : Nat) : Nat × FlagWord :=
  let x := decodeElem f a
  let y := decodeElem f b
  let fl := snanFlag [x, y]
  let neg := x.neg? != y.neg?
  match x, y with
  | .nan _, _ => (canonNan f, fl)
  | _, .nan _ => (canonNan f, fl)
  | .inf _, .inf _ => (canonNan f, flInvalid)
  | .inf _, .fin _ _ _ => (infBits f neg, 0#32)
  | .fin _ _ _, .inf _ => (zeroBits f neg, 0#32)
  | .fin _ m e, .fin _ m' e' =>
    if m' = 0 then
      if m = 0 then (canonNan f, flInvalid) else (infBits f neg, flDivZero)
    else
      match fmtSpec f with
      | some s => roundMag s .toInf neg m m' (e - e')
      | none => (0, 0#32)

/-- The square root of m * 2^e as a numerator over 2 with its exponent; an odd numerator stands for a root that lies
strictly between two whole numbers, far below the rounding position of every register format. -/
def sqrtParts (m : Nat) (e : Int) : Nat × Int :=
  let odd : Nat := (e % 2).toNat
  let m1 := m <<< (odd + 160)
  let e1 := (e - odd - 160) / 2
  let r := isqrt m1
  (if r * r = m1 then 2 * r else 2 * r + 1, e1)

/-- vx.sqrt, correctly rounded. -/
def laneSqrt (f : Fmt) (a : Nat) : Nat × FlagWord :=
  let x := decodeElem f a
  match x with
  | .nan sg => (canonNan f, flIf sg flInvalid)
  | .inf neg => if neg then (canonNan f, flInvalid) else (a, 0#32)
  | .fin neg m e =>
    if m = 0 then (a, 0#32)
    else if neg then (canonNan f, flInvalid)
    else
      let (n, k) := sqrtParts m e
      match fmtSpec f with
      | some s => roundMag s .toInf false n 2 k
      | none => (0, 0#32)

/-- vx.abs and vx.neg: a NaN gives the canonical NaN; INT8 -128 saturates to 127 (Table 5-6). -/
def laneSign (f : Fmt) (isAbs : Bool) (a : Nat) : Nat × FlagWord :=
  let x := decodeElem f a
  if x.isNan then (canonNan f, snanFlag [x])
  else roundReg f (if isAbs then x.abs else x.negate)

/-- The comparisons of Table 5-6. -/
inductive Cmp where
  | lt | le | eq
deriving DecidableEq, Repr

/-- vx.cmplt, vx.cmple and vx.cmpeq on one pair. -/
def laneCmp (f : Fmt) (c : Cmp) (a b : Nat) : Bool × FlagWord :=
  let x := decodeElem f a
  let y := decodeElem f b
  if x.isNan || y.isNan then
    (false, match c with | .eq => snanFlag [x, y] | _ => flInvalid)
  else
    (match c with
      | .lt => x.lt y
      | .le => !(y.lt x)
      | .eq => x.eqv y, 0#32)

/-- vx.cvt on one element: a conversion between register formats (Table 3-7). -/
def laneCvt (src dst : Fmt) (a : Nat) : Nat × FlagWord := convElem dst false 0x3F800000 (decodeElem src a)

/-- Folds two sides of the reduction tree: a lone side passes unchanged (R130).
DESIGN CHOICE (log entry 62): unchanged holds for a NaN too, so a reduction with one contributing element gives its bits as they
are and raises nothing, even for a signalling NaN: R66 and R127 speak of results that an operation produces. -/
def joinSides (op : Nat → Nat → Nat × FlagWord) : Option (Nat × FlagWord) → Option (Nat × FlagWord) → Option (Nat × FlagWord)
  | none, r => r
  | l, none => l
  | some (a, fa), some (b, fb) =>
    let (r, fl) := op a b
    some (r, fa ||| fb ||| fl)

/-- The pairwise tree over 2^k positions from position `base` (R130). -/
def redTree (op : Nat → Nat → Nat × FlagWord) (at? : Nat → Option Nat) : Nat → Nat → Option (Nat × FlagWord)
  | 0, base => (at? base).map fun v => (v, 0#32)
  | k + 1, base => joinSides op (redTree op at? k base) (redTree op at? k (base + 2 ^ k))

/-- The pairwise tree over the elements of a list, by position (R130). -/
def redList (op : Nat → Nat → Nat × FlagWord) (xs : List Nat) : Option (Nat × FlagWord) :=
  redTree op (fun i => xs[i]?) (Nat.log2 xs.length + 1) 0

/-- The functions of the table unit (Table 5-8). -/
inductive TableFn where
  | exp | log | recip | rsqrt | silu | gelu | tanh | sigmoid
deriving DecidableEq, Repr

def tableFnCode : TableFn → Nat
  | .exp => 0 | .log => 1 | .recip => 2 | .rsqrt => 3 | .silu => 4 | .gelu => 5 | .tanh => 6 | .sigmoid => 7

def tableFnOfCode : Nat → Option TableFn
  | 0 => some .exp | 1 => some .log | 2 => some .recip | 3 => some .rsqrt
  | 4 => some .silu | 5 => some .gelu | 6 => some .tanh | 7 => some .sigmoid
  | _ => none

/-- A special result of the table unit in a format: infinity, zero, one or NaN. -/
inductive TableSpecial where
  | nan | inf (neg : Bool) | zero (neg : Bool) | one (neg : Bool)
deriving DecidableEq, Repr

def specialBits (f : Fmt) : TableSpecial → Nat
  | .nan => canonNan f
  | .inf neg => infBits f neg
  | .zero neg => zeroBits f neg
  | .one neg => (roundReg f (.fin neg 1 0)).1

/-- The special results of vx.fn (Table 5-8): none where the table unit's own tables decide. -/
def fnSpecial (fn : TableFn) (x : Num) : Option (TableSpecial × FlagWord) :=
  let isNeg := x.neg? && !x.isZero
  match x with
  | .nan sg => some (.nan, flIf sg flInvalid)
  | .inf neg =>
    match fn with
    | .exp => some (if neg then .zero false else .inf false, 0#32)
    | .log => some (if neg then (.nan, flInvalid) else (.inf false, 0#32))
    | .recip => some (.zero neg, 0#32)
    | .rsqrt => some (if neg then (.nan, flInvalid) else (.zero false, 0#32))
    | .silu => some (if neg then .zero true else .inf false, 0#32)
    | .gelu => some (if neg then .zero true else .inf false, 0#32)
    | .tanh => some (.one neg, 0#32)
    | .sigmoid => some (if neg then .zero false else .one false, 0#32)
  | .fin neg m e =>
    match fn with
    | .exp =>
      if !neg && cmpMag (m * 100) e 8872 0 == .gt then some (.inf false, flOverflow ||| flInexact) else none
    | .log =>
      if m = 0 then some (.inf true, flDivZero) else if isNeg then some (.nan, flInvalid) else none
    | .recip => if m = 0 then some (.inf neg, flDivZero) else none
    | .rsqrt =>
      if m = 0 then some (.inf neg, flDivZero) else if isNeg then some (.nan, flInvalid) else none
    | _ => none

/-- The special results of vx.dfn (R554). The bound 88.72 of Table 5-8 is one of exp itself: its derivative has a result within the
bound for every finite input. -/
def dfnSpecial (fn : TableFn) (x : Num) : Option (TableSpecial × FlagWord) :=
  let isNeg := x.neg? && !x.isZero
  match x with
  | .nan sg => some (.nan, flIf sg flInvalid)
  | .inf neg =>
    match fn with
    | .exp => some (if neg then .zero false else .inf false, 0#32)
    | .log => some (if neg then (.nan, flInvalid) else (.zero false, 0#32))
    | .rsqrt => some (if neg then (.nan, flInvalid) else (.zero false, 0#32))
    | _ => some (.zero false, 0#32)
  | .fin _ m _ =>
    match fn with
    | .log =>
      if m = 0 then some (.inf false, flDivZero) else if isNeg then some (.nan, flInvalid) else none
    | .recip => if m = 0 then some (.inf true, flDivZero) else none
    | .rsqrt =>
      if m = 0 then some (.inf true, flDivZero) else if isNeg then some (.nan, flInvalid) else none
    | _ => none

/-- The bound of Table 5-8, in units in the last place. -/
def tableBound (fn : TableFn) (deriv : Bool) : Nat :=
  match fn with
  | .exp => 2
  | .log => if deriv then 1 else 2
  | .recip => if deriv then 2 else 1
  | .rsqrt => if deriv then 3 else 2
  | .silu => 4
  | .gelu => if deriv then 8 else 4
  | .tanh => if deriv then 4 else 3
  | .sigmoid => 3

/-- The exact value of a function of Table 5-8, or of its derivative, at a finite input of its domain. -/
def tableValue (fn : TableFn) (deriv : Bool) (x : Num) : Num :=
  let a := fxArg x
  let g := fxOf (expNum (if a < 0 then a else -a))
  let sig := if a < 0 then fxDiv g (fxOne + g) else fxDiv fxOne (fxOne + g)
  let times (y : Num) : Num := (mulNum x y).1
  match x, fn, deriv with
  | _, .exp, _ => expNum a
  | .fin _ m e, .log, false => fxNum (fxLog m e)
  | .fin neg m e, .log, true => recipNum neg m e
  | .fin neg m e, .recip, false => recipNum neg m e
  | .fin _ m e, .recip, true => recipNum true (m * m) (2 * e)
  | .fin _ m e, .rsqrt, false => rsqrtNum m e
  | .fin _ m e, .rsqrt, true => (mulNum (.fin true 1 (-1)) (mulNum (rsqrtNum m e) (recipNum false m e)).1).1
  | _, .silu, false => times (fxNum sig)
  | _, .silu, true => fxNum (fxMul sig (fxOne + fxMul a (fxOne - sig)))
  | _, .gelu, false => times (fxNum (fxNormal a))
  | _, .gelu, true => fxNum (fxNormal a + fxMul a (fxDensity a))
  | _, .tanh, false =>
    let g2 := fxMul g g
    let t := fxDiv (fxOne - g2) (fxOne + g2)
    fxNum (if a < 0 then -t else t)
  | _, .tanh, true => fxNum (fxDiv (4 * fxMul g g) (fxMul (fxOne + fxMul g g) (fxOne + fxMul g g)))
  | _, .sigmoid, false => fxNum sig
  | _, .sigmoid, true => fxNum (fxDiv g (fxMul (fxOne + g) (fxOne + g)))
  | _, _, _ => Num.zero

/-- Whether a result is the exact value itself. The reciprocals and their roots are algebraic, so the result is tried in their
defining equation; the other functions have a rational value at one rational input only. -/
def tableExact (fn : TableFn) (deriv : Bool) (x r : Num) : Bool :=
  let prod (ys : List Num) : Num := ys.foldl (fun t y => (mulNum t y).1) (Num.ofInt 1)
  match fn, deriv with
  | .exp, _ => x.isZero && r.eqv (Num.ofInt 1)
  | .log, false => x.eqv (Num.ofInt 1) && r.isZero
  | .log, true => (prod [r, x]).eqv (Num.ofInt 1)
  | .recip, false => (prod [r, x]).eqv (Num.ofInt 1)
  | .recip, true => (prod [r, x, x]).eqv (Num.ofInt (-1))
  | .rsqrt, false => !r.neg? && (prod [r, r, x]).eqv (Num.ofInt 1)
  | .rsqrt, true => r.neg? && (prod [Num.ofInt 4, r, r, x, x, x]).eqv (Num.ofInt 1)
  | .silu, false => x.isZero && r.isZero
  | .gelu, false => x.isZero && r.isZero
  | .tanh, false => x.isZero && r.isZero
  | .silu, true => x.isZero && r.eqv (.fin false 1 (-1))
  | .gelu, true => x.isZero && r.eqv (.fin false 1 (-1))
  | .tanh, true => x.isZero && r.eqv (Num.ofInt 1)
  | .sigmoid, false => x.isZero && r.eqv (.fin false 1 (-1))
  | .sigmoid, true => x.isZero && r.eqv (.fin false 1 (-2))

/-- The table unit at an exact input, with its result in a format (R136, R554).
Where no special result applies, the binary32 result is that of the published reference, which the manual does not print:
`Config.tableUnit` stands for it, held to the bound of Table 5-8.
A 16-bit format evaluates at the widened input and rounds that result once. INEXACT says that the result differs from the exact
value, and tininess is judged on the exact value (R78). -/
def tableOut (f : Fmt) (fn : TableFn) (deriv : Bool) (x : Num) : Nat × FlagWord :=
  match (if deriv then dfnSpecial fn x else fnSpecial fn x) with
  | some (r, fl) => (specialBits f r, fl)
  | none =>
    let v := tableValue fn deriv x
    let w := (roundNum specF32 x).1
    let y := heldToBound (-20) (tableBound fn deriv) v (Config.tableUnit (tableFnCode fn) deriv (BitVec.ofNat 32 w)).toNat
    let (res, fl) := roundReg f y
    let ovf := y.isInf || (fl &&& flOverflow) != 0#32
    let inexact := !tableExact fn deriv x (decodeElem f res)
    let tiny :=
      match fmtSpec f, v with
      | some s, .fin _ m e => m == 0 || tinyMag s m 1 e
      | _, _ => false
    (res, flIf ovf (flOverflow ||| flInexact) ||| flIf inexact flInexact ||| flIf (inexact && tiny) flUnderflow)

/-- One element of vx.fn or vx.dfn. -/
def laneTable (f : Fmt) (fn : TableFn) (deriv : Bool) (a : Nat) : Nat × FlagWord := tableOut f fn deriv (decodeElem f a)

end Sys2Proof.Machine
end

