-- ==== Sys2Proof/Machine/Mm.lean ====
section
/-!
DEFINITION. Sys2Proof/Machine/Mm.lean: the matrix commands mm.mul and mm.mul_list (R92 to R115).
-/

namespace Sys2Proof.Machine

/-! ## One product (Table 4-6) -/

/-- A product as its 128 bytes describe it. -/
structure Product where
  a      : Desc
  b      : Desc
  c      : Desc
  rows   : Nat
  k      : Nat
  n      : Nat
  ctrl   : Nat
  mask   : Nat
  maskBytes : Nat
deriving DecidableEq, Repr

def productAt (p : List Byte) (o : Nat) : Product :=
  { a := descAt p o, b := descAt p (o + 32), c := descAt p (o + 64), rows := fld p (o + 96) 4, k := fld p (o + 100) 4,
    n := fld p (o + 104) 4, ctrl := fld p (o + 108) 4, mask := fld p (o + 112) 8, maskBytes := fld p (o + 120) 4 }

def Product.accumulate (d : Product) : Bool := d.ctrl.testBit 0
def Product.masked (d : Product) : Bool := d.ctrl.testBit 1
def Product.aFmt (d : Product) : Fmt := (descFmt d.a).getD .f32
def Product.bFmt (d : Product) : Fmt := (descFmt d.b).getD .f32
/-- Whether the accumulator is INT32 (R76). -/
def Product.isInt (d : Product) : Bool := accIsInt d.aFmt d.bFmt

/-- Whether a format code stands in A or in B (Table 3-1). -/
def aCode (c : Nat) : Bool := decide (c < 15) && c != 3
def bCode (c : Nat) : Bool := decide (c < 16) && c != 3

/-- Table 4-5: whether C's code is one of the table, and whether it goes with the accumulator and with ACCUMULATE. -/
def cCode (c : Nat) : Bool := [0x10, 0, 1, 2, 4, 5, 12, 13].contains c
def cPair (c : Nat) (isInt acc : Bool) : Bool :=
  match c with
  | 0x10 => true
  | 0 => !(isInt && acc)
  | 1 | 2 | 4 | 5 => !isInt && !acc
  | 12 | 13 => isInt && !acc
  | _ => false

/-- Bytes per element of C. -/
def cBytes (c : Nat) : Nat := if c = 0x10 || c = 0 then 4 else if c = 1 || c = 2 then 2 else 1

/-- Check 3 of Table 4-8 for the product at offset `o`, in two parts: reserved fields, flags and formats, and every other field. -/
def check3Head (version : Nat) (p : List Byte) (o : Nat) (d : Product) : List Check :=
  let ca := descCode d.a
  let cb := descCode d.b
  let cc := descCode d.c
  [fmtAt (o + 28) (d.a.format < 32), fmtAt (o + 29) (d.a.dflags == 0), rsvAt p (o + 30) 2,
   fmtAt (o + 60) (d.b.format < 32), fmtAt (o + 61) (d.b.dflags == 0), rsvAt p (o + 62) 2,
   fmtAt (o + 92) (d.c.format < 32), fmtAt (o + 93) (d.c.dflags < 2), rsvAt p (o + 94) 2,
   fmtAt (o + 108) (d.ctrl < 4), rsvAt p (o + 124) 4,
   fmtAt (o + 28) (decide (ca < 16) && !oldVersionBars version ca),
   fmtAt (o + 60) (decide (cb < 16) && !oldVersionBars version cb), fmtAt (o + 92) (cCode cc),
   fmtAt (o + 28) (aCode ca), fmtAt (o + 60) (bCode cb)]

def check3Tail (o : Nat) (d : Product) : List Check :=
  let cb := descCode d.b
  let cc := descCode d.c
  [fmtAt o (ptrOk d.a.ptr 64), fmtAt (o + 32) (ptrOk d.b.ptr 64), fmtAt (o + 64) (ptrOk d.c.ptr 64),
   fmtAt (o + 112) (if d.masked then ptrOk d.mask 64 else true),
   fmtAt (o + 12) (strideRows (runBytes d.aFmt d.k) d.k d.a.stride),
   fmtAt (o + 44) (if cb = 15 then d.b.stride == 0 else strideRows (runBytes d.bFmt d.k) d.k d.b.stride),
   fmtAt (o + 76) (strideRows (d.n * cBytes cc) d.n d.c.stride)]
  ++ scaleChecks d.a o ++ scaleChecks d.b (o + 32)
  ++ [fmtAt (o + 80) (d.c.scalePtr == 0), fmtAt (o + 88) (if isFp8Code cc then scaleLegal d.c.scale else d.c.scale == 0),
      fmtAt (o + 112) (if d.masked then d.mask != 0 else d.mask == 0), fmtAt (o + 120) (d.masked || d.maskBytes == 0)]

/-- Check 3 of Table 4-8: between the two parts stands C's format with the accumulator and ACCUMULATE. -/
def check3 (version : Nat) (p : List Byte) (o : Nat) (d : Product) : List Check :=
  check3Head version p o d ++ [fmtAt (o + 92) (cPair (descCode d.c) d.isInt d.accumulate)] ++ check3Tail o d

/-- Check 4. -/
def check4 (p : List Byte) (o : Nat) (d : Product) : List Check :=
  [notOnes p (o + 8) 4, lenAt (o + 24) (!isMxCode (descCode d.a) || d.a.scale != 0xFFFFFFFF), notOnes p (o + 40) 4,
   lenAt (o + 56) (!isMxCode (descCode d.b) || d.b.scale != 0xFFFFFFFF), notOnes p (o + 72) 4, notOnes p (o + 96) 4,
   notOnes p (o + 100) 4, notOnes p (o + 104) 4, notOnes p (o + 120) 4]

/-- Check 5: whether the product is empty. -/
def Product.isEmpty (d : Product) : Bool := d.rows == 0 || d.k == 0 || d.n == 0

/-- The extent of B (Table 4-4). -/
def Product.bExtent (d : Product) : Nat :=
  if descCode d.b = 15 then log4Extent d.k d.n else rowsExtent d.bFmt d.n d.k d.b.stride
def Product.aExtent (d : Product) : Nat := rowsExtent d.aFmt d.rows d.k d.a.stride
def Product.cExtent (d : Product) : Nat := (d.rows - 1) * d.c.stride + d.n * cBytes (descCode d.c)

/-- How B and C lie in memory. -/
def Product.bPattern (d : Product) : Pattern :=
  if descCode d.b = 15 then onePass d.bExtent else rowPattern (runBytes d.bFmt d.k) d.bExtent d.b.stride 1
def Product.cPattern (d : Product) (mult : Nat) : Pattern := rowPattern (d.n * cBytes (descCode d.c)) d.cExtent d.c.stride mult

/-- Checks 6 and 7. -/
def check67 (o : Nat) (d : Product) : List Check :=
  [lenAt (o + 96) (decide (d.rows ≤ 2097152)), lenAt (o + 100) (decide (d.k ≤ 1048576)),
   lenAt (o + 104) (decide (d.n ≤ 2097152)),
   lenAt (o + 8) (decide (d.aExtent ≤ d.a.bytes)),
   lenAt (o + 24) (!isMxCode (descCode d.a) || decide (scaleExtent d.rows d.k ≤ d.a.scale)),
   lenAt (o + 40) (decide (d.bExtent ≤ d.b.bytes)),
   lenAt (o + 56) (!isMxCode (descCode d.b) || decide (scaleExtent d.n d.k ≤ d.b.scale)),
   lenAt (o + 72) (decide (d.cExtent ≤ d.c.bytes)),
   lenAt (o + 120) (!d.masked || decide (ceilDiv d.rows 8 ≤ d.maskBytes)),
   (decide (d.rows * d.n * 4 ≤ 8388608), sTooLarge, 0)]

/-- Check 8: the placement of every operand, then the mask. The extents count on their lines here (R102). -/
def check8mm (s : State) (a : Actor) (d : Product) : Run (List Bool) := do
  let nt := ceilDiv d.n 128
  placeRead s a (rowPattern (runBytes d.aFmt d.k) d.aExtent d.a.stride nt) false d.a.ptr d.aExtent
  if isMxCode (descCode d.a) then
    placeRead s a ⟨scaleExtent d.rows d.k, 0, nt⟩ false d.a.scalePtr (scaleExtent d.rows d.k)
  placeRead s a d.bPattern true d.b.ptr d.bExtent
  if isMxCode (descCode d.b) then
    placeRead s a (onePass (scaleExtent d.n d.k)) true d.b.scalePtr (scaleExtent d.n d.k)
  placeDest s a (d.cPattern 1) false d.c.ptr d.cExtent
  if d.accumulate then placeRead s a (d.cPattern 1) false d.c.ptr d.cExtent
  if d.masked then
    let m ← readVa s a (onePass d.maskBytes) false d.mask (ceilDiv d.rows 8)
    pure ((List.range d.rows).map fun i => bitOf (fld m (i / 8) 1) (i % 8))
  else pure (List.replicate d.rows true)

/-! ## The arithmetic (R76 to R79, R96, R103, R104) -/

/-- The columns of B. -/
def readB (s : State) (a : Actor) (d : Product) : Run (List (List (Num × FlagWord))) := do
  if descCode d.b = 15 then
    let tiles ← readTiles s a d.b d.k d.n 0
    pure ((List.range d.n).map (tileColumn tiles d.k))
  else readRows s a true d.b d.bFmt d.n d.k 0

/-- The initial accumulator from C's prior contents or zero. -/
def accStart (isInt : Bool) (prior : Option (List Byte)) (j : Nat) : Acc :=
  match prior with
  | none => if isInt then .i 0 else .f 0
  | some bs => if isInt then .i (signedOf 32 (fld bs (4 * j) 4)) else .f (fld bs (4 * j) 4)

/-- An accumulator in C's format (R96). -/
def accOut (c : Nat) (oti : Bool) (scale : Nat) (acc : Acc) : Nat × FlagWord :=
  match acc with
  | .f bits =>
    if c = 0x10 || c = 0 then (bits, 0#32)
    else
      match fmtOfCode c with
      | some f => convElem f oti (if isFp8Code c then scale else 0x3F800000) (decodeFloat specF32 bits)
      | none => (0, 0#32)
  | .i v =>
    if c = 0x10 then (encodeInt 32 v, 0#32)
    else
      match fmtOfCode c with
      | some f => convElem f oti 0x3F800000 (Num.ofInt v)
      | none => (0, 0#32)

/-- One row of C: its bytes and flags. -/
def rowOut (d : Product) (aRow : List (Num × FlagWord)) (bCols : List (List (Num × FlagWord))) (prior : Option (List Byte)) :
    List Byte × FlagWord :=
  let cc := descCode d.c
  let outs := bCols.mapIdx fun j col =>
    let (acc, fl) := reduceK (d.k / 8 + 1) (accStart d.isInt prior j) (List.zip aRow col)
    let (w, fl') := accOut cc (bitOf d.c.dflags 0) d.c.scale acc
    (w, fl ||| fl')
  (outs.flatMap fun o => natLe (cBytes cc) o.1, flAll (outs.map (·.2)))

/-- Reads A's row i. -/
def readARow (s : State) (a : Actor) (d : Product) (i : Nat) : Run (List (Num × FlagWord)) := do
  let nb := runBytes d.aFmt d.k
  let ns := ceilDiv d.k 32
  let pt := rowPattern nb d.aExtent d.a.stride 0
  let row ← readVa s a pt false (d.a.ptr + i * d.a.stride) nb
  let blocks ← if isMxCode (descCode d.a) then readVa s a pt false (d.a.scalePtr + i * ns) ns else pure []
  pure (rowValues d.aFmt d.a.scale row blocks d.k)

/-- Computes a product whose checks have passed: its writes and flags. -/
def runProduct (s : State) (a : Actor) (d : Product) (live : List Bool) : Run (List SWrite × FlagWord) := do
  let bCols ← readB s a d
  let nb := d.n * cBytes (descCode d.c)
  let pt := d.cPattern 0
  let outs ← ((live.zipIdx).filter fun l => l.1).mapM fun l => do
    let row ← readARow s a d l.2
    let at_ := d.c.ptr + l.2 * d.c.stride
    let prior ← if d.accumulate then do
        let bs ← readVa s a pt false at_ nb
        pure (some bs)
      else pure none
    let (bs, fl) := rowOut d row bCols prior
    let ws ← stageVa s a pt false at_ bs
    pure (ws, fl)
  pure (outs.flatMap (·.1), flAll (outs.map (·.2)))

/-! ## Cost (R101, R115) -/

/-- The live groups of 8 rows. -/
def liveGroups (live : List Bool) : Nat :=
  ((List.range (ceilDiv live.length 8)).filter fun g => ((live.drop (8 * g)).take 8).any id).length

/-- The array steps of one product: nt_count * per_n. -/
def arraySteps (fa fb : Fmt) (k n g : Nat) : Nat :=
  let stream := match rateClass fa fb with
    | .c4 => ceilDiv g 2 | .c8 => g | .c16 => 2 * g | .c32 => 16 * g
  let r := if fmtBits fb ≤ 8 then 8 else if fmtBits fb = 16 then 4 else 2
  let perN := (List.range (ceilDiv k 128)).foldl (fun t kt => t + stream + (ceilDiv (min 128 (k - 128 * kt)) r - 2)) 0
  ceilDiv n 128 * perN

/-! ## mm.mul -/

/-- Checks 3 to 8 of a product; none if it is empty. -/
def checkProduct (s : State) (a : Actor) (version : Nat) (p : List Byte) (o : Nat) : Run (Option (Product × List Bool)) := do
  let d := productAt p o
  checkAll (check3 version p o d)
  checkAll (check4 p o d)
  if d.isEmpty then pure none
  else
    checkAll (check67 o d)
    let live ← check8mm s a d
    pure (some (d, live))

/-- mm.mul. -/
def mmMulBody : Body := fun s a f p => do
  match (← checkProduct s a f.cmd.version p 0) with
  | none => pure (.noop 32)
  | some (d, live) =>
    let g := liveGroups live
    let (ws, fl) ← runProduct s a d live
    let steps := if g = 0 then 64 else 64 + arraySteps d.aFmt d.bFmt d.k d.n g + ceilDiv (d.rows * d.n * 4) 65536
    pure (.staged ⟨ws, .none, fl, [], steps, 0, [], 0⟩)

/-- Whether two ranges overlap. -/
def overlaps (a la b lb : Nat) : Bool := decide (a < b + lb && b < a + la)

/-- Whether no two C extents of a list overlap (R114); the index of the first entry that overlaps an earlier one. -/
def firstOverlap (ds : List (Product × Nat)) : Option Nat :=
  (ds.zipIdx.find? fun x => (ds.take x.2).any fun y =>
    overlaps x.1.1.c.ptr x.1.1.cExtent y.1.c.ptr y.1.cExtent).map fun x => x.1.2

/-- mm.mul_list. DESIGN CHOICE (log entry 49): where the overlap check of R114 and the total staging check of R113 both fail, the overlap is
found first, and both follow check 8 of every entry. -/
def mmMulListBody : Body := fun s a f p => do
  let count := fld p 0 4
  checkAll [lenAt 0 (decide (count ≤ 31)), (f.cmd.paramLen == 32 + 128 * count, sLength, detCmd 24), rsvAt p 4 28]
  if count = 0 then pure (.noop 24)
  else
    let es ← (List.range count).mapM fun i => do
      let r ← checkProduct s a f.cmd.version p (32 + 128 * i)
      pure (r, i)
    let ds := es.filterMap fun e => e.1.map fun d => (d, e.2)
    match firstOverlap (ds.map fun d => (d.1.1, d.2)) with
    | some i => finish sBadFormat (detParam (32 + 128 * i + 64))
    | none =>
      let need_ (l : List ((Product × List Bool) × Nat)) : Nat := l.foldl (fun t d => t + d.1.1.rows * d.1.1.n * 4) 0
      need (decide (need_ ds ≤ 8388608)) sTooLarge 0
      let outs ← ds.mapM fun d => runProduct s a d.1.1 d.1.2
      let lives := ds.filter fun d => liveGroups d.1.2 != 0
      let per := lives.foldl (fun t d =>
        t + arraySteps d.1.1.aFmt d.1.1.bFmt d.1.1.k d.1.1.n (liveGroups d.1.2)) 0
      let steps := 48 + 16 * count + per + ceilDiv (need_ lives) 65536
      pure (.staged ⟨outs.flatMap (·.1), .none, flAll (outs.map (·.2)), [], steps, 0, [], 0⟩)

/-- MM_MUL (R99). -/
def execMmMul (st : Start) (s : State) : Host.Outcome State Fault Refusal := startEngine 0x1001 mmMulBody st s

/-- MM_MUL_LIST (R112). -/
def execMmMulList (st : Start) (s : State) : Host.Outcome State Fault Refusal := startEngine 0x1002 mmMulListBody st s

end Sys2Proof.Machine
end

