-- ==== Sys2Proof/Machine/Attend.lean ====
section
/-!
DEFINITION. Sys2Proof/Machine/Attend.lean: the attention commands (R315, R316, R319 to R333): at.append, at.attend, at.advance, at.ring,
at.combine and at.ring_send.
-/

namespace Sys2Proof.Machine

/-! ## Arithmetic with flags -/

/-- A value with the flags that forming it raised. -/
abbrev Flagged (α : Type) := α × FlagWord

/-- A binary32 value. -/
def f32 (b : Nat) : Num × FlagWord := (decodeFloat specF32 b, 0#32)

/-- The dot product of R77 over a run of pairs, in binary32. -/
def dotF (a b : List (Num × FlagWord)) : Flagged Nat :=
  match reduceK (ceilDiv a.length 8) (.f 0) (List.zip a b) with
  | (.f r, fl) => (r, fl)
  | (.i _, fl) => (0, fl)

/-! ## Rotary positions (R315) -/

/-- A pair turned by an angle: each element is formed exactly and rounded once. -/
def turnPair (theta : Nat) (x y : Num × FlagWord) : List (Num × FlagWord) :=
  let (cv, sv) := cosSin (decodeFloat specF64 theta)
  let c := heldToBound (-126) 1 cv (Config.rotaryCos (BitVec.ofNat 64 theta)).toNat
  let sn := heldToBound (-126) 1 sv (Config.rotarySin (BitVec.ofNat 64 theta)).toNat
  let one (a b : Num) : Num × FlagWord :=
    let (p, f1) := mulNum x.1 a
    let (q, f2) := mulNum y.1 b
    let (t, f3) := sumNum [p, q]
    let (r, f4) := roundNum specF32 t
    (decodeFloat specF32 r, f1 ||| f2 ||| f3 ||| f4 ||| x.2 ||| y.2)
  [one c sn.negate, one sn c]

/-- The angle of a position and a frequency: a binary64 product, rounded once. -/
def rotaryAngle (pos freq : Nat) : Nat := (roundNum specF64 (mulNum (Num.ofInt pos) (decodeFloat specF64 freq)).1).1

/-- A head vector turned at a position. -/
def turnHead (freqs : List Nat) (pos : Nat) (v : List (Num × FlagWord)) : List (Num × FlagWord) :=
  (List.range 64).flatMap fun i =>
    turnPair (rotaryAngle pos (freqs.getD i 0)) (v.getD (2 * i) (Num.zero, 0#32)) (v.getD (2 * i + 1) (Num.zero, 0#32))

/-! ## Distance bias (R316) -/

/-- The bucket of a distance. -/
def biasIndex (d : Nat) : Nat :=
  if d < 256 then d
  else
    let e := Nat.log2 d
    256 + 240 * (e - 8) + 240 * (d - 2 ^ e) / 2 ^ e

/-- Reads an entry of a model's bias table. -/
def biasAt (s : State) (model head d : Nat) : Except Stop Nat :=
  let pa := biasTable s model + 16384 * head + 4 * biasIndex d
  match withdrawnBy s pa with
  | some k => absent 4 k
  | none =>
    if stackAsleep s pa then .error .hold
    else if anyPoison s pa 4 then .error (.done sPoison 0)
    else .ok (leNat (memRead s.memories.mem pa 4))

/-! ## The order of R319 -/

/-- The running maximum, sum and output of R319. -/
structure Partial where
  m  : Nat
  l  : Nat
  o  : List Nat
  fl : FlagWord
deriving DecidableEq, Repr

/-- The start of a block or of a row. -/
def Partial.start : Partial := ⟨0xFF800000, 0, List.replicate 128 0, 0#32⟩

/-- The fold of R319. -/
def foldPartial (x y : Partial) : Partial :=
  let (n, f1) := laneMinMax .f32 true x.m y.m
  let (da, f2) := laneSub .f32 x.m n
  let (a, f3) := laneTable .f32 .exp false da
  let (db, f4) := laneSub .f32 y.m n
  let (b, f5) := laneTable .f32 .exp false db
  let step (p q : Nat) : Flagged Nat :=
    let (t, g1) := laneMul .f32 p a
    let (r, g2) := laneFma .f32 q b t
    (r, g1 ||| g2)
  let (l, f6) := step x.l y.l
  let os := List.zipWith step x.o y.o
  ⟨n, l, os.map (·.1), x.fl ||| y.fl ||| f1 ||| f2 ||| f3 ||| f4 ||| f5 ||| f6 ||| flAll (os.map (·.2))⟩

/-- A key-value row by its decoded elements. -/
abbrev KvRow := List (Num × FlagWord)

/-- Key and value of a group in a row of `groups` groups. -/
def keyOf (g : Nat) (r : KvRow) : List (Num × FlagWord) := (r.drop (g * 128)).take 128
def valueOf (groups g : Nat) (r : KvRow) : List (Num × FlagWord) := (r.drop ((groups + g) * 128)).take 128

/-- What the scores of a query head need. -/
structure ScoreEnv where
  model : Nat
  att   : AttnRec
  scale : Nat
  head  : Nat
  pq    : Nat
deriving DecidableEq, Repr

/-- The group of a query head (R314). -/
def groupOfHead (r : AttnRec) (h : Nat) : Nat := h * r.groups / r.qHeads

/-- The score of a query against a key at a position. -/
def scoreOf (s : State) (e : ScoreEnv) (q : List (Num × FlagWord)) (pk : Nat) (key : List (Num × FlagWord)) : Except Stop (Flagged Nat) := do
  let (d, f1) := dotF q key
  if e.att.bias then
    let b ← biasAt s e.model e.head (e.pq - pk)
    let (r, f2) := laneFma .f32 d e.scale b
    .ok (r, f1 ||| f2)
  else
    let (r, f2) := laneMul .f32 d e.scale
    .ok (r, f1 ||| f2)

/-- A sub-block: the rows from a position on that contribute. -/
def subPartial (s : State) (e : ScoreEnv) (q : List (Num × FlagWord)) (first : Nat) (rows : List KvRow) : Except Stop Partial := do
  let g := groupOfHead e.att e.head
  let scores ← rows.zipIdx.mapM fun r => scoreOf s e q (first + r.2) (keyOf g r.1)
  let (ms, f1) := (redList (laneMinMax .f32 true) (scores.map (·.1))).getD (0xFF800000, 0#32)
  let ps := scores.map fun x =>
    let (d, g1) := laneSub .f32 x.1 ms
    let (r, g2) := tableOut .f16 .exp false (decodeFloat specF32 d)
    (r, g1 ||| g2 ||| x.2)
  let wide := ps.map fun x => (roundNum specF32 (decodeFloat specF16 x.1)).1
  let (ls, f2) := (redList (laneAdd .f32) wide).getD (0, 0#32)
  let weights := ps.map fun x => (decodeFloat specF16 x.1, 0#32)
  let vals := rows.map (valueOf e.att.groups g)
  let os := (List.range 128).map fun j => dotF weights (vals.map fun v => v.getD j (Num.zero, 0#32))
  .ok ⟨ms, ls, os.map (·.1), f1 ||| f2 ||| flAll (ps.map (·.2)) ||| flAll (os.map (·.2))⟩

/-- The partial (mb, lb, ob) of a block that begins at position F. -/
def blockPartial (s : State) (e : ScoreEnv) (q : List (Num × FlagWord)) (first : Nat) (rows : List KvRow) : Except Stop Partial := do
  let live := rows.take (e.pq + 1 - first)
  let subs ← ((chunksOf (ceilDiv live.length 128) 128 live).zipIdx).mapM fun b => subPartial s e q (first + 128 * b.2) b.1
  .ok (subs.foldl foldPartial Partial.start)

/-- The whole order of R319 over rows from SEG_BASE on. -/
def attendHead (s : State) (e : ScoreEnv) (q : List (Num × FlagWord)) (base : Nat) (rows : List KvRow) : Except Stop Partial := do
  let live := rows.take (e.pq + 1 - base)
  let blocks ← ((chunksOf (ceilDiv live.length 4096) 4096 live).zipIdx).mapM fun b => blockPartial s e q (base + 4096 * b.2) b.1
  .ok (blocks.foldl foldPartial Partial.start)

/-- The final step: o * recip(l), in an output format. -/
def finishHead (f : Fmt) (oti : Bool) (x : Partial) : List Byte × FlagWord :=
  let (r, f1) := laneTable .f32 .recip false x.l
  let outs := x.o.map fun o =>
    let (p, g1) := laneMul .f32 o r
    let (w, g2) := convElem f oti 0x3F800000 (decodeFloat specF32 p)
    (w, g1 ||| g2)
  (packBytes f (outs.map (·.1)), x.fl ||| f1 ||| flAll (outs.map (·.2)))

/-! ## The parameter block (Tables 12-8, 12-9) -/

/-- An entry with counted tokens and its first position P. -/
structure AtEntry where
  i      : Nat
  ctx    : Nat
  row    : Nat
  first  : Nat
  tokens : Nat
  pos    : Nat
deriving DecidableEq, Repr

/-- A checked at. command. -/
structure AtJob where
  att     : AttnRec
  model   : Nat
  src     : Desc
  dst     : Desc
  layer   : Nat
  gFirst  : Nat
  gCount  : Nat
  fromRx  : Bool
  count   : Nat
  scale   : Nat
  block   : Nat
  slotBase : Nat
  slots   : Nat
  status  : Nat
  entries : List AtEntry
deriving DecidableEq, Repr

def opAppend : Nat := 0x4001
def opAttend : Nat := 0x4002
def opAdvance : Nat := 0x4003
def opRing : Nat := 0x4004
def opCombine : Nat := 0x4006

/-- Which opcodes use LAYER, the groups, SCALE and the destination. -/
def usesLayer (op : Nat) : Bool := op == opAppend || op == opAttend || op == opRing
def usesGroups (op : Nat) : Bool := op == opAttend || op == opRing || op == opCombine
def usesScale (op : Nat) : Bool := op == opAttend || op == opRing
def usesDst (op : Nat) : Bool := usesGroups op

/-- The bytes of a partial record (R330). -/
def partialBytes : Nat := 528

/-- The entries of the block; POSITION is read now (R323). -/
def atEntries (s : State) (p : List Byte) (count : Nat) : List AtEntry :=
  (List.range count).map fun i =>
    let o := 128 + 16 * i
    let c := fld p o 4
    ⟨i, c, fld p (o + 4) 4, fld p (o + 8) 2, fld p (o + 10) 2, (ctxOf s (c % 2 ^ 20)).position + fld p (o + 8) 2⟩

/-- The rows that a job reads or writes: one past the last row of any entry. -/
def lastRow (es : List AtEntry) : Nat := (es.filter fun e => e.tokens != 0).foldl (fun m e => max m (e.row + e.tokens)) 0

/-- Whether SRC or DST holds partial records. -/
def srcPartial (op : Nat) : Bool := op == opCombine
def dstPartial (op : Nat) : Bool := op == opRing

/-- The elements of a source row, or of an output row. -/
def srcCols (op : Nat) (r : AttnRec) : Nat := if op = opAppend then 2 * r.groups * 128 else r.qHeads * 128

/-- The bytes of a run of SRC or DST: a row, or a slot of partial records. -/
def runOf (isPartial : Bool) (d : Desc) (r : AttnRec) (cols rows : Nat) : Nat :=
  if isPartial then rows * r.qHeads * partialBytes else runBytes ((descFmt d).getD .f32) cols

/-- The first item of check 3 for the header: reserved fields, in ascending byte order. -/
def atReserved (op : Nat) (p : List Byte) (src dst : Desc) (count : Nat) : List Check :=
  (if op = opAdvance then [rsvAt p 0 32] else [fmtAt 28 (src.format < 32), fmtAt 29 (src.dflags == 0), rsvAt p 30 2])
  ++ (if usesDst op then [fmtAt 60 (dst.format < 32), fmtAt 61 (dst.dflags < 2), rsvAt p 62 2] else [rsvAt p 32 32])
  ++ [fmtAt 64 (usesLayer op || fld p 64 2 == 0), fmtAt 66 (usesGroups op || fld p 66 2 == 0),
      fmtAt 68 (usesGroups op || fld p 68 2 == 0), fmtAt 70 (decide (fld p 70 1 < (if op = opRing then 2 else 1))), rsvAt p 71 1,
      fmtAt 76 (usesScale op || fld p 76 4 == 0), fmtAt 80 (op == opRing || fld p 80 4 == 0),
      fmtAt 84 (op == opRing || op == opCombine || fld p 84 4 == 0), fmtAt 88 (op == opCombine || fld p 88 4 == 0), rsvAt p 104 24]
  ++ (List.range count).map fun i => rsvAt p (128 + 16 * i + 12) 4

/-- The formats of SRC and DST (Table 12-8). -/
def atFormats (op : Nat) (src dst : Desc) : List Check :=
  let srcs := if op = opAppend then [0, 1, 2] else if op = opCombine then [0] else [0, 1, 2, 4, 5]
  let dsts := if op = opRing then [0] else [0, 1, 2]
  (if op = opAdvance then [] else [fmtAt 28 (srcs.contains (descCode src))])
  ++ (if usesDst op then [fmtAt 60 (dsts.contains (descCode dst))] else [])

/-- Alignment, STRIDE and scales; STRIDE needs the model's record. -/
def atShapes (op : Nat) (p : List Byte) (src dst : Desc) (rows : Nat) (r : Option AttnRec) : List Check :=
  let strideOk (isPartial : Bool) (d : Desc) (cols : AttnRec → Nat) : Bool :=
    d.stride % 64 == 0 && (match r with | none => true | some m => decide (runOf isPartial d m (cols m) rows ≤ d.stride))
  let useSrc := op != opAdvance
  (if useSrc then [fmtAt 0 (ptrOk src.ptr 64)] else []) ++ (if usesDst op then [fmtAt 32 (ptrOk dst.ptr 64)] else [])
  ++ [fmtAt 96 (ptrOk (fld p 96 8) 8)]
  ++ (if useSrc then [fmtAt 12 (strideOk (srcPartial op) src (srcCols op))] else [])
  ++ (if usesDst op then [fmtAt 44 (strideOk (dstPartial op) dst fun m => m.qHeads * 128)] else [])
  ++ (if useSrc then scaleChecks src 0 else []) ++ (if usesDst op then scaleChecks dst 32 else [])

/-- The values of the header that no other item names. -/
def atValues (op : Nat) (p : List Byte) (r : Option AttnRec) : List Check :=
  [fmtAt 76 (!usesScale op || scaleLegal (fld p 76 4)), fmtAt 84 (decide (fld p 84 4 ≤ 4095))]
  ++ (match r with
    | none => []
    | some m => [fmtAt 64 (!usesLayer op || decide (fld p 64 2 < m.layers)), fmtAt 66 (!usesGroups op || decide (fld p 66 2 < m.groups))])

/-- Whether two entries cover a (context, position) in common. -/
def sameCover (a b : AtEntry) : Bool :=
  a.ctx == b.ctx && a.tokens != 0 && b.tokens != 0 && decide (a.first < b.first + b.tokens && b.first < a.first + a.tokens)

/-- The additions of R324 to check 3 for one entry. -/
def atEntryChecks (s : State) (f : Flight) (op : Nat) (e : AtEntry) : List Check :=
  let o := 128 + 16 * e.i
  [fmtAt o (decide (e.ctx < 2 ^ 20) && ctxRegistered s e.ctx),
   (f.cls == 0 || (ctxOf s e.ctx).tenant == f.tenant, sPrivilege, detParam o),
   fmtAt (o + 4) (op != opAdvance || e.row == 0),
   fmtAt (o + 8) (decide (e.first ≤ (if op = opAdvance then 0 else 8191)))]

/-- Its additions for the entries together: one model with a record, no ring context in at.attend, a set ring record for a
received block, and no position twice. -/
def atEntrySet (s : State) (op : Nat) (fromRx : Bool) (es : List AtEntry) : List Check :=
  let model := (es.head?.map fun e => (ctxOf s e.ctx).model).getD 0
  es.map fun e =>
    let x := ctxOf s e.ctx
    fmtAt (128 + 16 * e.i) (x.model == model && (tabFind s.kv.models model).isSome && (op != opAttend || x.ring == 0xFF)
      && (!fromRx || (x.ring != 0xFF && (tabFind s.kv.rings x.ring).isSome)) && !((es.take e.i).any (sameCover e)))

/-- Check 4: lengths of all ones. -/
def atOnes (op : Nat) (p : List Byte) : List Check :=
  (if op = opAdvance then [] else [notOnes p 8 4]) ++ (if usesDst op then [notOnes p 40 4] else [])
  ++ (if usesGroups op then [notOnes p 68 2] else []) ++ [notOnes p 92 4]

/-- Check 6 for one entry. -/
def atBounds (s : State) (f : Flight) (op : Nat) (e : AtEntry) : List Check :=
  let o := 128 + 16 * e.i + 10
  let x := ctxOf s e.ctx
  let last := e.pos + e.tokens
  let opens := hasOpen f.cmd && (op == opAppend || op == opAttend) && openReadable s e.ctx (f.deal.getD 0)
  [lenAt o (decide (e.tokens ≤ 8192 - e.first)), lenAt o (e.tokens == 0 || decide (last ≤ 2 ^ 24)),
   lenAt o (op != opAdvance || e.tokens == 0 || x.segLimit == 0 || decide (last ≤ x.segBase + x.segLimit)),
   lenAt o (!opens || e.tokens == 0 || decide (last ≤ x.position + (specOf s e.ctx).limit))]

/-- The first position of the local block of an entry. -/
def blockFirst (s : State) (j : AtJob) (e : AtEntry) : Nat := (ctxOf s e.ctx).segBase + 4096 * j.block

/-- The ring record of an entry's context. -/
def ringOf (s : State) (c : Nat) : RingRec := (tabFind s.kv.rings (ctxOf s c).ring).getD ⟨0, 0, 0, 0, 0, 0⟩

/-- The element bytes of an output. -/
def outBytes (d : Desc) : Nat := fmtBits ((descFmt d).getD .f32) / 8

/-- The query heads of the selected groups (R327). -/
def headsOf (j : AtJob) : List Nat :=
  let hpg := j.att.qHeads / max 1 j.att.groups
  (List.range (hpg * j.gCount)).map fun i => hpg * j.gFirst + i

/-- The entries whose tokens count. -/
def counted (j : AtJob) : List AtEntry := j.entries.filter fun e => e.tokens != 0

def totalTokens (j : AtJob) : Nat := (counted j).foldl (fun t e => t + e.tokens) 0

/-- The bytes of the destinations of each opcode. -/
def jobBytes (op : Nat) (j : AtJob) : Nat :=
  if op = opAppend then totalTokens j * rowBytes j.att
  else if op = opRing then totalTokens j * (headsOf j).length * partialBytes
  else if op = opAdvance then 0
  else totalTokens j * (headsOf j).length * 128 * outBytes j.dst

/-- The bytes of the status vector. -/
def vectorBytes (j : AtJob) : Nat := if j.status = 0 then 0 else 2 * j.count

/-- A job read from its block. -/
def atJob (s : State) (p : List Byte) (count : Nat) : AtJob :=
  let es := atEntries s p count
  let model := (es.head?.map fun e => (ctxOf s e.ctx).model).getD 0
  { att := attnOf s model, model := model, src := descAt p 0, dst := descAt p 32, layer := fld p 64 2, gFirst := fld p 66 2
    gCount := fld p 68 2, fromRx := fld p 70 1 == 1, count := count, scale := fld p 76 4, block := fld p 80 4
    slotBase := fld p 84 4, slots := fld p 88 4, status := fld p 96 8, entries := es }

/-- The extent of SRC or DST. -/
def jobExtent (isPartial : Bool) (d : Desc) (r : AttnRec) (cols rows slots : Nat) : Nat :=
  if rows = 0 then 0
  else if isPartial then (slots - 1) * d.stride + rows * r.qHeads * partialBytes
  else rowsExtent ((descFmt d).getD .f32) rows cols d.stride

/-- The slot of a block in DST (R330), or none below SLOT_BASE. -/
def slotOf (j : AtJob) (first : Nat) : Option Nat := if j.slotBase ≤ first / 4096 then some (first / 4096 - j.slotBase) else none

/-- The first positions of the blocks that an at.ring writes; a received block's is read later. -/
def localFirsts (s : State) (j : AtJob) : List Nat := (counted j).map (blockFirst s j)

/-- Check 6: ranges, then extents. -/
def atLengths (s : State) (f : Flight) (op : Nat) (p : List Byte) (j : AtJob) : List Check :=
  let rows := lastRow j.entries
  let ring := op == opRing
  let blockOk : Bool :=
    if j.fromRx then (counted j).all fun e => decide (j.block < (ringOf s e.ctx).rxCount)
    else (counted j).all fun e => decide (blockFirst s j e < 2 ^ 24)
  [lenAt 68 (!usesGroups op || decide (j.gFirst + j.gCount ≤ j.att.groups)), lenAt 80 (!ring || blockOk),
   lenAt 88 (op != opCombine || decide (1 ≤ j.slots && j.slots ≤ 4096)),
   lenAt 92 (fld p 92 4 == 0 || decide (2 * j.count ≤ fld p 92 4))]
  ++ j.entries.flatMap (atBounds s f op)
  ++ (if op = opAdvance then []
      else [lenAt 8 (decide (jobExtent (srcPartial op) j.src j.att (srcCols op j.att) rows j.slots ≤ j.src.bytes))])
  ++ (if op = opAttend || op = opCombine then
        [lenAt 40 (decide (jobExtent false j.dst j.att (j.att.qHeads * 128) rows 0 ≤ j.dst.bytes))] else [])
  ++ (if ring && !j.fromRx then
        (localFirsts s j).map fun x => lenAt 84 (match slotOf j x with
          | none => false
          | some k => decide (k * j.dst.stride + rows * j.att.qHeads * partialBytes ≤ j.dst.bytes))
      else [])

/-- The runs of DST that an entry writes: address and bytes. -/
def dstRunsOf (op : Nat) (j : AtJob) (slot : Nat) (e : AtEntry) : List (Nat × Nat) :=
  let hs := headsOf j
  let h0 := hs.headD 0
  (List.range e.tokens).map fun t =>
    if op = opRing then (j.dst.ptr + slot * j.dst.stride + ((e.row + t) * j.att.qHeads + h0) * partialBytes, hs.length * partialBytes)
    else (j.dst.ptr + (e.row + t) * j.dst.stride + h0 * 128 * outBytes j.dst, hs.length * 128 * outBytes j.dst)

/-- The runs of SRC that an entry reads. -/
def srcRunsOf (op : Nat) (j : AtJob) (e : AtEntry) : List (Nat × Nat) :=
  let f := (descFmt j.src).getD .f32
  let hs := headsOf j
  if op = opAdvance then []
  else if op = opCombine then
    (List.range j.slots).flatMap fun k => (List.range e.tokens).map fun t =>
      (j.src.ptr + k * j.src.stride + ((e.row + t) * j.att.qHeads + hs.headD 0) * partialBytes, hs.length * partialBytes)
  else (List.range e.tokens).map fun t => (j.src.ptr + (e.row + t) * j.src.stride, runBytes f (srcCols op j.att))

/-- Check 8: the placement of SRC, of DST where it is known, and of the status vector. -/
def atPlacement (s : State) (a : Actor) (op : Nat) (j : AtJob) : Run Unit := do
  let _ ← (counted j).mapM fun e => do
    let _ ← (srcRunsOf op j e).mapM fun r => placeRead s a ⟨r.2, j.src.stride, 1⟩ false r.1 r.2
    if usesDst op && !j.fromRx then
      let slot := (slotOf j (blockFirst s j e)).getD 0
      let _ ← (dstRunsOf op j slot e).mapM fun r => checkDest s a false r.1 r.2
  if j.status = 0 then pure () else checkDest s { a with plainOk := true } false j.status (2 * j.count)

/-- Every check of an at. command (R324); a no-op gives its S (R258). -/
def atCheck (op : Nat) (s : State) (a : Actor) (f : Flight) (p : List Byte) : Run (Except Nat AtJob) := do
  let count := fld p 72 4
  let n := if op = opRing then min count 1 else count
  checkAll [lenAt 72 (decide (count ≤ (if op = opRing then 1 else 248))),
    (op == opRing || f.cmd.paramLen == 128 + 16 * count, sLength, detCmd 24)]
  let j := atJob s p n
  liftE (readCtxs s (j.entries.map AtEntry.ctx))
  let known : Option AttnRec := if j.entries.isEmpty then none else tabFind s.kv.models j.model
  checkAll (atReserved op p j.src j.dst n ++ atFormats op j.src j.dst ++ atShapes op p j.src j.dst (lastRow j.entries) known
    ++ atValues op p known ++ j.entries.flatMap (atEntryChecks s f op) ++ atEntrySet s op j.fromRx j.entries)
  checkAll (atOnes op p)
  if n = 0 || (usesGroups op && j.gCount = 0) then pure (.error (if op = opAdvance then 16 else 32))
  else
    checkAll (atLengths s f op p j)
    need (decide (jobBytes op j + vectorBytes j ≤ 8388608)) sTooLarge 0
    atPlacement s a op j
    pure (.ok j)

/-! ## Entries that fail (R325, R337, R349) -/

/-- The status and DETAIL of each entry by its index, S_OK for one that has not failed. -/
abbrev Marks := List (Nat × Nat)

/-- Why an entry fails before it runs. -/
def entryBar (s : State) (f : Flight) (c : Nat) : Nat × Nat :=
  let deal := f.deal.getD 0
  match heldStatus s c deal with
  | some (st, q) => (st, kvDetail c q)
  | none => if hasOpen f.cmd && !openReadable s c deal then (sOpenGone, c * 2 ^ 8) else (sOk, 0)

def markOf (ms : Marks) (i : Nat) : Nat × Nat := ms.getD i (sOk, 0)

/-- Runs a step that may fail for every counted entry whose bar stands open, in ascending order. -/
def prepEntries (j : AtJob) (bar : Nat → Nat × Nat) (step : State → AtEntry → State × Except Stop RowFail) (s : State) :
    State × Except Stop Marks :=
  j.entries.foldl (fun (acc : State × Except Stop Marks) e =>
    match acc.2 with
    | .error _ => acc
    | .ok ms =>
      if e.tokens = 0 then (acc.1, .ok (ms ++ [(sOk, 0)]))
      else if (bar e.ctx).1 ≠ sOk then (acc.1, .ok (ms ++ [bar e.ctx]))
      else
        match step acc.1 e with
        | (s1, .error q) => (s1, .error q)
        | (s1, .ok none) => (s1, .ok (ms ++ [(sOk, 0)]))
        | (s1, .ok (some (st, q))) => (s1, .ok (ms ++ [(st, kvDetail e.ctx q)]))) (s, .ok [])

/-- Runs a step for each element until one fails. -/
def eachUntil {α : Type} (step : State → α → State × Except Stop RowFail) : List α → State → State × Except Stop RowFail
  | [], s => (s, .ok none)
  | x :: xs, s =>
    match step s x with
    | (s1, .ok none) => eachUntil step xs s1
    | r => r

/-- The status vector (R325). -/
def stageVector (s : State) (a : Actor) (ptr : Nat) (ms : Marks) : Run (List SWrite) :=
  if ptr = 0 then pure []
  else stageVa s { a with plainOk := true } (onePass (2 * ms.length)) false ptr (ms.flatMap fun m => natLe 2 m.1)

/-- The outcome of a command whose entries have their statuses: it fails if every counted entry fails (R325). -/
def finishMarks (s : State) (f : Flight) (named : List (Nat × (Nat × Nat))) (go : List (Nat × Nat) → Run Plan) : Run Plan :=
  let marks := named.map fun e => (e.1, e.2.1)
  if !named.isEmpty && named.all (fun e => e.2.1 ≠ sOk) then
    let w := worstEntry (named.map (·.2))
    pure (.ended (chargeMarks s f marks) w.1 w.2)
  else go marks

/-- The counted entries with their statuses. -/
def namedMarks (j : AtJob) (ms : Marks) : List (Nat × (Nat × Nat)) := (counted j).map fun e => (e.ctx, markOf ms e.i)

/-- The counted entries that have not failed. -/
def goodEntries (j : AtJob) (ms : Marks) : List AtEntry := (counted j).filter fun e => (markOf ms e.i).1 == sOk

/-- The contexts that a command's entries name. -/
def jobCtxs (j : AtJob) : List Nat := (j.entries.map AtEntry.ctx).eraseDups

/-! ## at.append (R326) -/

/-- Takes the pages that an entry's rows need (R335, R339, R353). -/
def appendPages (f : Flight) (j : AtJob) (s : State) (e : AtEntry) : State × Except Stop RowFail :=
  let deal := f.deal.getD 0
  eachUntil (fun s t =>
    if hasOpen f.cmd then
      let (s1, q) := needOpen s e.ctx j.layer (e.pos + t - (ctxOf s e.ctx).position) deal
      (s1, .ok q)
    else needMade s e.ctx j.layer (e.pos + t) deal) (List.range e.tokens) s

def appendPrep (s : State) (f : Flight) (j : AtJob) : State × Except Stop Marks := prepEntries j (entryBar s f) (appendPages f j) s

/-- A source row as a key-value row: turned keys, then the conversion to KV_FORMAT with KV_SCALE. -/
def kvRow (r : AttnRec) (pos : Nat) (vals : List (Num × FlagWord)) : List Byte × FlagWord :=
  let keys := vals.take (r.groups * 128)
  let turned := if r.bias then keys else (chunksOf r.groups 128 keys).flatMap (turnHead r.freqs pos)
  let fmt := (fmtOfCode r.format).getD .f16
  let outs := (turned ++ vals.drop (r.groups * 128)).map fun v =>
    let (w, fl) := convElem fmt false (if fmtIsFp8 fmt then r.kvScale else 0x3F800000) v.1
    (w, fl ||| v.2)
  (packBytes fmt (outs.map (·.1)), flAll (outs.map (·.2)))

/-- The page-list entry of a row that a command reads or writes, and whether it is an open row. -/
def pageOfRow (s : State) (c layer pos : Nat) (isOpen : Bool) : PageEntry :=
  let r := ctxAttn s c
  let x := ctxOf s c
  if isOpen then openAt s c (openEntry r layer (pos - x.position)).1 else madeAt s c (madeEntry r x.segBase layer pos).1

/-- Notes the bytes of key-value rows on the stack of their page (R328). -/
def noteRow (s : State) (c layer pos : Nat) (isOpen : Bool) (bytes run : Nat) (write : Bool) : Run Unit :=
  let e := pageOfRow s c layer pos isOpen
  if e.state = 1 then noteLine (some (.stack (stackOf (pagePa s e.index)))) (onePass run) bytes write else pure ()

/-- The rows of one entry. -/
def appendEntry (s : State) (a : Actor) (f : Flight) (j : AtJob) (e : AtEntry) : Run (List RowWrite × FlagWord) := do
  let fmt := (descFmt j.src).getD .f32
  let cols := srcCols opAppend j.att
  let outs ← (List.range e.tokens).mapM fun t => do
    let bs ← readVa s a ⟨runBytes fmt cols, 0, 0⟩ false (j.src.ptr + (e.row + t) * j.src.stride) (runBytes fmt cols)
    let (data, fl) := kvRow j.att (e.pos + t) (rowValues fmt j.src.scale bs [] cols)
    noteRow s e.ctx j.layer (e.pos + t) (hasOpen f.cmd) data.length data.length true
    let spot := openSpot s e.ctx j.layer (e.pos + t)
    -- an open row whose pages a later entry's failure discarded has no place left
    pure (if hasOpen f.cmd && spot.isNone then [] else [(⟨e.ctx, j.layer, e.pos + t, if hasOpen f.cmd then spot else none, data⟩ : RowWrite)], fl)
  pure (outs.flatMap (·.1), flAll (outs.map (·.2)))

/-- The step count of R326. -/
def appendSteps (j : AtJob) : Nat :=
  (counted j).foldl (fun t e => t + 16 + e.tokens * j.att.groups * (if j.att.bias then 2 else 3)) 64
    + ceilDiv (jobBytes opAppend j) 65536

def appendBody (s : State) (a : Actor) (f : Flight) (j : AtJob) (ms : Marks) : Run Plan :=
  finishMarks s f (namedMarks j ms) fun marks => do
    let outs ← (goodEntries j ms).mapM (appendEntry s a f j)
    let vec ← stageVector s a j.status ms
    pure (.staged ⟨vec, .rows (outs.flatMap (·.1)), flAll (outs.map (·.2)), jobCtxs j, appendSteps j, 0, marks, 0⟩)

/-- AT_APPEND (R326). -/
def execAtAppend (st : Start) (s : State) : Host.Outcome State Fault Refusal :=
  answer (startPrep .none (fun f => f.cmd.opcode == opAppend) (atCheck opAppend) appendPrep appendBody st s)

/-! ## at.attend and at.ring -/

/-- The bytes of a run of key-value rows and their decoded elements (KV_SCALE applies under R69). -/
def decodeRow (r : AttnRec) (bs : List Byte) : KvRow :=
  rowValues ((fmtOfCode r.format).getD .f16) r.kvScale bs [] (2 * r.groups * 128)

/-- The page-list entries of the made rows of a layer from position `lo` on, `n` of them. -/
def rowEntries (s : State) (c layer lo n : Nat) : List Nat :=
  let r := ctxAttn s c
  let x := ctxOf s c
  ((List.range n).map fun i => (madeEntry r x.segBase layer (lo + i)).1).eraseDups

/-- The made positions that an entry reads of a range: with OPEN, those below POSITION (R354). -/
def madeCount (s : State) (f : Flight) (c lo n : Nat) : Nat := if hasOpen f.cmd then min n ((ctxOf s c).position - lo) else n

/-- Brings back the pages of a run of made rows, and marks them as read in the command's deal. -/
def bringRows (f : Flight) (c layer lo n : Nat) (s : State) : State × Except Stop RowFail :=
  let deal := f.deal.getD 0
  eachUntil (fun s e =>
    match readListEntry s c e with
    | .error q => (s, .error q)
    | .ok _ =>
      match bringBack s.dealer.forecast (touchLists s c e deal) c e deal with
      | (s1, .ok none) =>
        let pe := madeAt s1 c e
        (if pe.state = 1 then touchPage s1 pe.index deal else s1, .ok none)
      | r => r) (rowEntries s c layer lo (madeCount s f c lo n)) s

/-- Marks the open pages of a run of open rows, and the open directory, as read. -/
def touchOpenRows (deal c layer lo n : Nat) (s : State) : State :=
  let x := ctxOf s c
  (List.range n).foldl (fun s i =>
    if lo + i < x.position then s
    else
      let pe := pageOfRow s c layer (lo + i) true
      if pe.state = 1 then touchPage (touchPage s (specOf s c).dir deal) pe.index deal else s) s

/-- The same for a command with OPEN. -/
def touchOpen (f : Flight) (c layer lo n : Nat) (s : State) : State :=
  if hasOpen f.cmd then touchOpenRows (f.deal.getD 0) c layer lo n s else s

/-- The range of positions that an entry reads from its own context: from `lo` to the last query position. -/
def ownRows (s : State) (op : Nat) (j : AtJob) (e : AtEntry) : Nat × Nat :=
  let last := e.pos + e.tokens
  if op = opRing then
    let lo := blockFirst s j e
    (lo, min 4096 (last - lo))
  else
    let lo := (ctxOf s e.ctx).segBase
    (lo, last - lo)

def attendPages (op : Nat) (f : Flight) (j : AtJob) (s : State) (e : AtEntry) : State × Except Stop RowFail :=
  if j.fromRx then (s, .ok none)
  else
    let (lo, n) := ownRows s op j e
    match bringRows f e.ctx j.layer lo n s with
    | (s1, .ok none) => (touchOpen f e.ctx j.layer lo n s1, .ok none)
    | r => r

def attendPrep (op : Nat) (s : State) (f : Flight) (j : AtJob) : State × Except Stop Marks :=
  prepEntries j (entryBar s f) (attendPages op f j) s

/-- The rows of a context's layer from a position on, in order. -/
def readRows_ (s : State) (f : Flight) (c layer lo n : Nat) : Run (List KvRow) :=
  (List.range n).mapM fun i => do
    let pos := lo + i
    let isOpen := hasOpen f.cmd && decide ((ctxOf s c).position ≤ pos)
    let bs ← liftE (readRow s c layer pos isOpen)
    noteRow s c layer pos isOpen bs.length 1024 false
    pure (decodeRow (ctxAttn s c) bs)

/-- Notes the page-list reads of an entry: 32 bytes a read, four entries each (R312). -/
def noteLists (s : State) (c layer lo n : Nat) : Run Unit := do
  let _ ← ((rowEntries s c layer lo n).map (· / 4)).eraseDups.mapM fun q =>
    match tabFind (tabGet s.kv.dirs c []) (q / 2048) with
    | some d => noteLine (some (.narrow (stackOf (pagePa s d.index)))) (onePass 32) 32 false
    | none => pure ()
  pure ()

/-- Notes the bias entries that one query row reads, 4 bytes for each selected head and each of n keys (R328). -/
def noteBias (s : State) (j : AtJob) (n : Nat) : Run Unit :=
  if j.att.bias then noteLine (some (.stack (stackOf (biasTable s j.model)))) (onePass 64) (4 * n * (headsOf j).length) false else pure ()

/-- A query row as heads, turned in rotary mode. -/
def queryHeads (j : AtJob) (pos : Nat) (bs : List Byte) : List (List (Num × FlagWord)) :=
  let vals := rowValues ((descFmt j.src).getD .f32) j.src.scale bs [] (j.att.qHeads * 128)
  (headsOf j).map fun h =>
    let q := (vals.drop (h * 128)).take 128
    if j.att.bias then q else turnHead j.att.freqs pos q

/-- Reads the query row of token t of an entry. -/
def readQuery (s : State) (a : Actor) (j : AtJob) (e : AtEntry) (t : Nat) : Run (List (List (Num × FlagWord))) := do
  let n := runBytes ((descFmt j.src).getD .f32) (j.att.qHeads * 128)
  let bs ← readVa s a ⟨n, 0, 0⟩ false (j.src.ptr + (e.row + t) * j.src.stride) n
  pure (queryHeads j (e.pos + t) bs)

/-- What the score of head h at position pq needs. -/
def scoreEnv (j : AtJob) (h pq : Nat) : ScoreEnv := ⟨j.model, j.att, j.scale, h, pq⟩

/-- Computes one query row of at.attend. -/
def attendRow (s : State) (a : Actor) (j : AtJob) (e : AtEntry) (rows : List KvRow) (t : Nat) : Run (List SWrite × FlagWord) := do
  let qs ← readQuery s a j e t
  let fmt := (descFmt j.dst).getD .f32
  noteBias s j (min rows.length (e.pos + t + 1 - (ctxOf s e.ctx).segBase))
  let outs ← liftE (((headsOf j).zip qs).mapM fun h => do
    let x ← attendHead s (scoreEnv j h.1 (e.pos + t)) h.2 (ctxOf s e.ctx).segBase rows
    .ok (finishHead fmt (bitOf j.dst.dflags 0) x))
  let ws ← match (dstRunsOf opAttend j 0 e).drop t with
    | r :: _ => stageVa s a ⟨r.2, j.dst.stride, 1⟩ false r.1 (outs.flatMap (·.1))
    | [] => pure []
  pure (ws, flAll (outs.map (·.2)))

def attendEntry (s : State) (a : Actor) (f : Flight) (j : AtJob) (e : AtEntry) : Run (List SWrite × FlagWord) := do
  let (lo, n) := ownRows s opAttend j e
  let rows ← readRows_ s f e.ctx j.layer lo n
  noteLists s e.ctx j.layer lo n
  let outs ← (List.range e.tokens).mapM (attendRow s a j e rows)
  pure (outs.flatMap (·.1), flAll (outs.map (·.2)))

/-- The rate of the score product (R328). -/
def scoreRate (j : AtJob) : Nat :=
  match rateClass ((descFmt j.src).getD .f32) ((fmtOfCode j.att.format).getD .f16) with
  | .c32 => 16 | .c16 => 2 | _ => 1

/-- The steps of the sub-blocks of one entry: `lo` the first position read, `last` the last (R328). -/
def entrySteps (j : AtJob) (lo last : Nat) (e : AtEntry) : Nat :=
  let hpg := j.att.qHeads / max 1 j.att.groups
  let x := if j.att.format = 4 || j.att.format = 5 then 14 else 30
  let sub (k : Nat) : Nat :=
    let first := (lo / 128 + k) * 128
    let r := hpg * (e.tokens - min e.tokens (first - e.pos))
    let gq := ceilDiv r 8
    scoreRate j * gq + x + 2 * gq + x + 6 * r
  let subs := if last < lo then 0 else last / 128 + 1 - lo / 128
  16 + (if j.att.bias then 0 else e.tokens * hpg * j.gCount) + j.gCount * ((List.range subs).foldl (fun t k => t + sub k) 0)

/-- The step count of R328 over the rows that each entry reaches. -/
def attendSteps (op : Nat) (j : AtJob) (span : AtEntry → Nat × Nat) : Nat :=
  (counted j).foldl (fun t e => t + entrySteps j (span e).1 (span e).2 e) 64 + ceilDiv (jobBytes op j) 65536

def attendBody (s : State) (a : Actor) (f : Flight) (j : AtJob) (ms : Marks) : Run Plan :=
  finishMarks s f (namedMarks j ms) fun marks => do
    let outs ← (goodEntries j ms).mapM (attendEntry s a f j)
    let vec ← stageVector s a j.status ms
    let steps := attendSteps opAttend j fun e => ((ctxOf s e.ctx).segBase, e.pos + e.tokens - 1)
    pure (.staged ⟨outs.flatMap (·.1) ++ vec, .none, flAll (outs.map (·.2)), jobCtxs j, steps, 0, marks, 0⟩)

/-- AT_ATTEND (R327). -/
def execAtAttend (st : Start) (s : State) : Host.Outcome State Fault Refusal :=
  answer (startPrep .none (fun f => f.cmd.opcode == opAttend) (atCheck opAttend) (attendPrep opAttend) attendBody st s)

/-! ## at.ring (R330) -/

/-- The bytes of a receive buffer (R168, R37, R501). -/
def rxBytes (s : State) (pa len : Nat) : Except Stop (List Byte) :=
  match withdrawnBy s pa with
  | some k => absent 4 k
  | none =>
    if stackAsleep s pa then .error .hold
    else if anyPoison s pa len then .error (.done sPoison 0)
    else .ok (memRead s.memories.mem pa len)

/-- Reads bytes of a receive buffer, on their line. -/
def readRx (s : State) (pa len : Nat) : Run (List Byte) := do
  let bs ← liftE (rxBytes s pa len)
  noteLine (lineOf s (.mem pa)) (onePass 1024) len false
  pure bs

/-- Where receive buffer b of a ring lies. -/
def rxAt (r : RingRec) (b : Nat) : Nat := r.rxBase + b * r.rxBytes

/-- The bytes of a sealed block's trailer (R428). -/
def trailerBytes : Nat := 32

/-- A block in transit (Table 11-11 of chapter 12): its first position and its rows' bytes, opened under the link key if it is sealed. -/
structure RxBlock where
  first : Nat
  rows  : List (List Byte)
deriving DecidableEq, Repr

/-- Opens the body of a sealed block: header, ciphertext and trailer (R428). -/
def openBlock (key : List Byte) (header body trailer : List Byte) : Option (List Byte) :=
  gcmOpen key (trailer.take 12) header body (slice trailer 16 16)

/-- Reads the block of a receive buffer for a context and a layer. -/
def readBlock_ (s : State) (c : Nat) (layer b : Nat) : Run RxBlock := do
  let x := ctxOf s c
  let r := ringOf s c
  let rb := rowBytes (ctxAttn s c)
  let h ← readRx s (rxAt r b) 64
  let n := fld h 4 4
  let sealed_ := fld h 15 1 == 1
  checkAll [fmtAt 80 (fld h 11 1 == x.ring && fld h 12 2 == x.tenant && fld h 14 1 == x.model && fld h 8 2 == layer
    && fld h 0 4 % 4096 == 0 && decide (1 ≤ n && n ≤ 4096 && 64 + n * rb + (if sealed_ then trailerBytes else 0) ≤ r.rxBytes))]
  need (sealed_ == (x.keySlot != 0xFFF)) sSeal (sealRing + x.keySlot * 2 ^ 8)
  let body ← readRx s (rxAt r b + 64) (n * rb)
  if sealed_ then
    let t ← readRx s (rxAt r b + 64 + n * rb) trailerBytes
    match openBlock (keySlotOf s x.keySlot).linkKey h body t with
    | some plain => pure ⟨fld h 0 4, chunksOf n rb plain⟩
    | none => finish sSeal (sealRing + x.keySlot * 2 ^ 8)
  else pure ⟨fld h 0 4, chunksOf n rb body⟩

/-- A partial record (R330). -/
def partialRecord (x : Partial) (first : Nat) (valid : Bool) : List Byte :=
  natLe 4 x.m ++ natLe 4 x.l ++ x.o.flatMap (natLe 4) ++ natLe 4 first ++ natLe 4 (b2n valid)

/-- Computes one query row of at.ring against a block. -/
def ringRow (s : State) (a : Actor) (j : AtJob) (slot first : Nat) (e : AtEntry) (rows : List KvRow) (t : Nat) :
    Run (List SWrite × FlagWord) := do
  let qs ← readQuery s a j e t
  let pq := e.pos + t
  noteBias s j (min rows.length (pq + 1 - first))
  let outs ← liftE (((headsOf j).zip qs).mapM fun h => do
    let x ← blockPartial s (scoreEnv j h.1 pq) h.2 first rows
    .ok (partialRecord x first (decide (first ≤ pq) && !rows.isEmpty), x.fl))
  let ws ← match (dstRunsOf opRing j slot e).drop t with
    | r :: _ => stageVa s a ⟨r.2, j.dst.stride, 1⟩ false r.1 (outs.flatMap (·.1))
    | [] => pure []
  pure (ws, flAll (outs.map (·.2)))

/-- Computes one entry of at.ring: its writes and flags, and the last position that the block holds. -/
def ringEntry (s : State) (a : Actor) (f : Flight) (j : AtJob) (e : AtEntry) : Run (List SWrite × FlagWord) := do
  let (first, rows) ← if j.fromRx then do
      let b ← readBlock_ s e.ctx j.layer j.block
      pure (b.first, b.rows.map (decodeRow j.att))
    else do
      let (lo, n) := ownRows s opRing j e
      let rows ← readRows_ s f e.ctx j.layer lo n
      noteLists s e.ctx j.layer lo n
      pure (lo, rows)
  match slotOf j first with
  | none => finish sLength (detParam 84)
  | some slot => do
    need (decide (slot * j.dst.stride + lastRow j.entries * j.att.qHeads * partialBytes ≤ j.dst.bytes)) sLength (detParam 84)
    let outs ← (List.range e.tokens).mapM (ringRow s a j slot first e rows)
    pure (outs.flatMap (·.1), flAll (outs.map (·.2)))

/-- The positions of an entry's block that its last query reaches: for the step count. -/
def ringSpan (s : State) (j : AtJob) (e : AtEntry) : Nat × Nat :=
  let last := e.pos + e.tokens - 1
  if j.fromRx then
    let h := memRead s.memories.mem (rxAt (ringOf s e.ctx) j.block) 64
    (fld h 0 4, min last (fld h 0 4 + fld h 4 4 - 1))
  else (blockFirst s j e, min last (blockFirst s j e + 4095))

def ringBody (s : State) (a : Actor) (f : Flight) (j : AtJob) (ms : Marks) : Run Plan :=
  finishMarks s f (namedMarks j ms) fun marks => do
    let outs ← (goodEntries j ms).mapM (ringEntry s a f j)
    let vec ← stageVector s a j.status ms
    pure (.staged ⟨outs.flatMap (·.1) ++ vec, .none, flAll (outs.map (·.2)), jobCtxs j, attendSteps opRing j (ringSpan s j), 0, marks, 0⟩)

/-- AT_RING (R330). -/
def execAtRing (st : Start) (s : State) : Host.Outcome State Fault Refusal :=
  answer (startPrep .none (fun f => f.cmd.opcode == opRing) (atCheck opRing) (attendPrep opRing) ringBody st s)

/-! ## at.combine (R331) -/

/-- A partial record read back. -/
def readPartial (bs : List Byte) : Partial × Bool :=
  (⟨fld bs 0 4, fld bs 4 4, (List.range 128).map fun i => fld bs (8 + 4 * i) 4, 0#32⟩, fld bs 524 4 != 0)

/-- Folds the slots of one query row, all selected heads. -/
def combineRow (s : State) (a : Actor) (j : AtJob) (e : AtEntry) (t : Nat) : Run (List SWrite × FlagWord) := do
  let hs := headsOf j
  let slots ← (List.range j.slots).mapM fun k =>
    readVa s a ⟨hs.length * partialBytes, 0, 0⟩ false
      (j.src.ptr + k * j.src.stride + ((e.row + t) * j.att.qHeads + hs.headD 0) * partialBytes) (hs.length * partialBytes)
  let fmt := (descFmt j.dst).getD .f32
  let outs := (List.range hs.length).map fun i =>
    let parts := (slots.map fun b => readPartial (slice b (i * partialBytes) partialBytes)).filter (·.2)
    finishHead fmt (bitOf j.dst.dflags 0) ((parts.map (·.1)).foldl foldPartial Partial.start)
  let ws ← match (dstRunsOf opCombine j 0 e).drop t with
    | r :: _ => stageVa s a ⟨r.2, j.dst.stride, 1⟩ false r.1 (outs.flatMap (·.1))
    | [] => pure []
  pure (ws, flAll (outs.map (·.2)))

/-- The step count of R331. -/
def combineSteps (j : AtJob) : Nat :=
  (counted j).foldl (fun t e => t + 16 + e.tokens * (headsOf j).length * (4 * j.slots + 3)) 64
    + ceilDiv (jobBytes opCombine j) 65536

def combinePrep (s : State) (f : Flight) (j : AtJob) : State × Except Stop Marks :=
  prepEntries j (entryBar s f) (fun s _ => (s, .ok none)) s

def combineBody (s : State) (a : Actor) (f : Flight) (j : AtJob) (ms : Marks) : Run Plan :=
  finishMarks s f (namedMarks j ms) fun marks => do
    let outs ← (goodEntries j ms).mapM fun e => do
      let rows ← (List.range e.tokens).mapM (combineRow s a j e)
      pure (rows.flatMap (·.1), flAll (rows.map (·.2)))
    let vec ← stageVector s a j.status ms
    pure (.staged ⟨outs.flatMap (·.1) ++ vec, .none, flAll (outs.map (·.2)), jobCtxs j, combineSteps j, 0, marks, 0⟩)

/-- AT_COMBINE (R331). -/
def execAtCombine (st : Start) (s : State) : Host.Outcome State Fault Refusal :=
  answer (startPrep .none (fun f => f.cmd.opcode == opCombine) (atCheck opCombine) combinePrep combineBody st s)

/-! ## at.advance (R329) -/

/-- An entry's POSITION rises, and its open state is discarded (Table 13-2). -/
def advanceCtx (s : State) (e : AtEntry) : State :=
  discardOpen (modCtx s e.ctx fun x => { x with position := x.position + e.tokens }) e.ctx

def advanceBody (s : State) (a : Actor) (f : Flight) (j : AtJob) (ms : Marks) : Run Plan :=
  finishMarks s f (namedMarks j ms) fun marks => do
    let vec ← stageVector s a j.status ms
    let t := (goodEntries j ms).foldl advanceCtx s
    pure (.act (chargeMarks t f marks) vec (32 + 2 * j.count) 0 0)

/-- AT_ADVANCE (R329). -/
def execAtAdvance (st : Start) (s : State) : Host.Outcome State Fault Refusal :=
  answer (startPrep .hub (fun f => f.cmd.opcode == opAdvance) (atCheck opAdvance) combinePrep advanceBody st s)

/-! ## at.ring_send (R332, R333, R428) -/

/-- What at.ring_send sends. -/
structure SendJob where
  ctx   : Nat
  layer : Nat
  rx    : Bool
  ring  : Nat
  block : Nat
  dstRx : Nat
  first : Nat
  rows  : Nat
  rowLen : Nat
deriving DecidableEq, Repr

def ringRec (s : State) (n : Nat) : RingRec := (tabFind s.kv.rings n).getD ⟨0, 0, 0, 0, 0, 0⟩

/-- The made rows of a local block: its first position and their number. -/
def localBlock (s : State) (c b : Nat) : Nat × Nat :=
  let x := ctxOf s c
  let first := x.segBase + 4096 * b
  (first, min 4096 (x.position - first))

def sendCheck (s : State) (_ : Actor) (f : Flight) (p : List Byte) : Run (Except Nat SendJob) := do
  let rx := fld p 6 1 == 1
  let c := fld p 0 4
  let x := ctxOf s c
  let ring := fld p 7 1
  let r := ringRec s ring
  if rx then pure () else liftE (readCtxs s [c])
  checkAll [fmtAt 6 (decide (fld p 6 1 < 2)),
    fmtAt 0 (if rx then c == 0 else decide (c < 2 ^ 20) && ctxRegistered s c && x.ring != 0xFF),
    (rx || f.cls == 0 || x.tenant == f.tenant, sPrivilege, detParam 0),
    fmtAt 4 (if rx then fld p 4 2 == 0 else decide (fld p 4 2 < (ctxAttn s c).layers)),
    fmtAt 7 (decide (ring < 64) && (tabFind s.kv.rings ring).isSome && (rx || x.ring == ring)),
    fmtAt 12 (decide (fld p 12 4 < 8)), rsvAt p 16 48,
    lenAt 8 (if rx then decide (fld p 8 4 < r.rxCount) else decide (0 < (localBlock s c (fld p 8 4)).2))]
  let b := localBlock s c (fld p 8 4)
  pure (.ok ⟨c, fld p 4 2, rx, ring, fld p 8 4, fld p 12 4, b.1, b.2, rowBytes (ctxAttn s c)⟩)

/-- Brings back the pages of a local block; a failure ends the command and holds nobody (R332). -/
def sendPrep (s : State) (f : Flight) (j : SendJob) : State × Except Stop Unit :=
  if j.rx then (s, .ok ())
  else
    match bringRows f j.ctx j.layer j.first j.rows s with
    | (s1, .ok none) => (s1, .ok ())
    | (s1, .error q) => (s1, .error q)
    | (_, .ok (some (st, q))) => (s, .error (.done st (kvDetail j.ctx q)))

/-- The header of a local block (Table 12-11). -/
def blockHeader (s : State) (j : SendJob) (epoch : Nat) : List Byte :=
  let x := ctxOf s j.ctx
  natLe 4 j.first ++ natLe 4 j.rows ++ natLe 2 j.layer ++ natLe 1 (ringRec s j.ring).member ++ natLe 1 j.ring ++ natLe 2 x.tenant
    ++ natLe 1 x.model ++ natLe 1 (b2n (x.keySlot != 0xFFF)) ++ natLe 8 epoch ++ List.replicate 40 0#8

/-- The block as it travels and the state after: sealed blocks use up a LINK_SEQ. -/
def blockBytes (s : State) (j : SendJob) (epoch : Nat) : Run (State × List Byte) := do
  if j.rx then
    let r := ringRec s j.ring
    let h ← liftE (rxBytes s (rxAt r j.block) 64)
    -- the row length of a received block is that of its model
    let len := 64 + fld h 4 4 * rowBytes (attnOf s (fld h 14 1)) + (if fld h 15 1 = 1 then trailerBytes else 0)
    need (decide (len ≤ r.rxBytes)) sLength (detParam 8)
    let bs ← readRx s (rxAt r j.block) len
    pure (s, bs)
  else
    let rows ← (List.range j.rows).mapM fun i => do
      let bs ← liftE (readRow s j.ctx j.layer (j.first + i) false)
      noteRow s j.ctx j.layer (j.first + i) false bs.length 1024 false
      pure bs
    let h := blockHeader s j epoch
    -- the block's bytes count with its header, on the stack of its first row (R332)
    noteRow s j.ctx j.layer j.first false h.length 1024 false
    let slot := (ctxOf s j.ctx).keySlot
    if slot = 0xFFF then pure (s, h ++ rows.flatten)
    else
      let k := keySlotOf s slot
      need k.linkSet sSeal (sealNoSlot + slot * 2 ^ 8)
      let nonce := natLe 4 k.senderId ++ natLe 8 k.linkSeq
      let (ct, tag) := gcmSeal k.linkKey nonce h rows.flatten
      let s1 := { s with keys := { s.keys with slots := tabPut s.keys.slots slot { k with linkSeq := wrapAdd 64 k.linkSeq 1 } } }
      pure (s1, h ++ ct ++ nonce ++ natLe 4 0 ++ tag)

/-- Sends a message to the far end of a logical port (R480), none if its egress is not live. -/
def sendLogical (s : State) (p kind epoch addr : Nat) (payload : List Byte) : Option (State × Nat) :=
  let r := routeOf s p
  if r.valid && tpLive s r.egress then
    some (sendNew s r.egress kind r.dest epoch addr payload)
  else none

/-- ADDR of a ring block: the ring record and the receive buffer. -/
def ringAddr (ring rx : Nat) : Nat := ring + rx * 2 ^ 8

def sendBody (s : State) (_ : Actor) (f : Flight) (j : SendJob) (_ : Unit) : Run Plan := do
  let epoch := dealEpoch s f.deal
  let port := (ringRec s j.ring).nextPort
  let route := routeOf s port
  need (route.valid && tpLive s route.egress) sUnitAbsent (6 + (16 + route.egress) * 2 ^ 8)
  let (s1, bs) ← blockBytes s j epoch
  let sealed_ := fld bs 15 1 == 1
  need (!sealed_ || (tabFind s.domain.links route.egress).all fun k => k.protocol != 2) sSeal
    (sealPeer + (f.cmd.keySlot % 4096) * 2 ^ 8)
  noteLine (some (.binik route.egress)) (onePass bs.length) bs.length true
  match sendLogical s1 port 5 epoch (ringAddr j.ring j.dstRx) bs with
  | none => liftE (absent 6 (16 + route.egress))
  | some (s2, id) => pure (.wait (enterTicket s2 f) (.peer [id]) 32)

/-- AT_RING_SEND (R332). -/
def execAtRingSend (st : Start) (s : State) : Host.Outcome State Fault Refusal :=
  answer (startPrep .hub (fun f => f.cmd.opcode == 0x4005) sendCheck sendPrep sendBody st s)

end Sys2Proof.Machine
end

