-- ==== Sys2Proof/Machine/Spec.lean ====
section
/-!
DEFINITION. Sys2Proof/Machine/Spec.lean: the speculation commands sp.open (R359) and sp.verify (R360, R361).
-/

namespace Sys2Proof.Machine

def opSpOpen : Nat := 0x6001
def opSpVerify : Nat := 0x6002

/-- An entry of Table 13-5. -/
structure SpEntry where
  i   : Nat
  ctx : Nat
  row : Nat
  k   : Nat
deriving DecidableEq, Repr

/-- A checked sp. command. -/
structure SpJob where
  count   : Nat
  draft   : Nat
  choice  : Nat
  out     : Nat
  status  : Nat
  statusBytes : Nat
  entries : List SpEntry
deriving DecidableEq, Repr

def spEntries (p : List Byte) (count : Nat) : List SpEntry :=
  (List.range count).map fun i => ⟨i, fld p (64 + 16 * i) 4, fld p (68 + 16 * i) 4, fld p (72 + 16 * i) 1⟩

/-- Check 3 of R358: reserved fields, alignment, the entries' ranges, then the additions of R324 and R357. -/
def spForm (s : State) (f : Flight) (op : Nat) (p : List Byte) (es : List SpEntry) : List Check :=
  let open_ := op == opSpOpen
  let zero (off len : Nat) : Check := fmtAt off (!open_ || fld p off len == 0)
  let model := (es.head?.map fun e => (ctxOf s e.ctx).model).getD 0
  [rsvAt p 4 4, zero 8 8, zero 16 4, zero 20 4, zero 24 8, zero 32 8, zero 40 4, rsvAt p 56 8]
  ++ es.map (fun e => rsvAt p (64 + 16 * e.i + 9) 7)
  ++ [fmtAt 8 (ptrOk (fld p 8 8) 64), fmtAt 24 (ptrOk (fld p 24 8) 64), fmtAt 32 (ptrOk (fld p 32 8) 8), fmtAt 48 (ptrOk (fld p 48 8) 8)]
  ++ es.flatMap (fun e =>
    let o := 64 + 16 * e.i
    [fmtAt o (decide (e.ctx < 2 ^ 20) && ctxRegistered s e.ctx),
     (f.cls == 0 || (ctxOf s e.ctx).tenant == f.tenant, sPrivilege, detParam o),
     fmtAt (o + 4) (!open_ || e.row == 0), fmtAt (o + 8) (decide (e.k ≤ 16) && (open_ || e.k != 0))])
  ++ es.map (fun e => fmtAt (64 + 16 * e.i) ((ctxOf s e.ctx).model == model && (tabFind s.kv.models model).isSome
      && !((es.take e.i).any fun x => x.ctx == e.ctx)))
  ++ [(es.isEmpty || es.any (fun e => e.ctx == f.cmd.context), sBadFormat, detCmd 8)]

/-- One past the last token of any entry. -/
def lastToken (es : List SpEntry) : Nat := es.foldl (fun m e => max m (e.row + e.k)) 0

/-- The bytes of the rows that the entries write. -/
def spCopyBytes (s : State) (es : List SpEntry) : Nat :=
  es.foldl (fun t e => t + e.k * (ctxAttn s e.ctx).layers * rowBytes (ctxAttn s e.ctx)) 0

/-- Every check of an sp. command. -/
def spCheck (op : Nat) (s : State) (a : Actor) (f : Flight) (p : List Byte) : Run (Except Nat SpJob) := do
  let count := fld p 0 4
  let verify := op == opSpVerify
  checkAll [lenAt 0 (decide (count ≤ 252)), (f.cmd.paramLen == 64 + 16 * count, sLength, detCmd 24)]
  let es := spEntries p count
  let j : SpJob := ⟨count, fld p 8 8, fld p 24 8, fld p 32 8, fld p 48 8, fld p 44 4, es⟩
  liftE (readCtxs s (es.map SpEntry.ctx))
  checkAll (spForm s f op p es)
  checkAll ((if verify then [notOnes p 16 4, notOnes p 20 4, notOnes p 40 4] else []) ++ [notOnes p 44 4])
  if count = 0 then pure (.error (if verify then 32 else 16))
  else
    checkAll ([lenAt 16 (!verify || decide (4 * lastToken es ≤ fld p 16 4)), lenAt 20 (!verify || decide (4 * lastToken es ≤ fld p 20 4)),
      lenAt 40 (!verify || decide (72 * count ≤ fld p 40 4)), lenAt 44 (fld p 44 4 == 0 || decide (2 * count ≤ fld p 44 4))])
    need (!verify || decide (spCopyBytes s es + 72 * count + fld p 44 4 ≤ 8388608)) sTooLarge 0
    if verify then
      let _ ← es.mapM fun e => do
        placeRead s a (onePass (4 * e.k)) false (fld p 8 8 + 4 * e.row) (4 * e.k)
        placeRead s a (onePass (4 * e.k)) false (fld p 24 8 + 4 * e.row) (4 * e.k)
      checkDest s a false (fld p 32 8) (72 * count)
    if j.status = 0 then pure () else checkDest s { a with plainOk := true } false j.status (2 * count)
    pure (.ok j)

/-! ## sp.open (R359) -/

/-- Why an entry of sp.open fails: a held context with a LIMIT. -/
def openBar (s : State) (f : Flight) (e : SpEntry) : Nat × Nat :=
  if e.k = 0 then (sOk, 0)
  else match heldStatus s e.ctx (f.deal.getD 0) with
    | some (st, q) => (st, kvDetail e.ctx q)
    | none => (sOk, 0)

/-- An entry's open state is discarded, and opened anew with its LIMIT. -/
def reopen (deal : Nat) (s : State) (e : SpEntry) : State :=
  let s1 := discardOpen s e.ctx
  if e.k = 0 then s1
  else putSpec s1 e.ctx { specOf s1 e.ctx with isOpen := true, limit := e.k, deal := deal % 2 ^ 32 }

def openPrep (s : State) (f : Flight) (j : SpJob) : State × Except Stop Marks := (s, .ok (j.entries.map (openBar s f)))

/-- The entries with their statuses. -/
def spMarks (j : SpJob) (ms : Marks) : List (Nat × (Nat × Nat)) := j.entries.map fun e => (e.ctx, markOf ms e.i)

def openBody (s : State) (a : Actor) (f : Flight) (j : SpJob) (ms : Marks) : Run Plan :=
  finishMarks s f (spMarks j ms) fun marks => do
    let vec ← stageVector s a j.status ms
    let t := (j.entries.filter fun e => (markOf ms e.i).1 == sOk).foldl (reopen (f.deal.getD 0)) s
    pure (.act (chargeMarks t f marks) vec (32 + 2 * j.count) 0 0)

/-- SP_OPEN (R359). -/
def execSpOpen (st : Start) (s : State) : Host.Outcome State Fault Refusal :=
  answer (startPrep .hub (fun f => f.cmd.opcode == opSpOpen) (spCheck opSpOpen) openPrep openBody st s)

/-! ## sp.verify (R360, R361) -/

/-- Why an entry of sp.verify fails before its pages are taken. -/
def verifyBar (s : State) (f : Flight) (e : SpEntry) : Nat × Nat :=
  let x := ctxOf s e.ctx
  let long := (specOf s e.ctx).limit < e.k || 2 ^ 24 < x.position + e.k || (x.segLimit ≠ 0 && x.segBase + x.segLimit < x.position + e.k)
  match heldStatus s e.ctx (f.deal.getD 0) with
  | some (st, q) => (st, kvDetail e.ctx q)
  | none =>
    if !openReadable s e.ctx (f.deal.getD 0) then (sOpenGone, e.ctx * 2 ^ 8)
    else if long then (sLength, detParam (64 + 16 * e.i + 8)) else (sOk, 0)

/-- Takes the made pages of an entry's k rows in every layer, and reads its open pages. An entry that reaches a LOST page finds its context held, and
ends with S_HELD, cause LOST, since Table 13-6 has no S_KV_LOST (DESIGN CHOICE, log 68). -/
def verifyPages (f : Flight) (s : State) (e : SpEntry) : State × Except Stop RowFail :=
  let layers := (ctxAttn s e.ctx).layers
  let deal := f.deal.getD 0
  let pos := (ctxOf s e.ctx).position
  let s0 := (List.range layers).foldl (fun s l => touchOpenRows deal e.ctx l pos e.k s) s
  match eachUntil (fun s n => needMade s e.ctx (n % max 1 layers) (pos + n / max 1 layers) deal) (List.range (e.k * layers)) s0 with
  | (s1, .ok (some (st, q))) => (s1, .ok (some (if st = sKvLost then (sHeld, 2) else (st, q))))
  | r => r

def verifyPrep (s : State) (f : Flight) (j : SpJob) : State × Except Stop Marks :=
  j.entries.foldl (fun (acc : State × Except Stop Marks) e =>
    match acc.2 with
    | .error _ => acc
    | .ok ms =>
      let b := verifyBar s f e
      if b.1 ≠ sOk then (acc.1, .ok (ms ++ [b]))
      else
        match verifyPages f acc.1 e with
        | (s1, .error q) => (s1, .error q)
        | (s1, .ok none) => (s1, .ok (ms ++ [(sOk, 0)]))
        | (s1, .ok (some (st, q))) => (s1, .ok (ms ++ [(st, kvDetail e.ctx q)]))) (s, .ok [])

/-- The made length (R360): how far draft token m equals the choice after position m - 1. -/
def madeLength : List Nat → List Nat → Nat
  | _ :: d :: ds, c :: cs => if d = c then 1 + madeLength (d :: ds) cs else 1
  | _ :: _, _ => 1
  | [], _ => 0

/-- The 32-bit words of an array. -/
def wordsOf (bs : List Byte) : List Nat := (List.range (bs.length / 4)).map fun i => fld bs (4 * i) 4

/-- Reads the open rows of an entry, every layer in turn, as the made rows that it writes. -/
def verifyRows (s : State) (e : SpEntry) (made : Nat) : Run (List RowWrite) := do
  let r := ctxAttn s e.ctx
  let pos := (ctxOf s e.ctx).position
  (List.range (r.layers * e.k)).mapM fun n => do
    let layer := n / e.k
    let i := n % e.k
    let bs ← liftE (readRow s e.ctx layer (pos + i) true)
    noteRow s e.ctx layer (pos + i) true bs.length bs.length false
    noteRow s e.ctx layer (pos + i) false bs.length bs.length true
    pure (⟨e.ctx, layer, pos + i, none, if i < made then bs else List.replicate bs.length 0#8⟩ : RowWrite)

/-- An entry's output record. -/
def verifyRecord (c made : Nat) (choice : List Nat) : List Byte :=
  padTo 72 (natLe 4 made ++ natLe 4 c ++ (choice.take made).flatMap (natLe 4))

/-- Computes one entry. -/
def verifyEntry (s : State) (a : Actor) (j : SpJob) (ms : Marks) (e : SpEntry) : Run VerifyEntry := do
  let vec ← if j.status = 0 then pure [] else stageVa s { a with plainOk := true } (onePass 2) false (j.status + 2 * e.i) (natLe 2 0)
  let m := markOf ms e.i
  if m.1 ≠ sOk then pure ⟨e.ctx, 0, 0, m.1, m.2, [], [], vec⟩
  else
    let d ← readVa s a ⟨4 * e.k, 0, 0⟩ false (j.draft + 4 * e.row) (4 * e.k)
    let c ← readVa s a ⟨4 * e.k, 0, 0⟩ false (j.choice + 4 * e.row) (4 * e.k)
    let made := madeLength (wordsOf d) (wordsOf c)
    let rows ← verifyRows s e made
    let ws ← stageVa s a (onePass 72) false (j.out + 72 * e.i) (verifyRecord e.ctx made (wordsOf c))
    pure ⟨e.ctx, (specOf s e.ctx).verifies, made, sOk, 0, rows, ws, vec⟩

/-- The step count of R361. -/
def verifySteps (s : State) (j : SpJob) : Nat :=
  j.entries.foldl (fun t e => t + 16 + 2 * e.k) 64 + ceilDiv (spCopyBytes s j.entries) 65536
    + ceilDiv (72 * j.count + j.statusBytes) 65536

def verifyBody (s : State) (a : Actor) (f : Flight) (j : SpJob) (ms : Marks) : Run Plan :=
  finishMarks s f (spMarks j ms) fun marks => do
    let es ← j.entries.mapM (verifyEntry s a j ms)
    let ctxs := j.entries.map SpEntry.ctx
    pure (.staged ⟨es.flatMap (fun e => e.writes ++ e.vector), .verify es, 0#32, ctxs, verifySteps s j, 0, marks, 0⟩)

/-- SP_VERIFY (R360). -/
def execSpVerify (st : Start) (s : State) : Host.Outcome State Fault Refusal :=
  answer (startPrep .none (fun f => f.cmd.opcode == opSpVerify) (spCheck opSpVerify) verifyPrep verifyBody st s)

end Sys2Proof.Machine
end

