-- ==== Sys2Proof/Machine/Experts.lean ====
section
/-!
DEFINITION. Sys2Proof/Machine/Experts.lean: expert routing (R366 to R382): ex.route, ex.settle with the resolution of a routing board,
ex.gather and ex.combine.
-/

namespace Sys2Proof.Machine

def opRoute : Nat := 0x5001
def opSettle : Nat := 0x5002
def opGather : Nat := 0x5003
def opExCombine : Nat := 0x5004

/-! ## The parameter block (Table 14-4) -/

/-- A command as its block describes it. -/
structure ExJob where
  p       : List Byte
  inp     : Desc
  out     : Desc
  exp     : Desc
  routePtr : Nat
  layer   : Nat
  selLimit : Nat
  count   : Nat
  width   : Nat
  statusBytes : Nat
  status  : Nat
  sel     : Nat
  keep    : Nat
  list    : Nat
  model   : Nat
  entries : List AtEntry
deriving DecidableEq, Repr

/-- Whether an opcode has entries. -/
def hasEntries (op : Nat) : Bool := op != opGather

/-- The entries of the block; `pos` is the position of the entry's first token (R323). -/
def exEntries (s : State) (p : List Byte) (count : Nat) : List AtEntry :=
  (List.range count).map fun i =>
    let o := 192 + 16 * i
    let c := fld p o 4
    ⟨i, c, fld p (o + 4) 4, fld p (o + 8) 2, fld p (o + 10) 2, (ctxOf s (c % 2 ^ 20)).position + fld p (o + 8) 2⟩

def exJob (s : State) (op : Nat) (p : List Byte) : ExJob :=
  let count := fld p 108 4
  let es := if hasEntries op then exEntries s p (min count 244) else []
  { p := p, inp := descAt p 0, out := descAt p 32, exp := descAt p 64, routePtr := fld p 96 8, layer := fld p 104 2
    selLimit := fld p 106 1, count := count, width := fld p 112 4, statusBytes := fld p 116 4, status := fld p 120 8
    sel := fld p 128 8, keep := fld p 144 8, list := fld p 152 8
    model := (es.head?.map fun e => (ctxOf s (e.ctx % 2 ^ 20)).model).getD 0, entries := es }

def exRoutes (op : Nat) : Bool := op == opRoute || op == opSettle

/-- Whether an opcode uses the field at an offset of the header. -/
def exUses (op off : Nat) : Bool :=
  match off with
  | 0 => op != opSettle
  | 32 | 112 => op == opGather || op == opExCombine
  | 64 | 106 => op == opExCombine
  | 96 => op == opRoute
  | 104 => exRoutes op
  | 108 => true
  | 116 | 120 => op != opGather
  | 128 | 136 => op == opRoute || op == opExCombine
  | 140 | 144 => op == opSettle || op == opExCombine
  | 152 | 160 => op == opSettle || op == opGather
  | _ => false

/-- The fields of the header with their widths. -/
def exFields : List (Nat × Nat) :=
  [(0, 32), (32, 32), (64, 32), (96, 8), (104, 2), (106, 1), (107, 1), (108, 4), (112, 4), (116, 4), (120, 8), (128, 8), (136, 4),
   (140, 4), (144, 8), (152, 8), (160, 4), (164, 28)]

/-- The first item of check 3: unused fields and the reserved bits of descriptors. -/
def exReserved (op : Nat) (j : ExJob) : List Check :=
  let descs (off : Nat) (d : Desc) : List Check :=
    [fmtAt (off + 28) (d.format < 32), fmtAt (off + 29) (decide (d.dflags < (if off = 32 && op = opExCombine then 2 else 1))), rsvAt j.p (off + 30) 2]
  exFields.flatMap (fun f =>
    if exUses op f.1 then
      (match f.1 with | 0 => descs 0 j.inp | 32 => descs 32 j.out | 64 => descs 64 j.exp | _ => [])
    else [rsvAt j.p f.1 f.2])
  ++ j.entries.map fun e => rsvAt j.p (192 + 16 * e.i + 12) 4

/-- Formats. -/
def exFormats (op : Nat) (j : ExJob) : List Check :=
  let ci := descCode j.inp
  (if op = opRoute then [fmtAt 28 ([0, 1, 2].contains ci)] else [])
  ++ (if op = opGather then [fmtAt 28 (aCode ci), fmtAt 60 (descCode j.out == ci)] else [])
  ++ (if op = opExCombine then [fmtAt 28 (ci == 0), fmtAt 60 ([0, 1, 2].contains (descCode j.out)), fmtAt 92 (descCode j.exp == 0)] else [])

/-- Alignment, STRIDE and scales. -/
def exShapes (op : Nat) (j : ExJob) : List Check :=
  let stride (off : Nat) (d : Desc) (cols : Nat) : Check :=
    fmtAt (off + 12) (strideRows (runBytes ((descFmt d).getD .f32) cols) cols d.stride)
  let on (off : Nat) (l : List Check) : List Check := if exUses op off then l else []
  on 0 [fmtAt 0 (ptrOk j.inp.ptr 64)] ++ on 32 [fmtAt 32 (ptrOk j.out.ptr 64)] ++ on 64 [fmtAt 64 (ptrOk j.exp.ptr 64)]
  ++ on 96 [fmtAt 96 (ptrOk j.routePtr 32)] ++ on 120 [fmtAt 120 (ptrOk j.status 8)] ++ on 128 [fmtAt 128 (ptrOk j.sel 64)]
  ++ on 144 [fmtAt 144 (ptrOk j.keep 64)] ++ on 152 [fmtAt 152 (ptrOk j.list (if op = opGather then 4 else 64))]
  ++ on 0 [stride 0 j.inp (if op = opRoute then 0 else j.width)] ++ on 32 [stride 32 j.out j.width] ++ on 64 [stride 64 j.exp j.width]
  ++ on 0 (scaleChecks j.inp 0) ++ on 32 (scaleChecks j.out 32) ++ on 64 (scaleChecks j.exp 64)
  ++ on 106 [fmtAt 106 (decide (1 ≤ j.selLimit && j.selLimit ≤ 16))]

/-- The additions of R324 and R375 to check 3. -/
def exEntryChecks (s : State) (f : Flight) (op : Nat) (j : ExJob) : List Check :=
  let known := tabFind s.kv.models j.model
  (if exRoutes op && !j.entries.isEmpty then [fmtAt 104 ((known.map fun m => decide (j.layer < m.layers)).getD true)] else [])
  ++ j.entries.flatMap (fun e =>
    let o := 192 + 16 * e.i
    [fmtAt o (decide (e.ctx < 2 ^ 20) && ctxRegistered s e.ctx),
     (f.cls == 0 || (ctxOf s e.ctx).tenant == f.tenant, sPrivilege, detParam o), fmtAt (o + 8) (decide (e.first ≤ 8191))])
  ++ j.entries.map fun e =>
    fmtAt (192 + 16 * e.i) ((ctxOf s e.ctx).model == j.model && known.isSome && !((j.entries.take e.i).any (sameCover e)))

/-- Check 4. -/
def exOnes (op : Nat) (p : List Byte) : List Check :=
  let on (off : Nat) (l : List Check) : List Check := if exUses op off then l else []
  let desc (off : Nat) : List Check :=
    [notOnes p (off + 8) 4, lenAt (off + 24) (!isMxCode (fld p (off + 28) 1 % 32) || fld p (off + 24) 4 != 0xFFFFFFFF)]
  on 0 (desc 0) ++ on 32 (desc 32) ++ on 64 (desc 64) ++ [notOnes p 108 4] ++ on 112 [notOnes p 112 4] ++ on 116 [notOnes p 116 4]
  ++ on 136 [notOnes p 136 4] ++ on 140 [notOnes p 140 4] ++ on 160 [notOnes p 160 4]

/-! ## Slots of the command's deal (R376) -/

/-- The number and the record of a context's slot in the command's deal, if the deal is open. -/
def slotIn (s : State) (f : Flight) (c : Nat) : Option (Nat × DealSlot) :=
  match s.dealer.cur with
  | some d => if f.deal = some d.seq then (d.slots.zipIdx.find? fun t => t.1.ctx == c).map fun t => (t.2, t.1) else none
  | none => none

/-- Whether the command's deal has closed. -/
def dealClosed (s : State) (f : Flight) : Bool :=
  (s.dealer.cur.map Deal.seq) != f.deal && decide (f.deal.getD 0 ≤ s.dealer.dealSeq)

/-- Check 6 for one entry. -/
def exBounds (s : State) (f : Flight) (op : Nat) (e : AtEntry) : List Check :=
  let o := 192 + 16 * e.i + 10
  let held := (heldStatus s e.ctx (f.deal.getD 0)).isSome
  let room := if !exRoutes op || held then true else (slotIn s f e.ctx).all fun t => decide (e.first + e.tokens ≤ t.2.tokens)
  [lenAt o (decide (e.tokens ≤ 8192 - e.first)), lenAt o (e.tokens == 0 || decide (e.pos + e.tokens ≤ 2 ^ 24)),
   lenAt o (e.tokens == 0 || room)]

/-- The tokens of all entries. -/
def exTokens (j : ExJob) : Nat := j.entries.foldl (fun t e => t + e.tokens) 0

/-- The entries whose tokens count. -/
def exCounted (j : ExJob) : List AtEntry := j.entries.filter fun e => e.tokens != 0

/-- Check 6 but for what the routing record gives. -/
def exLengths (s : State) (f : Flight) (op : Nat) (j : ExJob) : List Check :=
  let rows := lastRow j.entries
  let p := j.p
  let on (off : Nat) (l : List Check) : List Check := if exUses op off then l else []
  let fit (off : Nat) (d : Desc) (n : Nat) : List Check :=
    let g := (descFmt d).getD .f32
    [lenAt (off + 8) (decide (rowsExtent g n j.width d.stride ≤ d.bytes)),
     lenAt (off + 24) (!fmtIsMx g || decide (scaleExtent n j.width ≤ d.scale))]
  [lenAt 108 (decide (j.count ≤ (if op = opGather then 65536 else 244)))]
  ++ on 112 [lenAt 112 (decide (1 ≤ j.width && j.width ≤ 65536))]
  ++ on 116 [lenAt 116 (j.statusBytes == 0 || decide (16 * j.count ≤ j.statusBytes))]
  ++ j.entries.flatMap (exBounds s f op)
  ++ on 136 [lenAt 136 (decide (128 * rows ≤ fld p 136 4))] ++ on 140 [lenAt 140 (decide (64 * rows ≤ fld p 140 4))]
  ++ (if op = opGather then lenAt 160 (decide (4 * j.count ≤ fld p 160 4)) :: fit 32 j.out j.count else [])
  ++ (if op = opExCombine then fit 0 j.inp rows ++ fit 32 j.out rows else [])

/-- Checks 2 to 5; none for a no-op. -/
def exForm (op : Nat) (s : State) (f : Flight) (p : List Byte) : Run (Option ExJob) := do
  let j := exJob s op p
  checkAll [lenAt 108 (decide (j.count ≤ 244) || op == opGather || j.count == 0xFFFFFFFF),
    (!hasEntries op || f.cmd.paramLen == 192 + 16 * j.count, sLength, detCmd 24)]
  liftE (readCtxs s (j.entries.map AtEntry.ctx))
  checkAll (exReserved op j ++ exFormats op j ++ exShapes op j ++ exEntryChecks s f op j)
  checkAll (exOnes op p)
  pure (if j.count = 0 then none else some j)

/-- The bytes of the status vector. -/
def exVectorBytes (j : ExJob) : Nat := if j.status = 0 then 0 else 16 * j.count

/-- The placement of the status vector. -/
def placeVector (s : State) (a : Actor) (j : ExJob) : Run Unit :=
  if j.status = 0 then pure () else checkDest s { a with plainOk := true } false j.status (16 * j.count)

/-! ## Entries that fail -/

/-- Why an entry fails before it runs. -/
def exBar (s : State) (f : Flight) (op : Nat) (e : AtEntry) : Nat × Nat :=
  match heldStatus s e.ctx (f.deal.getD 0) with
  | some (st, q) => (st, kvDetail e.ctx q)
  | none =>
    if exRoutes op && (slotIn s f e.ctx).isNone then
      (sRoute, (if op = opSettle && dealClosed s f then routeGone else routeNotDealt) + e.ctx * 2 ^ 8)
    else (sOk, 0)

def exMarks (s : State) (f : Flight) (op : Nat) (j : ExJob) : Marks :=
  j.entries.map fun e => if e.tokens = 0 then (sOk, 0) else exBar s f op e

/-- The counted entries with their statuses. -/
def exNamed (j : ExJob) (ms : Marks) : List (Nat × (Nat × Nat)) := (exCounted j).map fun e => (e.ctx, markOf ms e.i)

def exGood (j : ExJob) (ms : Marks) : List AtEntry := (exCounted j).filter fun e => (markOf ms e.i).1 == sOk

def exCtxs (j : ExJob) : List Nat := (j.entries.map AtEntry.ctx).eraseDups

/-- One status vector entry (R376). -/
def exVector (status skipped kept discarded : Nat) : List Byte :=
  natLe 2 status ++ natLe 2 skipped ++ natLe 4 kept ++ natLe 4 discarded ++ natLe 4 0

/-- Stages the status vector entry i. -/
def stageEntry (s : State) (a : Actor) (j : ExJob) (i : Nat) (bs : List Byte) : Run (List SWrite) :=
  if j.status = 0 then pure [] else stageVa s { a with plainOk := true } (onePass 16) false (j.status + 16 * i) bs

/-! ## ex.route -/

/-- The fields of a routing record (Table 14-1). -/
def recExperts (r : List Byte) : Nat := fld r 2 2
def recCap (r : List Byte) : Nat := fld r 4 1
def recMode (r : List Byte) : Nat := fld r 5 1
def recThreshold (r : List Byte) : Num := decodeFloat specF32 (fld r 8 4)
def recCapacity (r : List Byte) : Nat := fld r 12 4

/-- The checks of a routing record, its fields named as those of a structure (R366, R553). -/
def recordChecks (r : List Byte) (layer : Nat) : List Check :=
  let bad (off : Nat) (ok : Bool) : Check := (ok, sBadFormat, detEntry 0 off)
  [bad 2 (decide (1 ≤ recExperts r && recExperts r ≤ 256)), bad 0 (fld r 0 2 == layer),
   bad 4 (decide (1 ≤ recCap r && recCap r ≤ 16 && recCap r ≤ recExperts r)), bad 5 (decide (recMode r < 2)), bad 6 (zeroRange r 6 2),
   bad 8 (!(recThreshold r).isNan), bad 12 (decide (1 ≤ recCapacity r && recCapacity r ≤ 32768)), bad 16 (zeroRange r 16 16)]

/-- Reads the routing record through the weight window. -/
def readRecord (s : State) (a : Actor) (ptr layer : Nat) : Run (List Byte) := do
  match (← spotOf s a false ptr 32) with
  | .loc _ _ => liftE denied
  | .weight _ _ =>
    let r ← readVa s a (onePass 32) true ptr 32
    checkAll (recordChecks r layer)
    pure r

/-- Whether a score comes before another in the order of R367. -/
def scoreBefore (xs : List Num) (i j : Nat) : Bool :=
  let x := xs.getD i Num.zero
  let y := xs.getD j Num.zero
  y.lt x || (x.eqv y && decide (i < j))

/-- The experts selected for a row of scores, in ascending index (R367), with flags. -/
def selectExperts (r : List Byte) (xs : List Num) : List Nat × FlagWord :=
  let cand := (List.range xs.length).filter fun i =>
    let x := xs.getD i Num.zero
    !x.isNan && !(x.lt (recThreshold r))
  let sel := cand.filter fun i => decide ((cand.filter fun k => scoreBefore xs k i).length < recCap r)
  (sel, flIf (xs.any Num.isNan) flInvalid)

/-- The weights of the selected scores (R368). -/
def selectWeights (r : List Byte) (xs : List Num) (sel : List Nat) : List Nat × FlagWord :=
  let ws := sel.map fun i => (roundNum specF32 (xs.getD i Num.zero)).1
  if recMode r = 0 then (ws, 0#32)
  else
    let (sum, f1) := (ws.drop 1).foldl (fun (acc : Nat × FlagWord) w =>
      let (t, fl) := laneAdd .f32 acc.1 w
      (t, acc.2 ||| fl)) (ws.headD 0, 0#32)
    let outs := ws.map fun w => laneDiv .f32 w sum
    (outs.map (·.1), f1 ||| flAll (outs.map (·.2)))

/-- A selection record (Table 14-2). -/
def selectionRecord (sel ws : List Nat) : List Byte :=
  padTo 128 ((List.zip sel ws).flatMap fun e => natLe 8 (e.1 + 2 ^ 15 + e.2 * 2 ^ 32))

/-- A route that has passed its checks: its record beside the job. -/
structure RouteJob where
  job : ExJob
  rec_ : List Byte
deriving DecidableEq, Repr

def routeOut (j : ExJob) : Nat := 128 * exTokens j + j.statusBytes

def routeCheck (s : State) (a : Actor) (f : Flight) (p : List Byte) : Run (Except Nat RouteJob) := do
  match (← exForm opRoute s f p) with
  | none => pure (.error 32)
  | some j =>
    let r ← readRecord s a j.routePtr j.layer
    let fmt := (descFmt j.inp).getD .f32
    let rows := lastRow j.entries
    checkAll [fmtAt 12 (decide (runBytes fmt (recExperts r) ≤ j.inp.stride))]
    checkAll (exLengths s f opRoute j ++ [lenAt 8 (decide (rowsExtent fmt rows (recExperts r) j.inp.stride ≤ j.inp.bytes))])
    need (decide (routeOut j ≤ 8388608)) sTooLarge 0
    let _ ← (exCounted j).mapM fun e => do
      let _ ← (List.range e.tokens).mapM fun t =>
        placeRead s a ⟨runBytes fmt (recExperts r), j.inp.stride, 1⟩ false (j.inp.ptr + (e.row + t) * j.inp.stride) (runBytes fmt (recExperts r))
      checkDest s a false (j.sel + 128 * e.row) (128 * e.tokens)
    placeVector s a j
    pure (.ok ⟨j, r⟩)

/-- Selects for one token: its selection record, deposit and flags. -/
def routeToken (s : State) (a : Actor) (f : Flight) (j : ExJob) (r : List Byte) (e : AtEntry) (t : Nat) :
    Run (List Byte × Deposit × FlagWord) := do
  let fmt := (descFmt j.inp).getD .f32
  let n := runBytes fmt (recExperts r)
  let bs ← readVa s a ⟨n, 0, 0⟩ false (j.inp.ptr + (e.row + t) * j.inp.stride) n
  let xs := (rowValues fmt j.inp.scale bs [] (recExperts r)).map (·.1)
  let (sel, f1) := selectExperts r xs
  let (ws, f2) := selectWeights r xs sel
  let slot := ((slotIn s f e.ctx).map (·.1)).getD 0
  pure (selectionRecord sel ws, ⟨e.ctx, slot, e.first + t, hasOpen f.cmd, sel⟩, f1 ||| f2)

def routeEntry (s : State) (a : Actor) (f : Flight) (j : ExJob) (r : List Byte) (ms : Marks) (e : AtEntry) : Run (RouteEntry × FlagWord) := do
  let m := markOf ms e.i
  let vec ← stageEntry s a j e.i (exVector m.1 0 0 0)
  if e.tokens = 0 || m.1 ≠ sOk then pure (⟨e.ctx, e.tokens != 0, m.1, m.2, [], [], vec⟩, 0#32)
  else
    let toks ← (List.range e.tokens).mapM (routeToken s a f j r e)
    let ws ← stageVa s a (onePass (128 * e.tokens)) false (j.sel + 128 * e.row) (toks.flatMap (·.1))
    pure (⟨e.ctx, true, sOk, 0, toks.map (·.2.1), ws, vec⟩, flAll (toks.map (·.2.2)))

/-- The step count of R377. -/
def routeSteps (j : ExJob) (r : List Byte) : Nat :=
  (exCounted j).foldl (fun t e => t + 16 + e.tokens * (3 * ceilDiv (recExperts r) 128 + recCap r)) 64 + ceilDiv (routeOut j) 65536

def routeBody (s : State) (a : Actor) (f : Flight) (x : RouteJob) (ms : Marks) : Run Plan :=
  let j := x.job
  finishMarks s f (exNamed j ms) fun marks => do
    let es ← j.entries.mapM (routeEntry s a f j x.rec_ ms)
    let post := Post.route j.model j.layer x.rec_ (es.map (·.1))
    pure (.staged ⟨es.flatMap (fun e => e.1.writes ++ e.1.vector), post, flAll (es.map (·.2)), exCtxs j, routeSteps j x.rec_, 0, marks, 0⟩)

/-- EX_ROUTE (R377). -/
def execExRoute (st : Start) (s : State) : Host.Outcome State Fault Refusal :=
  answer (startPrep .none (fun f => f.cmd.opcode == opRoute) routeCheck (fun s f x => (s, .ok (exMarks s f opRoute x.job))) routeBody st s)

/-! ## Resolution (R371) -/

/-- The pairs of a board for an expert: (context, slot, t) of the deposits of one kind. -/
def pairsFor (b : Board) (isOpen : Bool) (e : Nat) : List Deposit :=
  b.deposits.filter fun d => d.isOpen == isOpen && d.experts.contains e

/-- Whether the pair of a deposit and an expert is kept. -/
def pairKept (b : Board) (d : Deposit) (e : Nat) : Bool :=
  let cap := recCapacity b.recd
  if d.isOpen then
    let k := min cap (pairsFor b false e).length
    decide (k + ((pairsFor b true e).filter fun x => x.ctx == d.ctx && decide (x.t < d.t)).length < cap)
  else
    decide (((pairsFor b false e).filter fun x => decide (x.t < d.t || (x.t = d.t && x.slot < d.slot))).length < cap)

/-! ## ex.settle -/

/-- The board of a settle's key. -/
def settleBoard (s : State) (f : Flight) (j : ExJob) : Option (Nat × Board) := boardFor s (f.deal.getD 0) j.model j.layer

/-- The bytes of a settle's list region, by its board. -/
def listNeed (b : Board) (j : ExJob) : Nat := 8 * recExperts b.recd + 4 * recCap b.recd * exTokens j

def settleOut (b : Option Board) (j : ExJob) : Nat := 64 * exTokens j + (b.map fun b => listNeed b j).getD 0 + j.statusBytes

/-- Check 8 of a settle: the keep records, the list and the status vector. With no board the list's extent is not known, and its first entry stands
for it (DESIGN CHOICE, log 68). -/
def placeSettle (s : State) (a : Actor) (j : ExJob) (b : Option Board) : Run Unit := do
  let _ ← (exCounted j).mapM fun e => checkDest s a false (j.keep + 64 * e.row) (64 * e.tokens)
  checkDest s a false j.list ((b.map fun b => listNeed b j).getD 8)
  placeVector s a j

/-- A check that may fault: a translation fault, which kills the command, is left to the body, which makes the check again. -/
def unlessKilled (r : Run Unit) : Run Unit := fun l =>
  match r l with
  | .error (.walk _ _ _ _ _) => .ok ((), l)
  | .error (.repair _) => .ok ((), l)
  | x => x

/-- Checks 2 to 8 of ex.settle. A kill does not undo the close of the board (R373), so a fault of check 8 comes after it. -/
def settleCheck (s : State) (a : Actor) (f : Flight) (p : List Byte) : Run (Except Nat ExJob) := do
  match (← exForm opSettle s f p) with
  | none => pure (.error 32)
  | some j =>
    let b := (settleBoard s f j).map (·.2)
    checkAll (exLengths s f opSettle j ++ (b.map fun b => lenAt 160 (decide (listNeed b j ≤ fld j.p 160 4))).toList)
    need (decide (settleOut b j ≤ 8388608)) sTooLarge 0
    unlessKilled (placeSettle s a j b)
    pure (.ok j)

/-- The first settle closes the board (R373); the entries' bars stand from the read of the block. -/
def settlePrep (s : State) (f : Flight) (j : ExJob) : State × Except Stop Marks :=
  let s1 := match settleBoard s f j with
    | some (n, b) => if b.closed then s else putBoard s n { b with closed := true }
    | none => s
  (s1, .ok (exMarks s f opSettle j))

/-- A token of a settle with its deposit: buffer row, index of its entry, deposit. -/
structure Token where
  row   : Nat
  entry : Nat
  dep   : Deposit
deriving DecidableEq, Repr

/-- The deposits of an entry's tokens, of the command's kind; none if one is missing. -/
def entryTokens (b : Board) (isOpen : Bool) (e : AtEntry) : Option (List Token) :=
  (List.range e.tokens).mapM fun t =>
    (b.deposits.find? fun d => d.ctx == e.ctx && d.t == e.first + t && d.isOpen == isOpen).map fun d => ⟨e.row + t, e.i, d⟩

/-- Whether a token of an entry was deposited on a board of the key that has been released (R382). -/
def tokenGone (rs : List Released) (isOpen : Bool) (e : AtEntry) : Bool :=
  (List.range e.tokens).any fun t => rs.any fun r => r.tokens.contains (e.ctx, e.first + t, isOpen)

/-- The marks of a settle once its board is known. -/
def settleMarks (s : State) (f : Flight) (j : ExJob) (ms : Marks) (b : Option Board) : Marks :=
  let rs := releasedOf s (f.deal.getD 0) j.model j.layer
  j.entries.map fun e =>
    let m := markOf ms e.i
    if e.tokens = 0 || m.1 ≠ sOk then m
    else
      match b with
      | none => (sRoute, (if !rs.isEmpty || dealClosed s f then routeGone else routeUnrouted) + e.ctx * 2 ^ 8)
      | some b =>
        if (entryTokens b (hasOpen f.cmd) e).isSome then m
        else (sRoute, (if tokenGone rs (hasOpen f.cmd) e then routeGone else routeUnrouted) + e.ctx * 2 ^ 8)

/-- The rows of the tokens that an expert keeps, ascending. -/
def insertRow (r : Nat) : List Nat → List Nat
  | [] => [r]
  | x :: xs => if r ≤ x then r :: x :: xs else x :: insertRow r xs

def keptRows (b : Board) (toks : List Token) (e : Nat) : List Nat :=
  ((toks.filter fun t => t.dep.experts.contains e && pairKept b t.dep e).map Token.row).foldr insertRow []

/-- The whole list: for each expert its first position and rows. -/
def listOf (b : Board) (toks : List Token) : List (Nat × List Nat) :=
  ((List.range (recExperts b.recd)).foldl (fun (acc : Nat × List (Nat × List Nat)) e =>
    let rows := keptRows b toks e
    (acc.1 + rows.length, acc.2 ++ [(acc.1, rows)])) (0, [])).2

/-- A token's keep record. -/
def keepRecord (b : Board) (list : List (Nat × List Nat)) (t : Token) : List Byte :=
  padTo 64 (t.dep.experts.flatMap fun e =>
    if pairKept b t.dep e then
      let x := list.getD e (0, [])
      natLe 4 (2 ^ 31 + x.1 + (x.2.findIdx? fun r => r == t.row).getD 0)
    else natLe 4 0)

/-- The expert directory and the list. -/
def listBytes (b : Board) (toks : List Token) (list : List (Nat × List Nat)) : List Byte :=
  let dir := list.zipIdx.flatMap fun x =>
    let lost := (toks.filter fun t => t.dep.experts.contains x.2 && !pairKept b t.dep x.2).length
    natLe 4 x.1.1 ++ natLe 2 x.1.2.length ++ natLe 2 (min 0xFFFF lost)
  dir ++ list.flatMap fun x => x.2.flatMap (natLe 4)

/-- TOKENS_SKIPPED, PAIRS_KEPT and PAIRS_DISCARDED of an entry. -/
def entryCounts (b : Board) (toks : List Token) (i : Nat) : Nat × Nat × Nat :=
  let mine := toks.filter fun t => t.entry == i
  let kept (t : Token) : Nat := (t.dep.experts.filter (pairKept b t.dep)).length
  let pairs := mine.foldl (fun n t => n + t.dep.experts.length) 0
  let k := mine.foldl (fun n t => n + kept t) 0
  ((mine.filter fun t => !t.dep.experts.isEmpty && kept t == 0).length, k, pairs - k)

/-- The step count of R378. -/
def settleSteps (b : Option Board) (j : ExJob) : Nat :=
  (exCounted j).foldl (fun t e => t + 16 + 2 * e.tokens) 64 + ceilDiv (settleOut b j) 65536

/-- Writes what a settle reports. -/
def settleReport (s : State) (a : Actor) (f : Flight) (j : ExJob) (ms0 : Marks) (nb : Option (Nat × Board)) : Run Plan := do
  let b := nb.map (·.2)
  let ms := settleMarks s f j ms0 b
  finishMarks s f (exNamed j ms) fun marks => do
    let toks := match b with
      | none => []
      | some b => (exGood j ms).flatMap fun e => (entryTokens b (hasOpen f.cmd) e).getD []
    let report ← match b with
      | none => pure []
      | some b => do
        if toks.isEmpty then pure []
        else
          let list := listOf b toks
          let l ← stageVa s a (onePass (listNeed b j)) false j.list (listBytes b toks list)
          let ks ← toks.mapM fun t => stageVa s a (onePass 64) false (j.keep + 64 * t.row) (keepRecord b list t)
          pure (l ++ ks.flatten)
    let vec ← j.entries.mapM fun e =>
      let c := (b.map fun b => entryCounts b toks e.i).getD (0, 0, 0)
      stageEntry s a j e.i (exVector (markOf ms e.i).1 c.1 c.2.1 c.2.2)
    let post := match nb with
      | some (n, b) =>
        Post.settle n b.deal b.model b.layer (releasedOf s b.deal b.model b.layer).length (toks.map fun t => (t.dep.ctx, t.dep.t))
      | none => Post.none
    pure (.staged ⟨report ++ vec.flatten, post, 0#32, exCtxs j, settleSteps b j, 0, marks, 0⟩)

def settleBody (s : State) (a : Actor) (f : Flight) (j : ExJob) (ms : Marks) : Run Plan := do
  placeSettle s a j ((settleBoard s f j).map (·.2))
  match settleBoard s f j with
  | none => settleReport s a f j ms none
  | some (n, b) =>
    if b.resolved then settleReport s a f j ms (some (n, b))
    else pure (.wait s (.board n j.p ms) (settleSteps (some b) j))

/-- EX_SETTLE (R378). -/
def execExSettle (st : Start) (s : State) : Host.Outcome State Fault Refusal :=
  answer (startPrep .none (fun f => f.cmd.opcode == opSettle) settleCheck settlePrep settleBody st s)

/-- A settle that waited reads its board's results. -/
def resumeSettle (n : Nat) (s : State) (f : Flight) : State :=
  match flightOf s f.cid, tabFind s.boards.tab n with
  | some g, some b =>
    match g.phase with
    | .board m p ms =>
      if m ≠ n then s
      else
        let r : Run Plan := do
          let plan ← settleReport s (actorOf s g) g (exJob s opSettle p) ms (some (n, b))
          checkPosts s g
          pure plan
        settleStart s s { g with phase := .running } (r emptyLog)
    | _ => s
  | _, _ => s

/-- ROUTING_BOARD_RESOLVED (R373): the resolution of a closed board ends, and the settles that wait read it. -/
def boardResolvedOp (n : Nat) (s : State) : State :=
  match tabFind s.boards.tab n with
  | none => s
  | some b =>
    if !serving s || !b.closed || b.resolved then s
    else
      let s1 := putBoard s n { b with resolved := true }
      s1.flights.list.foldl (resumeSettle n) s1

/-- ROUTING_BOARD_RESOLVED (R373). -/
def execRoutingBoardResolved (board : Nat) (s : State) : Host.Outcome State Fault Refusal := answer (boardResolvedOp board s)

/-! ## ex.gather (R379) -/

/-- The rows that lie within a source's bounds. -/
def boundRows (d : Desc) (width r : Nat) : Bool :=
  let f := (descFmt d).getD .f32
  decide (r * d.stride + runBytes f width ≤ d.bytes) && (!fmtIsMx f || decide ((r + 1) * ceilDiv width 32 ≤ d.scale))

/-- The bytes of a gathered row. -/
def gatherRow (j : ExJob) : Nat := runBytes ((descFmt j.inp).getD .f32) j.width

/-- Check 8 of one row with its block scales. -/
def gatherPlace (s : State) (a : Actor) (j : ExJob) (x : Nat × Nat) : Run Unit := do
  let n := gatherRow j
  let ns := ceilDiv j.width 32
  placeRead s a ⟨n, 0, 0⟩ false (j.inp.ptr + x.1 * j.inp.stride) n
  checkDest s a false (j.out.ptr + x.2 * j.out.stride) n
  if isMxCode (descCode j.inp) then
    placeRead s a ⟨ns, 0, 0⟩ false (j.inp.scalePtr + x.1 * ns) ns
    checkDest s a false (j.out.scalePtr + x.2 * ns) ns
  else pure ()

/-- Copies one row with its block scales. -/
def gatherOne (s : State) (a : Actor) (j : ExJob) (x : Nat × Nat) : Run (List SWrite) := do
  let n := gatherRow j
  let ns := ceilDiv j.width 32
  let row ← readVa s a ⟨n, j.inp.stride, 1⟩ false (j.inp.ptr + x.1 * j.inp.stride) n
  let ws ← stageVa s a ⟨n, j.out.stride, 1⟩ false (j.out.ptr + x.2 * j.out.stride) row
  if isMxCode (descCode j.inp) then
    let sc ← readVa s a (onePass ns) false (j.inp.scalePtr + x.1 * ns) ns
    let vs ← stageVa s a (onePass ns) false (j.out.scalePtr + x.2 * ns) sc
    pure (ws ++ vs)
  else pure ws

def exGatherBody : Body := fun s a f p => do
  match (← exForm opGather s f p) with
  | none => pure (.noop 32)
  | some j =>
    let n := gatherRow j
    checkAll (exLengths s f opGather j)
    need (decide (j.count * n ≤ 8388608)) sTooLarge 0
    let bs ← readVa s a (onePass (4 * j.count)) false j.list (4 * j.count)
    let rows := wordsOf bs
    checkAll (rows.zipIdx.map fun r => (boundRows j.inp j.width r.1, sLength, detEntry r.2 0))
    let _ ← rows.zipIdx.mapM (gatherPlace s a j)
    let ws ← rows.zipIdx.mapM (gatherOne s a j)
    pure (onlyWrites ws.flatten (64 + j.count * ceilDiv n 4096 + ceilDiv (j.count * n) 65536))

/-- EX_GATHER (R379). -/
def execExGather (st : Start) (s : State) : Host.Outcome State Fault Refusal := startEngine opGather exGatherBody st s

/-! ## ex.combine (R380) -/

def combineOut (j : ExJob) : Nat := exTokens j * runBytes ((descFmt j.out).getD .f32) j.width + j.statusBytes

def exCombineCheck (s : State) (a : Actor) (f : Flight) (p : List Byte) : Run (Except Nat ExJob) := do
  match (← exForm opExCombine s f p) with
  | none => pure (.error 32)
  | some j =>
    checkAll (exLengths s f opExCombine j)
    need (decide (combineOut j ≤ 8388608)) sTooLarge 0
    let n := runBytes ((descFmt j.out).getD .f32) j.width
    let _ ← (exCounted j).mapM fun e => do
      let _ ← (List.range e.tokens).mapM fun t => do
        placeRead s a ⟨4 * j.width, j.inp.stride, 1⟩ false (j.inp.ptr + (e.row + t) * j.inp.stride) (4 * j.width)
        checkDest s a false (j.out.ptr + (e.row + t) * j.out.stride) n
      placeRead s a (onePass (128 * e.tokens)) false (j.sel + 128 * e.row) (128 * e.tokens)
      placeRead s a (onePass (64 * e.tokens)) false (j.keep + 64 * e.row) (64 * e.tokens)
    placeVector s a j
    pure (.ok j)

/-- A kept entry of a token's selection record below SEL_LIMIT: its index, weight and list position. -/
structure Term where
  k      : Nat
  weight : Nat
  pos    : Nat
deriving DecidableEq, Repr

/-- The terms of a token, with check 9 of its records. -/
def combineTerms (s : State) (a : Actor) (j : ExJob) (q : Nat) : Run (List Term) := do
  let sel ← readVa s a ⟨128, 0, 0⟩ false (j.sel + 128 * q) 128
  let keep ← readVa s a ⟨64, 0, 0⟩ false (j.keep + 64 * q) 64
  let valid (k : Nat) : Bool := bitOf (fld sel (8 * k) 2) 15
  let kept (k : Nat) : Bool := bitOf (fld keep (4 * k) 4) 31
  let pos (k : Nat) : Nat := fld keep (4 * k) 4 % 2 ^ 19
  checkAll ((List.range 16).flatMap fun k =>
    [(decide (k < j.selLimit) || !valid k, sBadFormat, detEntry q (8 * k)), (valid k || !kept k, sBadFormat, detEntry q (4 * k))])
  pure (((List.range j.selLimit).filter fun k => valid k && kept k).map fun k => ⟨k, fld sel (8 * k + 4) 4, pos k⟩)

/-- The bounds of the list positions of a token, and the placement of the rows that they name (R380). -/
def placeTerms (s : State) (a : Actor) (j : ExJob) (x : Nat × List Term) : Run Unit := do
  checkAll (x.2.map fun t => (boundRows j.exp j.width t.pos, sLength, detEntry x.1 (4 * t.k)))
  let _ ← x.2.mapM fun t => placeRead s a ⟨4 * j.width, 0, 0⟩ false (j.exp.ptr + t.pos * j.exp.stride) (4 * j.width)
  pure ()

/-- One token of ex.combine, once every token has passed its checks. -/
def combineToken (s : State) (a : Actor) (j : ExJob) (x : Nat × List Term) : Run (List SWrite × FlagWord) := do
  let q := x.1
  let n := 4 * j.width
  let res ← readVa s a ⟨n, 0, 0⟩ false (j.inp.ptr + q * j.inp.stride) n
  let rows ← x.2.mapM fun t => do
    let bs ← readVa s a ⟨n, j.exp.stride, 1⟩ false (j.exp.ptr + t.pos * j.exp.stride) n
    pure (t.weight, bs)
  let fmt := (descFmt j.out).getD .f32
  let outs := (List.range j.width).map fun c =>
    let (acc, fl) := rows.foldl (fun (acc : Nat × FlagWord) t =>
      let (r, g) := laneFma .f32 t.1 (fld t.2 (4 * c) 4) acc.1
      (r, acc.2 ||| g)) (fld res (4 * c) 4, 0#32)
    let (w, g) := convElem fmt (bitOf j.out.dflags 0) 0x3F800000 (decodeFloat specF32 acc)
    (w, fl ||| g)
  let nb := runBytes fmt j.width
  let ws ← stageVa s a ⟨nb, j.out.stride, 1⟩ false (j.out.ptr + q * j.out.stride) (packBytes fmt (outs.map (·.1)))
  pure (ws, flAll (outs.map (·.2)))

def exCombineBody (s : State) (a : Actor) (f : Flight) (j : ExJob) (ms : Marks) : Run Plan :=
  finishMarks s f (exNamed j ms) fun marks => do
    let toks ← ((exGood j ms).flatMap fun e => (List.range e.tokens).map fun t => e.row + t).mapM fun q => do
      let ts ← combineTerms s a j q
      pure (q, ts)
    let _ ← toks.mapM (placeTerms s a j)
    let outs ← toks.mapM (combineToken s a j)
    let vec ← j.entries.mapM fun e => stageEntry s a j e.i (exVector (markOf ms e.i).1 0 0 0)
    let steps := (exCounted j).foldl (fun t e => t + 16 + e.tokens * ceilDiv j.width 128 * (1 + j.selLimit)) 64
      + ceilDiv (combineOut j) 65536
    pure (.staged ⟨outs.flatMap (·.1) ++ vec.flatten, .none, flAll (outs.map (·.2)), exCtxs j, steps, 0, marks, 0⟩)

/-- EX_COMBINE (R380). -/
def execExCombine (st : Start) (s : State) : Host.Outcome State Fault Refusal :=
  answer (startPrep .none (fun f => f.cmd.opcode == opExCombine) exCombineCheck
    (fun s f j => (s, .ok (exMarks s f opExCombine j))) exCombineBody st s)

end Sys2Proof.Machine
end

