-- ==== Sys2Proof/Machine/Backward.lean ====
section
/-!
DEFINITION. Sys2Proof/Machine/Backward.lean: adapter training (chapter 15): the adapter records (R385 to R390), bw.mul (R391 to R393),
bw.norm (R394, R395) and bw.softmax (R396, R397).
-/

namespace Sys2Proof.Machine

/-! ## Adapter records -/

/-- Registered contexts bound to an adapter: BOUND of Table 15-1 (R387). -/
def adapterBound (s : State) (a : Nat) : Nat := (s.kv.ctxs.filter fun c => c.2.state != 0 && c.2.adapter == a).length

/-- The 64-byte adapter record (Table 15-1); a FREE record is zero but for its number. -/
def adapterBytes (s : State) (a : Nat) : List Byte :=
  match tabFind s.adapters a with
  | none => natLe 64 (a * 2 ^ 4)
  | some r =>
    natLe 64 (r.state + a * 2 ^ 4 + r.rank * 2 ^ 64 + r.gradFormat * 2 ^ 80 + r.keySlot * 2 ^ 88 + r.tenant * 2 ^ 112
      + r.gradWrites * 2 ^ 160 + adapterBound s a * 2 ^ 192 + r.bytes * 2 ^ 224 + r.base * 2 ^ 256)

/-- Whether an adapter is LIVE. -/
def adapterLive (s : State) (a : Nat) : Bool := (tabFind s.adapters a).any fun r => r.state == 1

/-- A destination of a bw. command that lies in the weight window ends it with S_FAULT and no record of the kitty (R383). -/
def noWeightDest (s : State) (a : Actor) (va len : Nat) : Run Unit := do
  let _ ← (piecesOf va len).mapM fun p =>
    match translate s a.place a.asid (actorKernel a) false p.1 with
    | .ok (e, _) => if bitsOf e 7 6 = 3 then liftE (denied (α := Unit)) else pure ()
    | .error _ => pure ()
  pure ()

/-! ## bw.adapter (R389, R390) -/

def bwCreate : Nat := 0
def bwDestroy : Nat := 1
def bwQuery : Nat := 2

/-- The checks of Table 15-3 for an action, in ascending order of field. -/
def adapterChecks (s : State) (f : Flight) (p : List Byte) (act : Nat) : List Check :=
  let create := act == bwCreate
  let uses := create || act == bwQuery
  let slot := fld p 6 2
  let cause := if create then bindCause s slot ((cmdTenant s f.cmd).getD 0) else none
  [fmtAt 1 (if create then fld p 1 1 == 1 || fld p 1 1 == 2 else fld p 1 1 == 0),
   fmtAt 2 (decide (fld p 2 2 < 4096)),
   fmtAt 4 (if create then decide (1 ≤ fld p 4 2 && fld p 4 2 ≤ 256) else fld p 4 2 == 0),
   fmtAt 6 (if create then (decide (slot ≤ 4094) || slot == 0xFFF) && slot == f.cmd.keySlot % 4096 else slot == 0),
   (cause.isNone, sSeal, cause.getD 0 + slot * 2 ^ 8),
   fmtAt 8 (if uses then ptrOk (fld p 8 8) (if create then 65536 else 64) else fld p 8 8 == 0),
   if create then lenAt 16 (decide (65536 ≤ fld p 16 4 && fld p 16 4 ≤ 1073741824)) else if uses then lenAt 16 (decide (64 ≤ fld p 16 4)) else fmtAt 16 (fld p 16 4 == 0),
   notOnes p 16 4,
   fmtAt 16 (!create || fld p 16 4 % 65536 == 0),
   rsvAt p 20 44]

/-- The requirements of Table 15-4 on a record that must be LIVE and the tenant's. -/
def adapterOwned (s : State) (f : Flight) (a : Nat) (more : Adapter → Bool) : Run Unit :=
  match tabFind s.adapters a with
  | none => finish sBadFormat (detParam 2)
  | some r => checkAll [fmtAt 2 (r.state == 1), (cmdTenant s f.cmd == some r.tenant, sPrivilege, detParam 2), fmtAt 2 (more r)]

/-- Translates a master range: one contiguous range of this device's stacked memory that overlaps no range of Table 15-3. A leaf with ENC 1
needs a key slot (R422). -/
def masterRange (s : State) (a : Actor) (va len : Nat) : Run Nat := do
  let (base, parts) ← stackRange s a 8 va len
  let masters := s.adapters.map fun r => (r.2.base, r.2.bytes)
  let sheet := match s.dealer.cfg.area with | some b => [(b, sheetBytes)] | none => []
  let nextSheet := match s.dealer.newCfg.bind DealCfg.area with | some b => [(b, sheetBytes)] | none => []
  need (base % 65536 == 0 && !(masters ++ kvRanges s ++ sheet ++ nextSheet).any (inRange base len)) sBadFormat (detParam 8)
  let _ ← parts.mapM fun q => do
    let l ← liftE (checkLocal s a true q.1 q.2.1)
    liftE (destRules s a (.loc l q.2.2))
  pure base

/-- The tenant of a command's context. -/
def bwTenant (s : State) (f : Flight) : Nat := (cmdTenant s f.cmd).getD 0

/-- CREATE: the range is zeroed and the record becomes LIVE. -/
def createAdapter (s : State) (a : Nat) (r : Adapter) : State :=
  let s1 := afterWrite (zeroMem s r.base r.bytes) r.base r.bytes
  { s1 with adapters := tabPut s1.adapters a r }

def bwAdapterCreateBody : Body := fun s a f p => onAction p bwCreate 3 do
  checkAll (adapterChecks s f p bwCreate)
  let n := fld p 2 2
  let len := fld p 16 4
  checkAll [fmtAt 2 ((tabFind s.adapters n).isNone)]
  noWeightDest s a (fld p 8 8) len
  let base ← masterRange s a (fld p 8 8) len
  noteLine (lineOf s (.mem base)) (onePass 1024) len true
  let r : Adapter := { state := 1, rank := fld p 4 2, gradFormat := fld p 1 1, keySlot := fld p 6 2, tenant := bwTenant s f, gradWrites := 0
                       bytes := len, base := base }
  pure (.act (createAdapter s n r) [] (64 + len / 65536) 0 0)

/-- DESTROY: the record is DESTROYING until every command that named it has committed or been killed. -/
def bwAdapterDestroyBody : Body := fun s _ f p => onAction p bwDestroy 3 do
  checkAll (adapterChecks s f p bwDestroy)
  let n := fld p 2 2
  adapterOwned s f n fun _ => adapterBound s n == 0
  match tabFind s.adapters n with
  | none => finish sBadFormat (detParam 2)
  | some r =>
    let t := { s with adapters := tabPut s.adapters n { r with state := 2 } }
    pure (.drain t (.adapter n) (startedWhere t f.cid fun g => g.post == .grad n) (64 + r.bytes / 65536) 0 0)

/-- QUERY: the record is written out, and the command counts as one that named the adapter (R385). -/
def bwAdapterQueryBody : Body := fun s a f p => onAction p bwQuery 3 do
  checkAll (adapterChecks s f p bwQuery)
  let n := fld p 2 2
  adapterOwned s f n fun _ => true
  noWeightDest s a (fld p 8 8) 64
  let ws ← stageVa s a (onePass 64) false (fld p 8 8) (adapterBytes s n)
  pure (.act (countGrad s n) ws 32 0 0)

/-- BW_ADAPTER_CREATE (R390). -/
def execBwAdapterCreate (st : Start) (s : State) : Host.Outcome State Fault Refusal := startHub 0x7001 bwAdapterCreateBody st s
/-- BW_ADAPTER_DESTROY (R390). -/
def execBwAdapterDestroy (st : Start) (s : State) : Host.Outcome State Fault Refusal := startHub 0x7001 bwAdapterDestroyBody st s
/-- BW_ADAPTER_QUERY (R390). -/
def execBwAdapterQuery (st : Start) (s : State) : Host.Outcome State Fault Refusal := startHub 0x7001 bwAdapterQueryBody st s

/-! ## What the backward products share (R391 to R393) -/

/-- A backward product: its product, where its SEED, ADAPTER and GCTL stand, and their values. -/
structure BwJob where
  d       : Product
  adapter : Nat
  grad    : Fmt
  gctl    : Nat
  seed    : Nat
deriving DecidableEq, Repr

def BwJob.stochastic (j : BwJob) : Bool := bitOf j.gctl 0

/-- Check 3 of a backward product (R393): that of Table 4-8 with the fields of Tables 15-5 and 15-6 and R387. The reserved fields, formats and
flags (`more` holds those of the command's own fields) come first, with ADAPTER and C's format behind them; then every other field.
`ao` is the offset of ADAPTER, `so` that of SEED. -/
def bwAdapterChecks (s : State) (f : Flight) (p : List Byte) (ao so : Nat) (more : List Check) : List Check :=
  let n := fld p ao 2
  let r := tabFind s.adapters n
  let d := productAt p 0
  check3Head f.cmd.version p 0 d ++ [fmtAt 93 (d.c.dflags == 0)] ++ more
  ++ [fmtAt (ao + 2) (decide (fld p (ao + 2) 1 < 2)), fmtAt ao (decide (n < 4096)), fmtAt ao (adapterLive s n),
      ((ctxOf s f.cmd.context).adapter == n, sPrivilege, detParam ao), fmtAt 92 (r.any fun x => x.gradFormat == descCode d.c)]
  ++ check3Tail 0 d ++ [fmtAt so (bitOf (fld p (ao + 2) 1) 0 || fld p so 8 == 0)]

/-- The job of a parameter block whose checks have passed. -/
def bwJob (s : State) (p : List Byte) (ao so : Nat) : BwJob :=
  let n := fld p ao 2
  { d := productAt p 0, adapter := n, grad := ((tabFind s.adapters n).bind fun r => fmtOfCode r.gradFormat).getD .f16,
    gctl := fld p (ao + 2) 1, seed := fld p so 8 }

/-- A binary32 value rounded once into GRAD_FORMAT for linear index i (R392). -/
def gradOut (j : BwJob) (i : Nat) (bits : Nat) : Nat × FlagWord :=
  if j.stochastic then roundStochastic ((fmtSpec j.grad).getD specF16) j.seed i (decodeFloat specF32 bits)
  else convElem j.grad false 0x3F800000 (decodeFloat specF32 bits)

/-- A run of elements widened exactly to binary32; a signalling NaN among them raises INVALID (R66). -/
def widenRun (f : Fmt) (m : Nat) (bs : List Byte) : List Nat × FlagWord :=
  let ws := (unpackBytes f m bs).map fun w => roundNum specF32 (decodeElem f w)
  (ws.map (·.1), flAll (ws.map (·.2)))

/-- The accumulators of a row of the product, in binary32 (R77). -/
def gradRow (j : BwJob) (aRow : List (Num × FlagWord)) (bCols : List (List (Num × FlagWord))) (start : List Nat) : List (Nat × FlagWord) :=
  bCols.mapIdx fun n col =>
    match reduceK (j.d.k / 8 + 1) (.f (start.getD n 0)) (List.zip aRow col) with
    | (.f bits, fl) => (bits, fl)
    | (.i _, fl) => (0, fl)

/-- What turns the accumulators of row i into the values that are written, in binary32. -/
abbrev RowStep := Nat → List Nat → Option (List Nat) → Run (List Nat × FlagWord)

/-- Whether the prior contents start the accumulator or are added after the row's step. -/
def addPrior (prior : Option (List Nat)) (xs : List Nat) : List (Nat × FlagWord) :=
  match prior with
  | none => xs.map fun x => (x, 0#32)
  | some ps => List.zipWith (laneAdd .f32) xs ps

/-- Computes a backward product: the rows that are live, each through `step`; with `early` the prior contents start the
accumulator and `step` sees none. -/
def runGrad (s : State) (a : Actor) (j : BwJob) (live : List Bool) (early : Bool) (step : RowStep) : Run (List SWrite × FlagWord) := do
  let d := j.d
  let bCols ← readB s a d
  let nb := d.n * 2
  let pt := d.cPattern 0
  let outs ← ((live.zipIdx).filter fun l => l.1).mapM fun l => do
    let row ← readARow s a d l.2
    let at_ := d.c.ptr + l.2 * d.c.stride
    let (prior, f0) ← if d.accumulate then do
        let (ws, fl) := widenRun j.grad d.n (← readVa s a pt false at_ nb)
        pure (some ws, fl)
      else pure (none, 0#32)
    let accs := gradRow j row bCols (if early then prior.getD [] else [])
    let (ys, f1) ← step l.2 (accs.map (·.1)) (if early then none else prior)
    let ws := ys.mapIdx fun n y => gradOut j (l.2 * d.n + n) y
    let sw ← stageVa s a pt false at_ (ws.flatMap fun w => natLe 2 w.1)
    pure (sw, f0 ||| flAll (accs.map (·.2)) ||| f1 ||| flAll (ws.map (·.2)))
  pure (outs.flatMap (·.1), flAll (outs.map (·.2)))

/-- The step count of R101 for the product part. -/
def productSteps (d : Product) (live : List Bool) : Nat :=
  let g := liveGroups live
  if g = 0 then 64 else 64 + arraySteps d.aFmt d.bFmt d.k d.n g + ceilDiv (d.rows * d.n * 4) 65536

def liveRows (live : List Bool) : Nat := (live.filter id).length

/-- Check 8 of a product whose destination may not lie in the weight window (R383, R393). -/
def check8bw (s : State) (a : Actor) (d : Product) : Run (List Bool) := do
  noWeightDest s a d.c.ptr d.cExtent
  check8mm s a d

/-- A command with an empty product ends with S_OK, and counts (R100, R385). -/
def emptyGrad (s : State) (j : BwJob) : Plan := .act (countGrad s j.adapter) [] 32 0 0

/-- What a backward product stages. -/
def stagedGrad (j : BwJob) (out : List SWrite × FlagWord) (steps : Nat) : Plan :=
  .staged ⟨out.1, .grad j.adapter, out.2, [], steps, 0, [], 0⟩

/-! ## bw.mul -/

def bwMulBody : Body := fun s a f p => do
  checkAll (bwAdapterChecks s f p 136 128 [rsvAt p 139 5])
  let j := bwJob s p 136 128
  checkAll (check4 p 0 j.d)
  if j.d.isEmpty then pure (emptyGrad s j)
  else
    checkAll (check67 0 j.d)
    let live ← check8bw s a j.d
    let out ← runGrad s a j live true fun _ accs _ => pure (accs, 0#32)
    pure (stagedGrad j out (productSteps j.d live))

/-- BW_MUL (R391). -/
def execBwMul (st : Start) (s : State) : Host.Outcome State Fault Refusal := startEngine 0x7002 bwMulBody st s

/-! ## The rows of bw.norm and bw.softmax -/

/-- The sum of a list in the order of R395: the tree of R130 per 128 elements, chunks in ascending order. -/
def chunkSum (xs : List Nat) : Nat × FlagWord :=
  let sums := (chunksOf (ceilDiv xs.length 128) 128 xs).map fun c => (redList (laneAdd .f32) c).getD (0, 0#32)
  match sums with
  | [] => (0, 0#32)
  | b :: bs => bs.foldl (fun acc c => let (r, fl) := laneAdd .f32 acc.1 c.1; (r, acc.2 ||| fl ||| c.2)) b

/-- A binary32 operation over two lists. -/
def zipF (op : Nat → Nat → Nat × FlagWord) (xs ys : List Nat) : List Nat × FlagWord :=
  let rs := List.zipWith op xs ys
  (rs.map (·.1), flAll (rs.map (·.2)))

/-- A whole number in binary32. -/
def natF (n : Nat) : Nat := (roundNum specF32 (Num.ofInt n)).1

/-- One row of bw.norm (R395): dx from dy, x and g. -/
def normRow (eps n : Nat) (dy x g : List Nat) : List Nat × FlagWord :=
  let mul := laneMul .f32
  let (sq, f1) := zipF mul x x
  let (ss, f2) := chunkSum sq
  let (mean, f3) := laneDiv .f32 ss (natF n)
  let (e, f4) := laneAdd .f32 mean eps
  let (r, f5) := laneTable .f32 .rsqrt false e
  let rs := List.replicate x.length r
  let (xh, f6) := zipF mul x rs
  let (gd, f7) := zipF mul dy g
  let (prods, f8) := zipF mul gd xh
  let (t, f9) := chunkSum prods
  let (c, f10) := laneDiv .f32 t (natF n)
  let (xc, f11) := zipF mul xh (List.replicate x.length c)
  let (diff, f12) := zipF (laneSub .f32) gd xc
  let (dx, f13) := zipF mul rs diff
  (dx, flAll [f1, f2, f3, f4, f5, f6, f7, f8, f9, f10, f11, f12, f13])

/-- The row sum of bw.softmax when the command computes it (R396). -/
def softmaxSum (probs dp : List Nat) : Nat × FlagWord :=
  let (pr, f1) := zipF (laneMul .f32) probs dp
  let (t, f2) := chunkSum pr
  (t, f1 ||| f2)

/-- One row of bw.softmax (R396): ds from dP, P and t. -/
def softmaxRow (scale t : Nat) (dp probs : List Nat) : List Nat × FlagWord :=
  let (sp, f1) := zipF (laneMul .f32) (List.replicate probs.length scale) probs
  let (diff, f2) := zipF (laneSub .f32) dp (List.replicate dp.length t)
  let (ds, f3) := zipF (laneMul .f32) sp diff
  (ds, flAll [f1, f2, f3])

/-- The checks of a descriptor of rows in a format of 0x0 to `top` at an offset (Tables 4-3 and 15-6): its format, flags and reserved field. -/
def sideHead (p : List Byte) (off top : Nat) : List Check :=
  let d := descAt p off
  [fmtAt (off + 28) (decide (d.format ≤ top)), fmtAt (off + 29) (d.dflags == 0), rsvAt p (off + 30) 2]

/-- Its other fields, for rows of `m` elements. -/
def sideTail (p : List Byte) (off m : Nat) : List Check :=
  let d := descAt p off
  let f := (descFmt d).getD .f32
  [fmtAt off (ptrOk d.ptr 64), fmtAt (off + 12) (strideRows (runBytes f m) m d.stride),
   fmtAt (off + 16) (d.scalePtr == 0), fmtAt (off + 24) (d.scale == 0)]

/-- The extent of such a descriptor's rows. -/
def sideExtent (d : Desc) (rows m : Nat) : Nat := rowsExtent ((descFmt d).getD .f32) rows m d.stride

/-- Places such a descriptor's rows. -/
def placeSide (s : State) (a : Actor) (weights : Bool) (d : Desc) (rows m : Nat) : Run Unit :=
  let nb := runBytes ((descFmt d).getD .f32) m
  placeRead s a (rowPattern nb (sideExtent d rows m) d.stride 1) weights d.ptr (sideExtent d rows m)

/-- Reads row i of such a descriptor as binary32 values, with the flags of reading them. -/
def readSide (s : State) (a : Actor) (weights : Bool) (d : Desc) (m i : Nat) : Run (List Nat × FlagWord) := do
  let f := (descFmt d).getD .f32
  let nb := runBytes f m
  let bs ← readVa s a ⟨nb, d.stride, 0⟩ weights (d.ptr + i * d.stride) nb
  pure (widenRun f m bs)

/-- EPS and SCALE: a positive normal binary32 (Table 15-6). -/
def epsCheck (p : List Byte) : Check := fmtAt 192 (scaleLegal (fld p 192 4))

/-! ## bw.norm -/

def bwNormBody : Body := fun s a f p => do
  let n := (productAt p 0).n
  checkAll (bwAdapterChecks s f p 196 200 (sideHead p 128 2 ++ sideHead p 160 2 ++ [rsvAt p 199 1, rsvAt p 208 16])
    ++ sideTail p 128 n ++ sideTail p 160 n ++ [epsCheck p])
  let j := bwJob s p 196 200
  let x := descAt p 128
  let g := descAt p 160
  checkAll (check4 p 0 j.d ++ [notOnes p 136 4, notOnes p 168 4])
  if j.d.isEmpty then pure (emptyGrad s j)
  else
    checkAll ((check67 0 j.d).dropLast ++ [lenAt 136 (decide (sideExtent x j.d.rows n ≤ x.bytes)), lenAt 168 (decide (sideExtent g 1 n ≤ g.bytes))]
      ++ ((check67 0 j.d).drop 9))
    placeSide s a false x j.d.rows n
    placeSide s a true g 1 n
    let live ← check8bw s a j.d
    let (gs, fg) ← readSide s a true g n 0
    let out ← runGrad s a j live false fun i accs prior => do
      let (xs, fx) ← readSide s a false x n i
      let (dx, f1) := normRow (fld p 192 4) n accs xs gs
      let ys := addPrior prior dx
      pure (ys.map (·.1), fg ||| fx ||| f1 ||| flAll (ys.map (·.2)))
    pure (stagedGrad j out (productSteps j.d live + 10 * liveRows live * ceilDiv n 128))

/-- BW_NORM (R394). -/
def execBwNorm (st : Start) (s : State) : Host.Outcome State Fault Refusal := startEngine 0x7003 bwNormBody st s

/-! ## bw.softmax -/

def bwSoftmaxBody : Body := fun s a f p => do
  let n := (productAt p 0).n
  let given := !zeroRange p 160 32
  checkAll (bwAdapterChecks s f p 196 200 (sideHead p 128 2 ++ (if given then sideHead p 160 0 else []) ++ [rsvAt p 199 1, rsvAt p 208 16])
    ++ [fmtAt 100 ((productAt p 0).k == 128)] ++ sideTail p 128 n ++ (if given then sideTail p 160 1 else []) ++ [epsCheck p])
  let j := bwJob s p 196 200
  let x := descAt p 128
  let t := descAt p 160
  checkAll (check4 p 0 j.d ++ [notOnes p 136 4, notOnes p 168 4])
  if j.d.isEmpty then pure (emptyGrad s j)
  else
    checkAll ((check67 0 j.d).dropLast ++ [lenAt 136 (decide (sideExtent x j.d.rows n ≤ x.bytes)),
        lenAt 168 (!given || decide (sideExtent t j.d.rows 1 ≤ t.bytes))]
      ++ ((check67 0 j.d).drop 9))
    placeSide s a false x j.d.rows n
    if given then placeSide s a false t j.d.rows 1 else pure ()
    let live ← check8bw s a j.d
    let out ← runGrad s a j live false fun i accs prior => do
      let (ps, fx) ← readSide s a false x n i
      let (sum, f1) ← if given then do
          let (ts, ft) ← readSide s a false t 1 i
          pure (ts.headD 0, ft)
        else pure (softmaxSum ps accs)
      let (ds, f2) := softmaxRow (fld p 192 4) sum accs ps
      let ys := addPrior prior ds
      pure (ys.map (·.1), fx ||| f1 ||| f2 ||| flAll (ys.map (·.2)))
    let per := if given then 3 * ceilDiv n 128 else 5 * ceilDiv n 128 + 8
    pure (stagedGrad j out (productSteps j.d live + liveRows live * per))

/-- BW_SOFTMAX (R396). -/
def execBwSoftmax (st : Start) (s : State) : Host.Outcome State Fault Refusal := startEngine 0x7004 bwSoftmaxBody st s

end Sys2Proof.Machine
end

