-- ==== Sys2Proof/Machine/Boot.lean ====
section
/-!
DEFINITION. Sys2Proof/Machine/Boot.lean: starts and resets (chapter 21, R526 to R535), the input, the rails and the pins of the module
(R538, R545 to R548), and the host links.
-/

namespace Sys2Proof.Machine

/-! ## The owner role (R451) -/

/-- The kitty area is unset; a batch that awaits release is kept (R241). -/
def unsetKitty (s : State) : State := { s with kitty := { s.kitty with area := none } }

/-- The owner role moves to a host, or is lost. -/
def moveOwner (s : State) (o : Option Nat) : State :=
  if s.heldun.owner = o then s else unsetKitty { s with heldun := { s.heldun with owner := o } }

/-! ## Turning off (R494, R547) -/

/-- The module turns off: no start is in progress, and no stop record is written (R494, R547). -/
def turnOff (s : State) : State :=
  let s1 := if s.flights.list.isEmpty then s else stopWriteOuts s
  let s2 := rebuilt { s1 with module := { s1.module with powered := false, alertLow := false, rideThrough := false, railsOff := 0#16 } }
  { s2 with boot := { s2.boot with step := 0 } }

/-- Whether a start is in progress. -/
def starting (s : State) : Bool := s.module.powered && decide (1 ≤ s.boot.step && s.boot.step ≤ 6) && !s.boot.failed

/-! ## A port reset (R527) -/

/-- A port reset. -/
def portReset (s : State) (port : Nat) : State :=
  let s1 := if s.heldun.owner = some port then moveOwner s none else s
  let m := mboxOf s1 port
  let s2 := setMbox s1 port { m with
    major := none, minors := [], nonce := none, cache := [], overrun := false, done := false, ring := none }
  setPortLive s2 port false

/-! ## A start that stops (R534) -/

/-- Table 20-6's cause and unit for a cause of Table 21-6. -/
def startStopCause (cause detail : Nat) : Nat × Nat × Nat :=
  match cause with
  | 4 => (0x50, 8, 0)
  | 5 => (0x51, 0xA, detail)
  | 6 => (0x53, 0, 0)
  | 7 => (0x54, 0, 0)
  | 8 => (0x55, 0, 0)
  | 9 => (0x56, 0, detail)
  | _ => (Config.powerStopCause, 0, 0)

/-- The start stops on a cause. -/
def failStart (s : State) (cause detail : Nat) : State :=
  let s1 := { s with boot := { s.boot with cause := cause, detail := detail, failed := true } }
  let s2 := if s.boot.step < 3 then s1
    else
      let (c, k, i) := startStopCause cause detail
      let r : StopRec := { cause := c, cls := 3, kind := k, index := i, addr := 0, dealSeq := 0, stamp := stampNow s }
      { s1 with
        vault := { s1.vault with stopRec := some r }
        boot := { s1.boot with stop := some r }
        heldun := { s1.heldun with ready := 2 } }
  raiseAlert s2 (0x80 + cause)

/-! ## Peg rows and firmware banks -/

/-- Programmes the cells of a peg row up to a value; a programmed cell is never erased (R408): 0 SECURITY_VERSION, 1 OWNER_EPOCH,
2 DEBUG_UNLOCK, 3 ATTEST_RESERVE. -/
def setPeg (s : State) (row value : Nat) : State :=
  let p := s.vault.pegs
  let p' : Pegs := match row with
    | 0 => { p with securityVersion := max p.securityVersion value }
    | 1 => { p with ownerEpoch := max p.ownerEpoch value }
    | 2 => { p with debugUnlock := max p.debugUnlock value }
    | _ => { p with attestReserve := max p.attestReserve value }
  let limit := match row with | 0 => 1023 | 1 => 15 | 2 => 7 | _ => 32768
  let copies := s.vault.pegCopies.zipIdx.map fun c => if s.vault.stackFailed.getLsbD c.2 then c.1 else p'
  wearCheck { s with vault := { s.vault with pegs := p', pegCopies := copies } } (0x20000 + row) (0x20000 + row) 0 value limit

/-- The peg rows at a start: the largest value of each that a copy whose cells pass their check holds; the copies of a stack that has failed do not
(R408). Cells are never erased, so no row is below the value that the device held. -/
def readPegs (s : State) : State :=
  let good := (s.vault.pegCopies.zipIdx.filter fun c => !s.vault.stackFailed.getLsbD c.2).map (·.1)
  let best (g : Pegs → Nat) : Nat := good.foldl (fun m p => max m (g p)) (g s.vault.pegs)
  { s with vault := { s.vault with
    pegs := ⟨best Pegs.securityVersion, best Pegs.ownerEpoch, best Pegs.debugUnlock, best Pegs.attestReserve⟩ } }

/-- The content keys that the system area keeps come back into the key store, and the others are gone (R207). -/
def unwrapKeys (s : State) : State :=
  let key (x : Slot) : Option (List Byte) := x.wrappedKey.bind (keyUnwrap (vaultWrapKey s.vault.pegs.debugUnlock))
  { s with vault := { s.vault with slots := s.vault.slots.map fun e => (e.1, { e.2 with contentKey := key e.2 }) } }

def bankOf (s : State) (i : Nat) : Bank := if i = 0 then s.vault.banks.1 else s.vault.banks.2
def putBank (s : State) (i : Nat) (b : Bank) : State :=
  { s with vault := { s.vault with banks := if i = 0 then (b, s.vault.banks.2) else (s.vault.banks.1, b) } }

/-- The bank in a state, if any. -/
def bankIn (s : State) (st : BankState) : Option Nat := (List.range 2).find? fun i => (bankOf s i).state == st

/-- The bank that runs. -/
def runningBank (s : State) : Bank := bankOf s s.boot.running

/-! ## The steps of Table 21-2 -/

/-- Whether the mask ROM may start a bank (R412). -/
def bankStarts (s : State) (bad : BitVec 2) (i : Nat) : Bool :=
  !bad.getLsbD i && decide (s.vault.pegs.securityVersion ≤ (bankOf s i).sv)

/-- The mask ROM's choice of a bank (R461): the bank started, LAST_START, and the state after. -/
def chooseBank (s : State) (bad : BitVec 2) : Except Nat State :=
  let run (s : State) (i last : Nat) (fb : Bool) : State := { s with boot := { s.boot with running := i, lastStart := last, fallback := fb } }
  let active (s : State) (last : Nat) (fb : Bool) (failed : Nat) : Except Nat State :=
    match bankIn s .active with
    | some i => if bankStarts s bad i then .ok (run s i last fb) else .error (failed ||| 2 ^ i)
    | none => .error failed
  match bankIn s .pending with
  | none => active s 1 false 0
  | some i =>
    if bankStarts s bad i then
      let s1 := putBank (putBank s i { bankOf s i with state := .active }) (1 - i)
        { bankOf s (1 - i) with state := if (bankOf s (1 - i)).state = .active then .inactive else (bankOf s (1 - i)).state }
      .ok (run s1 i 0 false)
    else active (putBank s i { bankOf s i with state := .failed }) 2 true (2 ^ i)

/-- An armed debug token is applied (Table 16-12): scope bit 0 DEBUG, bit 1 RECLAIM. -/
def applyToken (s : State) : State :=
  match s.vault.armedToken with
  | none => s
  | some (scope, value) =>
    let s1 := setPeg s 2 value
    let s2 := { s1 with vault := { s1.vault with slots := [], armedToken := none } }
    let s3 := if bitOf scope 1 then recordWrite { s2 with vault := { s2.vault with ownerKey := none } } else s2
    if bitOf scope 0 then { s3 with keys := { s3.keys with debugActive := true } } else s3

/-- A pending transfer is applied (R411). -/
def applyTransfer (s : State) : State :=
  match s.vault.transfer with
  | none => s
  | some key =>
    let s1 := setPeg s 1 (s.vault.pegs.ownerEpoch + 1)
    recordWrite { s1 with vault := { s1.vault with ownerKey := some key, transfer := none } }

/-- Slots left WRITING become FREE (R201). -/
def freeWriting (s : State) : State :=
  (s.vault.slots.filter fun e => e.2.state == .writing).foldl (fun s e => freeSlotOf s e.1) s

/-- A unit fails its self-test at a start: it is retired at once, and its EV_UNIT_RETIRED waits for an event ring (R34, R532). MAP_SEQ is 0:
map changes before step 6 do not count (R531). -/
def failUnit (s : State) (u : Nat × Nat) : State :=
  let (kind, index) := u
  if !unitHere s kind index then s
  else
    let s1 := recordRetired s kind index
    let m := clearUnit kind index s1.units.map
    let s2 := { s1 with units := { s1.units with map := { m with startRetired := true, mapSeq := 0 } } }
    let s3 := if kind = 4 then withdrawBand s2 index else s2
    { s3 with heldun := { s3.heldun with
        pendingStart := s3.heldun.pendingStart ++ [natLe 2 evUnitRetired ++ retiredPayload s3 kind 1 0x61 index] } }

/-- The records of the far slots of a port (R176): those of a port that trained are mapped, in ascending order, behind `base`. -/
def mapFar (trained : BitVec 2) (acc : State × Nat) (o : FarOffer) : State × Nat :=
  let (s, base) := acc
  let put (size rejected state at_ : Nat) : State :=
    putExpander s o.slot ⟨at_, size, o.readMbs, o.writeMbs, o.vendor, o.device, state, rejected, o.width, o.speed, none⟩
  if 4 ≤ o.slot then acc
  else if !trained.getLsbD (o.slot / 2) then (put 0 0 3 0, base)
  else if o.reject ≠ 0 then (put 0 o.reject 2 0, base)
  else if o.sizeGib = 0 then (put 0 3 2 0, base)
  else
    let size := min o.sizeGib ((farEnd - base) / 2 ^ 30)
    if size = 0 then (put 0 5 2 0, base) else (put size 0 1 base, base + size * 2 ^ 30)

/-- The offers by ascending slot. -/
def bySlot (os : List FarOffer) : List FarOffer := (List.range 4).filterMap fun k => os.find? fun o => o.slot == k

/-- Whether an Ethernet port can train: its cage holds a plug that is powered (R545). -/
def cageReady (s : State) (port : Nat) : Bool := s.module.osfp.getLsbD port && s.module.osfpPowered.getLsbD port

/-- The ports of a mask become live. -/
def portsUp (s : State) (base : Nat) (ports : List Nat) : State := ports.foldl (fun s p => setPortLive s (base + p) true) s

/-- Step 5: the stacks' self-tests, the far tier, and the Ethernet ports. -/
def stepFive (s : State) (rp : StepReport) : State :=
  let s1 := (rp.failedUnits.filter fun u => u.1 == 4 || u.1 == 5).foldl failUnit s
  let s2 := send (send s1 (.perst 0 false)) (.perst 1 false)
  let s3 := ((bySlot rp.far).foldl (mapFar rp.farTrained) (s2, farBase)).1
  let s4 := portsUp s3 2 ((List.range 2).filter fun p => rp.farTrained.getLsbD p)
  portsUp s4 4 ((List.range 2).filter fun p => rp.ethLive.getLsbD p && cageReady s4 p)

/-- SHAPE of the installation record (Table 18-6). -/
def shapeOf (s : State) : Nat := fld (installOf s) 10 1

/-- Step 6: the checks of R20 and R23, the map, the count of a previous stop (R518), and READY. -/
def stepSix (s : State) : State :=
  if s.units.map.engines = 0#64 then failStart s 6 0
  else if s.units.map.channels = 0#256 then failStart s 7 0
  else if s.units.map.walkers = 0#32 then failStart s 8 0
  else
    let stop := s.vault.stopRec.or s.heldun.prevStop
    { s with
      units := { s.units with map := { s.units.map with mapSeq := 0 } }
      vault := { s.vault with stopRec := none, fatalStops := s.vault.fatalStops + b2n stop.isSome }
      heldun := { s.heldun with ready := 1, prevStop := stop }
      domain := { s.domain with barrier := { s.domain.barrier with known := shapeOf s == 0 } }
      boot := { s.boot with step := 7 } }

/-- The causes that may stop a step (Table 21-6), as its report gives them. -/
def causeAt (step cause : Nat) : Bool :=
  match cause with
  | 1 | 2 => step == 2
  | 4 => step == 2 || step == 3
  | 5 => step == 4
  | 9 => decide (2 ≤ step)
  | 10 => true
  | _ => false

/-- START_STEP_END (R529): a step ends and the next begins, or the start stops. -/
def startStepEndOp (rp : StepReport) (s : State) : State :=
  let step := s.boot.step
  if !starting s || s.module.resetLow then s
  else if causeAt step rp.cause then failStart s rp.cause rp.detail
  else
    let next (t : State) : State := { t with boot := { t.boot with step := step + 1 } }
    match step with
    | 1 => next (portsUp s 0 ((List.range 2).filter fun p => rp.hostsLive.getLsbD p))
    | 2 =>
      let s1 := readPegs { s with boot := { s.boot with atStart := s.vault.stopRec } }
      match chooseBank s1 rp.bankBad with
      | .ok t => next t
      | .error failed => failStart s1 3 failed
    | 3 =>
      let s1 := if s.vault.pegs.securityVersion < (runningBank s).sv then setPeg s 0 (runningBank s).sv else s
      let s2 := unwrapKeys (freeWriting (applyTransfer (applyToken s1)))
      next { s2 with boot := { s2.boot with position := rp.position, split := rp.split } }
    | 4 => next ((rp.failedUnits.filter fun u => decide (u.1 < 4)).foldl failUnit s)
    | 5 => next (stepFive s rp)
    | 6 => stepSix s
    | _ => s

/-- START_STEP_END (R529). -/
def execStartStepEnd (rp : StepReport) (s : State) : Host.Outcome State Fault Refusal := answer (startStepEndOp rp s)

/-! ## Reset inputs (Table 21-1) -/

/-- POWER_ON (R547): the input rises above 45.0 V. -/
def execPowerOn (s : State) : Host.Outcome State Fault Refusal :=
  answer (if s.module.powered then s else fullStart { s with module := { s.module with powered := true, rideThrough := false } })

/-- RESET_N_ASSERT (R538): the device stays at step 1 while RESET_N is low. -/
def execResetNAssert (s : State) : Host.Outcome State Fault Refusal :=
  let s1 := { s with module := { s.module with resetLow := true } }
  answer (if s.module.powered then fullStart s1 else s1)

/-- RESET_N_RELEASE (R538): a full start. -/
def execResetNRelease (s : State) : Host.Outcome State Fault Refusal :=
  let s1 := { s with module := { s.module with resetLow := false } }
  answer (if s.module.powered && s.module.resetLow then fullStart s1 else s1)

/-- A PCIe fundamental reset on a host port. -/
def fundamentalResetOp (port : Nat) (s : State) : State :=
  if !s.module.powered || 2 ≤ port then s
  else if s.heldun.owner = some port || s.heldun.ready = 2 || s.vault.ownerKey.isNone then fullStart s
  else portReset s port

/-- PCIE_FUNDAMENTAL_RESET (R526). -/
def execPcieFundamentalReset (port : Nat) (s : State) : Host.Outcome State Fault Refusal := answer (fundamentalResetOp port s)

/-- A reset that is only a port reset. -/
def portResetOp (port : Nat) (s : State) : State := if !s.module.powered || 2 ≤ port then s else portReset s port

/-- PCIE_HOT_RESET (R527). -/
def execPcieHotReset (port : Nat) (s : State) : Host.Outcome State Fault Refusal := answer (portResetOp port s)
/-- FUNCTION_LEVEL_RESET (R527). -/
def execFunctionLevelReset (port : Nat) (s : State) : Host.Outcome State Fault Refusal := answer (portResetOp port s)

/-! ## The input and the rails (R547, R548) -/

/-- INPUT_DROPOUT (R547): the module turns off. -/
def execInputDropout (s : State) : Host.Outcome State Fault Refusal := answer (if s.module.powered then turnOff s else s)

/-- RIDE_THROUGH (R547): work continues, but a start stops with cause POWER. -/
def execRideThrough (s : State) : Host.Outcome State Fault Refusal :=
  let s1 := { s with module := { s.module with rideThrough := true } }
  answer (if !s.module.powered then s else if starting s then failStart s1 10 0 else s1)

/-- RIDE_THROUGH_EXPIRY (R547): the input has not returned, and the module turns off. -/
def execRideThroughExpiry (s : State) : Host.Outcome State Fault Refusal :=
  answer (if s.module.powered && s.module.rideThrough then turnOff s else s)

/-- INPUT_RETURN (R547). -/
def execInputReturn (s : State) : Host.Outcome State Fault Refusal :=
  answer { s with module := { s.module with rideThrough := false } }

/-- A rail converter trips (R548): rails 8 and 9 turn the module off; any other stops the device and turns off. The vault cannot be
reached when its rail trips. -/
def converterTripOp (rail : Nat) (s : State) : State :=
  if !s.module.powered || 12 < rail then s
  else if rail = 8 || rail = 9 then turnOff s
  else
    let s1 := fatalWith s 0x50 8 (0x100 + rail) 0 (rail ≠ 12)
    { s1 with module := { s1.module with railsOff := putBit s1.module.railsOff rail true } }

/-- CONVERTER_TRIP (R548). -/
def execConverterTrip (rail : Nat) (s : State) : Host.Outcome State Fault Refusal := answer (converterTripOp rail s)

/-- OSFP_PLUG_INSERT (R545): a plug that asks for more than 15 W is not powered; a port that is commanded down powers it later
(Table 22-12). -/
def osfpPlugInsertOp (port watts : Nat) (s : State) : State :=
  if 2 ≤ port then s
  else
    let m := s.module
    let powered := decide (watts ≤ 15) && !s.power.portsDown.getLsbD (2 + port)
    let s1 := { s with module := { m with
      osfp := putBit m.osfp port true
      osfpPowered := putBit m.osfpPowered port powered
      osfpWatts := if port = 0 then (watts, m.osfpWatts.2) else (m.osfpWatts.1, watts) } }
    if powered then s1 else setPortLive s1 (4 + port) false

/-- OSFP_PLUG_INSERT (R545). -/
def execOsfpPlugInsert (port watts : Nat) (s : State) : Host.Outcome State Fault Refusal := answer (osfpPlugInsertOp port watts s)

/-! ## Host links -/

/-- HOST_LINK_DOWN (R40): the port's bit in PORTS_LIVE clears. -/
def execHostLinkDown (port : Nat) (s : State) : Host.Outcome State Fault Refusal :=
  answer (if s.module.powered && decide (port < 2) then setPortLive s port false else s)

/-- HOST_LINK_UP (R527): the port's link has trained again. -/
def execHostLinkUp (port : Nat) (s : State) : Host.Outcome State Fault Refusal :=
  answer (if s.module.powered && decide (port < 2) && decide (1 ≤ s.boot.step) then setPortLive s port true else s)

/-! ## Precision Time Measurement (R59 to R61) -/

/-- The port that the device uses for PTM (R59). DESIGN CHOICE (log 59): while no host holds the owner role, R59 does not say which of two
enabled ports is used; H0 is tried first, then H1. -/
def ptmChoice (s : State) : Option Nat :=
  let on (p : Nat) : Bool := s.ptm.enabled.getLsbD p
  match s.heldun.owner with
  | some p => if on p then some p else if on (1 - p) then some (1 - p) else none
  | none => if on 0 then some 0 else if on 1 then some 1 else none

/-- Whether an exchange is due: a port has been selected, or PTM_INTERVAL hub steps have passed since the last (R60). -/
def ptmDue (s : State) : Bool :=
  ptmChoice s != s.ptm.port || decide (2 ^ s.ptm.log2Interval ≤ (hubNow s + 2 ^ 64 - s.ptm.lastStart) % 2 ^ 64)

/-- PTM_EXCHANGE (R60). -/
def ptmExchangeOp (s : State) : State :=
  match ptmChoice s with
  | none => { s with ptm := { s.ptm with port := none, waiting := false } }
  | some p =>
    if !s.module.powered || !ptmDue s then s
    else
      let s1 := { s with ptm := { s.ptm with port := some p, waiting := true, lastStart := hubNow s } }
      send s1 (.ptmRequest p)

/-- PTM_EXCHANGE (R60). -/
def execPtmExchange (s : State) : Host.Outcome State Fault Refusal := answer (ptmExchangeOp s)

/-- PTM_RESPONSE (R61): a good response completes the exchange; a failed one leaves the last good exchange (R60). -/
def ptmResponseOp (port time : Nat) (good : Bool) (s : State) : State :=
  if !s.ptm.waiting || s.ptm.port ≠ some port then s
  else
    let p := { s.ptm with waiting := false }
    if !good then { s with ptm := p }
    else
      { s with ptm := { p with
          valid := true
          goodPort := port
          time := time % 2 ^ 64
          seq := p.seq + 1
          goodAt := hubNow s } }

/-- PTM_RESPONSE (R61). -/
def execPtmResponse (port time : Nat) (good : Bool) (s : State) : Host.Outcome State Fault Refusal := answer (ptmResponseOp port time good s)

/-- A host enables or disables PTM on its port. A selected port on which it is disabled is selected no more, so that an exchange is due when it
is selected again (R59, R60). -/
def ptmEnableOp (port : Nat) (on : Bool) (s : State) : State :=
  if 2 ≤ port then s
  else
    let p := { s.ptm with enabled := putBit s.ptm.enabled port on }
    { s with ptm := if !on && p.port == some port then { p with port := none, waiting := false } else p }

/-- PTM_ENABLE (R59). -/
def execPtmEnable (port : Nat) (on : Bool) (s : State) : Host.Outcome State Fault Refusal := answer (ptmEnableOp port on s)

end Sys2Proof.Machine
end

