-- ==== Sys2Proof/Machine/Keys.lean ====
section
/-!
DEFINITION. Sys2Proof/Machine/Keys.lean: key slots (R417 to R419, R428), the device's identity and its reports (R405 to R415, R421), and the
budget of HSS signatures (R409, R410).
-/

namespace Sys2Proof.Machine

/-! ## Key slot records (R418) -/

def putSlot (s : State) (k : Nat) (x : KeySlot) : State := { s with keys := { s.keys with slots := tabSet s.keys.slots k x freeSlot } }

/-- Registered contexts and LIVE adapters that name a slot: USERS of Table 16-5. -/
def slotUsers (s : State) (k : Nat) : Nat :=
  (s.kv.ctxs.filter fun c => c.2.state != 0 && c.2.keySlot == k).length
    + (s.adapters.filter fun a => a.2.state == 1 && a.2.keySlot == k).length

/-- The 64-byte key slot record (Table 16-5). -/
def keySlotBytes (s : State) (k : Nat) : List Byte :=
  let x := keySlotOf s k
  natLe 64 (x.state + b2n x.linkSet * 2 ^ 3 + k * 2 ^ 4 + slotUsers s k * 2 ^ 64 + x.windowAsid * 2 ^ 96 + x.tenant * 2 ^ 112
    + x.senderId * 2 ^ 128 + x.windowBytes * 2 ^ 160 + x.linkSeq * 2 ^ 192 + x.outSeq * 2 ^ 256 + x.ringSeq * 2 ^ 320
    + x.windowVa * 2 ^ 384 + x.tagVa * 2 ^ 448)

/-! ## kn.key_bind (R419) -/

/-- The checks of Table 16-6 for an action: 0 RESERVE, 1 LINK, 2 DESTROY, 3 QUERY. -/
def bindChecks (s : State) (p : List Byte) (act : Nat) : List Check :=
  let rsv := act == 0
  let ptr := fld p 8 8
  let len := fld p 24 4
  [fmtAt 1 (fld p 1 1 == 0), fmtAt 2 (decide (fld p 2 2 ≤ 4094)), fmtAt 4 (if rsv then fld p 4 2 != 0 else fld p 4 2 == 0),
   fmtAt 6 (if rsv then (asidRec s (fld p 6 2)).state == 1 else fld p 6 2 == 0),
   fmtAt 8 (match act with | 0 => ptr != 0 && ptrOk ptr 65536 | 1 => ptrOk ptr 16 | 3 => ptrOk ptr 64 | _ => ptr == 0),
   fmtAt 16 (if rsv then ptrOk (fld p 16 8) 4096 else fld p 16 8 == 0),
   match act with
   | 0 => lenAt 24 (len % 65536 == 0 && decide (65536 ≤ len))
   | 1 => lenAt 24 (decide (80 ≤ len))
   | 3 => lenAt 24 (decide (64 ≤ len))
   | _ => fmtAt 24 (len == 0),
   notOnes p 24 4, rsvAt p 28 36]

def knKeyBindReserveBody : Body := fun s _ _ p => onAction p 0 4 do
  checkAll (bindChecks s p 0)
  let k := fld p 2 2
  checkAll [fmtAt 2 ((keySlotOf s k).state == 0)]
  need (s.keys.sealedAllowed && !s.keys.debugActive) sSeal (sealMode + k * 2 ^ 8)
  let x : KeySlot := { freeSlot with
    state := 1, tenant := fld p 4 2, windowAsid := fld p 6 2, windowVa := fld p 8 8, windowBytes := fld p 24 4, tagVa := fld p 16 8 }
  pure (.act (putSlot s k x) [] 32 0 0)

/-- The additional data of a link blob (R428). -/
def linkAad (x : KeySlot) (k : Nat) : List Byte := natLe 2 x.tenant ++ natLe 2 k ++ fillBytes 12 0#8

/-- Opens a link blob: the link key and SENDER_ID. Its nonce must be a tenant nonce (R424, R428). -/
def openLink (x : KeySlot) (k : Nat) (blob : List Byte) : Option (List Byte × Nat) :=
  if !zeroRange blob 0 4 || !zeroRange blob 12 4 then none
  else (gcmOpen x.ioKey (slice blob 0 12) (linkAad x k) (slice blob 16 48) (slice blob 64 16)).map fun pt => (slice pt 0 32, fld pt 32 4)

def knKeyBindLinkBody : Body := fun s a _ p => onAction p 1 4 do
  checkAll (bindChecks s p 1)
  let k := fld p 2 2
  let x := keySlotOf s k
  checkAll [fmtAt 2 (x.state == 2)]
  let blob ← readVa s a (onePass 80) false (fld p 8 8) 80
  match openLink x k blob with
  | none => finish sSeal (sealTag + k * 2 ^ 8)
  | some (key, sender) =>
    pure (.act (putSlot s k { x with linkKey := key, senderId := sender, linkSet := true, linkSeq := 0 }) [] 64 0 0)

def knKeyBindDestroyBody : Body := fun s _ f p => onAction p 2 4 do
  checkAll (bindChecks s p 2)
  let k := fld p 2 2
  let x := keySlotOf s k
  checkAll [fmtAt 2 ((x.state == 1 || x.state == 2) && slotUsers s k == 0)]
  let tagged := (s.memories.segs.filter fun e => e.2.keySlot == k).length
  let t := putSlot s k { x with state := 3 }
  pure (.drain t (.keySlot k) (startedWhere t f.cid fun g => g.cmd.keySlot % 4096 == k) (64 + 128 * tagged) 0 0)

def knKeyBindQueryBody : Body := fun s a _ p => onAction p 3 4 do
  checkAll (bindChecks s p 3)
  let ws ← stageVa s a (onePass 64) false (fld p 8 8) (keySlotBytes s (fld p 2 2))
  pure (.act s ws 32 0 0)

/-- KN_KEY_BIND_RESERVE (R419). -/
def execKnKeyBindReserve (st : Start) (s : State) : Host.Outcome State Fault Refusal := startHub 0xF00B knKeyBindReserveBody st s
/-- KN_KEY_BIND_LINK (R428). -/
def execKnKeyBindLink (st : Start) (s : State) : Host.Outcome State Fault Refusal := startHub 0xF00B knKeyBindLinkBody st s
/-- KN_KEY_BIND_DESTROY (R419). -/
def execKnKeyBindDestroy (st : Start) (s : State) : Host.Outcome State Fault Refusal := startHub 0xF00B knKeyBindDestroyBody st s
/-- KN_KEY_BIND_QUERY (R419). -/
def execKnKeyBindQuery (st : Start) (s : State) : Host.Outcome State Fault Refusal := startHub 0xF00B knKeyBindQueryBody st s

/-! ## HSS signatures (R409, R410) -/

/-- HSS_BUDGET_REGAIN (R410): 2^32 hub steps have passed since the budget last regained a signature. -/
def hssRegainOp (s : State) : State :=
  if serving s && decide (2 ^ 32 ≤ (hubNow s + 2 ^ 64 - s.keys.hssRegainAt) % 2 ^ 64) then
    { s with keys := { s.keys with hssBudget := min 1024 (s.keys.hssBudget + 1), hssRegainAt := wrapAdd 64 s.keys.hssRegainAt (2 ^ 32) } }
  else s

/-- HSS_BUDGET_REGAIN (R410). -/
def execHssBudgetRegain (s : State) : Host.Outcome State Fault Refusal := answer (hssRegainOp s)

/-- Draws the next HSS leaf: the reservation and the leaf, and the state after; none if the budget or the row is at its end. -/
def drawLeaf (s : State) : Option ((Nat × Nat) × State) :=
  if s.keys.hssBudget = 0 then none
  else
    let spend (s : State) (q n : Nat) : (Nat × Nat) × State :=
      ((q, n), { s with keys := { s.keys with hssBudget := s.keys.hssBudget - 1, hssLeaf := some (q, n + 1) } })
    match s.keys.hssLeaf with
    | some (q, n) =>
      if n < 1024 then some (spend s q n)
      else if 32768 ≤ s.vault.pegs.attestReserve then none
      else some (spend (setPeg s 3 (s.vault.pegs.attestReserve + 1)) s.vault.pegs.attestReserve 0)
    | none =>
      if 32768 ≤ s.vault.pegs.attestReserve then none
      else some (spend (setPeg s 3 (s.vault.pegs.attestReserve + 1)) s.vault.pegs.attestReserve 0)

/-! ## Identity and measurements (R405, R406, R413, R414) -/

def serialBytes : List Byte := natLe 8 Config.serial

/-- The public part of the identity key DIK. -/
def dikPublic : List Byte := ecPublic identityKey

/-- The LMS endorsement: its 176-byte record and the root's signature. -/
def endorsement : List Byte :=
  serialBytes ++ padTo 2 Config.steppingName ++ fillBytes 6 0#8 ++ dikPublic ++ padTo 60 hssPublic ++ fillBytes 4 0#8
    ++ Config.endorsementSig

/-- SHA-384 of the running Heldun image. -/
def fwHash (s : State) : List Byte := sha384 (runningBank s).image

/-- OWNER_KEY_HASH: 0 with no owner. -/
def ownerKeyHash (s : State) : List Byte := match s.vault.ownerKey with | some k => sha384 k | none => fillBytes 48 0#8

/-- The 52-byte record of a slot under SLOTS_HASH. -/
def slotMeasure (s : State) (k : Nat) : List Byte :=
  let x := vaultSlot s k
  let code := match x.state with | .free => 0 | .writing => 1 | .ready => 2 | .damaged => 3
  let (model, bound) := boundOf s k
  natLe 1 k ++ natLe 1 code ++ natLe 1 bound ++ natLe 1 model ++ padTo 48 x.hash

def slotsHash (s : State) : List Byte := sha384 ((List.range 64).flatMap (slotMeasure s))
def unitsHash (s : State) : List Byte := sha384 (mapBytes s)

/-- The 64-byte record of the sealed configuration. -/
def sealedConfig (s : State) : List Byte :=
  padTo 64 (natLe 4 (b2n s.keys.sealedAllowed) ++ natLe 4 s.vault.observerRights.toNat ++ natLe 1 (b2n s.keys.debugActive))

def sealedHash (s : State) : List Byte := sha384 (sealedConfig s)

/-- PROV_PUB (R407). -/
def provPublic (s : State) : List Byte := ecPublic (provScalar s.vault.pegs.securityVersion s.vault.pegs.debugUnlock)

/-- A session's part of a report. -/
structure Session where
  slot   : Nat
  tenant : Nat
  tpub   : List Byte
  dpub   : List Byte
deriving DecidableEq, Repr

/-- The 640-byte report body (Table 16-4). -/
def reportBody (s : State) (nonce : List Byte) (lms : Bool) (ses : Option Session) : List Byte :=
  let flags := b2n ses.isSome + 2 * b2n s.keys.debugActive + 4 * b2n lms
  natLe 4 0x41545359 ++ natLe 2 1 ++ natLe 1 flags ++ natLe 1 0 ++ padTo 48 nonce ++ natLe 4 s.vault.pegs.securityVersion
    ++ natLe 1 s.vault.pegs.ownerEpoch ++ natLe 1 s.vault.pegs.debugUnlock
    ++ natLe 2 ((ses.map Session.slot).getD 0xFFFF) ++ natLe 2 ((ses.map Session.tenant).getD 0) ++ natLe 2 0
    ++ natLe 4 s.units.map.mapSeq ++ serialBytes ++ padTo 48 Config.romHash ++ fwHash s ++ ownerKeyHash s ++ slotsHash s ++ unitsHash s
    ++ sealedHash s ++ (match ses with | some x => sha384 x.tpub | none => fillBytes 48 0#8)
    ++ padTo 96 ((ses.map Session.dpub).getD []) ++ provPublic s ++ stampBytes (stampNow s) ++ fillBytes 16 0#8

/-- Draws random bytes. -/
def drawRandom (s : State) (len : Nat) : List Byte × State :=
  let (n, s1) := drawFresh s
  (padTo len (Config.random n len), s1)

/-- Signs a message with DIK. -/
def signDik (s : State) (msg : List Byte) : List Byte × State :=
  let (k, s1) := drawRandom s 48
  (ecdsaSign identityKey (scalarOf k) msg, s1)

/-- A whole report: body and signature block (R413, R415). With `dual` it carries an HSS signature if one can be drawn (R410). -/
def signedReport (s : State) (nonce : List Byte) (dual : Bool) (ses : Option Session) : List Byte × State :=
  match (if dual then drawLeaf s else none) with
  | none =>
    let body := reportBody s nonce false ses
    let (sig, s1) := signDik s body
    (body ++ sig ++ natLe 4 0, s1)
  | some ((q, n), s1) =>
    let body := reportBody s1 nonce true ses
    let (sig, s2) := signDik s1 body
    (body ++ sig ++ natLe 4 3124 ++ padTo 3124 (hssSign q n body), s2)

/-- The session keys of a slot (R421): IO_KEY and MEM_KEY. -/
def sessionKeys (secret nonce body : List Byte) : List Byte × List Byte :=
  let k := hkdf384 nonce secret (ascii "yarka seal v1" ++ sha384 body) 96
  (k.take 32, k.drop 32)

end Sys2Proof.Machine
end

