-- ==== Sys2Proof/Machine/Spdm.lean ====
section
/-!
DEFINITION. Sys2Proof/Machine/Spdm.lean: the SPDM responder of each host port (R416). The rule names the requests, the algorithms, the certificate
slot and the measurement blocks; the message layouts are those of DMTF DSP0274 (PRESUMED).
-/

namespace Sys2Proof.Machine

/-! ## Messages -/

def spdmVersion : Nat := 0x84
def spdmCapabilities : Nat := 0xE1
def spdmAlgorithms : Nat := 0xE3
def spdmDigests : Nat := 0x81
def spdmCertificate : Nat := 0x82
def spdmChallenge : Nat := 0x83
def spdmMeasurements : Nat := 0xE0

/-- An ERROR message. -/
def spdmError (ver code : Nat) : List Byte := natLe 1 ver ++ natLe 1 0x7F ++ natLe 1 code ++ natLe 1 0

/-- The error codes InvalidRequest, UnexpectedRequest and VersionMismatch. -/
def spdmInvalid : Nat := 1
def spdmUnexpected : Nat := 4
def spdmMismatch : Nat := 0x41

/-- The version that a port's connection uses in its messages. -/
def spdmVer (m : Mbox) : Nat := if m.spdm < 0x12 then 0x12 else m.spdm

/-- One request: its answer leaves on the port's DOE mailbox. `code` is the row's request; another request code in the body is not this row. -/
def spdmOp (code : Nat) (act : State → Mbox → List Byte → State × Mbox × List Byte) (port : Nat) (body : List Byte) (s : State) : State :=
  if !serving s || 2 ≤ port || !portLive s port || fld body 1 1 ≠ code then s
  else
    let (s1, m, reply) := act s (mboxOf s port) body
    send (setMbox s1 port m) (.doe port reply)

/-- A request that needs a state of the connection and the agreed version. -/
def spdmNeed (ok : Mbox → Bool) (act : State → Mbox → List Byte → State × Mbox × List Byte) (s : State) (m : Mbox) (body : List Byte) :
    State × Mbox × List Byte :=
  if !ok m then (s, m, spdmError (spdmVer m) spdmUnexpected)
  else if m.spdm ≠ 0x10 && fld body 0 1 ≠ m.spdm then (s, m, spdmError (spdmVer m) spdmMismatch)
  else act s m body

/-- Whether the algorithms are agreed. -/
def spdmReady (m : Mbox) : Bool := m.spdmAlgs && decide (0x12 ≤ m.spdm)

/-! ## The connection -/

/-- GET_VERSION starts the connection again: versions 1.2 and 1.3. -/
def versionAct (s : State) (m : Mbox) (body : List Byte) : State × Mbox × List Byte :=
  if fld body 0 1 ≠ 0x10 then (s, m, spdmError 0x10 spdmMismatch)
  else
    let reply := natLe 1 0x10 ++ natLe 1 0x04 ++ natLe 3 0 ++ natLe 1 2 ++ natLe 2 0x1200 ++ natLe 2 0x1300
    (s, { m with spdm := 0x10, spdmAlgs := false, spdmVca := body ++ reply, spdmCert := [], spdmMeas := [] }, reply)

/-- GET_CAPABILITIES agrees on the version: certificates, challenge and signed measurements. -/
def capabilitiesAct (s : State) (m : Mbox) (body : List Byte) : State × Mbox × List Byte :=
  let v := fld body 0 1
  if v ≠ 0x12 && v ≠ 0x13 then (s, m, spdmError (spdmVer m) spdmMismatch)
  else
    let reply := natLe 1 v ++ natLe 1 0x61 ++ natLe 3 0 ++ natLe 1 Config.spdmTime ++ natLe 2 0 ++ natLe 4 0x16
      ++ natLe 4 Config.spdmTransfer ++ natLe 4 Config.spdmMessage
    (s, { m with spdm := v, spdmVca := m.spdmVca ++ body ++ reply }, reply)

/-- NEGOTIATE_ALGORITHMS selects ECDSA P-384 and SHA-384, where the requester offers them. -/
def algorithmsAct (s : State) (m : Mbox) (body : List Byte) : State × Mbox × List Byte :=
  let asym := if bitOf (fld body 8 4) 7 then 0x80 else 0
  let hash := if bitOf (fld body 12 4) 1 then 2 else 0
  let reply := natLe 1 m.spdm ++ natLe 1 0x63 ++ natLe 2 0 ++ natLe 2 36 ++ natLe 1 1 ++ natLe 1 0 ++ natLe 4 4 ++ natLe 4 asym ++ natLe 4 hash
    ++ natLe 16 0
  (s, { m with spdmAlgs := asym ≠ 0 && hash ≠ 0, spdmVca := m.spdmVca ++ body ++ reply }, reply)

/-! ## Certificates -/

/-- The certificate chain of slot 0: its length, the hash of its first certificate, and the ECDSA chain of R406. -/
def spdmChain : List Byte :=
  let c := certChain
  let root := c.take (4 + beNat (slice c 2 2))
  natLe 2 (52 + c.length) ++ natLe 2 0 ++ sha384 root ++ c

def digestsAct (s : State) (m : Mbox) (body : List Byte) : State × Mbox × List Byte :=
  let reply := natLe 1 m.spdm ++ natLe 1 0x01 ++ natLe 1 (if m.spdm = 0x13 then 1 else 0) ++ natLe 1 1 ++ sha384 spdmChain
  (s, { m with spdmCert := m.spdmCert ++ body ++ reply }, reply)

def certificateAct (s : State) (m : Mbox) (body : List Byte) : State × Mbox × List Byte :=
  let off := fld body 4 2
  let total := spdmChain.length
  if fld body 2 1 % 16 ≠ 0 || total ≤ off then (s, m, spdmError m.spdm spdmInvalid)
  else
    let n := min (fld body 6 2) (total - off)
    let reply := natLe 1 m.spdm ++ natLe 1 0x02 ++ natLe 2 0 ++ natLe 2 n ++ natLe 2 (total - off - n) ++ slice spdmChain off n
    (s, { m with spdmCert := m.spdmCert ++ body ++ reply }, reply)

/-! ## Signed answers -/

/-- What DIK signs for a transcript: the version's prefix, the context, and the transcript's hash. -/
def spdmSigned (ver : Nat) (context : String) (transcript : List Byte) : List Byte :=
  let v := ascii (if ver = 0x13 then "dmtf-spdm-v1.3.*" else "dmtf-spdm-v1.2.*")
  let c := ascii context
  v ++ v ++ v ++ v ++ fillBytes (36 - c.length) 0#8 ++ c ++ sha384 transcript

/-- A measurement block: index and value, a digest or raw. -/
def measureBlock (index type : Nat) (value : List Byte) : List Byte :=
  natLe 1 index ++ natLe 1 1 ++ natLe 2 (3 + value.length) ++ natLe 1 type ++ natLe 2 value.length ++ value

/-- The measurement blocks 1 to 8 of R416. -/
def measureBlocks (s : State) : List (List Byte) :=
  [measureBlock 1 0 (padTo 48 Config.romHash), measureBlock 2 1 (fwHash s), measureBlock 3 0x87 (natLe 4 s.vault.pegs.securityVersion),
   measureBlock 4 0x83 (natLe 1 s.vault.pegs.ownerEpoch ++ ownerKeyHash s), measureBlock 5 3 (slotsHash s),
   measureBlock 6 0x83 (unitsHash s ++ natLe 4 s.units.map.mapSeq), measureBlock 7 3 (sealedHash s), measureBlock 8 0x83 (provPublic s)]

/-- RequesterContext, which version 1.3 carries. -/
def spdmContext (m : Mbox) (body : List Byte) (off : Nat) : List Byte := if m.spdm = 0x13 then slice body off 8 else []

def challengeAct (s : State) (m : Mbox) (body : List Byte) : State × Mbox × List Byte :=
  let kind := fld body 3 1
  if fld body 2 1 ≠ 0 || !(kind == 0 || kind == 1 || kind == 0xFF) then (s, m, spdmError m.spdm spdmInvalid)
  else
    let (nonce, s1) := drawRandom s 32
    let all := measureBlocks s
    let summary := if kind = 0 then [] else if kind = 1 then sha384 (all.take 2).flatten else sha384 all.flatten
    let head := natLe 1 m.spdm ++ natLe 1 0x03 ++ natLe 1 0 ++ natLe 1 1 ++ sha384 spdmChain ++ nonce ++ summary ++ natLe 2 0
      ++ spdmContext m body 36
    let (sig, s2) := signDik s1 (spdmSigned m.spdm "responder-challenge_auth signing" (m.spdmVca ++ m.spdmCert ++ body ++ head))
    (s2, { m with spdmCert := [] }, head ++ sig)

def measurementsAct (s : State) (m : Mbox) (body : List Byte) : State × Mbox × List Byte :=
  let sign := bitOf (fld body 2 1) 0
  let which := fld body 3 1
  let all := measureBlocks s
  if !(which == 0xFF || decide (which ≤ 8)) || (sign && fld body 36 1 % 16 ≠ 0) then (s, m, spdmError m.spdm spdmInvalid)
  else
    let sel := if which = 0 then [] else if which = 0xFF then all else (all.drop (which - 1)).take 1
    let (nonce, s1) := drawRandom s 32
    let record := sel.flatten
    let head := natLe 1 m.spdm ++ natLe 1 0x60 ++ natLe 1 (if which = 0 then 8 else 0) ++ natLe 1 0 ++ natLe 1 sel.length
      ++ natLe 3 record.length ++ record ++ nonce ++ natLe 2 0 ++ spdmContext m body (if sign then 37 else 4)
    let log := m.spdmMeas ++ body ++ head
    if !sign then (s1, { m with spdmMeas := log }, head)
    else
      let (sig, s2) := signDik s1 (spdmSigned m.spdm "responder-measurements signing" (m.spdmVca ++ log))
      (s2, { m with spdmMeas := [] }, head ++ sig)

/-! ## The rows -/

/-- GET_VERSION (R416). -/
def execGetVersion (port : Nat) (body : List Byte) (s : State) : Host.Outcome State Fault Refusal :=
  answer (spdmOp spdmVersion versionAct port body s)
/-- GET_CAPABILITIES (R416). -/
def execGetCapabilities (port : Nat) (body : List Byte) (s : State) : Host.Outcome State Fault Refusal :=
  answer (spdmOp spdmCapabilities (spdmNeed (fun m => m.spdm == 0x10) capabilitiesAct) port body s)
/-- NEGOTIATE_ALGORITHMS (R416). -/
def execNegotiateAlgorithms (port : Nat) (body : List Byte) (s : State) : Host.Outcome State Fault Refusal :=
  answer (spdmOp spdmAlgorithms (spdmNeed (fun m => decide (0x12 ≤ m.spdm) && !m.spdmAlgs) algorithmsAct) port body s)
/-- GET_DIGESTS (R416). -/
def execGetDigests (port : Nat) (body : List Byte) (s : State) : Host.Outcome State Fault Refusal :=
  answer (spdmOp spdmDigests (spdmNeed spdmReady digestsAct) port body s)
/-- GET_CERTIFICATE (R416). -/
def execGetCertificate (port : Nat) (body : List Byte) (s : State) : Host.Outcome State Fault Refusal :=
  answer (spdmOp spdmCertificate (spdmNeed spdmReady certificateAct) port body s)
/-- CHALLENGE (R416). -/
def execChallenge (port : Nat) (body : List Byte) (s : State) : Host.Outcome State Fault Refusal :=
  answer (spdmOp spdmChallenge (spdmNeed spdmReady challengeAct) port body s)
/-- GET_MEASUREMENTS (R416). -/
def execGetMeasurements (port : Nat) (body : List Byte) (s : State) : Host.Outcome State Fault Refusal :=
  answer (spdmOp spdmMeasurements (spdmNeed spdmReady measurementsAct) port body s)

end Sys2Proof.Machine
end

