-- ==== Sys2Proof/Machine/Heldun.lean ====
section
/-!
DEFINITION. Sys2Proof/Machine/Heldun.lean: one mailbox exchange (R442 to R448): the checks of R446 in their order, the reply cache, the roles
of R450, and the response page. Machine/Mailbox.lean and Machine/Powers.lean give each command its specification.
-/

namespace Sys2Proof.Machine

/-! ## A command's specification -/

/-- Who may issue a command (R450). -/
inductive MbRole where
  | any
  | owner
  /-- The owner, or an observer with this bit of OBSERVER_RIGHTS. -/
  | right (bit : Nat)
deriving DecidableEq, Repr

/-- What a request that passes its checks answers: the state, RESULT, DETAIL, the response's payload, whether a reset follows the
response (R461), and the message to a peer whose answer the response waits for. -/
structure MbDone where
  state   : State
  result  : Nat
  detail  : Nat
  payload : List Byte
  reset   : Bool
  begun   : Option Nat

/-- A payload check: whether it holds, and the result and DETAIL if it does not. -/
structure MbCheck where
  holds  : Bool
  result : Nat
  detail : Nat
deriving DecidableEq, Repr

/-- A command of Table 17-11: its code, whether Table 17-14 offers it at major 1, its role, whether a payload is this row's, the lengths that
its payload may have, its payload checks, and its execution on a port; none where it must wait. -/
structure MbSpec where
  code    : Nat
  major1  : Bool
  role    : MbRole
  mine    : List Byte → Bool
  lengths : Nat → Bool
  checks  : State → List Byte → List MbCheck
  run     : State → Nat → List Byte → Option MbDone

def done (s : State) (payload : List Byte) : Option MbDone := some ⟨s, mrOk, 0, payload, false, none⟩
def refuse (s : State) (result detail : Nat) : Option MbDone := some ⟨s, result, detail, [], false, none⟩
/-- MR_STATE where no rule gives the state code of Table 17-9. -/
def refuseState (s : State) (code reason : Nat) : Option MbDone := refuse s mrState (Config.stateDetail code reason)

/-- A reserved field, and a field with a legal range. -/
def rsvField (p : List Byte) (off len : Nat) : MbCheck := ⟨zeroRange p off len, mrFormat, off⟩
def formField (off : Nat) (ok : Bool) : MbCheck := ⟨ok, mrFormat, off⟩
def rangeField (off : Nat) (ok : Bool) : MbCheck := ⟨ok, mrRange, off⟩

/-! ## Minors and roles -/

/-- The device's minor of a family at a major (Table 17-14). -/
def deviceMinor (major family : Nat) : Nat :=
  if major = 2 then b2n (decide (family ≤ 0xA)) else b2n ([0, 3, 8, 9].contains family)

def familyOf (code : Nat) : Nat := code / 4096
/-- The negotiated minor of a family on a port. -/
def minorOf (m : Mbox) (family : Nat) : Nat := m.minors.getD family 0

/-- Whether a host may issue a command (R449, R450), and the DETAIL of MR_ROLE if not. -/
def roleFails (s : State) (port : Nat) : MbRole → Option Nat
  | .any => none
  | .owner => if s.heldun.owner = some port then none else some 0xFFFFFFFF
  | .right b => if s.heldun.owner = some port || observerHas s b then none else some b

/-! ## The exchange -/

/-- Steps 4 to 7 of R446: the first check that fails, as (RESULT, DETAIL). -/
def mbChecks (sp : MbSpec) (s : State) (rq : MbReq) (p : List Byte) : Option (Nat × Nat) :=
  let m := mboxOf s rq.port
  let minor := minorOf m (familyOf sp.code)
  let offered :=
    if sp.code = cmdHello then rq.minor == 1
    else (m.major == some 2 || sp.major1) && decide (1 ≤ rq.minor && rq.minor ≤ minor)
  if !offered then some (mrUnsupported, minor)
  else if !sp.lengths rq.length then some (mrFormat, inHeader 6)
  else
    match roleFails s rq.port sp.role with
    | some d => some (mrRole, d)
    | none => ((sp.checks s p).find? fun c => !c.holds).map fun c => (c.result, c.detail)

/-- Serves a request that is no replay: checks, execution, response, cache, and the reset that MB_RESET commands. A request during which
the device stops has no response (R445). -/
def serveNew (sp : MbSpec) (s : State) (rq : MbReq) (p : List Byte) : State :=
  match mbChecks sp s rq p with
  | some (result, detail) => endRequest s sp.code rq result detail []
  | none =>
    match sp.run s rq.port p with
    | none => s
    | some d =>
      if !serving d.state then d.state
      else
        match d.begun with
        | some id => setMbox { d.state with shoes := { d.state.shoes with init := some (id, rq) } } rq.port
            { mboxOf d.state rq.port with busy := true }
        | none =>
        let t := endRequest d.state sp.code rq d.result d.detail d.payload
        if !d.reset then t
        else if mailboxBusy t then { t with heldun := { t.heldun with resetDue := true } }
        else fullStart t

/-- Whether a cached entry is the same request (R448). -/
def sameRequest (r : Reply) (code : Nat) (rq : MbReq) (digest : List Byte) : Bool :=
  r.command == code && r.length == rq.length && r.digest == digest

/-- One mailbox exchange (Table 17-6): a GO written while READY is not 1 is ignored. -/
def mbOp (sp : MbSpec) (rq : MbReq) (s : State) : State :=
  let p := padTo rq.length rq.payload
  if !serving s || 2 ≤ rq.port || !portLive s rq.port || !sp.mine p then s
  else
    let m := mboxOf s rq.port
    if m.busy then setMbox s rq.port { m with overrun := true } else
    let answer1 (result detail : Nat) : State := respond s rq.port rq.txn (responseOf s sp.code rq.txn result detail [])
    if rq.rsv ≠ 0 then answer1 mrFormat (inHeader (if rq.rsv % 256 ≠ 0 then 5 else 8))
    else if mbLimit < rq.length then answer1 mrFormat (inHeader 6)
    else if m.major.isNone && sp.code ≠ cmdHello then answer1 mrNoHello 0
    else
      let digest := sha384 p
      match (if rq.txn = 0 then none else m.cache.find? fun r => r.txn == rq.txn) with
      | some r =>
        if sameRequest r sp.code rq digest then respond s rq.port rq.txn (patch r.response 8 [1#8])
        else answer1 mrTxnConflict r.command
      | none => serveNew sp s rq p

/-- A mailbox command of fixed payload length. -/
def fixedLen (n : Nat) : Nat → Bool := fun l => l == n
/-- A row that takes every payload of its code. -/
def anyPayload : List Byte → Bool := fun _ => true

end Sys2Proof.Machine
end

