-- ==== Sys2Proof/Machine/Mailbox.lean ====
section
/-!
DEFINITION. Sys2Proof/Machine/Mailbox.lean: the mailbox commands of families 0x0 to 0x7, 0x9 and 0xA (Tables 17-11 and 17-15), and writes to
the BAR0 registers (R441).
-/

namespace Sys2Proof.Machine

/-! ## Family 0x0: session (R452, R453, R454) -/

/-- The mailbox majors that the running firmware serves, of {1, 2}. -/
def deviceMajors (s : State) : Nat := (runningBank s).majors &&& 6

/-- The highest common major, if any (Table 17-12, step 2). -/
def commonMajor (s : State) (majors : Nat) : Option Nat :=
  let both := majors &&& deviceMajors s
  if bitOf both 2 then some 2 else if bitOf both 1 then some 1 else none

/-- The response payload of MB_HELLO (Table 17-13). -/
def helloBytes (s : State) (port major : Nat) (minors : List Nat) : List Byte :=
  let b := runningBank s
  natLe 1 major ++ natLe 1 (b2n (s.heldun.owner == some port)) ++ minors.flatMap (natLe 1) ++ padTo 2 Config.steppingName
    ++ natLe 4 b.fwVersion ++ natLe 4 s.vault.pegs.securityVersion ++ natLe 4 b.costModel ++ serialBytes
    ++ natLe 4 s.vault.observerRights.toNat ++ natLe 4 s.shoes.count ++ natLe 16 0

def helloRun (s : State) (port : Nat) (p : List Byte) : Option MbDone :=
  match commonMajor s (fld p 0 2) with
  | none => refuse s mrRange 0
  | some major =>
    let minors := (List.range 16).map fun f => min (fld p (4 + f) 1) (deviceMinor major f)
    let s1 := setMbox s port { mboxOf s port with major := some major, minors := minors }
    let s2 := if major = 1 && s1.heldun.owner = some port then moveOwner s1 none else s1
    done s2 (helloBytes s2 port major minors)

def helloSpec : MbSpec :=
  { code := cmdHello, major1 := true, role := .any, mine := anyPayload, lengths := fixedLen 20
    checks := fun _ p => [rsvField p 2 2], run := helloRun }

def nonceRun (s : State) (port : Nat) (_ : List Byte) : Option MbDone :=
  let (n, s1) := drawRandom s 48
  done (setMbox s1 port { mboxOf s1 port with nonce := some n }) n

def nonceSpec : MbSpec :=
  { code := 0x0002, major1 := false, role := .any, mine := anyPayload, lengths := fixedLen 0, checks := fun _ _ => [], run := nonceRun }

/-! ## Family 0x1: ownership (R411, R417) -/

/-- Whether a signature over the port's challenge verifies; the nonce is used. -/
def challengeSigned (s : State) (port : Nat) (key sig : List Byte) : Bool :=
  match (mboxOf s port).nonce with
  | some n => ecdsaVerify key (n ++ serialBytes) sig
  | none => false

def useNonce (s : State) (port : Nat) : State := setMbox s port { mboxOf s port with nonce := none }

def claimRun (s : State) (port : Nat) (p : List Byte) : Option MbDone :=
  if s.vault.ownerKey.isSome then refuseState s 0x1001 0
  else if 15 ≤ s.vault.pegs.ownerEpoch then refuse s mrLimit 0
  else
    let key := slice p 0 96
    let s1 := useNonce s port
    if !challengeSigned s port key (slice p 96 96) then refuse s1 mrSig 1
    else
      let s2 := setPeg s1 1 (s1.vault.pegs.ownerEpoch + 1)
      done (moveOwner (recordWrite { s2 with vault := { s2.vault with ownerKey := some key } }) (some port)) []

def claimSpec : MbSpec :=
  { code := 0x1001, major1 := false, role := .any, mine := anyPayload, lengths := fixedLen 192, checks := fun _ _ => [], run := claimRun }

def takeRun (s : State) (port : Nat) (p : List Byte) : Option MbDone :=
  match s.vault.ownerKey with
  | none => refuseState s 0x1002 0
  | some key =>
    let s1 := useNonce s port
    if !challengeSigned s port key (slice p 0 96) then refuse s1 mrSig 1 else done (moveOwner s1 (some port)) []

def takeSpec : MbSpec :=
  { code := 0x1002, major1 := false, role := .any, mine := anyPayload, lengths := fixedLen 96, checks := fun _ _ => [], run := takeRun }

/-- The 65-byte transfer message of R411. -/
def transferMessage (s : State) (key : List Byte) : List Byte :=
  ascii "transfer" ++ serialBytes ++ natLe 1 (s.vault.pegs.ownerEpoch + 1) ++ sha384 key

def transferRun (s : State) (_ : Nat) (p : List Byte) : Option MbDone :=
  let key := slice p 0 96
  if 15 ≤ s.vault.pegs.ownerEpoch then refuse s mrLimit 0
  else if !ecdsaVerify (s.vault.ownerKey.getD []) (transferMessage s key) (slice p 96 96) then refuse s mrSig 1
  else done (recordWrite { s with vault := { s.vault with transfer := some key } }) []

def transferSpec : MbSpec :=
  { code := 0x1003, major1 := false, role := .owner, mine := anyPayload, lengths := fixedLen 192, checks := fun _ _ => [], run := transferRun }

/-- Whether every tenant key slot is FREE (R417). -/
def slotsFree (s : State) : Bool := !(s.keys.slots.any fun e => e.1 != 0xFFF && e.2.state != 0)

def modeRun (s : State) (_ : Nat) (p : List Byte) : Option MbDone :=
  let allowed := bitOf (fld p 0 4) 0
  if allowed ≠ s.keys.sealedAllowed && !slotsFree s then refuseState s 0x1004 0
  else
    let rights := BitVec.ofNat 32 (fld p 4 4)
    done (recordWrite { s with
      keys := { s.keys with sealedAllowed := allowed }
      vault := { s.vault with observerRights := rights } }) []

def modeSpec : MbSpec :=
  { code := 0x1004, major1 := false, role := .owner, mine := anyPayload, lengths := fixedLen 8
    checks := fun _ p => [rangeField 0 (decide (fld p 0 4 < 2)), formField 4 (decide (fld p 4 4 < 32))], run := modeRun }

/-! ## Family 0x2: attestation (R406, R413, R420) -/

def certRun (s : State) (_ : Nat) (p : List Byte) : Option MbDone :=
  let whole := if fld p 0 1 = 0 then certChain else endorsement
  let off := fld p 4 4
  if whole.length ≤ off then refuse s mrRange 4
  else
    let n := min 4056 (whole.length - off)
    done s (natLe 4 whole.length ++ natLe 4 n ++ slice whole off n)

def certSpec : MbSpec :=
  { code := 0x2001, major1 := false, role := .any, mine := anyPayload, lengths := fixedLen 8
    checks := fun _ p => [rangeField 0 (decide (fld p 0 1 < 2)), rsvField p 1 3], run := certRun }

/-- Whether an MB_ATTEST payload asks for a session. -/
def asksSession (p : List Byte) : Bool := bitOf (fld p 0 1) 0

def attestChecks (p : List Byte) : List MbCheck :=
  let ses := asksSession p
  [formField 0 (decide (fld p 0 1 < 4)), rsvField p 1 1, rangeField 2 (if ses then decide (fld p 2 2 ≤ 4094) else fld p 2 2 == 0),
   rangeField 52 (if ses then (ecPoint (slice p 52 96)).isSome else zeroRange p 52 96), rsvField p 148 4]

def attestRun (s : State) (_ : Nat) (p : List Byte) : Option MbDone :=
  let (report, s1) := signedReport s (slice p 4 48) (bitOf (fld p 0 1) 1) none
  done s1 report

def attestSpec : MbSpec :=
  { code := 0x2002, major1 := false, role := .any, mine := fun p => !asksSession p, lengths := fixedLen 152
    checks := fun _ p => attestChecks p, run := attestRun }

/-- A session is established (Table 16-8, steps 4 to 6). -/
def sessionRun (s : State) (_ : Nat) (p : List Byte) : Option MbDone :=
  let k := fld p 2 2
  let x := keySlotOf s k
  if x.state ≠ 1 || !s.keys.sealedAllowed || s.keys.debugActive then refuseState s 0x2002 0
  else
    let nonce := slice p 4 48
    let tpub := slice p 52 96
    let (r, s1) := drawRandom s 48
    let d := scalarOf r
    match ecdhX d tpub with
    | none => refuse s mrRange 52
    | some secret =>
      let (report, s2) := signedReport s1 nonce (bitOf (fld p 0 1) 1) (some ⟨k, x.tenant, tpub, ecPublic d⟩)
      let (io, mem) := sessionKeys secret nonce (report.take 640)
      done (putSlot s2 k { x with state := 2, ioKey := io, memKey := mem }) report

def sessionSpec : MbSpec :=
  { code := 0x2002, major1 := false, role := .any, mine := asksSession, lengths := fixedLen 152
    checks := fun _ p => attestChecks p, run := sessionRun }

/-! ## Family 0x3: units and events (R29, R33, R456) -/

def unitsSpec : MbSpec :=
  { code := 0x3001, major1 := true, role := .any, mine := anyPayload, lengths := fixedLen 0, checks := fun _ _ => []
    run := fun s _ _ => done s (mapBytes s) }

/-- The units of a retirable kind (Table 1-6). -/
def kindCount : Nat → Nat
  | 1 => 64
  | 2 => 16
  | 3 => 32
  | 4 => 256
  | 5 => 64
  | _ => 0

def retireAckRun (s : State) (_ : Nat) (p : List Byte) : Option MbDone :=
  let u := (fld p 0 1, fld p 4 4)
  if !unitPending s u.1 u.2 then refuseState s 0x3002 0
  else done { s with units := { s.units with acked := if s.units.acked.contains u then s.units.acked else s.units.acked ++ [u] } } []

def retireAckSpec : MbSpec :=
  { code := 0x3002, major1 := false, role := .right 3, mine := anyPayload, lengths := fixedLen 8
    checks := fun _ p => [rangeField 0 (decide (1 ≤ fld p 0 1 && fld p 0 1 ≤ 5)), rsvField p 1 3,
      rangeField 4 (decide (fld p 4 4 < kindCount (fld p 0 1)))]
    run := retireAckRun }

/-- PREVIOUS_STOP (R518). -/
def previousStop (s : State) : State :=
  match s.heldun.prevStop with
  | none => s
  | some r =>
    let s1 := raiseEvent s evError (errPayload ⟨3, 0x60, r.kind, r.index, 0, 0, r.addr⟩ 1 s.vault.fatalStops r.dealSeq)
    { s1 with heldun := { s1.heldun with prevStop := none } }

/-- The events that waited for the first event ring (R518, R532). -/
def startEvents (s : State) : State :=
  let s1 := previousStop { s with heldun := { s.heldun with ringSeen := true } }
  let waiting := s1.heldun.pendingStart
  waiting.foldl (fun s e => raiseEvent s (fld e 0 2) (e.drop 2)) { s1 with heldun := { s1.heldun with pendingStart := [] } }

def eventConfigRun (s : State) (port : Nat) (p : List Byte) : Option MbDone :=
  let base := fld p 0 8
  let s1 := setMbox s port { mboxOf s port with
    ring := if base = 0 then none else some base
    log2 := fld p 8 1
    evtTail := 0
    evtHead := 0 }
  done (if base ≠ 0 && !s.heldun.ringSeen then startEvents s1 else s1) []

def eventConfigSpec : MbSpec :=
  { code := 0x3003, major1 := false, role := .any, mine := anyPayload, lengths := fixedLen 16
    checks := fun _ p => [rangeField 0 (fld p 0 8 % 4096 == 0), rangeField 8 (decide (6 ≤ fld p 8 1 && fld p 8 1 ≤ 16)), rsvField p 9 7]
    run := eventConfigRun }

/-! ## Family 0x4: shoes (R457) -/

/-- Whether a range lies in stacked memory outside withdrawn bands. -/
def stackedRange (s : State) (base len : Nat) : Bool :=
  decide (base + len ≤ stackedEnd) &&
    (List.range (len / 2 ^ 32 + 2)).all fun i => (withdrawnBy s (min (base + i * 2 ^ 32) (base + len - 1))).isNone

def disjoint (a an b bn : Nat) : Bool := decide (a + an ≤ b) || decide (b + bn ≤ a)

def shoeInitChecks (s : State) (p : List Byte) : List MbCheck :=
  let count := fld p 0 4
  let areas := fld p 4 4
  [rangeField 0 (isPow2 count && decide (16 ≤ count && count ≤ 1048576)), rangeField 4 (decide (1 ≤ areas && areas ≤ 1048576)),
   rangeField 8 (fld p 8 8 % 65536 == 0), rangeField 16 (fld p 16 8 % 131072 == 0), rangeField 24 (rootOk s (fld p 24 8)),
   rangeField 32 (ptrOk (fld p 32 8) 4096), rangeField 40 (fld p 40 8 != 0 && ptrOk (fld p 40 8) 8), rangeField 48 (ptrOk (fld p 48 8) 8),
   rangeField 56 (fld p 56 8 != 0), rangeField 64 (decide (4 ≤ fld p 64 1 && fld p 64 1 ≤ 20)), rangeField 65 (decide (fld p 65 1 < 4)),
   rsvField p 66 14]

/-- Shoe 0 (R457, step 3). -/
def shoeZero (p : List Byte) (tail : Nat) : Shoe :=
  { freeShoe with
    state := 1, log2 := fld p 64 1, dbPorts := BitVec.ofNat 2 (fld p 65 1), sealSlot := 0xFFF, engines := BitVec.ofNat 64 (fld p 56 8)
    ringPtr := fld p 32 8, tailPtr := fld p 40 8, headPtr := fld p 48 8, head := tail, tail := tail }

/-- What MB_SHOE_INIT changes before it reads the tail word (R457, steps 1 and 2). -/
def shoeInitBase (s : State) (p : List Byte) : State :=
  let count := fld p 0 4
  let areas := fld p 4 4
  let s1 := zeroMem (zeroMem s (fld p 8 8) (128 * count)) (fld p 16 8) (131072 * areas)
  let s2 := putAsid s1 0 ⟨1, fld p 24 8, none, none⟩
  { s2 with shoes := { s2.shoes with count := count, tableBase := fld p 8 8, areaBase := fld p 16 8, areaCount := areas } }

/-- MB_SHOE_INIT: no other range of the device exists before the first shoe. A tail word on a board peer is asked for, and the response waits
for it; until then none of the changes stands. -/
def shoeInitRun (s : State) (_ : Nat) (p : List Byte) : Option MbDone :=
  let count := fld p 0 4
  let areas := fld p 4 4
  let table := fld p 8 8
  let pool := fld p 16 8
  if s.shoes.count ≠ 0 || s.shoes.init.isSome then refuseState s 0x4001 0
  else if !stackedRange s table (128 * count) then refuse s mrRange 8
  else if !stackedRange s pool (131072 * areas) || !disjoint table (128 * count) pool (131072 * areas) then refuse s mrRange 16
  else
    let s1 := shoeInitBase s p
    match fetchRead s1 (shoeZero p 0) (fld p 40 8) 8 with
    | .ok bs => done (putShoe s1 0 (shoeZero p (fld bs 0 4))) []
    | .error .hold => none
    | .error (.ask q pa _) =>
      match sendTensor s 2 q (openEpoch s) pa (natLe 4 8) with
      | none => refuse s mrFault 0
      | some (s2, id) => some ⟨s2, mrOk, 0, [], false, some id⟩
    | .error _ => refuse s mrFault 0

/-- The tail word of shoe 0 arrives: MB_SHOE_INIT makes its changes and responds (R457). -/
def takeInit (s : State) (id : Nat) (bs : List Byte) : State :=
  match s.shoes.init with
  | some (i, rq) =>
    if i ≠ id then s
    else
      let p := padTo rq.length rq.payload
      let s1 := putShoe (shoeInitBase { s with shoes := { s.shoes with init := none } } p) 0 (shoeZero p (fld bs 0 4))
      endRequest s1 cmdShoeInit rq mrOk 0 []
  | none => s

def shoeInitSpec : MbSpec :=
  { code := cmdShoeInit, major1 := false, role := .owner, mine := anyPayload, lengths := fixedLen 80, checks := shoeInitChecks
    run := shoeInitRun }

/-! ## Family 0x5: the kitty (R240 to R242) -/

def kittyConfigRun (s : State) (_ : Nat) (p : List Byte) : Option MbDone :=
  let addr := fld p 0 8
  let steps := fld p 8 1
  let s1 := { s with kitty := { s.kitty with
    area := if addr = 0 then none else some addr
    steps := if steps = 0xFF then s.kitty.steps else if steps = 0 then 0 else 2 ^ steps } }
  let s2 := if addr = 0 then s1 else deliverBatch s1
  done (if kittyDue s2 then kittyCause s2 4 else s2) []

def kittyConfigSpec : MbSpec :=
  { code := 0x5001, major1 := false, role := .owner, mine := anyPayload, lengths := fixedLen 16
    checks := fun _ p =>
      let n := fld p 8 1
      [rangeField 0 (fld p 0 8 % 4096 == 0), rangeField 8 (n == 0 || n == 0xFF || decide (8 ≤ n && n ≤ 32)), rsvField p 9 7]
    run := kittyConfigRun }

def kittyCollectRun (s : State) (_ : Nat) (_ : List Byte) : Option MbDone :=
  let out (o seq : Nat) : List Byte := natLe 4 o ++ natLe 4 seq
  match s.kitty.waiting with
  | some b => done (kittyCause s 3) (out 2 b.seq)
  | none => if batchEmpty s.kitty.cur then done s (out 1 0) else done (kittyCause s 3) (out 0 s.kitty.cur.seq)

def kittyCollectSpec : MbSpec :=
  { code := 0x5002, major1 := false, role := .owner, mine := anyPayload, lengths := fixedLen 0, checks := fun _ _ => []
    run := kittyCollectRun }

/-- Releases one command of a batch (R242). -/
def releaseOne (b : Batch) (fail : Nat) (s : State) (f : Flight) : State :=
  match f.phase with
  | .kitty seq idx order =>
    if seq ≠ b.seq then s
    else
      match idx with
      | some i =>
        match bitOf fail i, b.records[i]? with
        | true, some r => complete s f sFault (r.reason + r.level * 2 ^ 8 + i * 2 ^ 10) 0
        | _, _ => putFlight s { f with phase := .rerun (some order) }
      | none => putFlight s { f with phase := .rerun (some order) }
  | _ => s

def kittyReleaseRun (s : State) (_ : Nat) (p : List Byte) : Option MbDone :=
  match s.kitty.waiting with
  | none => refuseState s 0x5003 0
  | some b =>
    if fld p 0 4 % 2 ^ 32 ≠ b.seq then refuseState s 0x5003 1
    else
      let s1 := { s with kitty := { s.kitty with waiting := none } }
      let s2 := s1.flights.list.foldl (releaseOne b (fld p 8 64)) s1
      done (settle (closeBatch (noteDue s2))) []

def kittyReleaseSpec : MbSpec :=
  { code := 0x5003, major1 := false, role := .owner, mine := anyPayload, lengths := fixedLen 72
    checks := fun _ p => [rsvField p 4 4], run := kittyReleaseRun }

/-! ## Family 0x6: memory (R177, R189, R190, R458) -/

/-- The 32-byte expander record (Table 7-7). -/
def expanderBytes (s : State) (k : Nat) : List Byte :=
  let e := expanderOf s k
  natLe 32 (k + e.speed * 2 ^ 4 + e.width * 2 ^ 8 + e.reject * 2 ^ 12 + e.state * 2 ^ 16 + e.device * 2 ^ 32 + e.vendor * 2 ^ 48
    + e.writeMbs * 2 ^ 64 + e.readMbs * 2 ^ 96 + e.sizeGib * 2 ^ 128 + e.base * 2 ^ 160)

def farListSpec : MbSpec :=
  { code := 0x6001, major1 := false, role := .any, mine := anyPayload, lengths := fixedLen 0, checks := fun _ _ => []
    run := fun s _ _ => done s ((List.range 4).flatMap (expanderBytes s)) }

def farMapRun (s : State) (_ : Nat) (p : List Byte) : Option MbDone :=
  let k := fld p 0 1
  let e := expanderOf s k
  if e.state ≠ 3 then refuseState s 0x6002 0
  else
    match e.trained with
    | none => refuseState s 0x6002 1
    | some n =>
      if n < e.sizeGib || e.sizeGib = 0 then refuseState s 0x6002 2
      else
        let s1 := zeroMem s e.base (e.sizeGib * 2 ^ 30)
        let here (l : Prefetch) : Bool := inRange (4096 * l.line) 4096 (e.base, e.sizeGib * 2 ^ 30)
        let s2 := { s1 with memories := { s1.memories with prefetch := s1.memories.prefetch.filter fun l => !here l } }
        done (putExpander s2 k { e with state := 1 }) []

def farMapSpec : MbSpec :=
  { code := 0x6002, major1 := false, role := .right 4, mine := anyPayload, lengths := fixedLen 4
    checks := fun _ p => [rangeField 0 (decide (fld p 0 1 < 4)), rsvField p 1 3], run := farMapRun }

/-- A part of a list of records: TOTAL, COUNT, and at most `most` records from FIRST. -/
def listPart (first most : Nat) (all : List (List Byte)) : List Byte :=
  let part := (all.drop first).take most
  natLe 4 all.length ++ natLe 4 part.length ++ part.flatten

def vaultListRun (s : State) (_ : Nat) (p : List Byte) : Option MbDone :=
  let first := fld p 4 4
  let (most, all) : Nat × List (List Byte) := match fld p 0 1 with
    | 0 => (31, (List.range 64).map (slotRecord s))
    | 1 => (253, (List.range 384).map (groupRecord s))
    | _ => (2028, (vaultSlot s (fld p 1 1)).extents.map (natLe 2))
  if !all.isEmpty && all.length ≤ first then refuse s mrRange 4 else done s (listPart first most all)

def vaultListSpec : MbSpec :=
  { code := 0x6003, major1 := false, role := .any, mine := anyPayload, lengths := fixedLen 8
    checks := fun _ p => [rangeField 0 (decide (fld p 0 1 < 3)),
      (if fld p 0 1 = 2 then rangeField 1 (decide (fld p 1 1 < 64)) else rsvField p 1 1), rsvField p 2 2]
    run := vaultListRun }

/-! ## Family 0x7: time (R60) -/

def ptmConfigSpec : MbSpec :=
  { code := 0x7001, major1 := false, role := .owner, mine := anyPayload, lengths := fixedLen 4
    checks := fun _ p => [rangeField 0 (decide (12 ≤ fld p 0 1 && fld p 0 1 ≤ 32)), rsvField p 1 3]
    run := fun s _ p => done { s with ptm := { s.ptm with log2Interval := fld p 0 1 } } [] }

/-! ## Family 0x9: firmware (R460, R461) -/

/-- Whether a firmware header keeps Table 17-17; the offset of the first field that does not. -/
def firmwareFault (h : List Byte) : Option Nat :=
  let bad (off : Nat) (ok : Bool) : Option Nat := if ok then none else some off
  let sv := fld h 8 4
  let n := fld h 16 4
  [bad 0 (fld h 0 4 == 0x4857444C), bad 4 (fld h 4 2 == 1), bad 6 (zeroRange h 6 2), bad 8 (decide (1 ≤ sv && sv ≤ 1023)),
   bad 16 (n % 4096 == 0 && decide (65536 ≤ n && n ≤ 33554432)), bad 26 (bitOf (fld h 26 2) 2), bad 28 (zeroRange h 28 36),
   bad 112 (zeroRange h 112 16)].findSome? id

/-- The bank that is not ACTIVE. -/
def spareBank (s : State) : Nat := match bankIn s .active with | some i => 1 - i | none => 1

/-- Checks and stores an image of `bytes` bytes (R460). -/
def stageImage (s : State) (image : List Byte) (bytes : Nat) : Option MbDone :=
  let body := 128 + fld image 16 4
  let hss := fld image (body + 96) 4
  let signed := image.take body
  let i := spareBank s
  let b := bankOf s i
  if bytes < 128 then refuse s mrRange 8
  else
    match firmwareFault image with
    | some off => refuse s mrRange off
    | none =>
      if bytes < body + 100 + hss then refuse s mrRange 8
      else if !bitOf (fld image 24 2) Config.stepping then refuse s mrRange 24
      else if fld image 8 4 < s.vault.pegs.securityVersion then refuse s mrSv s.vault.pegs.securityVersion
      else if sha384 (slice image 128 (fld image 16 4)) ≠ slice image 64 48 then refuse s mrSig 3
      else if !ecdsaVerify Config.firmwareKey signed (slice image body 96) then refuse s mrSig 1
      else if !hssVerify Config.firmwareHss signed (slice image (body + 100) hss) then refuse s mrSig 2
      else if 3000 ≤ b.writes then refuse s mrLimit 0
      else
        let x : Bank := { state := .pending, sv := fld image 8 4, fwVersion := fld image 12 4, costModel := fld image 20 4
                          majors := fld image 26 2, image := image.take (body + 100 + hss), writes := b.writes + 1 }
        done (wearCheck (putBank s i x) (0x10000 + i) (0x10000 + i) 0 (b.writes + 1) 3000) []

def fwStageRun (s : State) (port : Nat) (p : List Byte) : Option MbDone :=
  let addr := fld p 0 8
  let bytes := fld p 8 4
  if hostRefuses s port addr bytes then refuse s mrFault 0 else stageImage s (hostRead s port addr bytes) bytes

def fwStageSpec : MbSpec :=
  { code := 0x9001, major1 := false, role := .owner, mine := anyPayload, lengths := fixedLen 16
    checks := fun _ p => [rangeField 0 (fld p 0 8 % 4096 == 0), rsvField p 12 4], run := fwStageRun }

/-- A bank of MB_FW_STATUS (Table 17-18). -/
def bankBytes (b : Bank) : List Byte :=
  let st := match b.state with | .empty => 0 | .active => 1 | .pending => 2 | .failed => 3 | .inactive => 4
  natLe 4 st ++ natLe 4 b.sv ++ natLe 4 b.fwVersion ++ natLe 2 b.writes ++ natLe 14 0

def fwStatusSpec : MbSpec :=
  { code := 0x9002, major1 := true, role := .any, mine := anyPayload, lengths := fixedLen 0, checks := fun _ _ => []
    run := fun s _ _ => done s (natLe 1 s.boot.running ++ natLe 1 s.boot.lastStart ++ natLe 2 0 ++ bankBytes (bankOf s 0)
      ++ bankBytes (bankOf s 1) ++ natLe 4 0) }

def fwDiscardRun (s : State) (_ : Nat) (_ : List Byte) : Option MbDone :=
  match bankIn s .pending with
  | none => refuseState s 0x9003 0
  | some i => done (putBank s i { Bank.empty with writes := (bankOf s i).writes }) []

def fwDiscardSpec : MbSpec :=
  { code := 0x9003, major1 := false, role := .owner, mine := anyPayload, lengths := fixedLen 0, checks := fun _ _ => []
    run := fwDiscardRun }

def resetSpec : MbSpec :=
  { code := 0x9004, major1 := false, role := .owner, mine := anyPayload, lengths := fixedLen 4
    checks := fun _ p => [rangeField 0 (fld p 0 1 == 0), rsvField p 1 3], run := fun s _ _ => some ⟨s, mrOk, 0, [], true, none⟩ }

/-! ## Family 0xA: debug (R436, R437, R459) -/

def debugChallengeRun (s : State) (_ : Nat) (_ : List Byte) : Option MbDone :=
  match s.keys.debugNonce with
  | some n => done s n
  | none =>
    let (n, s1) := drawRandom s 48
    done { s1 with keys := { s1.keys with debugNonce := some n } } n

def debugChallengeSpec : MbSpec :=
  { code := 0xA001, major1 := false, role := .any, mine := anyPayload, lengths := fixedLen 0, checks := fun _ _ => []
    run := debugChallengeRun }

def debugUnlockRun (s : State) (_ : Nat) (p : List Byte) : Option MbDone :=
  let body := slice p 0 64
  let scope := fld p 56 1
  let n := fld p 256 4
  let owner := (s.vault.ownerKey.map fun k => ecdsaVerify k body (slice p 160 96)).getD false
  if 7 ≤ s.vault.pegs.debugUnlock then refuse s mrLimit 0
  else if s.keys.debugNonce ≠ some (slice p 8 48) then refuseState s 0xA002 0
  else if slice p 0 8 ≠ serialBytes then refuseState s 0xA002 1
  else if fld p 57 1 ≠ s.vault.pegs.debugUnlock + 1 then refuseState s 0xA002 2
  else if !ecdsaVerify Config.vendorKey body (slice p 64 96) then refuse s mrSig 1
  else if !hssVerify Config.vendorHss body (slice p 260 n) then refuse s mrSig 2
  else if bitOf scope 0 && !owner then refuse s mrSig 1
  else done { s with vault := { s.vault with armedToken := some (scope, fld p 57 1) } } []

def debugUnlockSpec : MbSpec :=
  { code := 0xA002, major1 := false, role := .any, mine := anyPayload, lengths := fun l => decide (260 ≤ l && l ≤ 4064)
    checks := fun _ p => [formField 56 (decide (fld p 56 1 < 4)), rsvField p 58 6,
      formField 160 (bitOf (fld p 56 1) 0 || zeroRange p 160 96), formField 256 (fld p 256 4 + 260 == p.length)]
    run := debugUnlockRun }

/-- Whether MB_DEBUG_PEEK and MB_DEBUG_POKE reach a range: stacked memory outside withdrawn bands, a mapped far range, or the software area of a
powered cluster store. -/
def debugReach (s : State) (pa len : Nat) : Bool :=
  if pa + len ≤ stackedEnd then (withdrawnBy s pa).isNone && (withdrawnBy s (pa + len - 1)).isNone
  else
    let far := ((farSlotOf s pa).map fun e => e.2.state == 1 && decide (pa + len ≤ e.2.base + e.2.sizeGib * 2 ^ 30)).getD false
    let c := (pa - clusterBase) / clusterStride
    far || (decide (clusterBase ≤ pa) && clusterHere s c && clusterPowered s c && decide ((pa - clusterBase) % clusterStride + len ≤ clusterSoft))

/-- A byte of memory, of the shoe table, or of the key-value structures, which the device keeps in its own records. -/
def debugByte (s : State) (free : List Byte) (pa i : Nat) : Byte :=
  let a := pa + i
  if inRange a 1 (s.shoes.tableBase, 128 * s.shoes.count) then
    (shoeBytes s ((a - s.shoes.tableBase) / 128)).getD ((a - s.shoes.tableBase) % 128) 0#8
  else if inRange a 1 (s.shoes.areaBase, 131072 * s.shoes.areaCount) then free.getD i 0#8
  else (kvByte s a).getD (memGet s.memories.mem a)

def peekRun (s : State) (_ : Nat) (p : List Byte) : Option MbDone :=
  let pa := fld p 0 8
  let n := fld p 8 4
  if !s.keys.debugActive then refuseState s 0xA010 0
  else if !debugReach s pa n then refuse s mrRange 0
  else
    let (k, s1) := drawFresh s
    done s1 ((List.range n).map (debugByte s (padTo n (Config.debugBytes k n)) pa))

def debugChecks (p : List Byte) : List MbCheck :=
  [rangeField 0 (fld p 0 8 % 8 == 0), rangeField 8 (decide (8 ≤ fld p 8 4 && fld p 8 4 ≤ 4056))]

def peekSpec : MbSpec :=
  { code := 0xA010, major1 := false, role := .owner, mine := anyPayload, lengths := fixedLen 16
    checks := fun _ p => debugChecks p ++ [rsvField p 12 4], run := peekRun }

def pokeRun (s : State) (_ : Nat) (p : List Byte) : Option MbDone :=
  let pa := fld p 0 8
  let n := fld p 8 4
  if !s.keys.debugActive then refuseState s 0xA011 0
  else if !debugReach s pa n then refuse s mrRange 0
  else done (putMem s pa (slice p 12 n)).1 []

def pokeSpec : MbSpec :=
  { code := 0xA011, major1 := false, role := .owner, mine := anyPayload, lengths := fun l => decide (16 ≤ l && l ≤ 4064)
    checks := fun _ p => debugChecks p ++ [⟨fld p 8 4 + 12 == p.length, mrFormat, inHeader 6⟩], run := pokeRun }

/-! ## The rows -/

/-- MB_HELLO (R452). -/
def execMbHello (rq : MbReq) (s : State) : Host.Outcome State Fault Refusal := answer (mbOp helloSpec rq s)
/-- MB_NONCE (R454). -/
def execMbNonce (rq : MbReq) (s : State) : Host.Outcome State Fault Refusal := answer (mbOp nonceSpec rq s)
/-- MB_OWNER_CLAIM (R411). -/
def execMbOwnerClaim (rq : MbReq) (s : State) : Host.Outcome State Fault Refusal := answer (mbOp claimSpec rq s)
/-- MB_OWNER_TAKE (R411). -/
def execMbOwnerTake (rq : MbReq) (s : State) : Host.Outcome State Fault Refusal := answer (mbOp takeSpec rq s)
/-- MB_OWNER_TRANSFER (R411). -/
def execMbOwnerTransfer (rq : MbReq) (s : State) : Host.Outcome State Fault Refusal := answer (mbOp transferSpec rq s)
/-- MB_OWNER_MODE (R417). -/
def execMbOwnerMode (rq : MbReq) (s : State) : Host.Outcome State Fault Refusal := answer (mbOp modeSpec rq s)
/-- MB_CERT_GET (R406). -/
def execMbCertGet (rq : MbReq) (s : State) : Host.Outcome State Fault Refusal := answer (mbOp certSpec rq s)
/-- MB_ATTEST (R413). -/
def execMbAttest (rq : MbReq) (s : State) : Host.Outcome State Fault Refusal := answer (mbOp attestSpec rq s)
/-- MB_ATTEST_SESSION (R420): MB_ATTEST with SESSION set. -/
def execMbAttestSession (rq : MbReq) (s : State) : Host.Outcome State Fault Refusal := answer (mbOp sessionSpec rq s)
/-- MB_UNITS_GET (R29). -/
def execMbUnitsGet (rq : MbReq) (s : State) : Host.Outcome State Fault Refusal := answer (mbOp unitsSpec rq s)
/-- MB_RETIRE_ACK (R33). -/
def execMbRetireAck (rq : MbReq) (s : State) : Host.Outcome State Fault Refusal := answer (mbOp retireAckSpec rq s)
/-- MB_EVENT_CONFIG (R456). -/
def execMbEventConfig (rq : MbReq) (s : State) : Host.Outcome State Fault Refusal := answer (mbOp eventConfigSpec rq s)
/-- MB_SHOE_INIT (R457). -/
def execMbShoeInit (rq : MbReq) (s : State) : Host.Outcome State Fault Refusal := answer (mbOp shoeInitSpec rq s)
/-- MB_KITTY_CONFIG (R241). -/
def execMbKittyConfig (rq : MbReq) (s : State) : Host.Outcome State Fault Refusal := answer (mbOp kittyConfigSpec rq s)
/-- MB_KITTY_COLLECT (R240). -/
def execMbKittyCollect (rq : MbReq) (s : State) : Host.Outcome State Fault Refusal := answer (mbOp kittyCollectSpec rq s)
/-- MB_KITTY_RELEASE (R242). -/
def execMbKittyRelease (rq : MbReq) (s : State) : Host.Outcome State Fault Refusal := answer (mbOp kittyReleaseSpec rq s)
/-- MB_FAR_LIST (R177). -/
def execMbFarList (rq : MbReq) (s : State) : Host.Outcome State Fault Refusal := answer (mbOp farListSpec rq s)
/-- MB_FAR_MAP (R458). -/
def execMbFarMap (rq : MbReq) (s : State) : Host.Outcome State Fault Refusal := answer (mbOp farMapSpec rq s)
/-- MB_VAULT_LIST (R189). -/
def execMbVaultList (rq : MbReq) (s : State) : Host.Outcome State Fault Refusal := answer (mbOp vaultListSpec rq s)
/-- MB_PTM_CONFIG (R60). -/
def execMbPtmConfig (rq : MbReq) (s : State) : Host.Outcome State Fault Refusal := answer (mbOp ptmConfigSpec rq s)
/-- MB_FW_STAGE (R460). -/
def execMbFwStage (rq : MbReq) (s : State) : Host.Outcome State Fault Refusal := answer (mbOp fwStageSpec rq s)
/-- MB_FW_STATUS (R460). -/
def execMbFwStatus (rq : MbReq) (s : State) : Host.Outcome State Fault Refusal := answer (mbOp fwStatusSpec rq s)
/-- MB_FW_DISCARD (R454). -/
def execMbFwDiscard (rq : MbReq) (s : State) : Host.Outcome State Fault Refusal := answer (mbOp fwDiscardSpec rq s)
/-- MB_RESET (R461). -/
def execMbReset (rq : MbReq) (s : State) : Host.Outcome State Fault Refusal := answer (mbOp resetSpec rq s)
/-- MB_DEBUG_CHALLENGE (R436). -/
def execMbDebugChallenge (rq : MbReq) (s : State) : Host.Outcome State Fault Refusal := answer (mbOp debugChallengeSpec rq s)
/-- MB_DEBUG_UNLOCK (R436). -/
def execMbDebugUnlock (rq : MbReq) (s : State) : Host.Outcome State Fault Refusal := answer (mbOp debugUnlockSpec rq s)
/-- MB_DEBUG_PEEK (R459). -/
def execMbDebugPeek (rq : MbReq) (s : State) : Host.Outcome State Fault Refusal := answer (mbOp peekSpec rq s)
/-- MB_DEBUG_POKE (R459). -/
def execMbDebugPoke (rq : MbReq) (s : State) : Host.Outcome State Fault Refusal := answer (mbOp pokeSpec rq s)

/-! ## Register writes (R441, Tables 17-4 and 17-5) -/

/-- A write to a BAR0 register with no row of its own: the W1C bits of MB_STATUS, and EVT_HEAD. Any other is ignored; BAR0 answers from
start step 3 on (Table 21-4). -/
def registerWriteOp (port offset value : Nat) (s : State) : State :=
  if !s.module.powered || 2 ≤ port || s.boot.step < 3 || !portLive s port then s
  else
    let m := mboxOf s port
    if offset = 0x2004 then
      setMbox s port { m with overrun := m.overrun && !bitOf value 2, done := m.done && !bitOf value 1 }
    else if offset = 0x200C then setMbox s port { m with evtHead := value % 2 ^ 32 }
    else s

/-- REGISTER_WRITE (R441). -/
def execRegisterWrite (port offset value : Nat) (s : State) : Host.Outcome State Fault Refusal :=
  answer (registerWriteOp port offset value s)

end Sys2Proof.Machine
end

