-- ==== Sys2Proof/Machine/Links.lean ====
section
/-!
DEFINITION. Sys2Proof/Machine/Links.lean: the Binik ports (R468, R470, R471), the messages that they carry (R469, R478, R481), and the epoch
barrier's messages (R479).
-/

namespace Sys2Proof.Machine

/-! ## Message kinds (Table 18-4) -/

def kindWrite : Nat := 1
def kindRead : Nat := 2
def kindReadData : Nat := 3
def kindSignal : Nat := 4
def kindRing : Nat := 5
def kindRefusal : Nat := 6

/-! ## Training (R470, Table 18-5) -/

/-- The lanes of a port that MB_PWR_LANES leaves awake (R503). -/
def awakeLanes (s : State) (p : Nat) : Nat := tabGet s.power.lanesAwake p 4

/-- The lanes of a port that are present, awake and locked. -/
def lanesUp (s : State) (p : Nat) (locked : BitVec 4) : List Nat :=
  (List.range 4).filter fun l => laneHere s (4 * p + l) && decide (l < awakeLanes s p) && locked.getLsbD l

/-- A lane that fails to lock while its port trains again is retired (Table 20-8). -/
def retireUnlocked (s : State) (p : Nat) (locked : BitVec 4) : State :=
  if (linkOf s p).peer.isEmpty then s
  else
    ((List.range 4).filter fun l => laneHere s (4 * p + l) && decide (l < awakeLanes s p) && !locked.getLsbD l).foldl
      (fun s l => retireNow s 5 (4 * p + l) 0x42) s

/-- The protocol version that both ends offer: 3, or 2 with COMPAT (R471). -/
def commonVersion (s : State) (lowVer highVer : Nat) : Option Nat :=
  let v := min 3 highVer
  if max (if compat s then 2 else 3) lowVer ≤ v then some v else none

/-- Takes a peer's record: the first that passes checks 0 and 1 gives the epoch (R477); then the records are compared (R475). -/
def takeRecord (s : State) (p : Nat) (record : List Byte) : State :=
  let s1 := putLink s p { linkOf s p with peer := record }
  let b := s1.domain.barrier
  if !b.known && failedChecks s1 p record % 4 = 0 then
    compareLink (announce (putBarrier s1 { b with known := true, epoch := fld record 24 8 })) p
  else compareLink s1 p

/-- Whether the Binik ports train: from start step 5 on, until the device stops. -/
def linksTrain (s : State) : Bool := s.module.powered && decide (5 ≤ s.boot.step) && !s.boot.failed && s.heldun.ready != 2

/-- PORT_TRAINED (R470): a port that is down finishes its training. -/
def portTrainedOp (port : Nat) (locked : BitVec 4) (lowVer highVer : Nat) (record : List Byte) (s : State) : State :=
  if !linksTrain s || 16 ≤ port || (linkOf s port).state ≠ 0 || awakeLanes s port = 0 then s
  else
    let s1 := retireUnlocked s port locked
    let width := widthOf (lanesUp s1 port locked).length
    if width = 0 then s1
    else
      match commonVersion s1 lowVer highVer with
      | none => linkEvent s1 port linkVersion highVer
      | some v =>
        let s2 := putLink s1 port { freeLink with state := 1, protocol := v, lanes := width, peer := (linkOf s1 port).peer }
        let s3 := sendManagement s2 port kindRecord (deviceId s2) s2.domain.barrier.epoch (domainRecord s2 port)
        let s4 := takeRecord s3 port (padTo 160 record)
        { s4 with power := { s4.power with oldLanes := tabErase s4.power.oldLanes port } }

/-- PORT_TRAINED (R470). -/
def execPortTrained (port : Nat) (lanes : BitVec 4) (lowVer highVer : Nat) (record : List Byte) (s : State) :
    Host.Outcome State Fault Refusal := answer (portTrainedOp port lanes lowVer highVer record s)

/-! ## A port goes down (R468) -/

/-- A port that is open goes down and trains again. -/
def takeDown (port reason fromStep : Nat) (s : State) : State :=
  if (linkOf s port).state = 0 then s else send (portDownOp port reason s) (.retrain port fromStep)

/-- BINIK_PORT_DOWN (R468): 0 retry limit, 1 loss of lock, 2 peer request. A loss of lock is charged to its lane (Table 20-8). -/
def binikPortDownOp (port reason lane : Nat) (s : State) : State :=
  if !linksTrain s || 16 ≤ port || (linkOf s port).state = 0 then s
  else
    let l := 4 * port + lane
    let s1 := if reason = 1 && lane < 4 then charge (raiseError s ⟨0, 0x42, 5, l, 0, 0, 0⟩) 5 l 0x42 true false else s
    takeDown port reason 1 s1

/-- BINIK_PORT_DOWN (R468). -/
def execBinikPortDown (port reason lane : Nat) (s : State) : Host.Outcome State Fault Refusal := answer (binikPortDownOp port reason lane s)

/-- REPLAY (R466, R468): a bad codeword is charged to its lane; the eighth replay without acknowledgement takes the port down. -/
def replayOp (port lane : Nat) (gaveUp : Bool) (s : State) : State :=
  if !linksTrain s || 16 ≤ port || (linkOf s port).state = 0 then s
  else
    let l := 4 * port + lane
    let s1 := if lane < 4 then charge (raiseError s ⟨0, 0x41, 5, l, 0, 0, 0⟩) 5 l 0x41 false false else s
    if gaveUp then takeDown port 0 1 s1 else s1

/-- REPLAY (R468). -/
def execReplay (port : Nat) (lane : Nat) (gaveUp : Bool) (s : State) : Host.Outcome State Fault Refusal :=
  answer (replayOp port lane gaveUp s)

/-! ## Refusals and forwarding (R478, R481) -/

/-- Returns a refusal to a message's sender, on the port that it came on. Its payload carries the status and DETAIL. -/
def refuseMessage (s : State) (m : PeerMsg) (status detail : Nat) : State :=
  let payload := natLe 2 status ++ natLe 2 0 ++ natLe 4 detail
  let e := if (linkOf s m.port).protocol = 2 then low 32 (openEpoch s) else openEpoch s
  sendFrames s m.port payload.length fun seq => .tensor m.port kindRefusal m.src (deviceId s) 0 e m.addr m.msgId seq payload

/-- The port on which a message to another device is forwarded (R481): on the board its mesh port, which no logical entry moves (R480), or the
lowest-numbered relay. -/
def forwardPort (s : State) (dest : Nat) : Option Nat :=
  if dest / 8 = deviceId s / 8 then
    let q := dest % 8
    if tpLive s (meshPort s q) then some (meshPort s q) else ((List.range 8).find? fun v => relayTo s v q).map (meshPort s)
  else
    (((List.range 16).map fun i => routeOf s (16 + i)).find? fun r => r.valid && r.dest == dest / 8).bind fun r =>
      if tpLive s r.egress then some r.egress else none

/-- Forwards a message whole, or refuses it. No message crosses a version 2 port on its way to another device (R471). -/
def forwardMessage (s : State) (m : PeerMsg) (kind : Nat) : State :=
  match (if 3 ≤ m.hops || (linkOf s m.port).protocol = 2 then none else forwardPort s m.dest) with
  | some p =>
    if (linkOf s p).protocol = 2 then refuseMessage s m sUnitAbsent 0
    else sendFrames s p m.payload.length fun seq => .tensor p kind m.dest m.src (m.hops + 1) m.epoch m.addr m.msgId seq m.payload
  | none => if kind = kindRefusal then s else refuseMessage s m sUnitAbsent 0

/-- Whether a message's epoch is that of the receiver's open or last deal (R478); a version 2 port compares 32 bits (R471). -/
def epochOk (s : State) (m : PeerMsg) : Bool :=
  if (linkOf s m.port).protocol = 2 then low 32 m.epoch == low 32 (openEpoch s) else m.epoch == openEpoch s

/-- A tensor message of kinds 1 to 5 arrives: it is forwarded, refused, or served. -/
def tensorOp (kind : Nat) (serve : State → PeerMsg → State) (m : PeerMsg) (s : State) : State :=
  let l := linkOf s m.port
  if !serving s || 16 ≤ m.port || l.state = 0 then s
  else
    let s1 := takeFrames s m.port m.payload.length
    if l.state = 1 then refuseMessage s1 m sUnitAbsent 0
    else if m.dest ≠ deviceId s then forwardMessage s1 m kind
    else if !epochOk s m then refuseMessage s1 m sEpoch (low 32 (openEpoch s))
    else serve s1 m

/-! ## Peer accesses -/

/-- A peer as it accesses this device's memory: it reaches stacked memory and the far tier outside the protected ranges
(R139, R140, R245, R307, R386). -/
def peerActor (s : State) : Actor :=
  { place := .hub, cls := 0, asid := 0, opcode := 0, tenant := none, slot := 0xFFF, isOpen := false, deal := 0, live := liveNow s }

/-- Acknowledges a message as a whole (R154). -/
def acknowledge (s : State) (m : PeerMsg) : State := send s (.peerAck m.port m.msgId)

/-- A write of a peer to this device's memory; a tail word of a shoe in one of its units rings the shoe (R249). -/
def peerPut (s : State) (pa : Nat) (bs : List Byte) : State :=
  let t := (putMem s pa bs).1
  if pa < stackedEnd then ringTails t (unitsOf pa bs.length) else t

/-- Writes a message's bytes at an address as one unit, or refuses them. -/
def peerStore (s : State) (m : PeerMsg) (pa : Nat) (bs : List Byte) : State :=
  match checkLocal s (peerActor s) true pa bs.length with
  | .error (.done st d) => refuseMessage s m st d
  | .error _ => refuseMessage s m sUnitAbsent 0
  | .ok _ =>
    let partly := (unitsOf pa bs.length).any fun u => isPoisoned s u && !decide (pa ≤ u && u + 64 ≤ pa + bs.length)
    if partly then refuseMessage s m sPoison 0 else acknowledge (peerPut s pa bs) m

/-- Writes a peer's bytes as one unit, or refuses them. -/
def serveWrite (s : State) (m : PeerMsg) : State := peerStore s m (m.addr % 2 ^ 53) (padTo m.length m.payload)

/-- Whether a message's write must wait for its stack (R501): the message then has not arrived. -/
def peerWaits (s : State) (m : PeerMsg) : Bool :=
  let pa := m.addr % 2 ^ 53
  decide (pa < stackedEnd) && m.dest == deviceId s && stackAsleep s pa

/-- PEER_WRITE (R478). -/
def execPeerWrite (m : PeerMsg) (s : State) : Host.Outcome State Fault Refusal :=
  answer (if peerWaits s m then s else tensorOp kindWrite serveWrite m s)

/-- Answers a peer's read. -/
def serveRead (s : State) (m : PeerMsg) : State :=
  let pa := m.addr % 2 ^ 53
  let n := fld m.payload 0 4
  match checkLocal s (peerActor s) false pa n with
  | .error (.done st d) => refuseMessage s m st d
  | .error _ => refuseMessage s m sUnitAbsent 0
  | .ok _ =>
    if anyPoison s pa n then refuseMessage s m sPoison 0
    else
      let bs := memRead s.memories.mem pa n
      let e := if (linkOf s m.port).protocol = 2 then low 32 (openEpoch s) else openEpoch s
      sendFrames s m.port n fun seq => .tensor m.port kindReadData m.src (deviceId s) 0 e m.addr m.msgId seq bs

/-- PEER_READ_REQUEST (R478). -/
def execPeerReadRequest (m : PeerMsg) (s : State) : Host.Outcome State Fault Refusal :=
  answer (if peerWaits s m then s else tensorOp kindRead serveRead m s)

/-- SIGNAL (R478). -/
def execSignal (m : PeerMsg) (s : State) : Host.Outcome State Fault Refusal :=
  answer (if peerWaits s m then s else tensorOp kindSignal serveWrite m s)

/-! ## Read data -/

/-- A mover command, or a shoe's action, that waited for bytes of peers takes them; with the last of them it goes on. Where it must wait then, `s0`
stands: the bytes have not arrived. -/
def takeData (s0 s : State) (f : Flight) (asked : List (Nat × Nat)) (got : List (Nat × List Byte)) (id : Nat) (bs : List Byte) : State :=
  let rest := asked.filter fun a => a.1 != id
  let got' := got ++ ((asked.find? fun a => a.1 == id).map fun a => (a.2, bs)).toList
  let f1 := { f with phase := .peerRead rest got' }
  let s1 := putFlight s f1
  if !rest.isEmpty then s1
  else settleStart s0 s1 f1 (resumeBody s1 f1 (if f.cmd.opcode = 0x3001 then mvCopyBody else knShoeCreateBody) emptyLog)

/-- The bytes of an earlier read arrive; `s0` is the state before the row. -/
def serveData (s0 s : State) (m : PeerMsg) : State :=
  let bs := padTo m.length m.payload
  let s1 := answered s m.msgId
  match s.flights.list.find? fun f => (match f.phase with | .peerRead asked _ => asked.any fun a => a.1 == m.msgId | _ => false) with
  | some f =>
    match f.phase with
    | .peerRead asked got => takeData s0 s1 f asked got m.msgId bs
    | _ => s1
  | none =>
    match s.shoes.tab.find? fun h => h.2.asked.any fun a => a.1 == m.msgId with
    | none => takeInit s1 m.msgId bs
    | some (n, h) =>
      let add := ((h.asked.find? fun a => a.1 == m.msgId).map fun a => (a.2, bs)).toList
      modShoe s1 n fun h => { h with asked := h.asked.filter fun a => a.1 != m.msgId, got := h.got ++ add }

/-- Read data for another epoch is refused, and the command that asked for it ends with S_EPOCH. -/
def readDataOp (m : PeerMsg) (s : State) : State :=
  let live := (linkOf s m.port).state == 2 && m.dest == deviceId s
  let s1 := tensorOp kindReadData (serveData s) m s
  if serving s && decide (m.port < 16) && live && !epochOk s m then failMessage s1 m.msgId sEpoch (low 32 m.epoch) m.port else s1

/-- READ_DATA (R478). -/
def execReadData (m : PeerMsg) (s : State) : Host.Outcome State Fault Refusal := answer (readDataOp m s)

/-! ## Ring blocks (R333, R343, R428) -/

/-- The key slot under which a block of a ring is opened: that of a registered context of its ring, tenant and model. -/
def ringSlot (s : State) (ring tenant model : Nat) : Option Nat :=
  (s.kv.ctxs.find? fun c =>
    ctxRegistered s c.1 && c.2.ring == ring && c.2.tenant == tenant && c.2.model == model && c.2.keySlot != 0xFFF).map fun c => c.2.keySlot

/-- Whether a sealed block's tag verifies. -/
def blockTagOk (s : State) (ring : Nat) (bs : List Byte) : Bool :=
  match ringSlot s ring (fld bs 12 2) (fld bs 14 1) with
  | none => false
  | some k =>
    let n := bs.length - trailerBytes
    (openBlock (keySlotOf s k).linkKey (bs.take 64) ((bs.take n).drop 64) (bs.drop n)).isSome

/-- Writes a ring block into its receive buffer, under the rights of a peer's write (R307), or refuses it. A refusal for its tag names no key slot: the
sender's command reports its own (R431). -/
def serveRing (s : State) (m : PeerMsg) : State :=
  let ring := m.addr % 2 ^ 8
  let rx := m.addr / 2 ^ 8
  let bs := padTo m.length m.payload
  match tabFind s.kv.rings ring with
  | none => refuseMessage s m sLength 0
  | some r =>
    let pa := rxAt r rx
    if r.rxCount ≤ rx || r.rxBytes < bs.length then refuseMessage s m sLength 0
    else if fld bs 15 1 = 1 && !blockTagOk s ring bs then refuseMessage s m sSeal (sealTag + 0xFFF * 2 ^ 8)
    else peerStore s m pa bs

/-- Whether a ring block must wait for the stack of its receive buffer. -/
def ringWaits (s : State) (m : PeerMsg) : Bool :=
  match tabFind s.kv.rings (m.addr % 2 ^ 8) with
  | some r => m.dest == deviceId s && stackAsleep s (rxAt r (m.addr / 2 ^ 8))
  | none => false

/-- RING_BLOCK (R333). -/
def execRingBlock (m : PeerMsg) (s : State) : Host.Outcome State Fault Refusal :=
  answer (if ringWaits s m then s else tensorOp kindRing serveRing m s)

/-! ## Refusals and acknowledgements -/

/-- The key slot of the command that waits for an answer to a message; 0xFFF for none. -/
def slotOfSender (s : State) (id : Nat) : Nat :=
  ((s.flights.list.find? fun f => (match f.phase with | .peer ids => ids.contains id | _ => false)).map fun f => f.cmd.keySlot % 4096).getD 0xFFF

/-- The status and DETAIL that a refusal gives the sending command: S_EPOCH with the receiver's epoch, S_UNIT_ABSENT with the port, S_SEAL with the
command's own key slot (R428, R431), or what the payload carries. -/
def refusalResult (s : State) (m : PeerMsg) : Nat × Nat :=
  let st := fld m.payload 0 2
  if st = sEpoch then (sEpoch, low 32 m.epoch)
  else if st = sUnitAbsent then (sUnitAbsent, if fld m.payload 4 4 = 0 then portAbsent m.port else fld m.payload 4 4)
  else if st = sSeal then (sSeal, fld m.payload 4 4 % 2 ^ 8 + slotOfSender s m.msgId * 2 ^ 8)
  else (st, fld m.payload 4 4)

/-- A refusal arrives, or is forwarded towards its sender (R478, R481). -/
def refusalOp (m : PeerMsg) (s : State) : State :=
  if !serving s || 16 ≤ m.port || (linkOf s m.port).state = 0 then s
  else
    let s1 := takeFrames s m.port m.payload.length
    if m.dest ≠ deviceId s then forwardMessage s1 m kindRefusal
    else if s.flights.sent.any fun x => x.1 == m.msgId then
      let r := refusalResult s1 m
      failMessage s1 m.msgId r.1 r.2 m.port
    else s1

/-- REFUSAL (R478). -/
def execRefusal (m : PeerMsg) (s : State) : Host.Outcome State Fault Refusal := answer (refusalOp m s)

/-- PEER_ACKNOWLEDGEMENT (R154): a peer has acknowledged a whole run; with the last the rest lands and the completion is posted. -/
def peerAcknowledgementOp (port msgId : Nat) (s : State) : State :=
  if !serving s || !(s.flights.sent.any fun x => x == (msgId, port)) then s
  else
    let s1 := answered s msgId
    match s.flights.list.find? fun f => (match f.phase with | .peer ids => ids.contains msgId | _ => false) with
    | none => s1
    | some f =>
      match f.phase with
      | .peer ids =>
        let rest := ids.filter fun i => i != msgId
        if rest.isEmpty then landWriteOut s1 f else putFlight s1 { f with phase := .peer rest }
      | _ => s1

/-- PEER_ACKNOWLEDGEMENT (R154). -/
def execPeerAcknowledgement (port msgId : Nat) (s : State) : Host.Outcome State Fault Refusal :=
  answer (peerAcknowledgementOp port msgId s)

/-! ## Management messages -/

/-- A management message arrives on a port that is live or in probation. -/
def managementOp (serve : State → PeerMsg → State) (m : PeerMsg) (s : State) : State :=
  if !linksTrain s || 16 ≤ m.port || (linkOf s m.port).state = 0 then s else serve (takeFrames s m.port m.payload.length) m

/-- DOMAIN_RECORD (R475). -/
def execDomainRecord (m : PeerMsg) (s : State) : Host.Outcome State Fault Refusal :=
  answer (managementOp (fun s m => takeRecord s m.port (padTo 160 m.payload)) m s)

/-- Forwards a proposal or an arrival once (R479). -/
def forwardOnce (s : State) (m : PeerMsg) (kind : Nat) (key : Nat × Nat × Nat) : State :=
  if s.domain.seen.contains key then s
  else flood (noteSeen s key) kind m.src m.epoch (some m.port)

/-- Records a proposal for the next epoch. -/
def recordProposal (s : State) : State :=
  let b := s.domain.barrier
  if b.proposed then s else putBarrier s { b with proposed := true, since := hubNow s }

/-- A proposal for E + 1 at a device at E; one for any other epoch is refused (Table 18-15). Its EPOCH is the sender's BARRIER_EPOCH. -/
def proposalServe (s : State) (m : PeerMsg) : State :=
  if m.epoch ≠ s.domain.barrier.epoch then s else tryArrive (forwardOnce (recordProposal s) m kindProposal (kindProposal, m.epoch, 0))

/-- PROPOSAL (R479). -/
def execProposal (m : PeerMsg) (s : State) : Host.Outcome State Fault Refusal := answer (managementOp proposalServe m s)

/-- An arrival of a member for the next epoch. -/
def arrivalServe (s : State) (m : PeerMsg) : State :=
  let s1 := forwardOnce s m kindArrival (kindArrival, m.epoch, m.src)
  let b := s1.domain.barrier
  if m.epoch ≠ b.epoch then s1
  else tryEnter (putBarrier s1 { b with arrived := if b.arrived.contains m.src then b.arrived else b.arrived ++ [m.src] })

/-- ARRIVAL (R479). -/
def execArrival (m : PeerMsg) (s : State) : Host.Outcome State Fault Refusal := answer (managementOp arrivalServe m s)

/-- The members that have not arrived. -/
def notArrived (s : State) : Nat := ((members s).filter fun i => !s.domain.barrier.arrived.contains i).length

/-- BARRIER_STALL (R479): 2^24 hub steps of waiting have passed since the barrier began or last raised the event. -/
def barrierStallOp (s : State) : State :=
  let b := s.domain.barrier
  if serving s && b.proposed && decide (2 ^ 24 ≤ (hubNow s + 2 ^ 64 - b.since) % 2 ^ 64) then
    linkEvent (putBarrier s { b with since := wrapAdd 64 b.since (2 ^ 24) }) (Config.linkEventPort linkStall) linkStall (notArrived s)
  else s

/-- BARRIER_STALL (R479). -/
def execBarrierStall (s : State) : Host.Outcome State Fault Refusal := answer (barrierStallOp s)

end Sys2Proof.Machine
end

