-- ==== Sys2Proof/Machine/Net.lean ====
section
/-!
DEFINITION. Sys2Proof/Machine/Net.lean: the Ethernet ports N0 and N1 (R486 to R492): queue pairs and their send rings, memory regions, what
arrives from the network, and the ports' links. The network engine is a hub unit that belongs to no command and to no kernel shoe.
-/

namespace Sys2Proof.Machine

/-- S_NET_REMOTE (R489). -/
def sNetRemote : Nat := 0x0042

def netPortOf (s : State) (p : Nat) : NetPort := if p = 0 then s.net.port0 else s.net.port1
def setNetPort (s : State) (p : Nat) (x : NetPort) : State :=
  { s with net := if p = 0 then { s.net with port0 := x } else { s.net with port1 := x } }
def putQp (s : State) (n : Nat) (q : Qp) : State := { s with net := { s.net with qps := tabPut s.net.qps n q } }

/-- S_UNIT_ABSENT for an Ethernet port (R39). -/
def netAbsent (port : Nat) : Nat := 6 + (4 + port) * 2 ^ 8

/-! ## Local accesses (R490) -/

/-- The network engine as it accesses memory in an address space. -/
def netActor (asid : Nat) : Actor :=
  { place := .hub, cls := 1, asid := asid, opcode := 0, tenant := none, slot := 0xFFF, isOpen := false, deal := 0, live := [] }

/-- A protected range of R245, R307 or R386, the page pool included. -/
def netProtected (s : State) (pa len : Nat) : Bool :=
  (shoeRanges s).any (inRange pa len) || (kvRanges s).any (inRange pa len) || (adapterRanges s).any fun r => inRange pa len r.2

/-- Where one piece of a local access lands: never a leaf with ENC 1, a pool page or a protected range (R490). -/
def netSpot (s : State) (asid : Nat) (write : Bool) (p : Nat × Nat) : Except Stop Loc := do
  let (e, l) ← translate s .hub asid false write p.1
  let addr := bitsOf e 55 16 * 65536 + p.1 % leafBytes l
  if bitOf e 5 then sealed sealPeer 0xFFF
  else
    match bitsOf e 7 6 with
    | 3 => denied
    | 0 =>
      if addr / 2 ^ 53 ≠ position s then denied
      else if netProtected s (addr % 2 ^ 53) p.2 then sealed sealPeer 0xFFF
      else checkLocal s (netActor asid) write (addr % 2 ^ 53) p.2
    | t =>
      let ha := hostOfLeaf s asid (t - 1) addr
      if !portLive s (t - 1) then absent 6 (t - 1)
      else if write && hostRefuses s (t - 1) ha p.2 then .error (.done sFault (faultCode codeHostRefused))
      else .ok (.host (t - 1) ha)

/-- Reads a run of virtual addresses. -/
def netRead (s : State) (asid va len : Nat) : Except Stop (List Byte) := do
  let parts ← (piecesOf va len).mapM fun p => do readLoc s (netActor asid) false p.1 (← netSpot s asid false p) p.2
  .ok parts.flatten

/-- The places of a run of virtual addresses that is to be written; a poisoned unit is never written in part (R168). -/
def netDest (s : State) (asid va len : Nat) : Except Stop (List (Loc × Nat × Nat)) :=
  (piecesOf va len).mapM fun p => do
    let l ← netSpot s asid true p
    match l with
    | .mem pa =>
      if (unitsOf pa p.2).any fun u => isPoisoned s u && !decide (pa ≤ u && u + 64 ≤ pa + p.2) then denied else .ok (l, p.1 - va, p.2)
    | _ => .ok (l, p.1 - va, p.2)

/-- Writes the bytes to their places. -/
def netPut (s : State) (places : List (Loc × Nat × Nat)) (bs : List Byte) : State :=
  places.foldl (fun s w =>
    match w.1 with
    | .mem pa => (putMem s pa (slice bs w.2.1 w.2.2)).1
    | .host port addr => hostPut s port addr (slice bs w.2.1 w.2.2)
    | _ => s) s

/-- The status and DETAIL that a local access which failed gives: an S_FAULT makes no kitty record, and a status that R489 does not list is
S_FAULT. None for an access that waits. -/
def netStatus : Stop → Option (Nat × Nat)
  | .done st d => some (if st = sPoison then (sFault, faultCode codeDenied) else (st, d))
  | .walk _ _ reason level _ => some (sFault, reason + level * 2 ^ 8 + 0x1FF * 2 ^ 10)
  | .repair _ => some (sFault, faultCode codeDenied)
  | .hold => none
  | .noWalker => none

/-- What follows a local access that failed, none if it waits: the stop of R20 if no walker is present. -/
def netStopped (s : State) (e : Stop) (k : Nat → Nat → State) : Option State :=
  match e with
  | .noWalker => some (fatal s 0x55 0 0 0)
  | e => (netStatus e).map fun r => k r.1 r.2

/-- The state after a local access that failed; a row that must wait has not happened. -/
def netStop (s : State) (e : Stop) (k : Nat → Nat → State) : State := (netStopped s e k).getD s

/-- The device as a posted write finds it, which waits until its stack is ACTIVE (R501): nothing can read the bytes before. -/
def awakeView (s : State) : State := { s with power := { s.power with stackSr := 0#8, stackMoving := 0#8 } }

/-- Posts a write through an address space; one that cannot be delivered is lost. -/
def netPost (s : State) (asid va : Nat) (bs : List Byte) : State :=
  match netDest (awakeView s) asid va bs.length with
  | .ok places => netPut s places bs
  | .error _ => s

/-! ## Send entries (Table 18-14) -/

/-- Ends the entry at the head of a send ring (R489): the completion record is written if COMPLETE is set or the status is not S_OK. -/
def endEntry (s : State) (n : Nat) (q : Qp) (entry : List Byte) (status moved detail : Nat) : State :=
  let wanted := bitOf (fld entry 1 1) 0 || status != sOk
  let q1 := { q with head := wrapAdd 32 q.head 1, sent := none }
  if !wanted then putQp s n q1
  else
    let record := natLe 4 q.head ++ natLe 2 status ++ natLe 2 0 ++ natLe 4 moved ++ natLe 4 detail
    netPost (putQp s n { q1 with compl := wrapAdd 32 q.compl 1 }) q.asid (q.complVa + 16 * (q.compl % 2 ^ q.log2Compl)) record

/-- The checks of an entry against Table 18-14: status and DETAIL of the first that fails. -/
def entryFault (b : List Byte) : Option (Nat × Nat) :=
  if 2 < fld b 0 1 then some (sBadFormat, detParam 0)
  else if 1 < fld b 1 1 then some (sBadFormat, detParam 1)
  else if !zeroRange b 2 2 then some (sBadFormat, detParam 2)
  else if fld b 16 4 = 0 || 2 ^ 31 < fld b 16 4 then some (sLength, detParam 16)
  else if !zeroRange b 32 32 then some (sBadFormat, detParam 32)
  else none

/-- Sends an entry that passed its checks. -/
def sendEntry (s : State) (n : Nat) (q : Qp) (b : List Byte) : State :=
  let op := fld b 0 1
  let va := fld b 8 8
  let len := fld b 16 4
  let out (data : List Byte) : State :=
    send (putQp s n { q with sent := some b }) (.rdma q.port n op (if op = 1 then fld b 4 4 else 0) (fld b 20 4) (fld b 24 8) len data)
  if op = 2 then
    match netDest s q.asid va len with
    | .ok _ => out []
    | .error e => netStop s e fun st d => endEntry s n q b st 0 d
  else
    match netRead s q.asid va len with
    | .ok data => out data
    | .error e => netStop s e fun st d => endEntry s n q b st 0 d

/-- The entry at the head of a queue pair's send ring is served, if its OP is this row's, or no legal OP. An entry on a port that is not live
completes with S_UNIT_ABSENT (R487). One entry at a time waits for its answer. -/
def sendOp (op n : Nat) (s : State) : State :=
  match tabFind s.net.qps n with
  | none => s
  | some q =>
    if !serving s || q.sent.isSome || (netPortOf s q.port).paused then s
    else
      match netRead s q.asid q.tailVa 8 with
      | .error _ => s
      | .ok w =>
        let q1 := { q with tail := fld w 0 4 }
        if q1.tail = q1.head then s
        else
          match netRead s q.asid (q.sendVa + 64 * (q.head % 2 ^ q.log2Send)) 64 with
          | .error e => netStop s e fun st d => endEntry s n q1 (List.replicate 64 0#8) st 0 d
          | .ok b =>
            if fld b 0 1 < 3 && fld b 0 1 ≠ op then s
            else
              match entryFault b with
              | some (st, d) => endEntry s n q1 b st 0 d
              | none => if portLive s (4 + q.port) then sendEntry s n q1 b else endEntry s n q1 b sUnitAbsent 0 (netAbsent q.port)

/-- RDMA_WRITE (R488). -/
def execRdmaWrite (qp : Nat) (s : State) : Host.Outcome State Fault Refusal := answer (sendOp 0 qp s)
/-- RDMA_WRITE_WITH_IMMEDIATE (R488). -/
def execRdmaWriteWithImmediate (qp : Nat) (s : State) : Host.Outcome State Fault Refusal := answer (sendOp 1 qp s)
/-- RDMA_READ (R488). -/
def execRdmaRead (qp : Nat) (s : State) : Host.Outcome State Fault Refusal := answer (sendOp 2 qp s)

/-- RDMA_RESPONSE (R489): an acknowledgement ends a write, read response data ends a read, a negative acknowledgement either. -/
def rdmaResponseOp (n : Nat) (ans : RdmaAnswer) (s : State) : State :=
  match tabFind s.net.qps n with
  | none => s
  | some q =>
    match q.sent with
    | none => s
    | some b =>
      let len := fld b 16 4
      if !serving s || !portLive s (4 + q.port) then s
      else
        match ans with
        | .nak syndrome => endEntry s n q b sNetRemote 0 (low 8 syndrome)
        | .ack => if fld b 0 1 = 2 then s else endEntry s n q b sOk len 0
        | .data bytes =>
          if fld b 0 1 ≠ 2 then s
          else
            match netDest s q.asid (fld b 8 8) len with
            | .ok places => endEntry (netPut s places (padTo len bytes)) n q b sOk len 0
            | .error e => netStop s e fun st d => endEntry s n q b st 0 d

/-- RDMA_RESPONSE (R489). -/
def execRdmaResponse (qp : Nat) (ans : RdmaAnswer) (s : State) : Host.Outcome State Fault Refusal := answer (rdmaResponseOp qp ans s)

/-- RDMA_RETRY_EXPIRY (R489). -/
def rdmaRetryExpiryOp (n : Nat) (s : State) : State :=
  match tabFind s.net.qps n with
  | none => s
  | some q =>
    match q.sent with
    | none => s
    | some b => if serving s then endEntry s n q b sNetRemote 0 0xFF else s

/-- RDMA_RETRY_EXPIRY (R489). -/
def execRdmaRetryExpiry (qp : Nat) (s : State) : Host.Outcome State Fault Refusal := answer (rdmaRetryExpiryOp qp s)

/-! ## Entries that a lost port or a changed queue pair ends (R492, R504, R541) -/

/-- Ends the next pending entries of a send ring with S_UNIT_ABSENT. -/
def failEntries (n : Nat) : Nat → State → State
  | 0, s => s
  | k + 1, s =>
    match tabFind s.net.qps n with
    | none => s
    | some q => failEntries n k (endEntry s n q (q.sent.getD []) sUnitAbsent 0 (netAbsent q.port))

/-- Completes every pending entry of a queue pair with S_UNIT_ABSENT: those up to its tail counter, at most the ring's. -/
def failQueue (s : State) (n : Nat) : State :=
  match tabFind s.net.qps n with
  | none => s
  | some q =>
    let tail := match netRead (awakeView s) q.asid q.tailVa 8 with
      | .ok w => fld w 0 4
      | .error _ => if q.sent.isSome then wrapAdd 32 q.head 1 else q.head
    failEntries n (min ((tail + 2 ^ 32 - q.head) % 2 ^ 32) (2 ^ q.log2Send)) (putQp s n { q with tail := tail })

/-- An Ethernet port goes down: its bit clears, and the pending entries of its queue pairs end. -/
def netDown (s : State) (port : Nat) : State :=
  let s1 := setPortLive s (4 + port) false
  (s1.net.qps.filter fun q => q.2.port == port).foldl (fun s q => failQueue s q.1) s1

/-- ETHERNET_LINK_LOST (R492). -/
def execEthernetLinkLost (port : Nat) (s : State) : Host.Outcome State Fault Refusal :=
  answer (if decide (port < 2) && portLive s (4 + port) then netDown s port else s)

/-- ETHERNET_LINK_UP (R531): a port with a powered plug, and not commanded down, finishes its training. -/
def ethernetUpOp (port : Nat) (s : State) : State :=
  if linksTrain s && decide (port < 2) && !portLive s (4 + port) && cageReady s port && !s.power.portsDown.getLsbD (2 + port) then
    setNetPort (setPortLive s (4 + port) true) port { netPortOf s port with paused := false }
  else s

/-- ETHERNET_LINK_UP (R531). -/
def execEthernetLinkUp (port : Nat) (s : State) : Host.Outcome State Fault Refusal := answer (ethernetUpOp port s)

/-! ## Requests that arrive (R487, R489, R490) -/

/-- The region that a request names, if it maps the range with the right. -/
def regionOf (s : State) (p : RdmaReq) (write : Bool) : Option Mr :=
  (s.net.mrs.find? fun m => m.2.rkey == p.rkey).bind fun m =>
    if (if write then m.2.write else m.2.read) && decide (m.2.va ≤ p.va && p.va + p.len ≤ m.2.va + m.2.bytes) then some m.2 else none

/-- A request reaches a queue pair of a live port; a congestion mark is answered with a notification (Table 18-13). -/
def requestOp (p : RdmaReq) (serve : State → Qp → Option State) (s : State) : State :=
  match tabFind s.net.qps p.qp with
  | none => s
  | some q =>
    if !serving s || 2 ≤ p.port || q.port ≠ p.port || !portLive s (4 + p.port) then s
    else
      match serve s q with
      | none => s
      | some t => if p.ecn then send t (.cnp p.port p.qp) else t

/-- The answer to a request; a remote access error if it is not granted (R490). -/
def replyTo (s : State) (p : RdmaReq) (ok : Bool) (data : List Byte) : State := send s (.rdmaReply p.port p.qp ok data)

/-- Writes the data of a request whole, or refuses it; `done` follows the write. -/
def serveRdmaWrite (p : RdmaReq) (done : State → Qp → State) (s : State) (q : Qp) : Option State :=
  match regionOf s p true with
  | none => some (replyTo s p false [])
  | some m =>
    match netDest s m.asid p.va p.len with
    | .ok places => some (replyTo (done (netPut s places (padTo p.len p.data)) q) p true [])
    | .error e => netStopped s e fun _ _ => replyTo s p false []

/-- INCOMING_RDMA_WRITE (R490). -/
def execIncomingRdmaWrite (p : RdmaReq) (s : State) : Host.Outcome State Fault Refusal :=
  answer (requestOp p (serveRdmaWrite p fun s _ => s) s)

/-- Posts IMM and the queue pair number to IMM_WORD; one that is a shoe's tail word rings the shoe (R489). -/
def postImmediate (p : RdmaReq) (s : State) (q : Qp) : State :=
  let t := netPost s q.asid q.immVa (natLe 4 p.imm ++ natLe 4 p.qp)
  match netDest (awakeView s) q.asid q.immVa 8 with
  | .ok places => places.foldl (fun s w => match w.1 with
    | .mem pa => if pa < stackedEnd then ringTails s (unitsOf pa w.2.2) else s
    | _ => s) t
  | .error _ => t

/-- INCOMING_WRITE_WITH_IMMEDIATE (R489). -/
def execIncomingWriteWithImmediate (p : RdmaReq) (s : State) : Host.Outcome State Fault Refusal :=
  answer (requestOp p (serveRdmaWrite p (postImmediate p)) s)

/-- Reads the range of a request, or refuses it. -/
def serveRdmaRead (p : RdmaReq) (s : State) (_q : Qp) : Option State :=
  match regionOf s p false with
  | none => some (replyTo s p false [])
  | some m =>
    match netRead s m.asid p.va p.len with
    | .ok data => some (replyTo s p true data)
    | .error e => netStopped s e fun _ _ => replyTo s p false []

/-- INCOMING_RDMA_READ (R490). -/
def execIncomingRdmaRead (p : RdmaReq) (s : State) : Host.Outcome State Fault Refusal := answer (requestOp p (serveRdmaRead p) s)

/-! ## Flow control and the services of Table 18-13 -/

/-- CONGESTION_NOTIFICATION (R486): the queue pair's sending rate falls. -/
def execCongestionNotification (qp : Nat) (s : State) : Host.Outcome State Fault Refusal :=
  answer (match tabFind s.net.qps qp with
    | some q => if serving s && portLive s (4 + q.port) then putQp s qp { q with slowed := q.slowed + 1 } else s
    | none => s)

/-- PRIORITY_FLOW_CONTROL (R486): the configured priority pauses or goes on. -/
def execPriorityFlowControl (port : Nat) (classes : BitVec 8) (pause : Bool) (s : State) : Host.Outcome State Fault Refusal :=
  let n := netPortOf s port
  answer (if decide (port < 2) && portLive s (4 + port) && decide (n.pfc < 8) && classes.getLsbD n.pfc then
      setNetPort s port { n with paused := pause }
    else s)

/-- Whether a port answers for an address: it is live, and the address is its own. -/
def netOwns (s : State) (port address own : Nat) : Bool :=
  decide (port < 2) && portLive s (4 + port) && own != 0 && address == own

/-- ARP (R486): the port answers with its MAC and IPv4 address. -/
def execArp (port senderIp targetIp senderMac : Nat) (s : State) : Host.Outcome State Fault Refusal :=
  let n := netPortOf s port
  answer (if netOwns s port targetIp n.ipv4 then
      send s (.net port 1 senderMac (natLe 6 n.mac ++ natLe 4 n.ipv4 ++ natLe 6 senderMac ++ natLe 4 senderIp))
    else s)

/-- NEIGHBOUR_DISCOVERY (R486): the port answers with its MAC and IPv6 address. -/
def execNeighbourDiscovery (port senderIp targetIp senderMac : Nat) (s : State) : Host.Outcome State Fault Refusal :=
  let n := netPortOf s port
  answer (if netOwns s port targetIp n.ipv6 then
      send s (.net port 2 senderMac (natLe 6 n.mac ++ natLe 16 n.ipv6 ++ natLe 6 senderMac ++ natLe 16 senderIp))
    else s)

/-- ICMP_ECHO (R486): the data of an echo request returns to its sender. -/
def execIcmpEcho (port : Nat) (v6 : Bool) (senderIp targetIp : Nat) (data : List Byte) (s : State) : Host.Outcome State Fault Refusal :=
  let n := netPortOf s port
  answer (if netOwns s port targetIp (if v6 then n.ipv6 else n.ipv4) then
      send s (.net port (if v6 then 4 else 3) senderIp data)
    else s)

end Sys2Proof.Machine
end

