-- ==== Sys2Proof/Machine/Powers.lean ====
section
/-!
DEFINITION. Sys2Proof/Machine/Powers.lean: the host-commanded power states (chapter 19): rated power and the cap (R497, R498), the commands of
Table 19-2, their transitions (R499 to R505), telemetry (R506), thermal warnings (R507) and the protective stop (R508).
-/

namespace Sys2Proof.Machine

/-! ## Rated power (Table 19-4), in mW -/

/-- A region's base at a level. -/
def baseMw : Nat → Nat
  | 7 => 22000 | 6 => 18000 | 5 => 14000 | 4 => 11000 | 3 => 8000 | 2 => 6000 | 1 => 1500 | _ => 0

/-- An engine at a region level, gated or not. -/
def engineMw (level : Nat) (gated : Bool) : Nat :=
  if level = 0 then 0
  else if level = 1 || gated then 600
  else match level with
    | 7 => 41000 | 6 => 33000 | 5 => 26000 | 4 => 20000 | 3 => 15000 | _ => 11000

/-- The levels that a region counts at: its commanded one, and the one it leaves (R497). -/
def countedLevels (s : State) (r : Nat) : List Nat := regionLevel s r :: (oldLevelOf s r).toList

def maxOf (l : List Nat) : Nat := l.foldl max 0
def sumOf (l : List Nat) : Nat := l.foldl (· + ·) 0

/-- The larger of the figures that an engine counts at while it or its region moves. -/
def engineRated (s : State) (n : Nat) : Nat :=
  let g := s.power.gated.getLsbD n
  let gs := if s.power.engMoving.getLsbD n then [true, false] else [g]
  maxOf ((countedLevels s (n / 8)).flatMap fun l => gs.map (engineMw l))

/-- A present region's base and present engines. -/
def regionRated (s : State) (r : Nat) : Nat :=
  if !regionHere s r then 0
  else maxOf ((countedLevels s r).map baseMw) + sumOf ((List.range 8).map fun j => if engineHere s (8 * r + j) then engineRated s (8 * r + j) else 0)

def stackRated (s : State) (i : Nat) : Nat := if s.power.stackSr.getLsbD i && !s.power.stackMoving.getLsbD i then 4000 else 40000
def vaultRated (s : State) : Nat := if s.power.vaultStandby && !s.power.vaultMoving then 6000 else 120000

/-- The present lanes of a Binik port: awake ones, while it moves by the larger count, and asleep ones. -/
def binikRated (s : State) (p : Nat) : Nat :=
  let awake := max (awakeLanes s p) (tabGet s.power.oldLanes p 0)
  sumOf ((List.range 4).map fun l => if !laneHere s (4 * p + l) then 0 else if l < awake then 875 else 100)

def outerRated (s : State) (i : Nat) : Nat := if s.power.portsDown.getLsbD i && !s.power.portsMoving.getLsbD i then 200 else 4000

/-- The rated total (R497). -/
def ratedMw (s : State) : Nat :=
  sumOf ((List.range 8).map (regionRated s)) + sumOf ((List.range 8).map (stackRated s)) + vaultRated s + 60000
    + sumOf ((List.range 16).map (binikRated s)) + 8000 + sumOf ((List.range 4).map (outerRated s))

/-! ## Acceptance (R495, R496, R498) -/

/-- MR_STATE codes of Table 19-3. -/
def psOverCap : Nat := 1
def psInTransition : Nat := 2
def psWriting : Nat := 3
def psAbsent : Nat := 4

/-- Step 8 of a power command: the first condition of R496 that fails, or the new state. A command that does not raise the rated total is
never refused for the cap. -/
def powerCommand (s : State) (present still notWriting : Bool) (after : State) (then_ : State → State) : Option MbDone :=
  if !present then refuse s mrState psAbsent
  else if !still then refuse s mrState psInTransition
  else if !notWriting then refuse s mrState psWriting
  else if 1000 * after.power.cap < ratedMw after && ratedMw s < ratedMw after then refuse s mrState psOverCap
  else done (then_ after) []

/-- The names below `n` that a mask sets. -/
def named (n mask : Nat) : List Nat := oneBits n mask

def powerSpec (code : Nat) (mine : List Byte → Bool) (len : Nat) (checks : List Byte → List MbCheck)
    (run : State → Nat → List Byte → Option MbDone) : MbSpec :=
  { code := code, major1 := false, role := .right 2, mine := mine, lengths := fixedLen len, checks := fun _ p => checks p, run := run }

/-- Whether a payload is a row's of a command that two rows share: its state byte is the row's, or no legal state. -/
def stateIs (off want : Nat) (p : List Byte) : Bool := fld p off 1 == want || decide (1 < fld p off 1)

/-! ## Regions (R499) -/

/-- Whether a level works (R18). -/
def works (level : Nat) : Bool := decide (2 ≤ level)

def setLevel (level : Nat) (s : State) (r : Nat) : State :=
  { s with power := { s.power with
    level := tabSet s.power.level r level 0
    oldLevel := tabPut s.power.oldLevel r (regionLevel s r) } }

def levelRun (s : State) (_ : Nat) (p : List Byte) : Option MbDone :=
  let level := fld p 1 1
  let rs := named 8 (fld p 0 1)
  let moves := rs.filter fun r => regionLevel s r != level
  let drops := moves.any fun r => works (regionLevel s r) && !works level
  powerCommand s (rs.all (regionHere s)) (rs.all fun r => (oldLevelOf s r).isNone) true (moves.foldl (setLevel level) s)
    fun t => if drops then resizeAnte t else t

def levelSpec : MbSpec :=
  powerSpec 0x8001 anyPayload 8 (fun p => [rangeField 1 (decide (fld p 1 1 ≤ 7)), rsvField p 2 6]) levelRun

/-- MB_PWR_LEVEL (R499). -/
def execMbPwrLevel (rq : MbReq) (s : State) : Host.Outcome State Fault Refusal := answer (mbOp levelSpec rq s)

/-! ## Engines (R500) -/

def gateRun (gate : Bool) (s : State) (_ : Nat) (p : List Byte) : Option MbDone :=
  let es := named 64 (fld p 0 8)
  let moves := es.filter fun n => s.power.gated.getLsbD n != gate
  let after := moves.foldl (fun s n => { s with power := { s.power with
    gated := putBit s.power.gated n gate
    engMoving := putBit s.power.engMoving n true } }) s
  powerCommand s (es.all (engineHere s)) (es.all fun n => !s.power.engMoving.getLsbD n) true after
    fun t => if gate && !moves.isEmpty then resizeAnte t else t

def gateSpec (gate : Bool) : MbSpec :=
  powerSpec 0x8002 (stateIs 8 (b2n gate)) 16 (fun p => [rangeField 8 (decide (fld p 8 1 ≤ 1)), rsvField p 9 7]) (gateRun gate)

/-- MB_PWR_GATE (R500). -/
def execMbPwrGate (rq : MbReq) (s : State) : Host.Outcome State Fault Refusal := answer (mbOp (gateSpec true) rq s)
/-- MB_PWR_UNGATE (R500). -/
def execMbPwrUngate (rq : MbReq) (s : State) : Host.Outcome State Fault Refusal := answer (mbOp (gateSpec false) rq s)

/-! ## Stacks and the vault (R501, R502) -/

def stackRun (sr : Bool) (s : State) (_ : Nat) (p : List Byte) : Option MbDone :=
  let ks := named 8 (fld p 0 1)
  let moves := ks.filter fun k => s.power.stackSr.getLsbD k != sr
  let after := moves.foldl (fun s k => { s with power := { s.power with
    stackSr := putBit s.power.stackSr k sr
    stackMoving := putBit s.power.stackMoving k true } }) s
  powerCommand s true (ks.all fun k => !s.power.stackMoving.getLsbD k) true after id

def stackSpec (sr : Bool) : MbSpec :=
  powerSpec 0x8003 (stateIs 1 (b2n sr)) 8 (fun p => [rangeField 1 (decide (fld p 1 1 ≤ 1)), rsvField p 2 6]) (stackRun sr)

/-- MB_PWR_STACK_ACTIVE (R501). -/
def execMbPwrStackActive (rq : MbReq) (s : State) : Host.Outcome State Fault Refusal := answer (mbOp (stackSpec false) rq s)
/-- MB_PWR_STACK_SELF_REFRESH (R501). -/
def execMbPwrStackSelfRefresh (rq : MbReq) (s : State) : Host.Outcome State Fault Refusal := answer (mbOp (stackSpec true) rq s)

def vaultRun (standby : Bool) (s : State) (_ : Nat) (_ : List Byte) : Option MbDone :=
  let after := if s.power.vaultStandby = standby then s
    else { s with power := { s.power with vaultStandby := standby, vaultMoving := true } }
  powerCommand s true (!s.power.vaultMoving) (!standby || s.vault.slots.all fun x => x.2.state != .writing) after id

def vaultPowerSpec (standby : Bool) : MbSpec :=
  powerSpec 0x8004 (stateIs 0 (b2n standby)) 8 (fun p => [rangeField 0 (decide (fld p 0 1 ≤ 1)), rsvField p 1 7]) (vaultRun standby)

/-- MB_PWR_VAULT_ACTIVE (R502). -/
def execMbPwrVaultActive (rq : MbReq) (s : State) : Host.Outcome State Fault Refusal := answer (mbOp (vaultPowerSpec false) rq s)
/-- MB_PWR_VAULT_STANDBY (R502). -/
def execMbPwrVaultStandby (rq : MbReq) (s : State) : Host.Outcome State Fault Refusal := answer (mbOp (vaultPowerSpec true) rq s)

/-! ## Binik lanes (R503) -/

def setLanes (awake : Nat) (s : State) (p : Nat) : State :=
  { s with power := { s.power with
    lanesAwake := tabSet s.power.lanesAwake p awake 4
    oldLanes := tabPut s.power.oldLanes p (awakeLanes s p) } }

/-- The port retrains: from step 1 for lanes that wake, else from step 2; with no lane awake it stays down. -/
def relane (before : State) (awake : Nat) (s : State) (p : Nat) : State :=
  let s1 := if (linkOf s p).state = 0 then s else portDownOp p 2 s
  if awake = 0 then s1 else send s1 (.retrain p (if awakeLanes before p < awake then 1 else 2))

def lanesRun (s : State) (_ : Nat) (p : List Byte) : Option MbDone :=
  let awake := fld p 2 1
  let ps := named 16 (fld p 0 2)
  let moves := ps.filter fun q => awakeLanes s q != awake
  powerCommand s true (ps.all fun q => (tabFind s.power.oldLanes q).isNone) true (moves.foldl (setLanes awake) s)
    fun t => moves.foldl (relane s awake) t

def lanesSpec : MbSpec :=
  powerSpec 0x8005 anyPayload 8 (fun p => [rangeField 2 ([0, 1, 2, 4].contains (fld p 2 1)), rsvField p 3 5]) lanesRun

/-- MB_PWR_LANES (R503). -/
def execMbPwrLanes (rq : MbReq) (s : State) : Host.Outcome State Fault Refusal := answer (mbOp lanesSpec rq s)

/-! ## Far and Ethernet ports (R504) -/

/-- A port is commanded down: 0 F0, 1 F1, 2 N0, 3 N1. -/
def portDown (s : State) (i : Nat) : State :=
  if i < 2 then
    let s1 := if portLive s (2 + i) then farDownOp i s else s
    send s1 (.perst i true)
  else netDown s (i - 2)

/-- A port is commanded up: a far port's expanders leave their reset, an Ethernet port's plug is powered if it asks for at most 15 W
(R537, R545, Table 22-12). -/
def portUp (s : State) (i : Nat) : State :=
  if i < 2 then send s (.perst i false)
  else
    let n := i - 2
    let watts := if n = 0 then s.module.osfpWatts.1 else s.module.osfpWatts.2
    { s with module := { s.module with
      osfpPowered := putBit s.module.osfpPowered n (s.module.osfp.getLsbD n && decide (watts ≤ 15)) } }

def portRun (down : Bool) (s : State) (_ : Nat) (p : List Byte) : Option MbDone :=
  let mask := fld p 0 1
  let ps := named 4 mask
  let moves := ps.filter fun i => s.power.portsDown.getLsbD i != down
  let after := moves.foldl (fun s i => { s with power := { s.power with
    portsDown := putBit s.power.portsDown i down
    portsMoving := putBit s.power.portsMoving i true } }) s
  powerCommand s (decide (mask < 16)) (ps.all fun i => !s.power.portsMoving.getLsbD i) true after
    fun t => moves.foldl (if down then portDown else portUp) t

def portSpec (down : Bool) : MbSpec :=
  powerSpec 0x8006 (stateIs 1 (b2n down)) 8 (fun p => [rangeField 1 (decide (fld p 1 1 ≤ 1)), rsvField p 2 6]) (portRun down)

/-- MB_PWR_PORT_UP (R504). -/
def execMbPwrPortUp (rq : MbReq) (s : State) : Host.Outcome State Fault Refusal := answer (mbOp (portSpec false) rq s)
/-- MB_PWR_PORT_DOWN (R504). -/
def execMbPwrPortDown (rq : MbReq) (s : State) : Host.Outcome State Fault Refusal := answer (mbOp (portSpec true) rq s)

/-! ## The cap (R498) -/

def capRun (s : State) (_ : Nat) (p : List Byte) : Option MbDone :=
  let cap := fld p 0 4
  if 1000 * cap < ratedMw s then refuse s mrState psOverCap
  else done { s with power := { s.power with cap := cap, warnC := fld p 4 2 } } []

def capSpec : MbSpec :=
  { code := 0x8007, major1 := false, role := .owner, mine := anyPayload, lengths := fixedLen 8
    checks := fun _ p =>
      [rangeField 0 (decide (300 ≤ fld p 0 4 && fld p 0 4 ≤ 2400)),
       rangeField 4 (fld p 4 2 == 0 || decide (85 ≤ fld p 4 2 && fld p 4 2 ≤ 117)), rsvField p 6 2]
    run := capRun }

/-- MB_PWR_CAP (R498). -/
def execMbPwrCap (rq : MbReq) (s : State) : Host.Outcome State Fault Refusal := answer (mbOp capSpec rq s)

/-! ## Transitions settle (R499 to R505) -/

/-- Whether no command runs on a region's engines or clusters; a write-out that is held counts as running. -/
def regionDrained (s : State) (r : Nat) : Bool :=
  s.flights.list.all fun f => !onUnit f ||
    (match f.place with
      | .engine n => n / 8 != r
      | .mover c _ => c / 2 != r
      | _ => true)

/-- A region leaves level 0: its stores are zeroed, every segment is FREE, and no area, tag or translation is left (R499). -/
def wakeRegion (s : State) (r : Nat) : State :=
  let engines := (List.range 8).map fun j => 8 * r + j
  let clusters := [2 * r, 2 * r + 1]
  let m := s.memories
  let zeroed := clusters.foldl (fun s c => zeroMem s (clusterBase + c * clusterStride) clusterStride) s
  { zeroed with
    memories := { zeroed.memories with
      areas := engines.foldl (fun a n => memZero a (areaAt n) (2 ^ 23)) m.areas
      areaTags := m.areaTags.filter fun t => t.1 / 8 != r
      segs := m.segs.filter fun g => g.1 / 384 / 2 != r
      prefetch := m.prefetch.filter fun q => q.engine / 8 != r }
    trans := { s.trans with
      level1 := s.trans.level1.filter fun b => b.1 / 8 != r
      level2 := s.trans.level2.filter fun b => b.1 / 2 != r } }

def settleRegion (s : State) (r : Nat) : State :=
  match oldLevelOf s r with
  | none => s
  | some old =>
    let new := regionLevel s r
    if !works new && !regionDrained s r then s
    else
      let s1 := if old = 0 then wakeRegion s r else s
      let s2 := { s1 with power := { s1.power with oldLevel := tabErase s1.power.oldLevel r } }
      if works new && !works old then resizeAnte s2 else s2

def settleEngine (s : State) (n : Nat) : State :=
  if !s.power.engMoving.getLsbD n then s
  else
    let busy := s.flights.list.any fun f => onUnit f && f.place == .engine n
    let s1 := { s with power := { s.power with engMoving := putBit s.power.engMoving n false } }
    if s.power.gated.getLsbD n then (if busy then s else s1) else resizeAnte s1

/-- A unit's transition ends: 0 region, 1 engine, 2 stack, 3 the vault, 4 Binik port, 5 far or Ethernet port. -/
def settledOp (kind index : Nat) (s : State) : State :=
  if !serving s then s
  else
    match kind with
    | 0 => settleRegion s index
    | 1 => settleEngine s index
    | 2 => { s with power := { s.power with stackMoving := putBit s.power.stackMoving index false } }
    | 3 => { s with power := { s.power with vaultMoving := false } }
    | 4 => { s with power := { s.power with oldLanes := tabErase s.power.oldLanes index } }
    | 5 => { s with power := { s.power with portsMoving := putBit s.power.portsMoving index false } }
    | _ => s

/-- POWER_TRANSITION_SETTLED (R505). -/
def execPowerTransitionSettled (kind index : Nat) (s : State) : Host.Outcome State Fault Refusal := answer (settledOp kind index s)

/-! ## Telemetry (R506) -/

/-- A signed number in two's complement. -/
def intLe (k : Nat) (v : Int) : List Byte := natLe k (v % (2 ^ (8 * k) : Int)).toNat

/-- The code of a port's awake lanes (Table 19-5). -/
def lanesCode (awake : Nat) : Nat := if awake = 4 then 3 else awake

/-- Bytes 64 to 113 of Table 19-5. -/
def temperatureBytes (s : State) : List Byte :=
  let rd := s.telemetry.rd
  padTo 16 (rd.region.flatMap (intLe 2)) ++ padTo 16 (rd.stack.flatMap (intLe 2))
    ++ (List.range 8).flatMap (fun k => natLe 1 (2 ^ tabGet s.memories.refresh k 0)) ++ intLe 2 rd.hub ++ padTo 8 (rd.vault.flatMap (intLe 2))

/-- The number with bit i set for each i that a test holds of. -/
def maskOf (n : Nat) (f : Nat → Bool) : Nat := sumOf ((List.range n).map fun i => if f i then 2 ^ i else 0)

/-- The telemetry record (Table 19-5). -/
def telemetryBytes (s : State) : List Byte :=
  let w := s.power
  let vault := if w.vaultMoving then (if w.vaultStandby then 2 else 3) else b2n w.vaultStandby
  let other := b2n (w.engMoving != 0#64) + 2 * b2n w.vaultMoving + 4 * b2n (!w.oldLanes.isEmpty) + 8 * b2n (w.portsMoving != 0#4)
  stampBytes (stampNow s) ++ natLe 4 (ratedMw s) ++ natLe 2 w.cap ++ natLe 2 w.warnC
    ++ (List.range 8).flatMap (fun r => natLe 1 (regionLevel s r)) ++ natLe 1 (maskOf 8 fun r => (oldLevelOf s r).isSome)
    ++ natLe 1 w.stackSr.toNat ++ natLe 1 w.stackMoving.toNat ++ natLe 1 vault
    ++ natLe 4 (sumOf ((List.range 16).map fun p => lanesCode (awakeLanes s p) * 4 ^ p)) ++ natLe 1 w.portsDown.toNat ++ natLe 1 other
    ++ natLe 6 0 ++ natLe 8 w.gated.toNat ++ natLe 8 0 ++ temperatureBytes s ++ natLe 14 0
    ++ padTo 64 ((s.telemetry.rd.railMw.take 14).flatMap (natLe 4))
    ++ (List.range 8).flatMap fun r => natLe 8 (sumOf ((List.range 8).map fun j => tabGet s.steps.engine (8 * r + j) 0))

def telemSpec : MbSpec :=
  { code := 0x8010, major1 := true, role := .right 1, mine := anyPayload, lengths := fixedLen 0, checks := fun _ _ => []
    run := fun s _ _ => done s (telemetryBytes s) }

/-- MB_TELEM_READ (R506). -/
def execMbTelemRead (rq : MbReq) (s : State) : Host.Outcome State Fault Refusal := answer (mbOp telemSpec rq s)

/-! ## Thermal warnings and the protective stop (R507, R508) -/

/-- The sensors that warn: 0 regions, 2 the hub, 3 the vault; the sensor's code in EV_THERMAL. -/
def warnCode : Nat → Option Nat
  | 0 => some 0 | 2 => some 1 | 3 => some 3 | _ => none

/-- The sensors that stop the device: 0 regions, 2 the hub, 4 the bridges. -/
def stopCode : Nat → Option Nat
  | 0 => some 0 | 2 => some 1 | 4 => some 2 | _ => none

/-- A reading, in 1/16 degC, at which a sensor may warn again: 3 degC below WARN_C. -/
def cooled (s : State) (reading : Int) : Bool := decide (reading ≤ ((s.power.warnC : Int) - 3) * 16)

def thermalPayload (kind code index : Nat) (reading : Int) : List Byte :=
  natLe 1 kind ++ natLe 1 code ++ natLe 1 index ++ natLe 1 0 ++ intLe 2 reading

def setWarned (s : State) (l : List (Nat × Nat)) : State := { s with telemetry := { s.telemetry with warned := l } }

/-- A sensor's reading rises above WARN_C, or falls far enough to warn again. -/
def thermalWarnOp (sensor index : Nat) (reading : Int) (s : State) : State :=
  match warnCode sensor with
  | none => s
  | some code =>
    let w := s.telemetry.warned
    if !serving s || s.power.warnC = 0 then s
    else if cooled s reading then setWarned s (w.filter fun x => x != (sensor, index))
    else if (s.power.warnC : Int) * 16 < reading && !w.contains (sensor, index) then
      raiseEvent (setWarned s ((sensor, index) :: w)) evThermal (thermalPayload 0 code index reading)
    else s

/-- THERMAL_WARN (R507). -/
def execThermalWarn (sensor index : Nat) (reading : Int) (s : State) : Host.Outcome State Fault Refusal :=
  answer (thermalWarnOp sensor index reading s)

/-- The reading of a sensor in a set of readings. -/
def readingOf (rd : Readings) (sensor index : Nat) : Option Int :=
  match sensor with
  | 0 => (rd.region.drop index).head?
  | 2 => some rd.hub
  | 3 => (rd.vault.drop index).head?
  | _ => none

/-- The length of a telemetry window in hub steps (R506). -/
def telemetryWindow : Nat := 2 ^ 20

/-- A telemetry window ends: the averages and the readings are kept, and sensors that have cooled may warn again. While the device serves, its
windows are 2^20 hub steps each. -/
def telemetryWindowOp (rd : Readings) (s : State) : State :=
  if !s.module.powered || (serving s && decide ((hubNow s + 2 ^ 64 - s.telemetry.windowAt) % 2 ^ 64 < telemetryWindow)) then s
  else
    { s with
      telemetry := { rd := rd, windowAt := hubNow s, warned := s.telemetry.warned.filter fun x => !((readingOf rd x.1 x.2).map (cooled s)).getD false }
      module := { s.module with inputMv := rd.inputMv, inputMa := rd.inputMa, inputMw := rd.inputMw } }

/-- TELEMETRY_WINDOW (R506). -/
def execTelemetryWindow (rd : Readings) (s : State) : Host.Outcome State Fault Refusal := answer (telemetryWindowOp rd s)

/-- A die sensor reaches 118 degC: EV_THERMAL with kind STOP in every set ring, then the fatal path (Table 19-7). A start that has reached
step 2 stops with cause THERMAL and the sensor's code (Table 21-6). -/
def protectiveStopOp (sensor index : Nat) (reading : Int) (s : State) : State :=
  match stopCode sensor with
  | none => s
  | some code =>
    if serving s && decide (118 * 16 ≤ reading) then
      fatal (raiseEverywhere s evThermal (thermalPayload 1 code index reading)) 0x56 0 0 0
    else if starting s && decide (2 ≤ s.boot.step) && decide (118 * 16 ≤ reading) then failStart s 9 code
    else s

/-- PROTECTIVE_STOP (R508). -/
def execProtectiveStop (sensor index : Nat) (reading : Int) (s : State) : Host.Outcome State Fault Refusal :=
  answer (protectiveStopOp sensor index reading s)

end Sys2Proof.Machine
end

