-- ==== Sys2Proof/Machine/Errors.lean ====
section
/-!
DEFINITION. Sys2Proof/Machine/Errors.lean: in-service tests (R520), immediate retirements (R519), and the ends of the error windows (R515, R519).
-/

namespace Sys2Proof.Machine

/-- Whether a command of a unit has not reached its final status; a cluster's commands are those of its engines and movers. -/
def unitBusy (s : State) (kind index : Nat) : Bool :=
  s.flights.list.any fun f => onUnit f &&
    (match kind with
      | 1 => f.place == .engine index
      | 2 => inCluster index f
      | _ => false)

/-- A unit that needs its test starts it once its commands have ended (R520). -/
def inServiceTestOp (kind index : Nat) (s : State) : State :=
  if serving s && underTest s kind index && !unitBusy s kind index then
    { s with units := { s.units with
      tests := s.units.tests.map fun t => if t.kind == kind && t.index == index then { t with running := true } else t } }
  else s

/-- IN_SERVICE_TEST (R520). -/
def execInServiceTest (kind index : Nat) (s : State) : Host.Outcome State Fault Refusal := answer (inServiceTestOp kind index s)

/-- Steps of the unit that a test takes (R520). -/
def testSteps : Nat := 65536

/-- A test ends: the unit returns to placement, or leaves service at once with cause SELF_TEST (R519, R520). -/
def inServiceTestEndOp (kind index : Nat) (passed : Bool) (s : State) : State :=
  if !serving s || !(s.units.tests.any fun t => t.kind == kind && t.index == index && t.running) then s
  else
    let s1 := match kind with
      | 1 => advance s (.engine index) testSteps
      | 2 => advance s (.cluster index) testSteps
      | _ => s
    let s2 := { s1 with units := { s1.units with tests := s1.units.tests.filter fun t => !(t.kind == kind && t.index == index) } }
    if passed then s2 else retireNow s2 kind index 0x61

/-- IN_SERVICE_TEST_END (R520). -/
def execInServiceTestEnd (kind index : Nat) (passed : Bool) (s : State) : Host.Outcome State Fault Refusal :=
  answer (inServiceTestEndOp kind index passed s)

/-- The hub steps that the device waits for the acknowledgement of a kill, and the length of a rate window (R515, R519). -/
def killWait : Nat := 2 ^ 20
def rateWindow : Nat := 2 ^ 20
/-- The length of a retirement window in hub steps (R519). -/
def retireWindow : Nat := 2 ^ 46

/-- Whether so many hub steps have passed since a moment (R57). -/
def passedSince (s : State) (since n : Nat) : Bool := decide (n ≤ (hubNow s + 2 ^ 64 - since) % 2 ^ 64)

/-- Whether an engine or cluster has been told of a kill that it has not acknowledged for 2^20 hub steps (R519); a cluster's kills are those
of its movers too. -/
def killUnanswered (s : State) (kind index : Nat) : Bool :=
  ((tabFind s.units.kills (unitKey kind index)).map fun at_ => passedSince s at_ killWait).getD false

/-- KILL_ACK_TIMEOUT (R519): an engine or cluster does not acknowledge a kill. -/
def execKillAckTimeout (kind index : Nat) (s : State) : Host.Outcome State Fault Refusal :=
  answer (if serving s && (kind == 1 || kind == 2) && killUnanswered s kind index then retireNow s kind index (Config.immediateCause kind) else s)

/-- CHANNEL_NO_ANSWER (R519): a stack channel stops answering. -/
def execChannelNoAnswer (channel : Nat) (s : State) : Host.Outcome State Fault Refusal :=
  answer (if serving s then retireNow s 4 channel (Config.immediateCause 4) else s)

/-- A retirement window of 2^46 hub steps ends: every window count returns to 0, and the next begins (R519). -/
def retirementWindowEndOp (s : State) : State :=
  if !passedSince s s.units.windowAt retireWindow then s
  else
    let cleared := s.units.window.map fun w => (w.1, { w.2 with window := 0, window2 := 0 })
    { s with units := { s.units with
        window := cleared.filter fun w => w.2.life != 0
        windowAt := wrapAdd 64 s.units.windowAt retireWindow } }

/-- RETIREMENT_WINDOW_END (R519). -/
def execRetirementWindowEnd (s : State) : Host.Outcome State Fault Refusal := answer (retirementWindowEndOp s)

/-- A rate window of 2^20 hub steps ends for each cause and unit whose first event lies so far back: its suppressed events may be raised again
(R515). -/
def eventWindowEndOp (s : State) : State :=
  { s with units := { s.units with
      errs := s.units.errs.map fun e => if passedSince s e.since rateWindow then { e with raised := 0 } else e } }

/-- EVENT_WINDOW_END (R515). -/
def execEventWindowEnd (s : State) : Host.Outcome State Fault Refusal := answer (eventWindowEndOp s)

end Sys2Proof.Machine
end

