-- ==== Sys2Proof/Machine/Side.lean ====
section
/-!
DEFINITION. Sys2Proof/Machine/Side.lean: the sideband (R538 to R543): the I3C common commands and the commands of Table 22-5.
-/

namespace Sys2Proof.Machine

/-! ## I3C common commands (R539) -/

def setSide (s : State) (x : Sideband) : State := { s with sideband := x }

/-- I3C_SETDASA (R539): the target at the static address 0x40 + position takes its dynamic address. -/
def execI3cSetdasa (static dynamic : Nat) (s : State) : Host.Outcome State Fault Refusal :=
  answer (if s.module.powered && static == 0x40 + position s && s.sideband.dynAddr.isNone then
      setSide s { s.sideband with dynAddr := some dynamic }
    else s)

/-- I3C_ENTDAA (R539): a target with no dynamic address sends its provisioned ID and takes one. -/
def execI3cEntdaa (dynamic : Nat) (s : State) : Host.Outcome State Fault Refusal :=
  answer (if s.module.powered && s.sideband.dynAddr.isNone then
      send (setSide s { s.sideband with dynAddr := some dynamic }) (.i3c (natBe 6 Config.provisionedId))
    else s)

/-- I3C_GETSTATUS (R539): two bytes, whose low four bits say whether an interrupt is pending. -/
def execI3cGetstatus (s : State) : Host.Outcome State Fault Refusal :=
  answer (if s.module.powered then send s (.i3c (natBe 2 (b2n s.sideband.pending.isSome))) else s)

/-- I3C_GETPID (R539). -/
def execI3cGetpid (s : State) : Host.Outcome State Fault Refusal :=
  answer (if s.module.powered then send s (.i3c (natBe 6 Config.provisionedId)) else s)

/-- I3C_EVENT_ENABLE (R539). -/
def execI3cEventEnable (s : State) : Host.Outcome State Fault Refusal :=
  answer (if s.module.powered then setSide s { s.sideband with ibiOn := true } else s)

/-- I3C_EVENT_DISABLE (R539): an interrupt is not raised while disabled (R543). -/
def execI3cEventDisable (s : State) : Host.Outcome State Fault Refusal :=
  answer (if s.module.powered then setSide s { s.sideband with ibiOn := false } else s)

/-! ## A request and its response (R540 to R542) -/

def sbOk : Nat := 0
def sbFormat : Nat := 1
def sbRange : Nat := 2
def sbState : Nat := 3
def sbRefused : Nat := 4

/-- A command of Table 22-5: whether every stage serves it, whether a payload is this row's, the lengths it may have, whether its bytes that must
be 0 are, whether its fields are in their ranges, and its execution: RESULT, the state and the response's payload. -/
structure SbSpec where
  always  : Bool
  mine    : List Byte → Bool
  lengths : Nat → Bool
  form    : List Byte → Bool
  range   : List Byte → Bool
  run     : State → List Byte → Nat × State × List Byte

/-- Writes the response (Table 22-4); it has a payload only with OK. -/
def sbAnswer (s : State) (seq result : Nat) (payload : List Byte) : State :=
  let body := if result = sbOk then payload else []
  let frame := natLe 1 result ++ natLe 1 seq ++ natLe 2 body.length ++ body
  send (setSide s { s.sideband with response := frame }) (.sideband frame)

/-- One sideband exchange: FORMAT, then STATE, then RANGE, then the command's own refusal. -/
def sbOp (sp : SbSpec) (rq : SbReq) (s : State) : State :=
  let p := rq.payload
  if !s.module.powered || !sp.mine p then s
  else if rq.len ≠ p.length || !sp.lengths p.length || !sp.form p then sbAnswer s rq.seq sbFormat []
  else if !sp.always && !serving s then sbAnswer s rq.seq sbState []
  else if !sp.range p then sbAnswer s rq.seq sbRange []
  else
    let (result, t, body) := sp.run s p
    sbAnswer t rq.seq result body

def sbDone (s : State) (payload : List Byte) : Nat × State × List Byte := (sbOk, s, payload)
def sbRefuse (s : State) : Nat × State × List Byte := (sbRefused, s, [])

/-- A command with no payload that reads. -/
def sbRead (always : Bool) (body : State → List Byte) : SbSpec :=
  { always := always, mine := anyPayload, lengths := fixedLen 0, form := anyPayload, range := anyPayload
    run := fun s _ => sbDone s (body s) }

/-! ## What the sideband reads -/

/-- The start record (Table 21-5). -/
def startRecord (s : State) : List Byte :=
  let b := s.boot
  natLe 4 (b2n b.failed + 2 * b2n s.units.map.startRetired + 4 * b2n b.fallback + low 8 b.detail * 2 ^ 8 + low 8 b.step * 2 ^ 16
    + low 8 b.cause * 2 ^ 24)

/-- START_READ (R533). -/
def execStartRead (rq : SbReq) (s : State) : Host.Outcome State Fault Refusal := answer (sbOp (sbRead true startRecord) rq s)

/-- The 48 bytes of a stop record (Table 22-5). -/
def stopBytes : Option StopRec → List Byte
  | none => natLe 48 0
  | some r =>
    natLe 1 r.cause ++ natLe 1 r.cls ++ natLe 1 r.kind ++ natLe 1 0 ++ natLe 4 r.index ++ natLe 8 r.addr ++ natLe 8 r.dealSeq
      ++ stampBytes r.stamp ++ natLe 8 0

/-- What STOP_READ gives: the current stop while READY is 2, else the record read at step 2 (R541). -/
def stopNow (s : State) : List Byte := stopBytes (if s.heldun.ready = 2 then s.boot.stop else s.boot.atStart)

/-- STOP_READ (R541). -/
def execStopRead (rq : SbReq) (s : State) : Host.Outcome State Fault Refusal := answer (sbOp (sbRead true stopNow) rq s)

/-- What TEMP_READ gives: bytes 64 to 113 of the telemetry record, then the three bridges. -/
def tempNow (s : State) : List Byte := temperatureBytes s ++ padTo 6 (s.telemetry.rd.bridge.flatMap (intLe 2))

/-- TEMP_READ (R541). -/
def execTempRead (rq : SbReq) (s : State) : Host.Outcome State Fault Refusal := answer (sbOp (sbRead true tempNow) rq s)

/-- What POWER_READ gives: input voltage, current and power, and ride-through. -/
def powerNow (s : State) : List Byte :=
  natLe 4 s.module.inputMv ++ natLe 4 s.module.inputMa ++ natLe 4 s.module.inputMw ++ natLe 4 (b2n s.module.rideThrough)

/-- POWER_READ (R541). -/
def execPowerRead (rq : SbReq) (s : State) : Host.Outcome State Fault Refusal := answer (sbOp (sbRead true powerNow) rq s)

/-- What STATUS_READ gives: READY, the position, the owner, whether a record is stored, and the low bits of the epoch. -/
def statusNow (s : State) : List Byte :=
  natLe 1 s.heldun.ready ++ natLe 1 (position s) ++ natLe 1 (match s.heldun.owner with | none => 0 | some p => p + 1)
    ++ natLe 1 (b2n s.vault.install.isSome) ++ natLe 4 s.domain.barrier.epoch

/-- STATUS_READ (R541). -/
def execStatusRead (rq : SbReq) (s : State) : Host.Outcome State Fault Refusal := answer (sbOp (sbRead true statusNow) rq s)

/-- What LINK_READ gives: four bytes for each Binik port. -/
def linksNow (s : State) : List Byte :=
  (List.range 16).flatMap fun p =>
    let l := linkOf s p
    natLe 1 l.lanes ++ natLe 1 l.state ++ natLe 1 l.protocol ++ natLe 1 l.failed

/-- LINK_READ (R541). -/
def execLinkRead (rq : SbReq) (s : State) : Host.Outcome State Fault Refusal := answer (sbOp (sbRead true linksNow) rq s)

/-! ## The installation record (R472) -/

/-- The bytes of an installation record. -/
def installBytes : Nat := 2136

/-- Whether an EXPECT entry is legal for TP7 to TP15 (Table 18-6, R484). -/
def expectLegal (compat : Bool) (e : List Byte) : Bool :=
  let id := fld e 0 2
  (decide (id < 16384) || id == 0xFFFF || (id == 0xFFFE && compat)) && decide (fld e 2 1 < 16) && fld e 3 1 == 0

/-- Whether SHAPE, DIMS, SIZE and COORD agree with Table 18-6. A dimension that DIMS does not count has SIZE and COORD 0; for a tree, byte 0 of
COORD is a level, at most its depth. -/
def shapeLegal (r : List Byte) : Bool :=
  let shape := fld r 10 1
  let dims := fld r 11 1
  let size (i : Nat) : Nat := fld r (12 + i) 1
  let coord (i : Nat) : Nat := fld r (16 + i) 1
  if shape = 0 then dims == 0 && zeroRange r 12 8
  else
    decide (shape < 4 && 1 ≤ dims && dims ≤ 4)
      && ((List.range 4).all fun i =>
        if i < dims then decide (2 ≤ size i) && (decide (coord i < size i) || (shape == 3 && i == 0 && decide (coord 0 ≤ dims)))
        else size i == 0 && coord i == 0)
      && decide (((List.range dims).map size).foldl (· * ·) 1 ≤ 2048)

/-- Whether a record is one that R472 takes. -/
def installLegal (s : State) (r : List Byte) : Bool :=
  fld r 0 8 != 0 && decide (fld r 8 2 < 16384) && fld r 8 2 % 8 == position s && shapeLegal r && decide (fld r 20 1 ≤ 1) && zeroRange r 23 1
    && zeroRange r 24 28 && (List.range 9).all fun i => expectLegal (bitOf (fld r 20 1) 0) (slice r (24 + 4 * (7 + i)) 4)

/-- Stores a record in the vault system area. -/
def storeInstall (s : State) (r : List Byte) : State := recordWrite { s with vault := { s.vault with install := some r } }

/-- INSTALL_STAGE (R541): writes part of the staging copy. -/
def installStageSpec : SbSpec :=
  { always := false, mine := anyPayload, lengths := fun n => decide (4 ≤ n && n ≤ 248), form := anyPayload
    range := fun p => decide (fld p 0 4 + (p.length - 4) ≤ installBytes)
    run := fun s p =>
      sbDone (setSide s { s.sideband with stage := patch (padTo installBytes s.sideband.stage) (fld p 0 4) (p.drop 4) }) [] }

/-- INSTALL_STAGE (R541). -/
def execInstallStage (rq : SbReq) (s : State) : Host.Outcome State Fault Refusal := answer (sbOp installStageSpec rq s)

/-- A staged record that passes is stored; the logical routes return to their defaults, a device of SHAPE 0 knows its epoch, the record goes to
every port, and a barrier recounts (R472, R474, R477, R480, Table 22-12). -/
def commitInstall (s : State) (r : List Byte) : State :=
  let s1 := storeInstall s r
  let b := s1.domain.barrier
  let s2 := { s1 with domain := { s1.domain with
    routes := s1.domain.routes.filter fun e => decide (16 ≤ e.1)
    barrier := { b with known := b.known || shapeOf s1 == 0 } } }
  tryEnter (announce s2)

def installCommitSpec : SbSpec :=
  { always := false, mine := anyPayload, lengths := fixedLen 0, form := anyPayload, range := anyPayload
    run := fun s _ =>
      let r := padTo installBytes s.sideband.stage
      if installLegal s r then sbDone (commitInstall s r) [] else sbRefuse s }

/-- INSTALL_COMMIT (R472). -/
def execInstallCommit (rq : SbReq) (s : State) : Host.Outcome State Fault Refusal := answer (sbOp installCommitSpec rq s)

def installReadSpec : SbSpec :=
  { always := false, mine := anyPayload, lengths := fixedLen 6, form := anyPayload
    range := fun p => decide (fld p 4 2 ≤ 248 && fld p 0 4 + fld p 4 2 ≤ installBytes)
    run := fun s p => sbDone s (slice (padTo installBytes (installOf s)) (fld p 0 4) (fld p 4 2)) }

/-- INSTALL_READ (R541). -/
def execInstallRead (rq : SbReq) (s : State) : Host.Outcome State Fault Refusal := answer (sbOp installReadSpec rq s)

/-- New members: every port compares its records again, and a barrier recounts (R475, R479). A device with no record refuses the change, because
a written record may not have DOMAIN_ID 0 (R472). -/
def membersSetSpec : SbSpec :=
  { always := false, mine := anyPayload, lengths := fun n => decide (3 ≤ n && n ≤ 248), form := anyPayload
    range := fun p => decide (fld p 0 2 + (p.length - 2) ≤ 2048)
    run := fun s p =>
      match s.vault.install with
      | none => sbRefuse s
      | some r =>
        let s1 := storeInstall s (patch r (88 + fld p 0 2) (p.drop 2))
        sbDone (tryEnter ((openPorts s1).foldl compareLink s1)) [] }

/-- MEMBERS_SET (R541). -/
def execMembersSet (rq : SbReq) (s : State) : Host.Outcome State Fault Refusal := answer (sbOp membersSetSpec rq s)

/-- A new EXPECT entry: the route of the port is kept as it stands, and the port trains again. -/
def expectSetSpec : SbSpec :=
  { always := false, mine := anyPayload, lengths := fixedLen 5, form := fun p => zeroRange p 4 1
    range := fun p => decide (7 ≤ fld p 0 1 && fld p 0 1 ≤ 15)
    run := fun s p =>
      let port := fld p 0 1
      match s.vault.install with
      | none => sbRefuse s
      | some r =>
        if !expectLegal (compat s) (slice p 1 4) then sbRefuse s
        else
          let kept := { s with domain := { s.domain with routes := tabPut s.domain.routes port (routeOf s port) } }
          sbDone (takeDown port 2 1 (storeInstall kept (patch r (24 + 4 * port) (slice p 1 4)))) [] }

/-- EXPECT_SET (R541). -/
def execExpectSet (rq : SbReq) (s : State) : Host.Outcome State Fault Refusal := answer (sbOp expectSetSpec rq s)

/-! ## Routes and epochs -/

/-- Entry i of a ROUTE_SET payload. -/
def routeWord (p : List Byte) (i : Nat) : Nat := fld p (4 + 4 * i) 4

/-- The route table as a whole takes effect between two messages (R482). -/
def installRoutes (s : State) (p : List Byte) : State :=
  let one (i : Nat) : Nat × Route :=
    let w := routeWord p i
    (i, ⟨bitOf w 29, bitsOf w 28 24, bitsOf w 15 0⟩)
  let s1 := { s with domain := { s.domain with routes := (List.range 32).map one, routeSeq := fld p 0 4 } }
  linkEvent s1 (Config.linkEventPort linkRoute) linkRoute (fld p 0 4)

def routeSetSpec : SbSpec :=
  { always := false, mine := anyPayload, lengths := fixedLen 132
    form := fun p => (List.range 32).all fun i =>
      let w := routeWord p i
      bitsOf w 31 30 == 0 && bitsOf w 23 16 == 0 && (decide (i < 16) || bitsOf w 15 11 == 0)
    range := fun p => (List.range 32).all fun i => decide (bitsOf (routeWord p i) 28 24 < 16)
    run := fun s p => sbDone (installRoutes s p) [] }

/-- ROUTE_SET (R482). -/
def execRouteSet (rq : SbReq) (s : State) : Host.Outcome State Fault Refusal := answer (sbOp routeSetSpec rq s)

/-- Steps 1 and 2 of Table 18-10: the proposal is recorded and sent to every neighbour, once. -/
def propose (s : State) : State :=
  let key := (kindProposal, s.domain.barrier.epoch, 0)
  let s1 := recordProposal s
  let s2 :=
    if s1.domain.seen.contains key then s1
    else flood (noteSeen s1 key) kindProposal (deviceId s1) s1.domain.barrier.epoch none
  tryArrive s2

def epochProposeSpec : SbSpec :=
  { always := false, mine := anyPayload, lengths := fixedLen 8, form := anyPayload, range := anyPayload
    run := fun s p => if fld p 0 8 = wrapAdd 64 s.domain.barrier.epoch 1 then sbDone (propose s) [] else sbRefuse s }

/-- EPOCH_PROPOSE (R479). -/
def execEpochPropose (rq : SbReq) (s : State) : Host.Outcome State Fault Refusal := answer (sbOp epochProposeSpec rq s)

/-! ## The network (R487) -/

def netPortSetSpec : SbSpec :=
  { always := false, mine := anyPayload, lengths := fixedLen 32, form := fun p => zeroRange p 10 2
    range := fun p => decide (fld p 0 1 < 2 && fld p 2 2 ≤ 4094) && (decide (fld p 1 1 < 8) || fld p 1 1 == 0xFF)
    run := fun s p =>
      sbDone (setNetPort s (fld p 0 1)
        { pfc := fld p 1 1, vlan := fld p 2 2, mac := fld p 4 6, ipv4 := fld p 12 4, ipv6 := fld p 16 16, paused := false }) [] }

/-- NET_PORT_SET (R541). -/
def execNetPortSet (rq : SbReq) (s : State) : Host.Outcome State Fault Refusal := answer (sbOp netPortSetSpec rq s)

/-- The queue pair that a QP_SET payload describes. -/
def qpFrom (p : List Byte) : Qp :=
  { port := fld p 3 1, asid := fld p 4 2, remoteQp := fld p 8 3, remoteIp := fld p 12 16, sendVa := fld p 28 8, log2Send := fld p 36 1
    tailVa := fld p 44 8, complVa := fld p 52 8, log2Compl := fld p 60 1, immVa := fld p 68 8, head := 0, tail := 0, compl := 0
    sent := none, slowed := 0 }

/-- Whether the fields of QP_SET are in their ranges; the tail word is one of R249. -/
def qpRange (p : List Byte) : Bool :=
  decide (fld p 0 2 < 1024 && fld p 2 1 < 2 && fld p 3 1 < 2 && 4 ≤ fld p 36 1 && fld p 36 1 ≤ 16 && 4 ≤ fld p 60 1 && fld p 60 1 ≤ 16)
    && fld p 44 8 % 8 == 0

def qpForm (p : List Byte) : Bool := zeroRange p 6 2 && zeroRange p 11 1 && zeroRange p 37 7 && zeroRange p 61 7

/-- QP_SET and QP_DESTROY by their action; an illegal action is either row's. The pending entries of the queue pair end first. -/
def qpSpec (action : Nat) : SbSpec :=
  { always := false, mine := stateIs 2 action, lengths := fixedLen 76, form := qpForm
    range := fun p => if action = 1 then decide (fld p 0 2 < 1024 && fld p 2 1 < 2) else qpRange p
    run := fun s p =>
      let n := fld p 0 2
      let s1 := failQueue s n
      sbDone (if action = 1 then { s1 with net := { s1.net with qps := tabErase s1.net.qps n } } else putQp s1 n (qpFrom p)) [] }

/-- QP_SET (R487). -/
def execQpSet (rq : SbReq) (s : State) : Host.Outcome State Fault Refusal := answer (sbOp (qpSpec 0) rq s)
/-- QP_DESTROY (R541). -/
def execQpDestroy (rq : SbReq) (s : State) : Host.Outcome State Fault Refusal := answer (sbOp (qpSpec 1) rq s)

/-- The memory region that an MR_SET payload describes. -/
def mrFrom (p : List Byte) : Mr :=
  { asid := fld p 4 2, read := bitOf (fld p 3 1) 0, write := bitOf (fld p 3 1) 1, rkey := fld p 8 4, va := fld p 12 8, bytes := fld p 20 8 }

/-- MR_SET and MR_DESTROY by their action. -/
def mrSpec (action : Nat) : SbSpec :=
  { always := false, mine := stateIs 2 action, lengths := fixedLen 28
    form := fun p => zeroRange p 6 2 && decide (fld p 3 1 < 4)
    range := fun p => decide (fld p 0 2 < 4096 && fld p 2 1 < 2)
    run := fun s p =>
      let n := fld p 0 2
      let mrs := if action = 1 then tabErase s.net.mrs n else tabPut s.net.mrs n (mrFrom p)
      sbDone { s with net := { s.net with mrs := mrs } } [] }

/-- MR_SET (R487). -/
def execMrSet (rq : SbReq) (s : State) : Host.Outcome State Fault Refusal := answer (sbOp (mrSpec 0) rq s)
/-- MR_DESTROY (R541). -/
def execMrDestroy (rq : SbReq) (s : State) : Host.Outcome State Fault Refusal := answer (sbOp (mrSpec 1) rq s)

end Sys2Proof.Machine
end

