-- ==== Sys2Proof/Machine/Vx.lean ====
section
/-!
DEFINITION. Sys2Proof/Machine/Vx.lean: the vector engine. The instruction word (R124, R125), check 9 (R126, R128), the checks of
vx.run (R121 to R123), and one meaning per vector instruction (R116 to R134, R136, R554).
-/

namespace Sys2Proof.Machine

/-! ## The instruction word (Table 5-5) -/

/-- A vector instruction by field. -/
structure VIns where
  op  : Nat
  fmt : Nat
  vd  : Nat
  va  : Nat
  vb  : Nat
  m   : Bool
  ks  : Nat
  im  : Nat
  imm : Nat
deriving DecidableEq, Repr

def vinsOf (w : Nat) : VIns :=
  { op := bitsOf w 63 57, fmt := bitsOf w 56 53, vd := bitsOf w 52 48, va := bitsOf w 47 43, vb := bitsOf w 42 38,
    m := bitOf w 37, ks := bitsOf w 36 34, im := bitsOf w 33 32, imm := bitsOf w 31 0 }

/-- Instruction i of a program. -/
def vinsAt (prog : List Byte) (i : Nat) : VIns := vinsOf (fld prog (8 * i) 8)

/-- What an operation takes: how its fields are read (R125, R126). -/
inductive VKind where
  | endProg | setvl | xli | xarith | bnz | load | store | two | mov | one | cmp | mask2 | mask1 | cvt | red | table
deriving DecidableEq, Repr

/-- The kind of an operation code (Table 5-6). -/
def vkind (op : Nat) : Option VKind :=
  match op with
  | 0x00 => some .endProg | 0x01 => some .setvl | 0x02 => some .xli | 0x03 | 0x04 => some .xarith | 0x05 => some .bnz
  | 0x10 | 0x11 => some .load | 0x12 => some .store
  | 0x20 | 0x21 | 0x22 | 0x23 | 0x24 | 0x25 | 0x26 => some .two
  | 0x27 | 0x28 | 0x29 => some .one | 0x2A => some .mov
  | 0x30 | 0x31 | 0x32 => some .cmp | 0x38 | 0x39 => some .mask2 | 0x3A => some .mask1
  | 0x40 => some .cvt | 0x48 | 0x49 => some .red | 0x50 | 0x51 => some .table
  | _ => none

/-- The register format of a code (R117). -/
def regFmt (c : Nat) : Option Fmt :=
  match fmtOfCode c with
  | some f => if isRegFmt f then some f else none
  | none => none

/-- Whether an operation takes a format (Table 5-6).
DESIGN CHOICE (log entry 62): a mask operation takes any register format, as Table 5-6 lets FMT set E there, where Table 5-5
gives 0 for mask operations. -/
def vfmtOk (op fmt : Nat) : Bool :=
  match vkind op with
  | none => false
  | some .endProg | some .xli | some .xarith | some .bnz => fmt == 0
  | some .red => (regFmt fmt).any isFloatReg
  | some .table => fmt == 0 || fmt == 1 || fmt == 2
  | some .one => (regFmt fmt).any isFloatReg || (op != 0x27 && fmt == 12)
  | some .two => if op = 0x23 || op = 0x26 then (regFmt fmt).any isFloatReg else (regFmt fmt).isSome
  | _ => (regFmt fmt).isSome

/-- A signed 32-bit immediate. -/
def simm (i : VIns) : Int := signedOf 32 i.imm

/-- Whether IM and IMM are legal as a broadcast second source of a format (R125). -/
def immOk (i : VIns) : Bool :=
  match i.im with
  | 0 => i.imm == 0
  | 1 => decide (i.imm < 65536) && (!(i.fmt == 12 || i.fmt == 13) || decide (i.imm < 256)) && i.vb == 0
  | 2 => (i.fmt == 0 || i.fmt == 3) && i.vb == 0
  | _ => false

/-- Whether a signed offset is given (R125). -/
def offOk (i : VIns) : Bool := i.im == 2

/-- Whether an instruction has no immediate. -/
def plain (i : VIns) : Bool := i.im == 0 && i.imm == 0

/-- Check 9 of Table 5-4 for the instruction at an index of a program of `count` instructions.
DESIGN CHOICE (log entry 62): no rule speaks of a register field that an operation does not use. VD of vx.bnz, VD and VA of vx.end, VB of
vx.mov without an immediate and VA of vx.mov with one are ignored; VA of vx.xli must name an X register like that of the other
scalar operations. -/
def vinsOk (version bufEn bufOut count idx : Nat) (i : VIns) : Bool :=
  let scalar := !i.m && i.ks == 0
  vfmtOk i.op i.fmt && (i.m || i.ks == 0) &&
  match vkind i.op with
  | none => false
  | some .endProg => scalar && plain i && i.vb == 0
  | some .setvl => scalar && plain i && i.vb == 0 && decide (i.vd < 16) && decide (i.va < 16)
  | some .xli => scalar && offOk i && i.vb == 0 && decide (i.vd < 16) && decide (i.va < 16)
  | some .xarith =>
    scalar && decide (i.vd < 16) && decide (i.va < 16) && ((plain i && decide (i.vb < 16)) || (offOk i && i.vb == 0))
  | some .bnz =>
    scalar && offOk i && i.vb == 0 && decide (i.va < 16) && decide (0 ≤ (idx : Int) + simm i ∧ (idx : Int) + simm i < count)
  | some .load => offOk i && decide (i.va < 16) && decide (i.vb < 8) && bitOf bufEn i.vb && !bitOf bufOut i.vb
  | some .store => offOk i && decide (i.va < 16) && decide (i.vb < 8) && bitOf bufEn i.vb && bitOf bufOut i.vb
  | some .two | some .mov => immOk i
  | some .cmp => immOk i && decide (i.vd < 8)
  | some .one | some .red => plain i && i.vb == 0
  | some .mask2 => plain i && decide (i.vd < 8) && decide (i.va < 8) && decide (i.vb < 8)
  | some .mask1 => plain i && i.vb == 0 && decide (i.vd < 8) && decide (i.va < 8)
  | some .cvt => plain i && (regFmt i.vb).isSome
  | some .table =>
    i.im == 1 && i.vb == 0 && decide (i.imm < 8) && !(version == 2 && i.op == 0x51)

/-- The vector steps of an instruction (Table 5-6). -/
def vsteps (i : VIns) : Nat :=
  let half := i.fmt == 1 || i.fmt == 2
  let wide := i.fmt == 3 || (i.op == 0x40 && i.vb == 3)
  match vkind i.op with
  | some .endProg | none => 0
  | some .red => if wide then 32 else 8
  | some .table => if half then 4 else 2
  | some .one => if i.op = 0x27 then (if half then 8 else if wide then 16 else 4) else if wide then 4 else 1
  | some .two => if i.op = 0x26 then (if half then 8 else if wide then 16 else 4) else if wide then 4 else 1
  | some .mov | some .cmp | some .cvt => if wide then 4 else 1
  | _ => 1

/-! ## Registers -/

def vreg (x : Vx) (r : Nat) : BitVec 4096 := tabGet x.v r 0#4096
def kreg (x : Vx) (r : Nat) : BitVec 512 := tabGet x.k r 0#512
def xreg (x : Vx) (r : Nat) : BitVec 64 := tabGet x.x r 0#64
def setV (x : Vx) (r : Nat) (v : BitVec 4096) : Vx := { x with v := tabSet x.v r v 0#4096 }
def setK (x : Vx) (r : Nat) (v : BitVec 512) : Vx := { x with k := tabSet x.k r v 0#512 }
def setX (x : Vx) (r : Nat) (v : BitVec 64) : Vx := { x with x := tabSet x.x r v 0#64 }
def addFlags (x : Vx) (f : FlagWord) : Vx := { x with flags := x.flags ||| f }

/-- The elements of a register in a format. -/
def velems (f : Fmt) (v : BitVec 4096) : List Nat := unpackRun (fmtBits f) (regElems f) v.toNat
/-- A register from its elements. -/
def vpack (f : Fmt) (xs : List Nat) : BitVec 4096 := BitVec.ofNat 4096 (packRun (fmtBits f) xs)

/-- Whether element j is processed (R118, R119). -/
def processed (x : Vx) (i : VIns) (j : Nat) : Bool := decide (j < x.vl) && (!i.m || (kreg x i.ks).getLsbD j)

/-- VL must not exceed E of a format (R118). -/
def needVl (x : Vx) (f : Fmt) : Run Unit := need (decide (x.vl ≤ regElems f)) sLength (detInstr x.pc)

/-- Widens a pattern of a float format exactly into one with at least its fields (R125): a NaN keeps its sign, its payload and whether it
signals, so that the operation that uses it raises INVALID (R66). -/
def widen (src dst : Fmt) (w : Nat) : Nat :=
  match (decodeElem src w).isNan, fmtSpec src, fmtSpec dst with
  | true, some a, some b =>
    b.signed (w.testBit (a.ebits + a.mbits)) ((2 ^ b.ebits - 1) * 2 ^ b.mbits + w % 2 ^ a.mbits * 2 ^ (b.mbits - a.mbits))
  | _, _, _ => (laneCvt src dst w).1

/-- The broadcast immediate as an element of a format (R125). -/
def immElem (f : Fmt) (i : VIns) : Nat :=
  if i.im = 1 then
    match f with
    | .f32 | .f64 => widen .bf16 f i.imm
    | .int8 | .uint8 => i.imm % 256
    | _ => i.imm
  else
    match f with
    | .f64 => widen .f32 .f64 i.imm
    | _ => i.imm

/-- The elements of the second source: a register or an immediate. -/
def second (x : Vx) (f : Fmt) (i : VIns) : List Nat :=
  if i.im = 0 then velems f (vreg x i.vb) else List.replicate (regElems f) (immElem f i)

def fmtOfIns (i : VIns) : Fmt := (regFmt i.fmt).getD .f32

/-- Writes the processed elements of V[VD]; the rest keep their contents. -/
def mergeV (x : Vx) (i : VIns) (f : Fmt) (new : List (Nat × FlagWord)) : Vx :=
  let old := velems f (vreg x i.vd)
  let out := old.mapIdx fun j o => if processed x i j then (new.getD j (o, 0#32)).1 else o
  let fl := flAll (new.mapIdx fun j r => if processed x i j then r.2 else 0#32)
  addFlags (setV x i.vd (vpack f out)) fl

/-- A two-source element operation. -/
def vTwo (op : Fmt → Nat → Nat → Nat × FlagWord) (i : VIns) (x : Vx) : Run Vx := do
  let f := fmtOfIns i
  needVl x f
  let as := velems f (vreg x i.va)
  pure (mergeV x i f ((as.zip (second x f i)).mapIdx fun j p => if processed x i j then op f p.1 p.2 else (0, 0#32)))

/-- A one-source element operation. -/
def vOne (op : Fmt → Nat → Nat × FlagWord) (i : VIns) (x : Vx) : Run Vx := do
  let f := fmtOfIns i
  needVl x f
  pure (mergeV x i f ((velems f (vreg x i.va)).mapIdx fun j a => if processed x i j then op f a else (0, 0#32)))

/-- vx.fma: the addend is the destination's prior contents. -/
def vFma (i : VIns) (x : Vx) : Run Vx := do
  let f := fmtOfIns i
  needVl x f
  let as := velems f (vreg x i.va)
  let ds := velems f (vreg x i.vd)
  let ps := (as.zip (second x f i)).zip ds
  pure (mergeV x i f (ps.mapIdx fun j p => if processed x i j then laneFma f p.1.1 p.1.2 p.2 else (0, 0#32)))

/-- vx.mov: copies VA, or broadcasts the immediate. -/
def vMov (i : VIns) (x : Vx) : Run Vx := do
  let f := fmtOfIns i
  needVl x f
  let src := if i.im = 0 then velems f (vreg x i.va) else List.replicate (regElems f) (immElem f i)
  pure (mergeV x i f (src.map fun a => (a, 0#32)))

/-- A comparison into a mask register. -/
def vCmp (c : Cmp) (i : VIns) (x : Vx) : Run Vx := do
  let f := fmtOfIns i
  needVl x f
  let as := velems f (vreg x i.va)
  let rs := (as.zip (second x f i)).mapIdx fun j p => if processed x i j then laneCmp f c p.1 p.2 else (false, 0#32)
  let k := (rs.zipIdx).foldl (fun (k : BitVec 512) r => if processed x i r.2 then putBit k r.2 r.1.1 else k) (kreg x i.vd)
  pure (addFlags (setK x i.vd k) (flAll (rs.map (·.2))))

/-- A mask operation over bits 0 to VL - 1. -/
def vMask (op : Bool → Bool → Bool) (i : VIns) (x : Vx) : Run Vx := do
  needVl x (fmtOfIns i)
  let a := kreg x i.va
  let b := kreg x i.vb
  let k := (List.range x.vl).foldl (fun (k : BitVec 512) j =>
    if processed x i j then putBit k j (op (a.getLsbD j) (b.getLsbD j)) else k) (kreg x i.vd)
  pure (setK x i.vd k)

/-- vx.cvt: element j of VA in the source format becomes element j of VD in FMT. -/
def vCvt (i : VIns) (x : Vx) : Run Vx := do
  let f := fmtOfIns i
  let g := (regFmt i.vb).getD .f32
  needVl x f
  needVl x g
  let src := velems g (vreg x i.va)
  pure (mergeV x i f ((List.range (regElems f)).map fun j =>
    if processed x i j then laneCvt g f (src.getD j 0) else (0, 0#32)))

/-- A reduction over the processed elements (R130). -/
def vRed (op : Fmt → Nat → Nat → Nat × FlagWord) (empty : Fmt → Nat) (i : VIns) (x : Vx) : Run Vx := do
  let f := fmtOfIns i
  needVl x f
  let as := velems f (vreg x i.va)
  let side (j : Nat) : Option Nat := if processed x i j then as[j]? else none
  let (r, fl) := (redTree (op f) side (Nat.log2 (regElems f)) 0).getD (empty f, 0#32)
  pure (addFlags (mergeV x i f (List.replicate (regElems f) (r, 0#32))) fl)

/-- vx.fn and vx.dfn. -/
def vTable (deriv : Bool) (i : VIns) (x : Vx) : Run Vx :=
  vOne (fun f a => laneTable f ((tableFnOfCode (i.imm % 256)).getD .exp) deriv a) i x

/-! ## Scalars -/

def scalarB (x : Vx) (i : VIns) : BitVec 64 := if i.im = 0 then xreg x i.vb else BitVec.ofInt 64 (simm i)

/-- The element index X[VA] + IMM, modulo 2^64. -/
def elemIndex (x : Vx) (i : VIns) : Nat := (xreg x i.va + BitVec.ofInt 64 (simm i)).toNat

/-! ## Buffers (R128, R129) -/

def bufAt (x : Vx) (b : Nat) : Desc := descAt x.param (160 + 32 * b)
def bufFmt (x : Vx) (b : Nat) : Fmt := (descFmt (bufAt x b)).getD .f32

/-- The elements that BYTES of a buffer hold. -/
def capElems (f : Fmt) (bytes : Nat) : Nat :=
  if f = .log4 then bytes / tileBytes * 16384 else if fmtBits f = 6 then bytes / 3 * 4 else bytes * 8 / fmtBits f

/-- The unit of elements at which an access must start. -/
def startUnit (f : Fmt) : Nat := if f = .log4 then 128 else if fmtIsMx f then 32 else groupOf f

/-- Whether an access to n elements from element e keeps the bounds of a buffer (R128). -/
def inBounds (d : Desc) (f : Fmt) (e n : Nat) : Bool :=
  decide (e + n ≤ capElems f d.bytes) && (!fmtIsMx f || decide (ceilDiv (e + n) 32 ≤ d.scale))

/-- The checks of one access.
DESIGN CHOICE (log entry 62): where an access breaks both a bound (R128) and an alignment (R129), the bound is reported. -/
def accessOk (x : Vx) (b e n : Nat) (store : Bool) : Run Unit := do
  let d := bufAt x b
  let f := bufFmt x b
  if n = 0 then pure ()
  else
    need (inBounds d f e n) sLength (detInstr x.pc)
    need (e % startUnit f == 0 && !(f == .log4 && decide (128 < x.vl))) sBadFormat (detInstr x.pc)
    need (!store || n % startUnit f == 0 || e + n == capElems f d.bytes) sBadFormat (detInstr x.pc)

/-- The runs of consecutive numbers in an ascending list: (first, count). -/
def runsOf : List Nat → List (Nat × Nat)
  | [] => []
  | j :: r =>
    match runsOf r with
    | (k, n) :: rest => if j + 1 = k then (j, n + 1) :: rest else (j, 1) :: (k, n) :: rest
    | [] => [(j, 1)]

/-- The cell of an operand's bytes that hold elements e to e + n - 1, with the elements as numbers. -/
def loadRun (s : State) (a : Actor) (d : Desc) (f : Fmt) (e n : Nat) : Run (List (Num × FlagWord)) :=
  if f = .log4 then do
    let t := d.ptr + e / 16384 * tileBytes
    let col := e % 16384 / 128
    let row := e % 128
    let bs ← readVa s a (onePass 64) true (t + 64 * col + row / 2) ((row + n + 1) / 2 - row / 2)
    let sc ← readVa s a (onePass 4) true (t + 8192 + 4 * col + row / 32) ((row + n + 31) / 32 - row / 32)
    let ts ← readVa s a (onePass 2) true (t + 8704) 2
    pure ((List.range n).map fun j =>
      let k := row + j
      let byte := fld bs (k / 2 - row / 2) 1
      scaledValue .log4 (.log4 (fld sc (k / 32 - row / 32) 1) (leNat ts)) (if k % 2 = 0 then byte % 16 else byte / 16))
  else do
    let g := groupOf f
    let e0 := e / g * g
    let off := runBytes f e0
    let len := runBytes f (e + n - e0)
    let bs ← readVa s a (onePass len) true (d.ptr + off) len
    let sc ← if fmtIsMx f then readVa s a (onePass 1) true (d.scalePtr + e / 32) ((e + n + 31) / 32 - e / 32) else pure []
    pure (((unpackBytes f (e + n - e0) bs).drop (e - e0)).mapIdx fun j w =>
      scaledValue f (if fmtIsFp8 f then .tensor d.scale
        else if fmtIsMx f then .block (fld sc ((e + j) / 32 - e / 32) 1) else .one) w)

/-- A loaded number in a register format (R81). -/
def loadConv (f : Fmt) (v : Num × FlagWord) : Nat × FlagWord :=
  let (r, fl) := convElem f false 0x3F800000 v.1
  (r, v.2 ||| fl)

/-- vx.ld. DESIGN CHOICE (log entry 62): all VL elements count in the bounds and the alignment, masked ones too. -/
def vLd (s : State) (a : Actor) (i : VIns) (x : Vx) : Run Vx := do
  let f := fmtOfIns i
  needVl x f
  let e := elemIndex x i
  accessOk x i.vb e x.vl false
  let parts ← (runsOf ((List.range x.vl).filter (processed x i))).mapM fun r => do
    let vs ← loadRun s a (bufAt x i.vb) (bufFmt x i.vb) (e + r.1) r.2
    pure (r.1, vs)
  let vals : Tab (Nat × FlagWord) := parts.flatMap fun p => p.2.mapIdx fun j v => (p.1 + j, loadConv f v)
  pure (mergeV x i f ((List.range (regElems f)).map fun j => tabGet vals j (0, 0#32)))

/-- vx.ldb. DESIGN CHOICE (log entry 62): with no processed element it accesses nothing, and nothing is checked. -/
def vLdb (s : State) (a : Actor) (i : VIns) (x : Vx) : Run Vx := do
  let f := fmtOfIns i
  needVl x f
  let e := elemIndex x i
  if !((List.range x.vl).any (processed x i)) then pure x
  else
    accessOk x i.vb e 1 false
    let vs ← loadRun s a (bufAt x i.vb) (bufFmt x i.vb) e 1
    let r := loadConv f (vs.headD (.fin false 0 0, 0#32))
    pure (addFlags (mergeV x i f (List.replicate (regElems f) (r.1, 0#32))) r.2)

/-- Stages converted elements of a buffer. -/
def stageElems (x : Vx) (b e : Nat) (ws : List (Nat × Nat)) : Vx :=
  { x with staged := ws.foldl (fun t w => tabPut t (b * 2 ^ 40 + e + w.1) w.2) x.staged }

/-- The blocks of an MX store: elements from position j on, 32 at a time. -/
def storeBlocks (x : Vx) (i : VIns) (b e : Nat) (oti : Bool) (src : List Nat) (f g : Fmt) : Vx :=
  (List.range (ceilDiv x.vl 32)).foldl (fun y k =>
    let js := (List.range (min 32 (x.vl - 32 * k))).map (32 * k + ·)
    let live := js.filter (processed x i)
    let (sc, es, fl) := convMxBlock g oti (live.map fun j => decodeElem f (src.getD j 0))
    let vals := live.zip es
    let y1 := stageElems y b e (js.map fun j => (j, (vals.find? fun v => v.1 == j).elim 0 (·.2)))
    addFlags { y1 with scales := tabPut y1.scales (b * 2 ^ 40 + e / 32 + k) sc } fl) x

/-- vx.st. DESIGN CHOICE (log entry 62): all VL elements count in the bounds and the alignment, masked ones too. -/
def vSt (i : VIns) (x : Vx) : Run Vx := do
  let f := fmtOfIns i
  needVl x f
  let e := elemIndex x i
  let b := i.vb
  let d := bufAt x b
  let g := bufFmt x b
  accessOk x b e x.vl true
  let src := velems f (vreg x i.vd)
  let oti := bitOf d.dflags 0
  if fmtIsMx g then pure (storeBlocks x i b e oti src f g)
  else
    let outs := (((List.range x.vl).filter (processed x i)).map fun j => (j, convElem g oti d.scale (decodeElem f (src.getD j 0))))
    pure (addFlags (stageElems x b e (outs.map fun o => (o.1, o.2.1))) (flAll (outs.map fun o => o.2.2)))

/-! ## vx.run (Tables 5-3, 5-4) -/

/-- Check 3 for the descriptor of buffer b. -/
def bufCheck (version : Nat) (p : List Byte) (b : Nat) : List Check :=
  let o := 160 + 32 * b
  let d := descAt p o
  let en := bitOf (fld p 12 1) b
  let out := bitOf (fld p 13 1) b
  if !en then
    [fmtAt o (d.ptr == 0), fmtAt (o + 8) (d.bytes == 0), fmtAt (o + 12) (d.stride == 0), fmtAt (o + 16) (d.scalePtr == 0),
     fmtAt (o + 24) (d.scale == 0), fmtAt (o + 28) (d.format == 0), fmtAt (o + 29) (d.dflags == 0)]
  else
    [fmtAt (o + 28) (decide (d.format < 16) && !oldVersionBars version d.format && !(out && d.format == 15)),
     fmtAt (o + 29) (if out then decide (d.dflags < 2) else d.dflags == 0),
     fmtAt o (ptrOk d.ptr 64), fmtAt (o + 12) (d.stride == 0)] ++ scaleChecks d o

/-- The extents of an enabled buffer: its elements and its scales. -/
def bufExtents (p : List Byte) (b : Nat) : List (Nat × Nat) :=
  let d := descAt p (160 + 32 * b)
  (d.ptr, d.bytes) :: (if isMxCode d.format then [(d.scalePtr, d.scale)] else [])

/-- Whether two extents share a byte. An extent of all ones is none: check 4 refuses it (R258). -/
def runsOverlap (x y : Nat × Nat) : Bool :=
  x.2 != 0 && y.2 != 0 && x.2 != 0xFFFFFFFF && y.2 != 0xFFFFFFFF && decide (x.1 < y.1 + y.2 && y.1 < x.1 + x.2)

/-- Whether an extent of an output buffer overlaps another of it, or one of an output buffer before it. -/
def outOverlaps (p : List Byte) (outs : List Nat) (b : Nat) : Bool :=
  let mine := bufExtents p b
  (mine.zipIdx.any fun e => (mine.drop (e.2 + 1)).any (runsOverlap e.1))
    || outs.any fun c => decide (c < b) && mine.any fun e => (bufExtents p c).any (runsOverlap e)

/-- The buffers that a bit mask names. -/
def bufSet (mask : Nat) : List Nat := (List.range 8).filter (bitOf mask)

/-- Check 3 of Table 5-4. -/
def vxCheck3 (version : Nat) (p : List Byte) : List Check :=
  let en := fld p 12 1
  let out := fld p 13 1
  let outs := bufSet out
  [rsvAt p 14 2, rsvAt p 20 12]
  ++ (List.range 8).map (fun b => rsvAt p (190 + 32 * b) 2)
  ++ [fmtAt 0 (ptrOk (fld p 0 8) 64), fmtAt 8 (fld p 8 4 % 8 == 0 || fld p 8 4 == 0xFFFFFFFF),
      fmtAt 13 (out &&& en == out), fmtAt 16 (fld p 16 4 != 0)]
  ++ (List.range 8).flatMap (bufCheck version p)
  ++ outs.map fun b => fmtAt (160 + 32 * b) (!outOverlaps p outs b)

/-- Checks 4 and, after the no-op of check 5, 6 and 7. -/
def vxCheck4 (p : List Byte) : List Check :=
  [notOnes p 8 4, notOnes p 16 4] ++ (bufSet (fld p 12 1)).flatMap fun b =>
    [notOnes p (168 + 32 * b) 4, lenAt (184 + 32 * b) (!isMxCode (fld p (188 + 32 * b) 1) || fld p (184 + 32 * b) 4 != 0xFFFFFFFF)]

def vxOutBytes (p : List Byte) : Nat := (bufSet (fld p 13 1)).foldl (fun t b => t + fld p (168 + 32 * b) 4) 0

def vxCheck67 (p : List Byte) : List Check :=
  [lenAt 8 (decide (fld p 8 4 ≤ 65536))]
  ++ ((bufSet (fld p 12 1)).map fun b => lenAt (168 + 32 * b) (fld p (188 + 32 * b) 1 != 15 || fld p (168 + 32 * b) 4 % tileBytes == 0))
  ++ [(decide (vxOutBytes p ≤ 8388608), sTooLarge, 0)]

/-- The first instruction that fails check 9. -/
def badIns (version : Nat) (p prog : List Byte) : Option Nat :=
  let count := prog.length / 8
  (List.range count).find? fun i => !vinsOk version (fld p 12 1) (fld p 13 1) count i (vinsAt prog i)

/-- The vector state at the start of a command (Table 5-1). -/
def vxStart (p prog : List Byte) : Vx :=
  { prog := prog, pc := 0, v := [], k := []
    x := (List.range 16).foldl (fun t r => tabSet t r (BitVec.ofNat 64 (fld p (32 + 8 * r) 8)) 0#64) []
    vl := 0, flags := 0#32, p := 0, limit := fld p 16 4, param := p, staged := [], scales := [], lines := [] }

/-- vx.setvl. -/
def vSetvl (i : VIns) (x : Vx) : Vx :=
  let n := min (xreg x i.va).toNat (regElems (fmtOfIns i))
  { setX x i.vd (BitVec.ofNat 64 n) with vl := n }

/-- vx.xli, vx.xadd and vx.xsub. -/
def vXli (i : VIns) (x : Vx) : Vx := setX x i.vd (BitVec.ofInt 64 (simm i))
def vXadd (i : VIns) (x : Vx) : Vx := setX x i.vd (xreg x i.va + scalarB x i)
def vXsub (i : VIns) (x : Vx) : Vx := setX x i.vd (xreg x i.va - scalarB x i)

/-- Where vx.bnz goes on. -/
def bnzTarget (i : VIns) (x : Vx) : Nat := if xreg x i.va ≠ 0#64 then ((x.pc : Int) + simm i).toNat else x.pc + 1

/-- The scalar side of an instruction, which alone decides the path (R131). -/
def onPath (i : VIns) (x : Vx) : Vx :=
  let y := match i.op with
    | 0x01 => vSetvl i x
    | 0x02 => vXli i x
    | 0x03 => vXadd i x
    | 0x04 => vXsub i x
    | _ => x
  { y with pc := if i.op = 0x05 then bnzTarget i x else x.pc + 1, p := x.p + vsteps i }

/-- The p of R132 that the program's path gives, up to its end or to STEP_LIMIT. -/
def pathP : Nat → Vx → Nat
  | 0, x => x.p
  | n + 1, x =>
    let i := vinsAt x.prog x.pc
    if x.prog.length / 8 ≤ x.pc || i.op = 0 || x.limit < x.p + vsteps i then x.p else pathP n (onPath i x)

/-- The S of R132 for a program that has taken p vector steps. -/
def vxStepsOf (x : Vx) (p : Nat) : Nat := 64 + ceilDiv x.prog.length 64 + p + ceilDiv (vxOutBytes x.param) 65536

/-- The S of a program before it runs: the device and the cost model run the same path (R131, R132). -/
def vxPathSteps (x : Vx) : Nat := vxStepsOf x (pathP (x.limit + 1) x)

def vxRunBody : Body := fun s a f p => do
  checkAll (vxCheck3 f.cmd.version p)
  checkAll (vxCheck4 p)
  if fld p 8 4 = 0 then pure (.noop 32)
  else
    checkAll (vxCheck67 p)
    let prog ← readVa s a (onePass (fld p 8 4)) false (fld p 0 8) (fld p 8 4)
    let _ ← (bufSet (fld p 12 1)).mapM fun b => do
      let out := bitOf (fld p 13 1) b
      let _ ← (bufExtents p b).mapM fun e =>
        if out then checkDest s a false e.1 e.2 else placeRead s a ⟨e.2, 0, 0⟩ true e.1 e.2
      pure ()
    match badIns f.cmd.version p prog with
    | some i => finish sBadFormat (detInstr i)
    | none => pure (.vector (vxStart p prog) (vxPathSteps (vxStart p prog)))

/-- VX_RUN (R122). -/
def execVxRun (st : Start) (s : State) : Host.Outcome State Fault Refusal := startEngine 0x2001 vxRunBody st s

/-! ## Running an instruction -/

/-- Ends a vector command with a status and the FLAGS raised so far (R120). -/
def endVx (s : State) (f : Flight) (x : Vx) (e : Stop) : State := stopCommand s { f with flags := x.flags } e

/-- What an instruction leaves in the flight: its accesses, the flags raised so far (R120), the estimate and the new vector state. -/
def keepVx (s : State) (f : Flight) (x : Vx) (log : Log) : Flight :=
  { f with phase := .vector { x with lines := log.lines ++ x.lines }, flags := x.flags
           est := estimate s f.cost f.stepTime (log.lines ++ x.lines)
           pages := (pagesOf log ++ f.pages).eraseDups, wrote := (wrotePages log ++ f.wrote).eraseDups, touches := (log.segs ++ f.touches).eraseDups
           uses := (log.uses ++ f.uses).eraseDups, far := (farSlots log ++ f.far).eraseDups }

/-- One instruction of a running program: the row of operation `op`. It does not happen where another instruction stands. -/
def vxRow (op : Nat) (body : State → Actor → VIns → Vx → Run Vx) (st : Start) (s : State) : State :=
  if !serving s then s
  else
    match flightOf s st.cid with
    | none => s
    | some f0 =>
      match f0.phase with
      | .vector x0 =>
        if (vinsAt x0.prog x0.pc).op ≠ op then s
        else
          let s1 := applyErrs (advance s (stepUnitOf f0) st.steps) f0.place f0.cmd.ticket st.errs
          if !serving s1 then s1
          else
            match flightOf s1 st.cid with
            | none => s1
            | some f =>
              match f.phase with
              | .vector x =>
                let i := vinsAt x.prog x.pc
                if endsUe f.place st.errs then endVx s1 f x (.done sUe 0)
                else if x.limit < x.p + vsteps i then endVx s1 f x (.done sLength (detParam 16))
                else
                  match body s1 (actorOf s1 f) i x emptyLog with
                  | .error .hold => s
                  | .error .noWalker => fatal s1 0x55 0 0 0
                  | .error e => endVx s1 f x e
                  | .ok (y, log) =>
                    if touchesReassigned s1 log.segs then s
                    else
                      let z := { y with p := y.p + vsteps i }
                      if z.prog.length / 8 ≤ z.pc then endVx s1 f z (.done sBadFormat (detInstr (z.prog.length / 8)))
                      else
                        putFlight (touchBuffers s1 f log.pages) (keepVx s1 f z log)
              | _ => s1
      | _ => s

/-- The next instruction follows. -/
def goOn (r : Run Vx) : Run Vx := do
  let x ← r
  pure { x with pc := x.pc + 1 }

/-- A row of an instruction that works on registers alone. -/
def vxPlain (op : Nat) (body : VIns → Vx → Run Vx) (st : Start) (s : State) : Host.Outcome State Fault Refusal :=
  answer (vxRow op (fun _ _ i x => goOn (body i x)) st s)

/-- VX_SETVL (R126). -/
def execVxSetvl (st : Start) (s : State) : Host.Outcome State Fault Refusal :=
  vxPlain 0x01 (fun i x => pure (vSetvl i x)) st s

/-- VX_XLI (R126). -/
def execVxXli (st : Start) (s : State) : Host.Outcome State Fault Refusal :=
  vxPlain 0x02 (fun i x => pure (vXli i x)) st s

/-- VX_XADD (R126). -/
def execVxXadd (st : Start) (s : State) : Host.Outcome State Fault Refusal :=
  vxPlain 0x03 (fun i x => pure (vXadd i x)) st s

/-- VX_XSUB (R126). -/
def execVxXsub (st : Start) (s : State) : Host.Outcome State Fault Refusal :=
  vxPlain 0x04 (fun i x => pure (vXsub i x)) st s

/-- VX_BNZ (R126). -/
def execVxBnz (st : Start) (s : State) : Host.Outcome State Fault Refusal :=
  answer (vxRow 0x05 (fun _ _ i x => pure { x with pc := bnzTarget i x }) st s)

/-- VX_LD (R128). -/
def execVxLd (st : Start) (s : State) : Host.Outcome State Fault Refusal :=
  answer (vxRow 0x10 (fun s a i x => goOn (vLd s a i x)) st s)

/-- VX_LDB (R128). -/
def execVxLdb (st : Start) (s : State) : Host.Outcome State Fault Refusal :=
  answer (vxRow 0x11 (fun s a i x => goOn (vLdb s a i x)) st s)

/-- VX_ST (R128). -/
def execVxSt (st : Start) (s : State) : Host.Outcome State Fault Refusal := vxPlain 0x12 vSt st s

/-- VX_ADD (R126). -/
def execVxAdd (st : Start) (s : State) : Host.Outcome State Fault Refusal := vxPlain 0x20 (vTwo laneAdd) st s
/-- VX_SUB (R126). -/
def execVxSub (st : Start) (s : State) : Host.Outcome State Fault Refusal := vxPlain 0x21 (vTwo laneSub) st s
/-- VX_MUL (R126). -/
def execVxMul (st : Start) (s : State) : Host.Outcome State Fault Refusal := vxPlain 0x22 (vTwo laneMul) st s
/-- VX_FMA (R126). -/
def execVxFma (st : Start) (s : State) : Host.Outcome State Fault Refusal := vxPlain 0x23 vFma st s
/-- VX_MIN (R127). -/
def execVxMin (st : Start) (s : State) : Host.Outcome State Fault Refusal := vxPlain 0x24 (vTwo fun f => laneMinMax f false) st s
/-- VX_MAX (R127). -/
def execVxMax (st : Start) (s : State) : Host.Outcome State Fault Refusal := vxPlain 0x25 (vTwo fun f => laneMinMax f true) st s
/-- VX_DIV (R126). -/
def execVxDiv (st : Start) (s : State) : Host.Outcome State Fault Refusal := vxPlain 0x26 (vTwo laneDiv) st s
/-- VX_SQRT (R126). -/
def execVxSqrt (st : Start) (s : State) : Host.Outcome State Fault Refusal := vxPlain 0x27 (vOne laneSqrt) st s
/-- VX_ABS (R126). -/
def execVxAbs (st : Start) (s : State) : Host.Outcome State Fault Refusal := vxPlain 0x28 (vOne fun f => laneSign f true) st s
/-- VX_NEG (R126). -/
def execVxNeg (st : Start) (s : State) : Host.Outcome State Fault Refusal := vxPlain 0x29 (vOne fun f => laneSign f false) st s
/-- VX_MOV (R126). -/
def execVxMov (st : Start) (s : State) : Host.Outcome State Fault Refusal := vxPlain 0x2A vMov st s
/-- VX_CMPLT (R126). -/
def execVxCmplt (st : Start) (s : State) : Host.Outcome State Fault Refusal := vxPlain 0x30 (vCmp .lt) st s
/-- VX_CMPLE (R126). -/
def execVxCmple (st : Start) (s : State) : Host.Outcome State Fault Refusal := vxPlain 0x31 (vCmp .le) st s
/-- VX_CMPEQ (R126). -/
def execVxCmpeq (st : Start) (s : State) : Host.Outcome State Fault Refusal := vxPlain 0x32 (vCmp .eq) st s
/-- VX_KAND (R126). -/
def execVxKand (st : Start) (s : State) : Host.Outcome State Fault Refusal := vxPlain 0x38 (vMask fun a b => a && b) st s
/-- VX_KOR (R126). -/
def execVxKor (st : Start) (s : State) : Host.Outcome State Fault Refusal := vxPlain 0x39 (vMask fun a b => a || b) st s
/-- VX_KNOT (R126). -/
def execVxKnot (st : Start) (s : State) : Host.Outcome State Fault Refusal := vxPlain 0x3A (vMask fun a _ => !a) st s
/-- VX_CVT (R126). -/
def execVxCvt (st : Start) (s : State) : Host.Outcome State Fault Refusal := vxPlain 0x40 vCvt st s
/-- VX_REDSUM (R130). -/
def execVxRedsum (st : Start) (s : State) : Host.Outcome State Fault Refusal :=
  vxPlain 0x48 (vRed laneAdd fun f => zeroBits f false) st s
/-- VX_REDMAX (R130). -/
def execVxRedmax (st : Start) (s : State) : Host.Outcome State Fault Refusal :=
  vxPlain 0x49 (vRed (fun f => laneMinMax f true) fun f => infBits f true) st s
/-- VX_FN (R136). -/
def execVxFn (st : Start) (s : State) : Host.Outcome State Fault Refusal := vxPlain 0x50 (vTable false) st s
/-- VX_DFN (R554). -/
def execVxDfn (st : Start) (s : State) : Host.Outcome State Fault Refusal := vxPlain 0x51 (vTable true) st s

/-! ## vx.end (R134) -/

/-- The staged elements of a buffer: (element, bits). -/
def stagedOf (x : Vx) (b : Nat) : List (Nat × Nat) :=
  (x.staged.filter fun e => e.1 / 2 ^ 40 == b).map fun e => (e.1 % 2 ^ 40, e.2)

/-- The groups of a buffer that a store reached. -/
def stagedGroups (f : Fmt) (es : List (Nat × Nat)) : List Nat := (es.map fun e => e.1 / groupOf f).eraseDups

/-- What a destination holds before the write-out, for the bits of a byte that no store wrote. The commit path merges them: this is no read
of the command. -/
def priorBytes (s : State) (a : Actor) (va len : Nat) (l : Loc) (enc : Bool) : List Byte :=
  match l with
  | .mem pa => if enc && pa < clusterBase then readEnc s a.slot a.asid va pa len else memRead s.memories.mem pa len
  | .area n off => memRead s.memories.areas (areaAt n + off) len
  | .host p addr =>
    if enc then (match readWindow s a.place a.slot va p addr len with | .ok bs => bs | .error _ => fillBytes len 0#8)
    else hostRead s p addr len
  | .peer _ _ => fillBytes len 0#8

/-- The bytes of one group: elements that no store wrote keep their prior contents. -/
def groupBytes (s : State) (a : Actor) (d : Desc) (f : Fmt) (es : List (Nat × Nat)) (g : Nat) : Run (List Byte) := do
  let n := groupOf f
  let whole := (List.range n).all fun j => (es.find? fun e => e.1 == g * n + j).isSome
  let va := d.ptr + runBytes f (g * n)
  let prior ← if whole then pure [] else do
    let (l, enc) ← destPiece s a false (va, runBytes f n)
    pure (priorBytes s a va (runBytes f n) l enc)
  let old := unpackBytes f n prior
  pure (packBytes f ((List.range n).map fun j => ((es.find? fun e => e.1 == g * n + j).map (·.2)).getD (old.getD j 0)))

/-- Joins neighbouring groups into runs: (first group, bytes). -/
def joinGroups (unit : Nat) : List (Nat × List Byte) → List (Nat × List Byte)
  | [] => []
  | (g, bs) :: r =>
    match joinGroups unit r with
    | (h, cs) :: rest => if g + bs.length / unit = h then (g, bs ++ cs) :: rest else (g, bs) :: (h, cs) :: rest
    | [] => [(g, bs)]

/-- The write-out of one output buffer. -/
def bufWrites (s : State) (a : Actor) (x : Vx) (b : Nat) : Run (List SWrite) := do
  let d := bufAt x b
  let f := bufFmt x b
  let es := stagedOf x b
  let unit := runBytes f (groupOf f)
  let gs ← (stagedGroups f es).mapM fun g => do
    let bs ← groupBytes s a d f es g
    pure (g, bs)
  let ws ← (joinGroups unit gs).mapM fun g => stageVa s a (onePass g.2.length) false (d.ptr + unit * g.1) g.2
  let sc := (x.scales.filter fun e => e.1 / 2 ^ 40 == b).map fun e => (e.1 % 2 ^ 40, [BitVec.ofNat 8 e.2])
  let ss ← (joinGroups 1 sc).mapM fun g => stageVa s a (onePass g.2.length) false (d.scalePtr + g.1) g.2
  pure (ws.flatten ++ ss.flatten)

/-- The S of R132. -/
def vxSteps (x : Vx) : Nat := vxStepsOf x x.p

/-- vx.end: the program's staged elements become the write-out, and the commit point passes. -/
def vxEndOp (st : Start) (s : State) : State :=
  if !serving s then s
  else
    match flightOf s st.cid with
    | none => s
    | some f0 =>
      match f0.phase with
      | .vector x0 =>
        if (vinsAt x0.prog x0.pc).op ≠ 0 then s
        else
          let s1 := applyErrs (advance s (stepUnitOf f0) st.steps) f0.place f0.cmd.ticket st.errs
          if !serving s1 then s1
          else
            match flightOf s1 st.cid with
            | none => s1
            | some f =>
              match f.phase with
              | .vector x =>
                if endsUe f.place st.errs then endVx s1 f x (.done sUe 0)
                else
                  let a := actorOf s1 f
                  match ((bufSet (fld x.param 13 1)).mapM (bufWrites s1 a x)) emptyLog with
                  | .error .hold => s
                  | .error .noWalker => fatal s1 0x55 0 0 0
                  | .error e => endVx s1 f x e
                  | .ok (ws, log) =>
                    let g := keepVx s1 { f with cost := vxSteps x } x log
                    let est := estimate s1 (vxSteps x) f.stepTime (partialUses ws.flatten ++ log.lines ++ x.lines)
                    passCommit (putFlight (touchBuffers s1 f log.pages) g)
                      { g with phase := .running, staged := ws.flatten, result := ⟨sOk, 0, 0⟩, est := est }
              | _ => s1
      | _ => s

/-- VX_END (R134). -/
def execVxEnd (st : Start) (s : State) : Host.Outcome State Fault Refusal := answer (vxEndOp st s)

end Sys2Proof.Machine
end

