-- ==== Sys2Proof/Machine/Dispatch.lean ====
section
/-! DEFINITION. Sys2Proof/Machine/Dispatch.lean: the meaning of every command, one arm per constructor. -/

namespace Sys2Proof.Machine

def exec (i : Instr) (s : State) : Host.Outcome State Fault Refusal :=
  match i with
  | .knUnitsGet st => Sys2Proof.Machine.execKnUnitsGet st s
  | .mmMul st => Sys2Proof.Machine.execMmMul st s
  | .mmMulList st => Sys2Proof.Machine.execMmMulList st s
  | .vxRun st => Sys2Proof.Machine.execVxRun st s
  | .vxEnd st => Sys2Proof.Machine.execVxEnd st s
  | .vxSetvl st => Sys2Proof.Machine.execVxSetvl st s
  | .vxXli st => Sys2Proof.Machine.execVxXli st s
  | .vxXadd st => Sys2Proof.Machine.execVxXadd st s
  | .vxXsub st => Sys2Proof.Machine.execVxXsub st s
  | .vxBnz st => Sys2Proof.Machine.execVxBnz st s
  | .vxLd st => Sys2Proof.Machine.execVxLd st s
  | .vxLdb st => Sys2Proof.Machine.execVxLdb st s
  | .vxSt st => Sys2Proof.Machine.execVxSt st s
  | .vxAdd st => Sys2Proof.Machine.execVxAdd st s
  | .vxSub st => Sys2Proof.Machine.execVxSub st s
  | .vxMul st => Sys2Proof.Machine.execVxMul st s
  | .vxFma st => Sys2Proof.Machine.execVxFma st s
  | .vxMin st => Sys2Proof.Machine.execVxMin st s
  | .vxMax st => Sys2Proof.Machine.execVxMax st s
  | .vxDiv st => Sys2Proof.Machine.execVxDiv st s
  | .vxSqrt st => Sys2Proof.Machine.execVxSqrt st s
  | .vxAbs st => Sys2Proof.Machine.execVxAbs st s
  | .vxNeg st => Sys2Proof.Machine.execVxNeg st s
  | .vxMov st => Sys2Proof.Machine.execVxMov st s
  | .vxCmplt st => Sys2Proof.Machine.execVxCmplt st s
  | .vxCmple st => Sys2Proof.Machine.execVxCmple st s
  | .vxCmpeq st => Sys2Proof.Machine.execVxCmpeq st s
  | .vxKand st => Sys2Proof.Machine.execVxKand st s
  | .vxKor st => Sys2Proof.Machine.execVxKor st s
  | .vxKnot st => Sys2Proof.Machine.execVxKnot st s
  | .vxCvt st => Sys2Proof.Machine.execVxCvt st s
  | .vxRedsum st => Sys2Proof.Machine.execVxRedsum st s
  | .vxRedmax st => Sys2Proof.Machine.execVxRedmax st s
  | .vxFn st => Sys2Proof.Machine.execVxFn st s
  | .vxDfn st => Sys2Proof.Machine.execVxDfn st s
  | .mvCopy st => Sys2Proof.Machine.execMvCopy st s
  | .mvFill st => Sys2Proof.Machine.execMvFill st s
  | .moverStagingGranted st => Sys2Proof.Machine.execMoverStagingGranted st s
  | .moverEngineWriteOut cid => Sys2Proof.Machine.execMoverEngineWriteOut cid s
  | .knCstoreAssign st => Sys2Proof.Machine.execKnCstoreAssign st s
  | .knSpillPoolAdd st => Sys2Proof.Machine.execKnSpillPoolAdd st s
  | .knSpillPoolWithdraw st => Sys2Proof.Machine.execKnSpillPoolWithdraw st s
  | .stackTemperatureCrossing stack reading => Sys2Proof.Machine.execStackTemperatureCrossing stack reading s
  | .stagedWeightRepair pa errs => Sys2Proof.Machine.execStagedWeightRepair pa errs s
  | .farLinkDown port => Sys2Proof.Machine.execFarLinkDown port s
  | .farLinkTrained port offers => Sys2Proof.Machine.execFarLinkTrained port offers s
  | .knVaultProvOpen st => Sys2Proof.Machine.execKnVaultProvOpen st s
  | .knVaultProvWrite st => Sys2Proof.Machine.execKnVaultProvWrite st s
  | .knVaultProvClose st => Sys2Proof.Machine.execKnVaultProvClose st s
  | .knVaultProvAbort st => Sys2Proof.Machine.execKnVaultProvAbort st s
  | .knVaultProvFree st => Sys2Proof.Machine.execKnVaultProvFree st s
  | .knWeightPlaceSlot st => Sys2Proof.Machine.execKnWeightPlaceSlot st s
  | .knWeightPlaceBuffer st => Sys2Proof.Machine.execKnWeightPlaceBuffer st s
  | .knWeightPlaceDrop st => Sys2Proof.Machine.execKnWeightPlaceDrop st s
  | .knModelCutBind st => Sys2Proof.Machine.execKnModelCutBind st s
  | .knModelCutArm st => Sys2Proof.Machine.execKnModelCutArm st s
  | .knModelCutDisarm st => Sys2Proof.Machine.execKnModelCutDisarm st s
  | .knModelCutUnbind st => Sys2Proof.Machine.execKnModelCutUnbind st s
  | .retiringCopyRelease model => Sys2Proof.Machine.execRetiringCopyRelease model s
  | .knAsSetCreate st => Sys2Proof.Machine.execKnAsSetCreate st s
  | .knAsSetSetRoot st => Sys2Proof.Machine.execKnAsSetSetRoot st s
  | .knAsSetSetPasid st => Sys2Proof.Machine.execKnAsSetSetPasid st s
  | .knAsSetDestroy st => Sys2Proof.Machine.execKnAsSetDestroy st s
  | .knTlbInvalRange st => Sys2Proof.Machine.execKnTlbInvalRange st s
  | .knTlbInvalAsid st => Sys2Proof.Machine.execKnTlbInvalAsid st s
  | .knTlbInvalAll st => Sys2Proof.Machine.execKnTlbInvalAll st s
  | .knTlbPin st => Sys2Proof.Machine.execKnTlbPin st s
  | .knTlbUnpin st => Sys2Proof.Machine.execKnTlbUnpin st s
  | .translationWalk cid va write errs => Sys2Proof.Machine.execTranslationWalk cid va write errs s
  | .kittyStepsExpiry => Sys2Proof.Machine.execKittyStepsExpiry s
  | .hostDoorbell port shoe writes => Sys2Proof.Machine.execHostDoorbell port shoe writes s
  | .shoeFetch errs => Sys2Proof.Machine.execShoeFetch errs s
  | .knShoeCreate st => Sys2Proof.Machine.execKnShoeCreate st s
  | .knShoeDestroy st => Sys2Proof.Machine.execKnShoeDestroy st s
  | .knShoeSet st => Sys2Proof.Machine.execKnShoeSet st s
  | .knShoeQuery st => Sys2Proof.Machine.execKnShoeQuery st s
  | .sySignal st => Sys2Proof.Machine.execSySignal st s
  | .syWait st => Sys2Proof.Machine.execSyWait st s
  | .syWaitSatisfied cid => Sys2Proof.Machine.execSyWaitSatisfied cid s
  | .syWaitTimeout cid => Sys2Proof.Machine.execSyWaitTimeout cid s
  | .commandPlacement => Sys2Proof.Machine.execCommandPlacement s
  | .nextCommandNamed engine => Sys2Proof.Machine.execNextCommandNamed engine s
  | .writeOutEnd st => Sys2Proof.Machine.execWriteOutEnd st s
  | .drainComplete cid => Sys2Proof.Machine.execDrainComplete cid s
  | .knDealerSetConfig st => Sys2Proof.Machine.execKnDealerSetConfig st s
  | .knDealerSetAnte st => Sys2Proof.Machine.execKnDealerSetAnte st s
  | .knDealerSetServeBind st => Sys2Proof.Machine.execKnDealerSetServeBind st s
  | .knDealerSetServeUnbind st => Sys2Proof.Machine.execKnDealerSetServeUnbind st s
  | .knDealerSetRequest st => Sys2Proof.Machine.execKnDealerSetRequest st s
  | .knDealerSetAdvance st => Sys2Proof.Machine.execKnDealerSetAdvance st s
  | .dealBoundary errs => Sys2Proof.Machine.execDealBoundary errs s
  | .dealOpen errs => Sys2Proof.Machine.execDealOpen errs s
  | .knContextSetup st => Sys2Proof.Machine.execKnContextSetup st s
  | .knContextModel st => Sys2Proof.Machine.execKnContextModel st s
  | .knContextRegister st => Sys2Proof.Machine.execKnContextRegister st s
  | .knContextRelease st => Sys2Proof.Machine.execKnContextRelease st s
  | .knContextTrim st => Sys2Proof.Machine.execKnContextTrim st s
  | .knContextGrant st => Sys2Proof.Machine.execKnContextGrant st s
  | .knContextRing st => Sys2Proof.Machine.execKnContextRing st s
  | .knContextQuery st => Sys2Proof.Machine.execKnContextQuery st s
  | .atAppend st => Sys2Proof.Machine.execAtAppend st s
  | .atAttend st => Sys2Proof.Machine.execAtAttend st s
  | .atAdvance st => Sys2Proof.Machine.execAtAdvance st s
  | .atRing st => Sys2Proof.Machine.execAtRing st s
  | .atCombine st => Sys2Proof.Machine.execAtCombine st s
  | .atRingSend st => Sys2Proof.Machine.execAtRingSend st s
  | .spOpen st => Sys2Proof.Machine.execSpOpen st s
  | .spVerify st => Sys2Proof.Machine.execSpVerify st s
  | .exRoute st => Sys2Proof.Machine.execExRoute st s
  | .exSettle st => Sys2Proof.Machine.execExSettle st s
  | .routingBoardResolved board => Sys2Proof.Machine.execRoutingBoardResolved board s
  | .exGather st => Sys2Proof.Machine.execExGather st s
  | .exCombine st => Sys2Proof.Machine.execExCombine st s
  | .bwAdapterCreate st => Sys2Proof.Machine.execBwAdapterCreate st s
  | .bwAdapterDestroy st => Sys2Proof.Machine.execBwAdapterDestroy st s
  | .bwAdapterQuery st => Sys2Proof.Machine.execBwAdapterQuery st s
  | .bwMul st => Sys2Proof.Machine.execBwMul st s
  | .bwNorm st => Sys2Proof.Machine.execBwNorm st s
  | .bwSoftmax st => Sys2Proof.Machine.execBwSoftmax st s
  | .knKeyBindReserve st => Sys2Proof.Machine.execKnKeyBindReserve st s
  | .knKeyBindLink st => Sys2Proof.Machine.execKnKeyBindLink st s
  | .knKeyBindDestroy st => Sys2Proof.Machine.execKnKeyBindDestroy st s
  | .knKeyBindQuery st => Sys2Proof.Machine.execKnKeyBindQuery st s
  | .hssBudgetRegain => Sys2Proof.Machine.execHssBudgetRegain s
  | .ptmExchange => Sys2Proof.Machine.execPtmExchange s
  | .ptmResponse port time good => Sys2Proof.Machine.execPtmResponse port time good s
  | .mbHello rq => Sys2Proof.Machine.execMbHello rq s
  | .mbNonce rq => Sys2Proof.Machine.execMbNonce rq s
  | .mbOwnerClaim rq => Sys2Proof.Machine.execMbOwnerClaim rq s
  | .mbOwnerTake rq => Sys2Proof.Machine.execMbOwnerTake rq s
  | .mbOwnerTransfer rq => Sys2Proof.Machine.execMbOwnerTransfer rq s
  | .mbOwnerMode rq => Sys2Proof.Machine.execMbOwnerMode rq s
  | .mbCertGet rq => Sys2Proof.Machine.execMbCertGet rq s
  | .mbAttest rq => Sys2Proof.Machine.execMbAttest rq s
  | .mbAttestSession rq => Sys2Proof.Machine.execMbAttestSession rq s
  | .mbUnitsGet rq => Sys2Proof.Machine.execMbUnitsGet rq s
  | .mbRetireAck rq => Sys2Proof.Machine.execMbRetireAck rq s
  | .mbEventConfig rq => Sys2Proof.Machine.execMbEventConfig rq s
  | .mbShoeInit rq => Sys2Proof.Machine.execMbShoeInit rq s
  | .mbKittyConfig rq => Sys2Proof.Machine.execMbKittyConfig rq s
  | .mbKittyCollect rq => Sys2Proof.Machine.execMbKittyCollect rq s
  | .mbKittyRelease rq => Sys2Proof.Machine.execMbKittyRelease rq s
  | .mbFarList rq => Sys2Proof.Machine.execMbFarList rq s
  | .mbFarMap rq => Sys2Proof.Machine.execMbFarMap rq s
  | .mbVaultList rq => Sys2Proof.Machine.execMbVaultList rq s
  | .mbPtmConfig rq => Sys2Proof.Machine.execMbPtmConfig rq s
  | .mbFwStage rq => Sys2Proof.Machine.execMbFwStage rq s
  | .mbFwStatus rq => Sys2Proof.Machine.execMbFwStatus rq s
  | .mbFwDiscard rq => Sys2Proof.Machine.execMbFwDiscard rq s
  | .mbReset rq => Sys2Proof.Machine.execMbReset rq s
  | .mbDebugChallenge rq => Sys2Proof.Machine.execMbDebugChallenge rq s
  | .mbDebugUnlock rq => Sys2Proof.Machine.execMbDebugUnlock rq s
  | .mbDebugPeek rq => Sys2Proof.Machine.execMbDebugPeek rq s
  | .mbDebugPoke rq => Sys2Proof.Machine.execMbDebugPoke rq s
  | .registerWrite port offset value => Sys2Proof.Machine.execRegisterWrite port offset value s
  | .mbPwrLevel rq => Sys2Proof.Machine.execMbPwrLevel rq s
  | .mbPwrGate rq => Sys2Proof.Machine.execMbPwrGate rq s
  | .mbPwrUngate rq => Sys2Proof.Machine.execMbPwrUngate rq s
  | .mbPwrStackActive rq => Sys2Proof.Machine.execMbPwrStackActive rq s
  | .mbPwrStackSelfRefresh rq => Sys2Proof.Machine.execMbPwrStackSelfRefresh rq s
  | .mbPwrVaultActive rq => Sys2Proof.Machine.execMbPwrVaultActive rq s
  | .mbPwrVaultStandby rq => Sys2Proof.Machine.execMbPwrVaultStandby rq s
  | .mbPwrLanes rq => Sys2Proof.Machine.execMbPwrLanes rq s
  | .mbPwrPortUp rq => Sys2Proof.Machine.execMbPwrPortUp rq s
  | .mbPwrPortDown rq => Sys2Proof.Machine.execMbPwrPortDown rq s
  | .mbPwrCap rq => Sys2Proof.Machine.execMbPwrCap rq s
  | .mbTelemRead rq => Sys2Proof.Machine.execMbTelemRead rq s
  | .powerTransitionSettled kind index => Sys2Proof.Machine.execPowerTransitionSettled kind index s
  | .telemetryWindow rd => Sys2Proof.Machine.execTelemetryWindow rd s
  | .thermalWarn sensor index reading => Sys2Proof.Machine.execThermalWarn sensor index reading s
  | .protectiveStop sensor index reading => Sys2Proof.Machine.execProtectiveStop sensor index reading s
  | .inServiceTest kind index => Sys2Proof.Machine.execInServiceTest kind index s
  | .inServiceTestEnd kind index passed => Sys2Proof.Machine.execInServiceTestEnd kind index passed s
  | .killAckTimeout kind index => Sys2Proof.Machine.execKillAckTimeout kind index s
  | .channelNoAnswer channel => Sys2Proof.Machine.execChannelNoAnswer channel s
  | .retirementWindowEnd => Sys2Proof.Machine.execRetirementWindowEnd s
  | .eventWindowEnd => Sys2Proof.Machine.execEventWindowEnd s
  | .powerOn => Sys2Proof.Machine.execPowerOn s
  | .startStepEnd rp => Sys2Proof.Machine.execStartStepEnd rp s
  | .resetNAssert => Sys2Proof.Machine.execResetNAssert s
  | .resetNRelease => Sys2Proof.Machine.execResetNRelease s
  | .pcieFundamentalReset port => Sys2Proof.Machine.execPcieFundamentalReset port s
  | .pcieHotReset port => Sys2Proof.Machine.execPcieHotReset port s
  | .functionLevelReset port => Sys2Proof.Machine.execFunctionLevelReset port s
  | .inputDropout => Sys2Proof.Machine.execInputDropout s
  | .rideThrough => Sys2Proof.Machine.execRideThrough s
  | .rideThroughExpiry => Sys2Proof.Machine.execRideThroughExpiry s
  | .inputReturn => Sys2Proof.Machine.execInputReturn s
  | .converterTrip rail => Sys2Proof.Machine.execConverterTrip rail s
  | .osfpPlugInsert port watts => Sys2Proof.Machine.execOsfpPlugInsert port watts s
  | .portTrained port lanes lowVer highVer record => Sys2Proof.Machine.execPortTrained port lanes lowVer highVer record s
  | .binikPortDown port reason lane => Sys2Proof.Machine.execBinikPortDown port reason lane s
  | .replay port lane gaveUp => Sys2Proof.Machine.execReplay port lane gaveUp s
  | .peerWrite m => Sys2Proof.Machine.execPeerWrite m s
  | .peerReadRequest m => Sys2Proof.Machine.execPeerReadRequest m s
  | .readData m => Sys2Proof.Machine.execReadData m s
  | .signal m => Sys2Proof.Machine.execSignal m s
  | .ringBlock m => Sys2Proof.Machine.execRingBlock m s
  | .refusal m => Sys2Proof.Machine.execRefusal m s
  | .domainRecord m => Sys2Proof.Machine.execDomainRecord m s
  | .proposal m => Sys2Proof.Machine.execProposal m s
  | .arrival m => Sys2Proof.Machine.execArrival m s
  | .barrierStall => Sys2Proof.Machine.execBarrierStall s
  | .rdmaWrite qp => Sys2Proof.Machine.execRdmaWrite qp s
  | .rdmaWriteWithImmediate qp => Sys2Proof.Machine.execRdmaWriteWithImmediate qp s
  | .rdmaRead qp => Sys2Proof.Machine.execRdmaRead qp s
  | .rdmaResponse qp answer => Sys2Proof.Machine.execRdmaResponse qp answer s
  | .rdmaRetryExpiry qp => Sys2Proof.Machine.execRdmaRetryExpiry qp s
  | .incomingRdmaWrite p => Sys2Proof.Machine.execIncomingRdmaWrite p s
  | .incomingWriteWithImmediate p => Sys2Proof.Machine.execIncomingWriteWithImmediate p s
  | .incomingRdmaRead p => Sys2Proof.Machine.execIncomingRdmaRead p s
  | .congestionNotification qp => Sys2Proof.Machine.execCongestionNotification qp s
  | .priorityFlowControl port classes pause => Sys2Proof.Machine.execPriorityFlowControl port classes pause s
  | .arp port senderIp targetIp senderMac => Sys2Proof.Machine.execArp port senderIp targetIp senderMac s
  | .neighbourDiscovery port senderIp targetIp senderMac => Sys2Proof.Machine.execNeighbourDiscovery port senderIp targetIp senderMac s
  | .icmpEcho port v6 senderIp targetIp data => Sys2Proof.Machine.execIcmpEcho port v6 senderIp targetIp data s
  | .ethernetLinkLost port => Sys2Proof.Machine.execEthernetLinkLost port s
  | .i3cSetdasa static dynamic => Sys2Proof.Machine.execI3cSetdasa static dynamic s
  | .i3cEntdaa dynamic => Sys2Proof.Machine.execI3cEntdaa dynamic s
  | .i3cGetstatus => Sys2Proof.Machine.execI3cGetstatus s
  | .i3cGetpid => Sys2Proof.Machine.execI3cGetpid s
  | .i3cEventEnable => Sys2Proof.Machine.execI3cEventEnable s
  | .i3cEventDisable => Sys2Proof.Machine.execI3cEventDisable s
  | .startRead rq => Sys2Proof.Machine.execStartRead rq s
  | .stopRead rq => Sys2Proof.Machine.execStopRead rq s
  | .tempRead rq => Sys2Proof.Machine.execTempRead rq s
  | .powerRead rq => Sys2Proof.Machine.execPowerRead rq s
  | .statusRead rq => Sys2Proof.Machine.execStatusRead rq s
  | .installStage rq => Sys2Proof.Machine.execInstallStage rq s
  | .installCommit rq => Sys2Proof.Machine.execInstallCommit rq s
  | .installRead rq => Sys2Proof.Machine.execInstallRead rq s
  | .membersSet rq => Sys2Proof.Machine.execMembersSet rq s
  | .expectSet rq => Sys2Proof.Machine.execExpectSet rq s
  | .routeSet rq => Sys2Proof.Machine.execRouteSet rq s
  | .epochPropose rq => Sys2Proof.Machine.execEpochPropose rq s
  | .linkRead rq => Sys2Proof.Machine.execLinkRead rq s
  | .netPortSet rq => Sys2Proof.Machine.execNetPortSet rq s
  | .qpSet rq => Sys2Proof.Machine.execQpSet rq s
  | .qpDestroy rq => Sys2Proof.Machine.execQpDestroy rq s
  | .mrSet rq => Sys2Proof.Machine.execMrSet rq s
  | .mrDestroy rq => Sys2Proof.Machine.execMrDestroy rq s
  | .commitPoint cid => Sys2Proof.Machine.execCommitPoint cid s
  | .peerAcknowledgement port msgId => Sys2Proof.Machine.execPeerAcknowledgement port msgId s
  | .channelCopyDone stack => Sys2Proof.Machine.execChannelCopyDone stack s
  | .ethernetLinkUp port => Sys2Proof.Machine.execEthernetLinkUp port s
  | .hostLinkDown port => Sys2Proof.Machine.execHostLinkDown port s
  | .hostLinkUp port => Sys2Proof.Machine.execHostLinkUp port s
  | .ptmEnable port on => Sys2Proof.Machine.execPtmEnable port on s
  | .getVersion port body => Sys2Proof.Machine.execGetVersion port body s
  | .getCapabilities port body => Sys2Proof.Machine.execGetCapabilities port body s
  | .negotiateAlgorithms port body => Sys2Proof.Machine.execNegotiateAlgorithms port body s
  | .getDigests port body => Sys2Proof.Machine.execGetDigests port body s
  | .getCertificate port body => Sys2Proof.Machine.execGetCertificate port body s
  | .challenge port body => Sys2Proof.Machine.execChallenge port body s
  | .getMeasurements port body => Sys2Proof.Machine.execGetMeasurements port body s

end Sys2Proof.Machine
end

