-- ==== Sys2Proof/Safety.lean ====
section
/-!
DEFINITION. Sys2Proof/Safety.lean: what holds of every state that a run may reach, and what no command ever takes back.
-/

namespace Sys2Proof.Safety

open Sys2Proof.Machine

/-- Every byte memory is in canonical form: stacked memory with the far tier and the cluster stores, the operand areas, the two
hosts' memories, and the payload of each vault slot. -/
structure Canonical (s : State) : Prop where
  device  : Memory.wf s.memories.mem
  areas   : Memory.wf s.memories.areas
  host0   : Memory.wf s.host0.mem
  host1   : Memory.wf s.host1.mem
  payload : ∀ e ∈ s.vault.slots, Memory.wf e.2.payload

/-- Peg rows: no row of `q` holds fewer programmed cells than in `p` (R408). -/
structure PegsRise (p q : Pegs) : Prop where
  securityVersion : p.securityVersion ≤ q.securityVersion
  ownerEpoch      : p.ownerEpoch ≤ q.ownerEpoch
  debugUnlock     : p.debugUnlock ≤ q.debugUnlock
  attestReserve   : p.attestReserve ≤ q.attestReserve

/-- The device has not stopped: READY is not 2 (Table 17-4). -/
def running (s : State) : Prop := s.heldun.ready ≠ 2

end Sys2Proof.Safety
end

