-- ==== Sys2Proof/Certificates/Slice0/Obligations.lean ====
section
/-!
DEFINITION. Sys2Proof/Certificates/Slice0/Obligations.lean: the statements for the provers, after the rules of the specification, and the tables
of rows that they speak of.
-/

section

open Sys2Proof Sys2Proof.Machine

namespace Sys2Proof.Slice0

/-- A command of the hub: its row, its opcode, and what the hub does with its parameter block. -/
structure HubRow where
  row  : Start → Instr
  op   : Nat
  body : Start → Body

/-- The hub commands whose action ends within their row: units, address spaces, pins, shoes, spill pools, the vault, weights, cuts, the
dealer, contexts, adapters, keys and sy.wait. -/
def actRows : List HubRow :=
  [⟨.knUnitsGet, 0xF002, fun _ => knUnitsGetBody⟩, ⟨.knAsSetCreate, 0xF003, fun _ => knAsSetCreateBody⟩,
   ⟨.knTlbPin, 0xF004, fun _ => knTlbPinBody⟩, ⟨.knTlbUnpin, 0xF004, fun _ => knTlbUnpinBody⟩,
   ⟨.knShoeCreate, 0xF001, fun _ => knShoeCreateBody⟩, ⟨.knShoeSet, 0xF001, fun _ => knShoeSetBody⟩,
   ⟨.knShoeQuery, 0xF001, fun _ => knShoeQueryBody⟩, ⟨.syWait, 0x8002, fun _ => syWaitBody⟩]
  ++ [⟨.knSpillPoolAdd, 0xF006, fun _ => knSpillPoolAddBody⟩, ⟨.knSpillPoolWithdraw, 0xF006, fun _ => knSpillPoolWithdrawBody⟩,
   ⟨.knVaultProvOpen, 0xF007, fun _ => knVaultProvOpenBody⟩, ⟨.knVaultProvWrite, 0xF007, fun st => knVaultProvWriteBody st.errs⟩,
   ⟨.knVaultProvClose, 0xF007, fun _ => knVaultProvCloseBody⟩, ⟨.knVaultProvAbort, 0xF007, fun _ => knVaultProvAbortBody⟩,
   ⟨.knVaultProvFree, 0xF007, fun _ => knVaultProvFreeBody⟩, ⟨.knWeightPlaceSlot, 0xF008, fun _ => placeBody 0⟩,
   ⟨.knWeightPlaceBuffer, 0xF008, fun _ => placeBody 1⟩, ⟨.knModelCutBind, 0xF009, fun _ => knModelCutBindBody⟩,
   ⟨.knModelCutArm, 0xF009, fun _ => knModelCutArmBody⟩, ⟨.knModelCutDisarm, 0xF009, fun _ => knModelCutDisarmBody⟩,
   ⟨.knModelCutUnbind, 0xF009, fun _ => knModelCutUnbindBody⟩]
  ++ [⟨.knDealerSetConfig, 0xF00C, fun _ => knDealerSetConfigBody⟩, ⟨.knDealerSetAnte, 0xF00C, fun _ => knDealerSetAnteBody⟩,
   ⟨.knDealerSetServeBind, 0xF00C, fun _ => knDealerSetServeBindBody⟩, ⟨.knDealerSetServeUnbind, 0xF00C, fun _ => knDealerSetServeUnbindBody⟩,
   ⟨.knDealerSetRequest, 0xF00C, fun _ => knDealerSetRequestBody⟩, ⟨.knDealerSetAdvance, 0xF00C, fun _ => knDealerSetAdvanceBody⟩,
   ⟨.knContextSetup, 0xF00A, fun _ => knContextSetupBody⟩, ⟨.knContextModel, 0xF00A, fun _ => knContextModelBody⟩,
   ⟨.knContextRegister, 0xF00A, fun _ => knContextRegisterBody⟩, ⟨.knContextGrant, 0xF00A, fun _ => knContextGrantBody⟩,
   ⟨.knContextRing, 0xF00A, fun _ => knContextRingBody⟩, ⟨.knContextQuery, 0xF00A, fun _ => knContextQueryBody⟩]
  ++ [⟨.bwAdapterCreate, 0x7001, fun _ => bwAdapterCreateBody⟩, ⟨.bwAdapterQuery, 0x7001, fun _ => bwAdapterQueryBody⟩,
   ⟨.knKeyBindReserve, 0xF00B, fun _ => knKeyBindReserveBody⟩, ⟨.knKeyBindLink, 0xF00B, fun _ => knKeyBindLinkBody⟩,
   ⟨.knKeyBindQuery, 0xF00B, fun _ => knKeyBindQueryBody⟩]

/-- The hub commands whose action waits for other commands: invalidation, the ends of an address space, of a shoe, of a context and its
rows, of an adapter and of a key slot, a change of store segments, and the return of weights to the vault. -/
def waitRows : List HubRow :=
  [⟨.knAsSetSetRoot, 0xF003, fun _ => knAsSetSetRootBody⟩, ⟨.knAsSetSetPasid, 0xF003, fun _ => knAsSetSetPasidBody⟩,
   ⟨.knAsSetDestroy, 0xF003, fun _ => knAsSetDestroyBody⟩, ⟨.knTlbInvalRange, 0xF004, fun _ => knTlbInvalRangeBody⟩,
   ⟨.knTlbInvalAsid, 0xF004, fun _ => knTlbInvalAsidBody⟩, ⟨.knTlbInvalAll, 0xF004, fun _ => knTlbInvalAllBody⟩,
   ⟨.knShoeDestroy, 0xF001, fun _ => knShoeDestroyBody⟩, ⟨.knCstoreAssign, 0xF005, fun _ => knCstoreAssignBody⟩,
   ⟨.knWeightPlaceDrop, 0xF008, fun _ => knWeightPlaceDropBody⟩, ⟨.knContextRelease, 0xF00A, fun _ => knContextReleaseBody⟩,
   ⟨.knContextTrim, 0xF00A, fun _ => knContextTrimBody⟩, ⟨.bwAdapterDestroy, 0x7001, fun _ => bwAdapterDestroyBody⟩,
   ⟨.knKeyBindDestroy, 0xF00B, fun _ => knKeyBindDestroyBody⟩]

/-- The engine commands that read, compute and stage in one row. -/
def engineRows : List HubRow :=
  [⟨.mmMul, 0x1001, fun _ => mmMulBody⟩, ⟨.mmMulList, 0x1002, fun _ => mmMulListBody⟩, ⟨.exGather, opGather, fun _ => exGatherBody⟩,
   ⟨.bwMul, 0x7002, fun _ => bwMulBody⟩, ⟨.bwNorm, 0x7003, fun _ => bwNormBody⟩, ⟨.bwSoftmax, 0x7004, fun _ => bwSoftmaxBody⟩]

/-- A row's command begins on its unit, and its checks, its parameter block and its body give a plan: `t` is the state in which it runs and
`f` its flight there. -/
structure Runs (place : Place) (op : Nat) (body : Body) (st : Start) (s t : State) (f : Flight) (plan : Plan) (log : Log) : Prop where
  begins : begin s st place (fun f => f.cmd.opcode == op) = .go t f
  plans  : runBody t f body emptyLog = .ok (plan, log)
  free   : touchesReassigned t log.segs = false

/-- The flight with what its start read: its parameter block, and what it reads and writes. -/
def readBy (f : Flight) (log : Log) : Flight :=
  { f with block := log.block, pages := pagesOf log, wrote := wrotePages log, touches := log.segs.eraseDups, uses := log.uses.eraseDups, far := farSlots log }

/-- The state in which a command has read: its unit's translation buffers have seen its accesses (R227, R229). -/
def seen (t : State) (f : Flight) (log : Log) : State := touchBuffers t f log.pages

/-- The flight with what its start read, its step count n, and its estimate (R50). -/
def noted (t : State) (f : Flight) (log : Log) (n : Nat) : Flight :=
  { readBy f log with cost := n, est := estOf (seen t f log) (readBy f log) n log }

/-- The flight with what its start read and what its unit has staged; destinations that cover units of stacked memory in part count in its
estimate (R167). -/
def withStaged (t : State) (f : Flight) (log : Log) (r : Staged) : Flight :=
  { readBy f log with
    cost := r.steps, est := estOf (seen t f log) (readBy f log) r.steps { log with lines := partialUses r.writes ++ log.lines }
    phase := .running, staged := r.writes, post := r.post, flags := r.flags, ctxs := r.ctxs, marks := r.marks, units := r.units, result := ⟨sOk, r.detail, 0⟩ }

end Sys2Proof.Slice0

/-- A step runs the command at the front of the queue on the state with the rest of the queue. For every command c, every rest of the queue and
every state s, a step of s with c in front of the rest is exec of c on s with the rest as its queue. The queue is the model's own (log 1).
Rule: R445. -/
def Obligations.StepRunsFrontCommand : Prop :=
  ∀ (c : Instr) (rest : List Instr) (s : State), step { s with pending := c :: rest } = exec c { s with pending := rest }

/-- With an empty queue, one step of time passes: only the counters of released and powered units advance. With an empty queue a step answers a
next state that differs from s in the step counters alone (the model's choice, log 1). With no start in progress or done nothing changes.
From step 1 of a start the front end's, the dealer's and the narrow processors' counters rise by 1 modulo 2^64, and from step 3, the Heldun
being released at the end of step 2, the Heldun's too. From step 4 the counter of each present engine n below 64 and of each present cluster
c below 16 rises by 1 modulo 2^64 exactly while its region has power; every other counter stands. Rule: R55. -/
def Obligations.EmptyQueueIsOneTick : Prop :=
  ∀ s : State, s.pending = [] → ∃ t, step s = .next t ∧ { t with steps := s.steps } = s ∧
    (s.boot.step = 0 → t = s) ∧
    (s.boot.step ≠ 0 →
      t.steps.frontEnd = (s.steps.frontEnd + 1) % 2 ^ 64 ∧ t.steps.dealer = (s.steps.dealer + 1) % 2 ^ 64 ∧
      t.steps.narrow = (s.steps.narrow + 1) % 2 ^ 64 ∧
      t.steps.heldun = (if 3 ≤ s.boot.step then (s.steps.heldun + 1) % 2 ^ 64 else s.steps.heldun) ∧
      (∀ n, n < 64 → counterOf t (.engine n) =
        if 4 ≤ s.boot.step ∧ engineHere s n = true ∧ regionSteps s (n / 8) = true then (counterOf s (.engine n) + 1) % 2 ^ 64
        else counterOf s (.engine n)) ∧
      (∀ c, c < 16 → counterOf t (.cluster c) =
        if 4 ≤ s.boot.step ∧ clusterHere s c = true ∧ regionSteps s (c / 2) = true then (counterOf s (.cluster c) + 1) % 2 ^ 64
        else counterOf s (.cluster c)))

/-- Right after reset: step 1 of the first start, every unit present, no role, and the defaults that the rules give. State.reset is the first
start of a new device at step 1 with READY 0 (that reset is that start, and every value that no rule gives, is the model's choice, log 5):
every unit is present and none pending, MAP_SEQ 0; every counter 0; the PTM interval 2^20 and no good exchange; the HSS budget full; barrier
epoch 0 and not known; the peg rows at their factory values; no owner key and no owner; every region at level 5 and the cap at 2,400 W;
dealer limits 4,096 contexts, 32,768 tokens, prefill cap 32,768 and chunk 2,048; no shoe, no command in flight, and an empty queue. Rules:
R26, R27, R55, R60, R293, R408, R410, R477. -/
def Obligations.ResetIsTheFirstStartOfANewDevice : Prop :=
  State.reset.boot.step = 1 ∧ State.reset.heldun.ready = 0 ∧ State.reset.heldun.owner = none ∧
    State.reset.units.map = UnitsMap.full ∧ State.reset.units.map.mapSeq = 0 ∧
    (∀ u, counterOf State.reset u = 0) ∧ State.reset.ptm.log2Interval = 20 ∧ State.reset.ptm.valid = false ∧
    State.reset.keys.hssBudget = 1024 ∧ State.reset.domain.barrier.epoch = 0 ∧ State.reset.domain.barrier.known = false ∧
    State.reset.vault.pegs = ⟨0, 0, 0, 0⟩ ∧ State.reset.vault.ownerKey = none ∧ State.reset.vault.retired = [] ∧
    (∀ r, r < 8 → regionLevel State.reset r = 5) ∧ State.reset.power.cap = 2400 ∧
    State.reset.dealer.cfg = ⟨none, 4096, 32768, 32768, 2048⟩ ∧ State.reset.dealer.cur = none ∧
    State.reset.shoes.count = 0 ∧ State.reset.shoes.tab = [] ∧ State.reset.flights.list = [] ∧ State.reset.pending = []

/-- Every byte memory is in canonical form right after reset. In State.reset stacked memory with the far tier and the cluster stores, the
operand areas, both hosts' memories and every vault slot's payload are in canonical form: addresses strictly rising and no listed byte 0.
That an unlisted byte reads 0 is the model's choice where no rule zeroes it (log 15). Rule: R529. -/
def Obligations.ResetMemoriesAreCanonical : Prop :=
  Safety.Canonical State.reset

/-- Every step keeps every byte memory in canonical form, so that equal memories are equal data. For every state whose byte memories are
canonical (device memory, operand areas, both hosts, every vault payload), whatever command is at the front of the queue, the next state's
memories are canonical. Rules: R107, R167. -/
def Obligations.StepKeepsMemoriesCanonical : Prop :=
  ∀ s t : State, Safety.Canonical s → step s = .next t → Safety.Canonical t

/-- No step, a reset included, ever lowers a peg row. For every state and every command at the front of its queue, SECURITY_VERSION,
OWNER_EPOCH, DEBUG_UNLOCK and ATTEST_RESERVE of the next state are at least what they were. It formalises the sentence that cells are
programmed in order and are never erased: a device whose copies at a start (readPegs, log 69) hold less than the value in force keeps that
value. Rule: R408. -/
def Obligations.StepNeverErasesAPegCell : Prop :=
  ∀ s t : State, step s = .next t → Safety.PegsRise s.vault.pegs t.vault.pegs

/-- No step forgets a recorded retirement or lowers the count of fatal stops. For every state and every command at the front of its queue, every
unit that the vault records as retired is still recorded in the next state, and the vault's count of fatal stops is at least what it was.
Rules: R34, R518. -/
def Obligations.RetirementsAndStopsAreNeverForgotten : Prop :=
  ∀ s t : State, step s = .next t → (∀ u ∈ s.vault.retired, u ∈ t.vault.retired) ∧ s.vault.fatalStops ≤ t.vault.fatalStops

/-- Every command answers a next state on every state, and leaves the queue alone. For every command and every state, exec answers a next state,
never a fault or a refusal, and the queue of the next state is the queue that exec was given. Rule: R445. -/
def Obligations.EveryCommandAnswersAndLeavesTheQueue : Prop :=
  ∀ (c : Instr) (s : State), ∃ t, exec c s = .next t ∧ t.pending = s.pending

/-- A fetched hub command whose fences let it start begins: it is placed on the hub, and its measured steps count from the reading of the hub's
counter. While the device serves, a fetched hub command of the row's opcode that waits, that no command of its shoe precedes which is in the
kitty or released from it and not begun, and whose fences are ready, begins when its row brings no hardware error. It runs on the hub in the
open deal, or the next one if none is open, T0 is the counter of its unit before the row, and that counter then rises by the row's steps
modulo 2^64. No memory, translation buffer, context, key or dealer state changes by the beginning. Rules: R55, R56, R259, R260. -/
def Obligations.ReadyHubCommandTakesTheHub : Prop :=
  ∀ (s : State) (st : Start) (op : Nat) (f : Flight), serving s = true → flightOf s st.cid = some f → f.cmd.opcode = op →
    needsEngine op = false → f.phase = .waiting → fencesOf s f = .ready →
    (∀ g ∈ s.flights.list, g.shoe = f.shoe → g.seq < f.seq → inKitty g = false ∧ releaseRank g = none) → st.errs = [] →
    ∃ t g, begin s st .hub (fun f => f.cmd.opcode == op) = .go t g ∧
      g.cid = f.cid ∧ g.cmd = f.cmd ∧ g.shoe = f.shoe ∧ g.phase = .running ∧ g.place = .hub ∧ g.deal = f.deal.or (some (dealNow s)) ∧
      g.t0 = counterOf s (stepUnitOf g) ∧ counterOf t (stepUnitOf g) = (counterOf s (stepUnitOf g) + st.steps) % 2 ^ 64 ∧
      t.memories = s.memories ∧ t.trans = s.trans ∧ t.kv.ctxs = s.kv.ctxs ∧ t.keys = s.keys ∧ t.dealer = s.dealer ∧ t.vault = s.vault

/-- A hub command whose action ends in its row answers the completed state: its action, its write-out, then its completion with S_OK. For each
of the 38 hub rows listed (kn.units_get, kn.as_set CREATE, kn.tlb PIN and UNPIN, kn.shoe CREATE, SET and QUERY, sy.wait, kn.spill_pool,
kn.vault_prov, kn.weight_place from a slot or a buffer, kn.model_cut, kn.dealer_set, kn.context SETUP, MODEL, REGISTER, GRANT, RING and
QUERY, bw.adapter CREATE and QUERY, kn.key_bind RESERVE, LINK and QUERY): when the command begins, its checks pass and its body gives the
action's state u with the writes ws, and those writes land, exec answers the state in which the action has happened, the ticket has entered
at the commit point, the writes have landed as one write-out, and the command has completed with S_OK, its DETAIL and its AUX. Rules: R31,
R106, R182, R198, R207, R210, R226, R233, R268, R293, R318, R390. -/
def Obligations.HubCommandActsAndCompletes : Prop :=
  ∀ r ∈ Slice0.actRows, ∀ (st : Start) (s t u w : State) (f : Flight) (ws : List SWrite) (n d x : Nat) (log : Log),
    Slice0.Runs .hub r.op (r.body st) st s t f (.act u ws n d x) log → serving u = true →
    writeAll (Slice0.noted t f log n) (enterTicket u (Slice0.noted t f log n)) ws = (w, 0) →
    exec (r.row st) s = .next (complete w (Slice0.noted t f log n) sOk d x)

/-- A hub action that waits for other commands ends at once if none is left, and else is held until they have committed or been killed. For each
of the 13 waiting hub rows (kn.as_set SET_ROOT, SET_PASID and DESTROY, kn.tlb INVAL_RANGE, INVAL_ASID and INVAL_ALL, kn.shoe DESTROY,
kn.cstore_assign, kn.weight_place DROP, kn.context RELEASE and TRIM, bw.adapter DESTROY, kn.key_bind DESTROY): when the command begins and
its body gives the action's first state u, what follows and the commands waited for, exec answers the ended action if nothing is left to
wait for, and else u with the command held in its wait. An action that commits at its start (invalidation, DROP, SET_ROOT, SET_PASID) enters
its ticket first. Rules: R145, R208, R226, R232, R270, R318, R390, R419. -/
def Obligations.HubCommandThatWaits : Prop :=
  ∀ r ∈ Slice0.waitRows, ∀ (st : Start) (s t u : State) (f : Flight) (dr : Drain) (on : List Nat) (n d x : Nat) (log : Log),
    Slice0.Runs .hub r.op (r.body st) st s t f (.drain u dr on n d x) log →
    let g : Flight := { Slice0.noted t f log n with result := ⟨sOk, d, x⟩ }
    let v : State := if dr = .post then enterTicket u g else u
    (drainDone v dr on = true → exec (r.row st) s = .next (finishDrain v g dr)) ∧
      (drainDone v dr on = false → exec (r.row st) s = .next (putFlight v { g with phase := .draining dr on }))

/-- A matrix, gather or backward command that has computed has staged its results, and has written none of them. For mm.mul, mm.mul_list,
ex.gather, bw.mul, bw.norm and bw.softmax: when the command begins on its engine, its checks pass and its body stages results, exec answers
the state in which the flight holds the staged writes, the effects of its commit point, its FLAGS and its estimate, with S_OK as its result
to come. Nothing else differs from the state in which it runs, but for the translation buffers, which have seen its accesses: no byte of
device memory, of an operand area or of a host is written before the commit point. Rules: R99, R112, R106, R108, R380, R385. -/
def Obligations.EngineCommandStagesItsResults : Prop :=
  ∀ r ∈ Slice0.engineRows, ∀ (st : Start) (s t : State) (f : Flight) (x : Staged) (log : Log),
    Slice0.Runs .none r.op (r.body st) st s t f (.staged x) log →
    ∃ v, exec (r.row st) s = .next v ∧ v = putFlight (Slice0.seen t f log) (Slice0.withStaged t f log x) ∧
      v.memories = t.memories ∧ v.host0 = t.host0 ∧ v.host1 = t.host1 ∧ { v with flights := t.flights, trans := t.trans } = t

/-- A command whose zero length makes it a no-op completes at once with S_OK and no other effect. For every listed hub, waiting and engine row:
when the command begins and its body finds a length of zero that makes it a no-op, exec answers the state in which its ticket has entered
and it has completed with S_OK, DETAIL 0 and AUX 0; the no-op itself changes no other state. Rules: R258, R56. -/
def Obligations.ZeroLengthCommandIsANoOp : Prop :=
  (∀ r ∈ Slice0.actRows ++ Slice0.waitRows, ∀ (st : Start) (s t : State) (f : Flight) (n : Nat) (log : Log),
    Slice0.Runs .hub r.op (r.body st) st s t f (.noop n) log →
    exec (r.row st) s = .next (commitComplete (Slice0.seen t f log) (Slice0.noted t f log n) 0 0)) ∧
  (∀ r ∈ Slice0.engineRows, ∀ (st : Start) (s t : State) (f : Flight) (n : Nat) (log : Log),
    Slice0.Runs .none r.op (r.body st) st s t f (.noop n) log →
    exec (r.row st) s = .next (commitComplete (Slice0.seen t f log) (Slice0.noted t f log n) 0 0))

namespace Sys2Proof.Slice0

/-- The checks of a prepared command: check 8, the parameter block, and the command's own. -/
def firstRun {α : Type} (check : State → Actor → Flight → List Byte → Run (Except Nat α)) (t : State) (f : Flight) : Run (Except Nat α) := do
  check8 t f
  let p ← readParams t f (actorOf t f)
  check t (actorOf t f) f p

/-- What a prepared command computes, and the checks of its completion record and signal. -/
def restRun {α β : Type} (body : State → Actor → Flight → α → β → Run Plan) (t1 : State) (f : Flight) (x : α) (y : β) : Run Plan := do
  let plan ← body t1 (actorOf t1 f) f x y
  checkPosts t1 f
  pure plan

/-- A row that makes its checks, then prepares (takes pages, makes holds, closes a board) and then computes: it begins, its checks pass,
the preparation gives t1, and the body gives a plan there. -/
def PrepRuns {α β : Type} (place : Place) (op : Nat) (check : State → Actor → Flight → List Byte → Run (Except Nat α))
    (prep : State → Flight → α → State × Except Stop β) (body : State → Actor → Flight → α → β → Run Plan)
    (st : Start) (s t1 : State) (f : Flight) (plan : Plan) (log : Log) : Prop :=
  ∃ t x y log1,
    begin s st place (fun f => f.cmd.opcode == op) = .go t f ∧
    firstRun check t f emptyLog = .ok (.ok x, log1) ∧ touchesReassigned t log1.segs = false ∧
    prep t f x = (t1, .ok y) ∧ restRun body t1 f x y log1 = .ok (plan, log) ∧ touchesReassigned t1 log.segs = false

/-- A prepared row of an engine: what its body stages is held, and nothing of it is written yet. -/
def PreparedStages {α β : Type} (row : Start → Instr) (op : Nat) (check : State → Actor → Flight → List Byte → Run (Except Nat α))
    (prep : State → Flight → α → State × Except Stop β) (body : State → Actor → Flight → α → β → Run Plan) : Prop :=
  ∀ (st : Start) (s t1 : State) (f : Flight) (r : Staged) (log : Log),
    PrepRuns .none op check prep body st s t1 f (.staged r) log →
    ∃ v, exec (row st) s = .next v ∧ v = putFlight (seen t1 f log) (withStaged t1 f log r) ∧
      v.memories = t1.memories ∧ v.host0 = t1.host0 ∧ v.host1 = t1.host1 ∧ { v with flights := t1.flights, trans := t1.trans } = t1

/-- A prepared row of the hub: its action, its write-out and its completion with S_OK. -/
def PreparedActs {α β : Type} (row : Start → Instr) (op : Nat) (check : State → Actor → Flight → List Byte → Run (Except Nat α))
    (prep : State → Flight → α → State × Except Stop β) (body : State → Actor → Flight → α → β → Run Plan) : Prop :=
  ∀ (st : Start) (s t1 u w : State) (f : Flight) (ws : List SWrite) (n d x : Nat) (log : Log),
    PrepRuns .hub op check prep body st s t1 f (.act u ws n d x) log → serving u = true →
    writeAll (noted t1 f log n) (enterTicket u (noted t1 f log n)) ws = (w, 0) →
    exec (row st) s = .next (complete w (noted t1 f log n) sOk d x)

/-- A prepared row whose command then waits in a phase. -/
def PreparedWaits {α β : Type} (row : Start → Instr) (place : Place) (op : Nat)
    (check : State → Actor → Flight → List Byte → Run (Except Nat α))
    (prep : State → Flight → α → State × Except Stop β) (body : State → Actor → Flight → α → β → Run Plan) : Prop :=
  ∀ (st : Start) (s t1 u : State) (f : Flight) (ph : Phase) (n : Nat) (log : Log),
    PrepRuns place op check prep body st s t1 f (.wait u ph n) log →
    exec (row st) s = .next (putFlight (seen u f log) { noted t1 f log n with phase := ph, units := ((flightOf u f.cid).map (·.units)).getD 0 })

end Sys2Proof.Slice0

/-- Attention, routing, settling and verifying commands stage their results over the pages they prepared; at.advance and sp.open complete;
others wait. For at.append, at.attend, at.ring, at.combine, sp.verify, ex.route, ex.settle (its board resolved) and ex.combine: when the
command begins, its checks pass, its preparation gives t1 (pages taken or brought back, a board closed, holds made, which a later kill does
not undo) and its body stages results in t1, exec answers t1 with the flight holding the staged writes, the effects of its commit point, its
FLAGS and its estimate. No byte of device memory, of an operand area or of a host is written before the commit point, and no other state of
t1 changes but the translation buffers that have seen its accesses. at.advance and sp.open, when they begin, pass their checks and their
bodies act, answer the completed state: the positions raised or the open state opened, the status vector written out, S_OK. at.ring_send
answers the state in which the block has left as a message and the command waits for its acknowledgement, past its commit point. ex.settle
of a board that is not resolved answers the state in which the board is closed and the command waits for its resolution. Rules: R106, R108,
R326, R329, R331, R332, R359, R360, R373, R377, R378, R380. -/
def Obligations.PreparedCommandsStageOrComplete : Prop :=
  (Slice0.PreparedStages .atAppend opAppend (atCheck opAppend) appendPrep appendBody ∧
  Slice0.PreparedStages .atAttend opAttend (atCheck opAttend) (attendPrep opAttend) attendBody ∧
  Slice0.PreparedStages .atRing opRing (atCheck opRing) (attendPrep opRing) ringBody ∧
  Slice0.PreparedStages .atCombine opCombine (atCheck opCombine) combinePrep combineBody ∧
  Slice0.PreparedStages .spVerify opSpVerify (spCheck opSpVerify) verifyPrep verifyBody ∧
  Slice0.PreparedStages .exRoute opRoute routeCheck (fun s f x => (s, .ok (exMarks s f opRoute x.job))) routeBody ∧
  Slice0.PreparedStages .exSettle opSettle settleCheck settlePrep settleBody ∧
  Slice0.PreparedStages .exCombine opExCombine exCombineCheck (fun s f j => (s, .ok (exMarks s f opExCombine j))) exCombineBody) ∧
  (Slice0.PreparedActs .atAdvance opAdvance (atCheck opAdvance) combinePrep advanceBody ∧
  Slice0.PreparedActs .spOpen opSpOpen (spCheck opSpOpen) openPrep openBody ∧
  Slice0.PreparedWaits .atRingSend .hub 0x4005 sendCheck sendPrep sendBody ∧
  Slice0.PreparedWaits .exSettle .none opSettle settleCheck settlePrep settleBody)

namespace Sys2Proof.Slice0

/-- A running vector program whose next instruction is i, of operation op; the row brings no hardware error, and t is the state once the
unit's counter has moved by the row's steps. -/
structure VxAt (op : Nat) (st : Start) (s t : State) (f : Flight) (x : Vx) (i : VIns) : Prop where
  serves : serving s = true
  flight : flightOf s st.cid = some f
  runs   : f.phase = .vector x
  instr  : i = vinsAt x.prog x.pc
  isOp   : i.op = op
  clean  : st.errs = []
  state  : t = advance s (stepUnitOf f) st.steps

/-- Element j of a register in a format: the j-th run of its bits (R117). -/
def elemAt (f : Fmt) (v : BitVec 4096) (j : Nat) : Nat := v.toNat / 2 ^ (fmtBits f * j) % 2 ^ fmtBits f

/-- Element j of the second source: VB, or the immediate broadcast (R125). -/
def secondAt (x : Vx) (f : Fmt) (i : VIns) (j : Nat) : Nat :=
  if i.im = 0 then elemAt f (vreg x i.vb) j else immElem f i

/-- The source format of vx.cvt. -/
def srcFmt (i : VIns) : Fmt := (regFmt i.vb).getD .f32

/-- An instruction that computes elements of V[VD] alone: its row, its operation, and element j with its flags. -/
structure ElemRow where
  row : Start → Instr
  op  : Nat
  val : Vx → VIns → Fmt → Nat → Nat × FlagWord

/-- The element instructions of Table 5-6. -/
def elemRows : List ElemRow :=
  let one (op : Fmt → Nat → Nat × FlagWord) : Vx → VIns → Fmt → Nat → Nat × FlagWord := fun x i f j => op f (elemAt f (vreg x i.va) j)
  let two (op : Fmt → Nat → Nat → Nat × FlagWord) : Vx → VIns → Fmt → Nat → Nat × FlagWord :=
    fun x i f j => op f (elemAt f (vreg x i.va) j) (secondAt x f i j)
  [⟨.vxAdd, 0x20, two laneAdd⟩, ⟨.vxSub, 0x21, two laneSub⟩, ⟨.vxMul, 0x22, two laneMul⟩,
   ⟨.vxFma, 0x23, fun x i f j => laneFma f (elemAt f (vreg x i.va) j) (secondAt x f i j) (elemAt f (vreg x i.vd) j)⟩,
   ⟨.vxMin, 0x24, two fun f => laneMinMax f false⟩, ⟨.vxMax, 0x25, two fun f => laneMinMax f true⟩, ⟨.vxDiv, 0x26, two laneDiv⟩,
   ⟨.vxSqrt, 0x27, one laneSqrt⟩, ⟨.vxAbs, 0x28, one fun f => laneSign f true⟩, ⟨.vxNeg, 0x29, one fun f => laneSign f false⟩,
   ⟨.vxMov, 0x2A, fun x i f j => (if i.im = 0 then elemAt f (vreg x i.va) j else immElem f i, 0#32)⟩,
   ⟨.vxCvt, 0x40, fun x i f j => laneCvt (srcFmt i) f (elemAt (srcFmt i) (vreg x i.va) j)⟩,
   ⟨.vxFn, 0x50, fun x i f j => laneTable f ((tableFnOfCode (i.imm % 256)).getD .exp) false (elemAt f (vreg x i.va) j)⟩,
   ⟨.vxDfn, 0x51, fun x i f j => laneTable f ((tableFnOfCode (i.imm % 256)).getD .exp) true (elemAt f (vreg x i.va) j)⟩]

end Sys2Proof.Slice0

/-- vx.run starts its program with every vector and mask register zero, VL 0, FLAGS 0, and X0 to X15 from the parameter block. When vx.run
begins, its checks pass and its body makes a program ready, exec answers the state in which the command runs that program from instruction
0: V0 to V31 and K0 to K7 are zero, VL and FLAGS are 0, no vector step is counted, nothing is staged, and X r holds the 8 bytes at 32 + 8r
of the parameter block. Nothing else changes but the translation buffers that have seen its accesses. Rules: R116, R122, R123. -/
def Obligations.VxRunStartsFromClearedRegisters : Prop :=
  ∀ (st : Start) (s t : State) (f : Flight) (x : Vx) (n : Nat) (log : Log),
    Slice0.Runs .none 0x2001 vxRunBody st s t f (.vector x n) log →
    exec (.vxRun st) s = .next (putFlight (Slice0.seen t f log) { Slice0.noted t f log n with phase := .vector x, ctxs := [] }) ∧
    x.pc = 0 ∧ (∀ n, vreg x n = 0#4096) ∧ (∀ n, kreg x n = 0#512) ∧ x.vl = 0 ∧ x.flags = 0#32 ∧ x.p = 0 ∧
    x.staged = [] ∧ x.scales = [] ∧ x.limit = fld x.param 16 4 ∧
    (∀ r, r < 16 → xreg x r = BitVec.ofNat 64 (fld x.param (32 + 8 * r) 8))

/-- vx.setvl, vx.xli, vx.xadd, vx.xsub and vx.bnz write their X register, VL and the next instruction, and nothing else. While a program runs
and its next instruction has steps left under STEP_LIMIT: vx.setvl sets VL and X[VD] to min(X[VA], E(FMT)); vx.xli sets X[VD] to the
sign-extended IMM; vx.xadd and vx.xsub set X[VD] to X[VA] + b and X[VA] - b modulo 2^64, b being X[VB] or the signed IMM; vx.bnz goes on at
instruction i + IMM if X[VA] is not 0, else at i + 1. p rises by the instruction's steps. Every other register, FLAGS, the staging area and
all other state are unchanged. A next instruction outside the program is another statement's case. Rules: R117, R126, R131, R133. -/
def Obligations.VxScalarInstructionsComputeExactly : Prop :=
  ∀ (st : Start) (s t : State) (f : Flight) (x : Vx) (i : VIns) (op : Nat),
    Slice0.VxAt op st s t f x i → x.p + vsteps i ≤ x.limit →
    let b : BitVec 64 := if i.im = 0 then xreg x i.vb else BitVec.ofInt 64 (signedOf 32 i.imm)
    let run (c : Instr) (y : Vx) : Prop :=
      exec c s = .next (putFlight t (keepVx t f { y with p := x.p + vsteps i } emptyLog))
    let next : Nat := x.pc + 1
    let far : Nat := if xreg x i.va ≠ 0#64 then ((x.pc : Int) + signedOf 32 i.imm).toNat else next
    (op = 0x01 → next < x.prog.length / 8 → run (.vxSetvl st)
      { setX x i.vd (BitVec.ofNat 64 (min (xreg x i.va).toNat (regElems (fmtOfIns i)))) with
        vl := min (xreg x i.va).toNat (regElems (fmtOfIns i)), pc := next }) ∧
    (op = 0x02 → next < x.prog.length / 8 → run (.vxXli st) { setX x i.vd (BitVec.ofInt 64 (signedOf 32 i.imm)) with pc := next }) ∧
    (op = 0x03 → next < x.prog.length / 8 → run (.vxXadd st) { setX x i.vd (xreg x i.va + b) with pc := next }) ∧
    (op = 0x04 → next < x.prog.length / 8 → run (.vxXsub st) { setX x i.vd (xreg x i.va - b) with pc := next }) ∧
    (op = 0x05 → far < x.prog.length / 8 → run (.vxBnz st) { x with pc := far })

/-- An element instruction writes each processed element of V[VD] with its operation's result, and every other element and register stands. For
vx.add, sub, mul, fma, min, max, div, sqrt, abs, neg, mov, cvt, fn and dfn: while a program runs, VL is at most E(FMT) (for vx.cvt, E of
both formats), the step limit is kept and an instruction follows, exec answers the state in which, for each j below E(FMT), element j of
V[VD] is the operation's result on element j of the sources if j is processed (below VL, and its mask bit is 1 where M is 1), and else what
it was; every other V register, every K and X register, VL and the staging area are unchanged; a bit of FLAGS is set if it was set or a
processed element raises it; p rises by the instruction's steps, and the next instruction follows. Apart from the unit's counter and the
command's flight nothing changes. Rules: R117, R118, R119, R120, R126, R127. -/
def Obligations.VxElementInstructionsWriteProcessedElements : Prop :=
  ∀ r ∈ Slice0.elemRows, ∀ (st : Start) (s t : State) (f : Flight) (x : Vx) (i : VIns),
    Slice0.VxAt r.op st s t f x i → x.p + vsteps i ≤ x.limit → x.vl ≤ regElems (fmtOfIns i) →
    (r.op = 0x40 → x.vl ≤ regElems (Slice0.srcFmt i)) → x.pc + 1 < x.prog.length / 8 →
    ∃ y, exec (r.row st) s = .next (putFlight t (keepVx t f y emptyLog)) ∧
      (∀ j, j < regElems (fmtOfIns i) → Slice0.elemAt (fmtOfIns i) (vreg y i.vd) j =
        if processed x i j then (r.val x i (fmtOfIns i) j).1 % 2 ^ fmtBits (fmtOfIns i)
        else Slice0.elemAt (fmtOfIns i) (vreg x i.vd) j) ∧
      (∀ n, n ≠ i.vd → vreg y n = vreg x n) ∧ (∀ n, kreg y n = kreg x n) ∧ (∀ n, xreg y n = xreg x n) ∧
      (∀ n, y.flags.getLsbD n = (x.flags.getLsbD n ||
        (List.range (regElems (fmtOfIns i))).any fun j => processed x i j && (r.val x i (fmtOfIns i) j).2.getLsbD n)) ∧
      y.vl = x.vl ∧ y.staged = x.staged ∧ y.scales = x.scales ∧ y.p = x.p + vsteps i ∧ y.pc = x.pc + 1

/-- A comparison or a mask operation writes the processed bits of K[VD] below VL, and every other bit and register stands. For vx.cmplt, cmple
and cmpeq bit j of K[VD] becomes the comparison of element j of the sources, and for vx.kand, kor and knot the operation on bit j of the
source mask registers, for every processed j; every other bit of K[VD], every other K register, every V and X register, VL and the staging
area are unchanged. A comparison sets the bits of FLAGS that a processed element raises; a mask operation raises none. Rules: R118, R119,
R120, R126. -/
def Obligations.VxMaskInstructionsWriteTheirBits : Prop :=
  let after (c : Instr) (s t : State) (f : Flight) (x : Vx) (i : VIns) (bit : Nat → Bool) (fl : Nat → FlagWord) : Prop :=
    ∃ y, exec c s = .next (putFlight t (keepVx t f y emptyLog)) ∧
      (∀ j, j < 512 → (kreg y i.vd).getLsbD j =
        if j < regElems (fmtOfIns i) && processed x i j then bit j else (kreg x i.vd).getLsbD j) ∧
      (∀ n, n ≠ i.vd → kreg y n = kreg x n) ∧ (∀ n, vreg y n = vreg x n) ∧ (∀ n, xreg y n = xreg x n) ∧
      (∀ n, y.flags.getLsbD n = (x.flags.getLsbD n ||
        (List.range (regElems (fmtOfIns i))).any fun j => processed x i j && (fl j).getLsbD n)) ∧
      y.vl = x.vl ∧ y.staged = x.staged ∧ y.scales = x.scales ∧ y.p = x.p + vsteps i ∧ y.pc = x.pc + 1
  ∀ (st : Start) (s t : State) (f : Flight) (x : Vx) (i : VIns) (op : Nat),
    Slice0.VxAt op st s t f x i → x.p + vsteps i ≤ x.limit → x.vl ≤ regElems (fmtOfIns i) → x.pc + 1 < x.prog.length / 8 →
    let g := fmtOfIns i
    let cmp (c : Cmp) (j : Nat) : Bool × FlagWord := laneCmp g c (Slice0.elemAt g (vreg x i.va) j) (Slice0.secondAt x g i j)
    let a (j : Nat) : Bool := (kreg x i.va).getLsbD j
    let b (j : Nat) : Bool := (kreg x i.vb).getLsbD j
    (op = 0x30 → after (.vxCmplt st) s t f x i (fun j => (cmp .lt j).1) fun j => (cmp .lt j).2) ∧
    (op = 0x31 → after (.vxCmple st) s t f x i (fun j => (cmp .le j).1) fun j => (cmp .le j).2) ∧
    (op = 0x32 → after (.vxCmpeq st) s t f x i (fun j => (cmp .eq j).1) fun j => (cmp .eq j).2) ∧
    (op = 0x38 → after (.vxKand st) s t f x i (fun j => a j && b j) fun _ => 0#32) ∧
    (op = 0x39 → after (.vxKor st) s t f x i (fun j => a j || b j) fun _ => 0#32) ∧
    (op = 0x3A → after (.vxKnot st) s t f x i (fun j => !a j) fun _ => 0#32)

/-- vx.redsum and vx.redmax write the value of the fixed pairwise tree to every processed element of V[VD]. While a program runs, VL is at most
E(FMT), the step limit is kept and an instruction follows, exec answers the state in which every processed element of V[VD] holds the result
of the pairwise tree over positions 0 to E(FMT) - 1, to which element j of V[VA] contributes if it is processed: at each level the results
of adjacent halves are combined, a pair with one contributing side passes it unchanged, and a tree to which none contributes gives +0 for
vx.redsum and minus infinity for vx.redmax with no flag. Every other element and register is unchanged, and FLAGS takes the flags of the
additions or comparisons of the tree. Rules: R118, R119, R130. -/
def Obligations.VxReductionsBroadcastTheFixedTree : Prop :=
  ∀ (st : Start) (s t : State) (f : Flight) (x : Vx) (i : VIns) (op : Nat),
    Slice0.VxAt op st s t f x i → x.p + vsteps i ≤ x.limit → x.vl ≤ regElems (fmtOfIns i) → x.pc + 1 < x.prog.length / 8 →
    let g := fmtOfIns i
    let at? (j : Nat) : Option Nat := if processed x i j then some (Slice0.elemAt g (vreg x i.va) j) else none
    let after (c : Instr) (r : Nat × FlagWord) : Prop :=
      ∃ y, exec c s = .next (putFlight t (keepVx t f y emptyLog)) ∧
        (∀ j, j < regElems g → Slice0.elemAt g (vreg y i.vd) j =
          if processed x i j then r.1 % 2 ^ fmtBits g else Slice0.elemAt g (vreg x i.vd) j) ∧
        (∀ n, n ≠ i.vd → vreg y n = vreg x n) ∧ (∀ n, kreg y n = kreg x n) ∧ (∀ n, xreg y n = xreg x n) ∧
        y.flags = x.flags ||| r.2 ∧ y.vl = x.vl ∧ y.staged = x.staged ∧ y.scales = x.scales ∧ y.p = x.p + vsteps i ∧ y.pc = x.pc + 1
    (op = 0x48 → after (.vxRedsum st)
      ((redTree (laneAdd g) at? (Nat.log2 (regElems g)) 0).getD (zeroBits g false, 0#32))) ∧
    (op = 0x49 → after (.vxRedmax st)
      ((redTree (laneMinMax g true) at? (Nat.log2 (regElems g)) 0).getD (infBits g true, 0#32)))

/-- A load changes V[VD] and FLAGS alone and a store changes its staging area and FLAGS alone; neither writes memory. While a program runs, the
step limit is kept, an instruction follows, and the access of a vx.ld, vx.ldb or vx.st passes its checks (its reads give y and the bytes
that they move), exec answers the state in which the command goes on with y, its steps counted. After a load, every V register but V[VD],
every K and X register, VL and the staging area are as before; after a store every register and VL are as before. Memory, operand areas and
host memory are unchanged. Rules: R118, R128, R129, R132. -/
def Obligations.VxLoadsFillAndStoresStage : Prop :=
  ∀ (st : Start) (s t : State) (f : Flight) (x y : Vx) (i : VIns) (op : Nat) (log : Log),
    Slice0.VxAt op st s t f x i → x.p + vsteps i ≤ x.limit → x.pc + 1 < x.prog.length / 8 → touchesReassigned t log.segs = false →
    let z : Vx := { y with pc := x.pc + 1, p := x.p + vsteps i }
    let same : Prop := (∀ n, kreg y n = kreg x n) ∧ (∀ n, xreg y n = xreg x n) ∧ y.vl = x.vl ∧ t.memories = s.memories ∧
      t.host0 = s.host0 ∧ t.host1 = s.host1
    (op = 0x10 → vLd t (actorOf t f) i x emptyLog = .ok (y, log) → exec (.vxLd st) s = .next (putFlight (Slice0.seen t f log) (keepVx t f z log)) ∧
      same ∧ (∀ n, n ≠ i.vd → vreg y n = vreg x n) ∧ y.staged = x.staged ∧ y.scales = x.scales) ∧
    (op = 0x11 → vLdb t (actorOf t f) i x emptyLog = .ok (y, log) → exec (.vxLdb st) s = .next (putFlight (Slice0.seen t f log) (keepVx t f z log)) ∧
      same ∧ (∀ n, n ≠ i.vd → vreg y n = vreg x n) ∧ y.staged = x.staged ∧ y.scales = x.scales) ∧
    (op = 0x12 → vSt i x emptyLog = .ok (y, log) → exec (.vxSt st) s = .next (putFlight (Slice0.seen t f log) (keepVx t f z log)) ∧
      same ∧ ∀ n, vreg y n = vreg x n)

/-- An instruction whose format is shorter than VL, or whose steps pass STEP_LIMIT, does not run: the program ends with S_LENGTH. For every
element instruction: if its steps would take p above STEP_LIMIT, exec ends the command with S_LENGTH, DETAIL naming byte 16 of the parameter
block; if the limit is kept but VL exceeds E(FMT), exec ends it with S_LENGTH, DETAIL naming the instruction. Nothing of the instruction is
written: what becomes of the command is the same as for any command that ends before its commit point, with the FLAGS raised so far. Rules:
R118, R133. -/
def Obligations.VxLengthAndStepLimitEndTheProgram : Prop :=
  ∀ r ∈ Slice0.elemRows, ∀ (st : Start) (s t : State) (f : Flight) (x : Vx) (i : VIns), Slice0.VxAt r.op st s t f x i →
    (x.limit < x.p + vsteps i →
      exec (r.row st) s = .next (stopCommand t { f with flags := x.flags } (.done sLength (detParam 16)))) ∧
    (x.p + vsteps i ≤ x.limit → regElems (fmtOfIns i) < x.vl →
      exec (r.row st) s = .next (stopCommand t { f with flags := x.flags } (.done sLength (detInstr x.pc))))

/-- vx.end turns the staged elements into the write-out and passes the commit point. When a running program stands at vx.end and the places of
its staged elements give the writes ws, exec answers the state in which the command has passed its commit point with those writes as its
write-out, the FLAGS raised by the program, S_OK as its result to come, and the estimate of the step count 64 + ceil(prog_len / 64) + p +
ceil(out_bytes / 65536). Rules: R106, R132, R134. -/
def Obligations.VxEndPassesTheCommitPoint : Prop :=
  ∀ (st : Start) (s t : State) (f : Flight) (x : Vx) (i : VIns) (ws : List (List SWrite)) (log : Log),
    Slice0.VxAt 0 st s t f x i → ((bufSet (fld x.param 13 1)).mapM (bufWrites t (actorOf t f) x)) emptyLog = .ok (ws, log) →
    let steps := 64 + ceilDiv x.prog.length 64 + x.p + ceilDiv (vxOutBytes x.param) 65536
    let g := keepVx t { f with cost := steps } x log
    exec (.vxEnd st) s = .next (passCommit (putFlight (Slice0.seen t f log) g) { g with
      phase := .running, staged := ws.flatten, flags := x.flags, result := ⟨sOk, 0, 0⟩
      est := estimate t steps f.stepTime (partialUses ws.flatten ++ log.lines ++ x.lines) })

namespace Sys2Proof.Slice0

/-- A mover command runs: it waits for no test or power of its cluster, no other command is served before it there, a mover of that cluster is
free, and on it the command begins, its checks pass and its body gives a plan. -/
def MoverRuns (op off : Nat) (body : Body) (st : Start) (s t : State) (f : Flight) (plan : Plan) (log : Log) : Prop :=
  ∃ g m, flightOf s st.cid = some g ∧ g.cmd.opcode = op ∧ startable g = true ∧ clusterWaits s g off = false ∧
    moverQueued s g off = false ∧ freeMover s (clusterFor s g off) = some m ∧ Runs (.mover (clusterFor s g off) m) op body st s t f plan log

end Sys2Proof.Slice0

/-- mv.copy stages its converted block on its mover, waiting for units or a peer; mv.fill passes its commit point at the end of its checks; the
waits end. When a mv.copy begins on its mover, its checks pass and its staging units are free, exec answers the state in which the flight
holds the staged block, its flags and its units, and no byte of memory, of an operand area or of a host is written. If its units are not
free, or its source lies on a peer, exec answers the state in which it waits for them; a zero length is a no-op that completes with S_OK. A
mv.fill that has staged its value passes its commit point in the same row. For a mv.copy that waits for staging, MOVER_STAGING_GRANTED
without a hardware error answers the state in which it has staged its block and runs, when its body goes on with the parameter block that it
has read and stages it. For a mover command held past its commit point for engine n, MOVER_ENGINE_WRITE_OUT answers the state in which its
write-out is under way if no command that has started and not committed is on engine n, and else leaves the state as it is. Rules: R147,
R154, R155. -/
def Obligations.MoverCommandsStageWaitAndGoOn : Prop :=
  (∀ (st : Start) (s t : State) (f : Flight) (log : Log),
    (∀ r, Slice0.MoverRuns 0x3001 76 mvCopyBody st s t f (.staged r) log →
      ∃ v, exec (.mvCopy st) s = .next v ∧ v = putFlight (Slice0.seen t f log) (Slice0.withStaged t f log r) ∧ v.memories = t.memories ∧ v.host0 = t.host0 ∧ v.host1 = t.host1) ∧
    (∀ u ph n, Slice0.MoverRuns 0x3001 76 mvCopyBody st s t f (.wait u ph n) log →
      exec (.mvCopy st) s = .next (putFlight (Slice0.seen u f log) { Slice0.noted t f log n with
        phase := ph, units := ((flightOf u f.cid).map (·.units)).getD 0 })) ∧
    (∀ n, Slice0.MoverRuns 0x3001 76 mvCopyBody st s t f (.noop n) log →
      exec (.mvCopy st) s = .next (commitComplete (Slice0.seen t f log) (Slice0.noted t f log n) 0 0)) ∧
    (∀ r, Slice0.MoverRuns 0x3002 44 mvFillBody st s t f (.staged r) log →
      let g := Slice0.withStaged t f log r
      exec (.mvFill st) s = .next (passCommit (putFlight (Slice0.seen t f log) g) g))) ∧
  ((∀ (st : Start) (s t : State) (f : Flight) (r : Staged) (log : Log),
    serving s = true → flightOf s st.cid = some f → f.phase = .staging → st.errs = [] → t = advance s (stepUnitOf f) st.steps →
    resumeBody t f mvCopyBody emptyLog = .ok (.staged r, log) → touchesReassigned t log.segs = false →
    exec (.moverStagingGranted st) s = .next (putFlight (Slice0.seen t f log) (Slice0.withStaged t f log r))) ∧
  (∀ (s : State) (cid n : Nat) (f : Flight), serving s = true → flightOf s cid = some f → f.phase = .heldEngine n →
    ((∀ g ∈ s.flights.list, g.place = .engine n → isStarted g = false) →
      exec (.moverEngineWriteOut cid) s = .next (putFlight s { f with phase := .committed })) ∧
    (∀ g ∈ s.flights.list, g.place = .engine n → isStarted g = true →
      exec (.moverEngineWriteOut cid) s = .next s)))

/-- At the commit point of an engine or mover command its ticket enters the window, its other effects happen, and no destination byte is
written. For a running command on an engine or a mover whose commit effects happen (the state u and the flight g that they leave): exec of
COMMIT_POINT answers the settled state in which the statuses of its entries are charged, its ticket is the newest of its shoe's window of at
most 4,096 (a ticket of 0 enters none) and LAST_TICKET, and its write-out is under way, or is held while a command that has started and not
committed is on an engine that it writes. For a command with no such effects, u is s and memory, operand areas and host memory stand until
the end of the row, when what the commit freed is settled. Rules: R106, R154, R265, R291. -/
def Obligations.CommitPointEntersTheTicket : Prop :=
  ∀ (s u : State) (cid : Nat) (f g : Flight), serving s = true → flightOf s cid = some f → f.phase = .running →
    (∃ n, f.place = .engine n) ∨ (∃ c m, f.place = .mover c m) → commitPost s f = .go u g →
    ∃ v ph, exec (.commitPoint cid) s = .next (settle v) ∧ v = putFlight (enterTicket (chargeMarks u g g.marks) g) { g with phase := ph } ∧
      (ph = .committed ∨ ∃ n, ph = .heldEngine n ∧ ∃ h ∈ u.flights.list, h.place = .engine n ∧ isStarted h = true) ∧
      v.memories = u.memories ∧ v.host0 = u.host0 ∧ v.host1 = u.host1 ∧
      (shoeOf v g.shoe).lastTicket = g.cmd.ticket ∧
      (g.cmd.ticket ≠ 0 → (g.cmd.ticket, if noCompletion g.cmd then 0 else g.cmd.completion) ∈ (shoeOf v g.shoe).window) ∧
      (f.post = .none → u = s ∧ g = f)

/-- When the write-out ends, the staged runs land as one unit and the command completes; runs for a peer leave first and are awaited; a lost run
loses the command. For a command past its commit point and a row without a hardware error, with t the state once the unit's counter has
moved: if none of its runs is for a peer and all land (w), exec answers w with the command completed with S_OK, its DETAIL and AUX; if one
does not land, the command is lost with the status of the first that did not. If runs are for a peer, they leave as messages, and exec
answers the state in which the command waits for their acknowledgements with nothing of it written on this device or in a host's memory.
Rules: R106, R107, R154, R512. -/
def Obligations.WriteOutEndCompletes : Prop :=
  ∀ (st : Start) (s t w : State) (f : Flight) (q : Nat), serving s = true → flightOf s st.cid = some f → f.phase = .committed →
    st.errs = [] → t = advance s (stepUnitOf f) st.steps → f.result.status = sOk →
    (peerRuns f.staged = [] → writeAll f (readyAreas t f) f.staged = (w, q) →
      (q = 0 → exec (.writeOutEnd st) s = .next (complete w f sOk f.result.detail f.result.aux)) ∧
      (q ≠ 0 → exec (.writeOutEnd st) s = .next (lostCommand w f q (lostDetail f q) (lostUnit f).1 (lostUnit f).2))) ∧
    (∀ z ids, peerRuns f.staged ≠ [] → sendRuns (dealEpoch t f.deal) t (peerRuns f.staged) = some (z, ids) →
      exec (.writeOutEnd st) s = .next (putFlight z { f with phase := .peer ids }) ∧
      z.memories = s.memories ∧ z.host0 = s.host0 ∧ z.host1 = s.host1)

/-- A staged run that no key enciphers stores its bytes where it says, and every other byte of device memory, operand areas and hosts reads as
before. For every state, every flight, every write-out and every staged run of it with no sealing: a run for device memory that is not
poisoned and not behind a far link that is down stores its i-th byte at pa + i; a run for an operand area at that area's offset; a run for a
host that takes it at the host's address. Every byte of every memory outside those addresses reads as before, whatever becomes of the run.
Rules: R107, R167, R168. -/
def Obligations.AWriteOutStoresOnlyItsBytes : Prop :=
  ∀ (s : State) (f : Flight) (w : SWrite) (cov : List (Nat × Nat)), w.enc = none →
    let t := (writeOne cov f s w).1
    (∀ pa, w.loc = .mem pa →
      (∀ a, a < pa ∨ pa + w.data.length ≤ a → memGet t.memories.mem a = memGet s.memories.mem a) ∧
      (farDown s pa = false → (clusterBase ≤ pa ∨ anyPoison s pa w.data.length = false) →
        ∀ i, i < w.data.length → memGet t.memories.mem (pa + i) = w.data.getD i 0#8) ∧
      t.memories.areas = s.memories.areas ∧ t.host0 = s.host0 ∧ t.host1 = s.host1) ∧
    (∀ n off, w.loc = .area n off →
      (∀ a, a < areaAt n + off ∨ areaAt n + off + w.data.length ≤ a → memGet t.memories.areas a = memGet s.memories.areas a) ∧
      (∀ i, i < w.data.length → memGet t.memories.areas (areaAt n + off + i) = w.data.getD i 0#8) ∧
      t.memories.mem = s.memories.mem ∧ t.host0 = s.host0 ∧ t.host1 = s.host1) ∧
    (∀ port addr, w.loc = .host port addr →
      (∀ p a, ((p = 0) ≠ (port = 0)) ∨ a < addr ∨ addr + w.data.length ≤ a → memGet (hostOf t p).mem a = memGet (hostOf s p).mem a) ∧
      (portLive s port = true → hostRefuses s port addr w.data.length = false →
        ∀ i, i < w.data.length → memGet (hostOf t port).mem (addr + i) = w.data.getD i 0#8) ∧
      t.memories = s.memories)

/-- DRAIN_COMPLETE ends an action whose wait is over, and changes nothing while a command that it waits for still runs. For a command that waits
as an action of the hub: when no command that it waits for is left, exec answers the ended action: an address space freed with no buffered
entry of it left, a shoe's entry freed, segments reassigned, a context's pages and record freed or trimmed, an adapter's range zeroed and
freed, or a key slot zeroed and its segments with it; then the completion with S_OK. Else the state stands. Rules: R145, R226, R232, R270,
R318, R390, R419. -/
def Obligations.DrainCompleteEndsTheAction : Prop :=
  ∀ (s : State) (cid : Nat) (f : Flight) (d : Drain) (on : List Nat), serving s = true → flightOf s cid = some f → f.phase = .draining d on →
    (drainDone s d on = true → exec (.drainComplete cid) s = .next (finishDrain s f d)) ∧
    (drainDone s d on = false → exec (.drainComplete cid) s = .next s) ∧
    (∀ a, d = .asidDestroy a → (∀ e ∈ (drainEffect s d).trans.level1, ∀ l ∈ e.2, l.asid ≠ a) ∧
      (∀ e ∈ (drainEffect s d).trans.level2, ∀ l ∈ e.2, l.asid ≠ a) ∧ (asidRec (drainEffect s d) a).state = 0) ∧
    (∀ n, d = .shoeDestroy n → shoeOf (drainEffect s d) n = freeShoe ∧ ∀ m, m ≠ n → shoeOf (drainEffect s d) m = shoeOf s m) ∧
    (∀ k, d = .keySlot k → tabFind (drainEffect s d).keys.slots k = none)

/-- An invalidation removes every selected leaf and cached node, pinned ones too, and no other. For every state and every test of leaves and of
cached nodes, after the removal a leaf is in engine e's buffer (a cluster's, a walker cache) if and only if it was there and the test does
not select it, pinned or not; address spaces, memory and everything else stand. That the command's completion waits for the commands that
hold a removed entry is another statement. Rule: R232. -/
def Obligations.InvalidationRemovesExactlyTheNamedEntries : Prop :=
  ∀ (s : State) (leaf : Leaf → Bool) (node : NonLeaf → Bool) (k : Nat) (l : Leaf) (n : NonLeaf),
    let t := invalWhere s leaf node
    ((∃ e ∈ t.trans.level1, e.1 = k ∧ l ∈ e.2) ↔ (∃ e ∈ s.trans.level1, e.1 = k ∧ l ∈ e.2) ∧ leaf l = false) ∧
    ((∃ e ∈ t.trans.level2, e.1 = k ∧ l ∈ e.2) ↔ (∃ e ∈ s.trans.level2, e.1 = k ∧ l ∈ e.2) ∧ leaf l = false) ∧
    ((∃ e ∈ t.trans.walkers, e.1 = k ∧ n ∈ e.2) ↔ (∃ e ∈ s.trans.walkers, e.1 = k ∧ n ∈ e.2) ∧ node n = false) ∧
    t.trans.asids = s.trans.asids ∧ { t with trans := s.trans } = s

/-- sy.signal commits at the end of its checks, completes with its own signal, and then posts VALUE2 to TARGET2 if that is not 0. When sy.signal
begins, its checks pass and the parameter block that it read is p, exec answers the completed state, in which its ticket has entered and its
record and own signal are posted, and then, if bytes 0-7 of p are not 0, the 8 bytes of VALUE2 posted to TARGET2 under the rules of its own
signal. Rules: R264, R272. -/
def Obligations.SySignalPostsBothSignals : Prop :=
  ∀ (st : Start) (s t : State) (f : Flight) (n : Nat) (log : Log) (p : List Byte),
    Slice0.Runs .hub 0x8001 sySignalBody st s t f (.noop n) log → log.block = p →
    (fld p 0 8 = 0 → exec (.sySignal st) s = .next (commitComplete t f 0 0)) ∧
    (fld p 0 8 ≠ 0 → exec (.sySignal st) s = .next (postSignal (commitComplete t f 0 0) f (fld p 0 8) (fld p 8 8)))

/-- sy.wait watches its word; a holding comparison commits it with the word read, and a passed TIMEOUT ends it with S_TIMEOUT. When sy.wait (or
kn.shoe CREATE whose tail word lies on a peer) begins and its body waits, exec answers the state in which it waits in that phase. For a
command that watches: SY_WAIT_SATISFIED commits and completes it with bits 31-0 of the word if the word is not poisoned and the comparison
holds on it as it now reads, and leaves the state if it does not hold; SY_WAIT_TIMEOUT completes it with S_TIMEOUT and those bits if TIMEOUT
is not 0, that many front-end steps have passed since the watch began and the comparison does not hold, and else leaves the state. Rules:
R57, R269, R273, R274. -/
def Obligations.SyWaitWatchesUntilItsComparisonOrTimeout : Prop :=
  (∀ (st : Start) (s t u : State) (f : Flight) (ph : Phase) (n : Nat) (log : Log),
    let w : State := putFlight (Slice0.seen u f log) { Slice0.noted t f log n with phase := ph, units := ((flightOf u f.cid).map (·.units)).getD 0 }
    (Slice0.Runs .hub 0x8002 syWaitBody st s t f (.wait u ph n) log → exec (.syWait st) s = .next w) ∧
    (Slice0.Runs .hub 0xF001 knShoeCreateBody st s t f (.wait u ph n) log → exec (.knShoeCreate st) s = .next w)) ∧
  (∀ (s : State) (cid : Nat) (f : Flight) (pa value cmp timeout since last : Nat),
    serving s = true → flightOf s cid = some f → f.phase = .watch pa value cmp timeout since last →
    let word := leNat (memRead s.memories.mem pa 8)
    let holds : Prop := (cmp = 0 ∧ value ≤ word) ∨ (cmp = 1 ∧ word = value) ∨ (2 ≤ cmp ∧ word ≠ value)
    let passed : Nat := (s.steps.frontEnd + 2 ^ 64 - since) % 2 ^ 64
    (isPoisoned s (unitOf pa) = false → holds → exec (.syWaitSatisfied cid) s = .next (commitComplete s f (low 32 word) 0)) ∧
    (isPoisoned s (unitOf pa) = false → ¬ holds → exec (.syWaitSatisfied cid) s = .next s) ∧
    (timeout ≠ 0 → timeout ≤ passed → ¬ holds → exec (.syWaitTimeout cid) s = .next (complete s f sTimeout (low 32 word) 0)) ∧
    (timeout = 0 ∨ passed < timeout ∨ holds → exec (.syWaitTimeout cid) s = .next s))

/-- A host doorbell sets PENDING of a LIVE shoe whose DB_PORTS has the port's bit, and is otherwise ignored. A doorbell with no writes before
it, while the device serves and the port is live: if the shoe is LIVE and the port's bit of DB_PORTS is 1, exec answers the state in which
that shoe's PENDING is set and every other shoe and all other state stand; else the state stands. Bytes that the host wrote into its own
memory before it rang are the row's other operand and land in that memory first. Rule: R249. -/
def Obligations.HostDoorbellSetsPendingOfALiveShoe : Prop :=
  ∀ (s : State) (port shoe : Nat), serving s = true → portLive s port = true → port < 2 →
    let rung : Prop := (shoeOf s shoe).state = 1 ∧ (shoeOf s shoe).dbPorts.getLsbD port = true
    (rung → ∃ t, exec (.hostDoorbell port shoe []) s = .next t ∧ shoeOf t shoe = { shoeOf s shoe with pending := true } ∧
      (∀ n, n ≠ shoe → shoeOf t n = shoeOf s n) ∧ { t with shoes := s.shoes } = s) ∧
    (¬ rung → exec (.hostDoorbell port shoe []) s = .next s) ∧
    (∀ ws, exec (.hostDoorbell port shoe ws) s =
      exec (.hostDoorbell port shoe []) (ws.foldl (fun s w => hostPut s w.port w.addr w.data) s))

/-- A turn serves the next shoe, real-time first, then kernel, then user: it reads the tail word and takes the slots up to it, or stops a shoe
that runs ahead. With no shoe to serve the state stands. Else, with n the next shoe, h its entry with PENDING cleared (where the turn begins
and does not go on with a peer's bytes), its entry readable and its tail word read: if the tail is more than the ring's slots ahead of HEAD,
the shoe stops with cause 0x01; else the slots are fetched, batch by batch, and exec answers the state that they give, with the words and
slots asked of peers forgotten, when the turn ends because no slot is left; when it ends because 256 commands are in flight the shoe stays
PENDING. For every state: the shoe that nextShoe names is in the table, LIVE, PENDING or in a turn that goes on, waits for no peer and has
fewer than 256 commands in flight. If any real-time shoe can be served, the one named is real-time; if none can and a kernel shoe can, it is
a kernel shoe. Its predecessor in its class is the one last served: no shoe of its class that can be served lies between the last served and
it, when its number is the higher. Rules: R251, R252, R253. -/
def Obligations.FrontEndServesTheNextShoeForOneTurn : Prop :=
  (∀ (s : State) (n : Nat) (last : Nat × Nat × Nat), nextShoe s = some (n, last) →
    ∃ h, (n, h) ∈ s.shoes.tab ∧ h.state = 1 ∧ (h.pending = true ∨ h.resume = true) ∧ h.asked = [] ∧ inflight s n < 256 ∧
      ((∃ e ∈ s.shoes.tab, servable s 2 e.1 e.2 = true) → h.cls = 2) ∧
      ((∀ e ∈ s.shoes.tab, servable s 2 e.1 e.2 = false) → (∃ e ∈ s.shoes.tab, servable s 0 e.1 e.2 = true) → h.cls = 0) ∧
      (h.cls = 2 ∨ h.cls = 0 ∨ h.cls = 1) ∧
      (s.shoes.tab.Pairwise (fun a b => a.1 < b.1) → h.cls = 2 → ∀ e ∈ s.shoes.tab, servable s 2 e.1 e.2 = true →
        s.shoes.lastServed.2.2 < e.1 → e.1 < n → False)) ∧
  (∀ (s : State), serving s = true →
    (nextShoe s = none → exec (.shoeFetch []) s = .next s) ∧
    (∀ n last w, nextShoe s = some (n, last) →
      let s2 := takeTurn s n last
      let h := shoeOf s2 n
      let k := slotsTo h (fld w 0 4)
      let s3 := putShoe s2 n { h with tail := fld w 0 4 }
      entryLost s n = false → fetchRead s2 h h.tailPtr 8 = .ok w →
      (2 ^ h.log2 < k → exec (.shoeFetch []) s = .next (stopShoe s3 n 0x01 h.tailPtr)) ∧
      (k ≤ 2 ^ h.log2 → ∀ u,
        (fetchSlots n (k + 1) 0 s3 = some (u, .idle) →
          exec (.shoeFetch []) s = .next (modShoe u n fun h => { h with asked := [], got := [], resume := false })) ∧
        (fetchSlots n (k + 1) 0 s3 = some (u, .full) →
          exec (.shoeFetch []) s = .next (modShoe u n fun h => { h with pending := true, asked := [], got := [], resume := false })))))

/-- Placement takes the first ready command in the order of R295 onto the lowest engine that is free, present, powered, and of its shoe's set
and side of the ante. While the device serves, no ready command is left behind by a failed fence, and the first ready command f has a free
engine: n is of its shoe's set, present, powered and not pending, of the ante exactly if f is real-time, runs no command and is held by no
mover, and is the lowest such; the placed state leaves every other command as it is, but that an action waits for f's earlier attempt no
more; and if nothing else is to be placed then, exec answers that state, settled. If nothing is to be placed at all, exec answers the
settled state. Rules: R247, R260, R295, R296. -/
def Obligations.PlacementGivesTheLowestFreeAllowedEngine : Prop :=
  ∀ (s : State), serving s = true →
    (placeNext s = none → exec .commandPlacement s = .next (settle s)) ∧
    (∀ f rest n, failedWait s = none → readyOrder s = f :: rest → unplaceable s f = none → freeEngineFor s f = some n →
      (n < 64 ∧ (shoeOf s f.shoe).engines.getLsbD n = true ∧ engineOpen s n = true ∧ isAnte s n = (f.cls == 2) ∧
        (∀ g ∈ s.flights.list, g.place = .engine n → onUnit g = false) ∧ moverHolds s n = false ∧
        (∀ m, m < n → m ∈ allowedEngines s f → engineFree s m = false)) ∧
      (∀ g ∈ s.flights.list, g.cid ≠ f.cid → (match g.phase with
        | .draining d on => { g with phase := .draining d (on.filter fun c => c != f.cid) } ∈ (placeOn s f n).flights.list
        | _ => g ∈ (placeOn s f n).flights.list)) ∧
      (placeNext (placeOn s f n) = none → exec .commandPlacement s = .next (settle (placeOn s f n))))

/-- When the engine's command is within 2,048 steps of its S, the engine's prefetch entries become the lines of the command named next. While
the device serves and engine n has r, started or past its commit point, with measured steps plus 2,048 at least its S, and f is the command
that would take the engine, exec of NEXT_COMMAND_NAMED answers the state in which the entries of engine n are the lines of f's first
operand, f is the command named for n, and all other state stands. Before that point, or with no such command, the state stands. Rules:
R157, R159, R297. -/
def Obligations.NamingACommandPrefetchesItsLines : Prop :=
  ∀ (s : State) (n : Nat) (r : Flight), serving s = true →
    s.flights.list.find? (fun f => f.place == .engine n && (isStarted f || isCommitted f)) = some r →
    (measuredNow s r + 2048 < r.cost → exec (.nextCommandNamed n) s = .next s) ∧
    (nextFor s n = none → exec (.nextCommandNamed n) s = .next s) ∧
    (∀ f, r.cost ≤ measuredNow s r + 2048 → nextFor s n = some f →
      ∃ t, exec (.nextCommandNamed n) s = .next t ∧
        t.memories.prefetch = s.memories.prefetch.filter (fun p => p.engine != n) ++ prefetchLines s n f ∧
        t.memories.named = tabPut s.memories.named n f.cid ∧
        { t with memories := { t.memories with prefetch := s.memories.prefetch, named := s.memories.named } } = s)

/-- A command with FENCE_BEFORE does not start while a command fetched before it from its shoe has no final status; one without the flag may
start. A command in flight has not reached its final status. For every state and every command f with FENCE_BEFORE set that waits to start,
while some command fetched earlier from the same shoe is in flight: f is not ready and so is not in the order from which the dealer places,
and each hub row of f leaves the state as it is while the device serves. A command of the shoe without the flag, and with no WAIT_FENCE, has
its fences ready whatever is in flight. Rule: R259. -/
def Obligations.FenceBeforeHoldsACommand : Prop :=
  (∀ (s : State) (f g : Flight), hasFence f.cmd = true → g ∈ s.flights.list → g.shoe = f.shoe → g.seq < f.seq →
    isReady s f = false ∧ f ∉ readyOrder s ∧
    (∀ r ∈ Slice0.actRows ++ Slice0.waitRows, ∀ st : Start, flightOf s st.cid = some f → f.cmd.opcode = r.op →
      exec (r.row st) s = .next s)) ∧
  (∀ (s : State) (f : Flight), hasFence f.cmd = false → f.cmd.waitFence = 0 → fencesOf s f = .ready)

/-- WAIT_FENCE d waits for the command fetched d places earlier; S_OK or S_DUPLICATE lets the command go on, any other status ends it with
S_DEPENDENCY. For a command without FENCE_BEFORE and with WAIT_FENCE d not 0: while the command d places before it in its shoe is in flight
the fences wait; once it is not, and the status ring holds its status first, the fences are ready for S_OK and S_DUPLICATE and failed with
that status for any other, and then a hub row of the command completes it with S_DEPENDENCY and the earlier status as DETAIL; if fewer than
d commands were fetched before it, the fences are ready. Rules: R260, R265. -/
def Obligations.WaitFenceWaitsForTheEarlierStatus : Prop :=
  ∀ (s : State) (f : Flight), hasFence f.cmd = false → f.cmd.waitFence ≠ 0 →
    (f.seq < f.cmd.waitFence → fencesOf s f = .ready) ∧
    (∀ g ∈ s.flights.list, g.shoe = f.shoe → g.seq + f.cmd.waitFence = f.seq → fencesOf s f = .wait) ∧
    (∀ q st, f.cmd.waitFence ≤ f.seq → (∀ g ∈ s.flights.list, g.shoe = f.shoe → g.seq + f.cmd.waitFence ≠ f.seq) →
      (shoeOf s f.shoe).ring.find? (fun e => e.1 == f.seq - f.cmd.waitFence) = some (q, st) →
      ((st = sOk ∨ st = sDuplicate) → fencesOf s f = .ready) ∧
      (st ≠ sOk → st ≠ sDuplicate → fencesOf s f = .failed st ∧
        ∀ r ∈ Slice0.actRows ++ Slice0.waitRows, ∀ start : Start, serving s = true → flightOf s start.cid = some f →
          f.cmd.opcode = r.op → f.phase = .waiting →
          exec (r.row start) s = .next (complete s f sDependency st 0)))

namespace Sys2Proof.Slice0

/-- A mailbox command: its row and its specification. -/
structure MbRow where
  row  : MbReq → Instr
  spec : MbSpec

/-- The mailbox commands of Table 17-11 and of chapter 19, with Table 17-15's split of their codes into rows. -/
def mbRows : List MbRow :=
  [⟨.mbHello, helloSpec⟩, ⟨.mbNonce, nonceSpec⟩, ⟨.mbOwnerClaim, claimSpec⟩, ⟨.mbOwnerTake, takeSpec⟩, ⟨.mbOwnerTransfer, transferSpec⟩,
   ⟨.mbOwnerMode, modeSpec⟩, ⟨.mbCertGet, certSpec⟩, ⟨.mbAttest, attestSpec⟩, ⟨.mbAttestSession, sessionSpec⟩, ⟨.mbUnitsGet, unitsSpec⟩,
   ⟨.mbRetireAck, retireAckSpec⟩, ⟨.mbEventConfig, eventConfigSpec⟩, ⟨.mbShoeInit, shoeInitSpec⟩, ⟨.mbKittyConfig, kittyConfigSpec⟩]
  ++ [⟨.mbKittyCollect, kittyCollectSpec⟩, ⟨.mbKittyRelease, kittyReleaseSpec⟩, ⟨.mbFarList, farListSpec⟩, ⟨.mbFarMap, farMapSpec⟩,
   ⟨.mbVaultList, vaultListSpec⟩, ⟨.mbPtmConfig, ptmConfigSpec⟩, ⟨.mbFwStage, fwStageSpec⟩, ⟨.mbFwStatus, fwStatusSpec⟩,
   ⟨.mbFwDiscard, fwDiscardSpec⟩, ⟨.mbReset, resetSpec⟩, ⟨.mbDebugChallenge, debugChallengeSpec⟩, ⟨.mbDebugUnlock, debugUnlockSpec⟩,
   ⟨.mbDebugPeek, peekSpec⟩, ⟨.mbDebugPoke, pokeSpec⟩]
  ++ [⟨.mbPwrLevel, levelSpec⟩, ⟨.mbPwrGate, gateSpec true⟩, ⟨.mbPwrUngate, gateSpec false⟩, ⟨.mbPwrStackActive, stackSpec false⟩,
   ⟨.mbPwrStackSelfRefresh, stackSpec true⟩, ⟨.mbPwrVaultActive, vaultPowerSpec false⟩, ⟨.mbPwrVaultStandby, vaultPowerSpec true⟩,
   ⟨.mbPwrLanes, lanesSpec⟩, ⟨.mbPwrPortUp, portSpec false⟩, ⟨.mbPwrPortDown, portSpec true⟩, ⟨.mbPwrCap, capSpec⟩, ⟨.mbTelemRead, telemSpec⟩]

/-- The payload of a request, as long as its LENGTH says. -/
def payloadOf (rq : MbReq) : List Byte := padTo rq.length rq.payload

/-- A request of this row reaches the Heldun on a live port of a serving device. -/
structure Sent (s : State) (r : MbRow) (rq : MbReq) : Prop where
  served : serving s = true
  port   : rq.port < 2
  live   : portLive s rq.port = true
  mine   : r.spec.mine (payloadOf rq) = true

/-- Its port serves no other request, and its header is well formed. -/
structure Heard (s : State) (r : MbRow) (rq : MbReq) : Prop extends Sent s r rq where
  idle   : (mboxOf s rq.port).busy = false
  rsv    : rq.rsv = 0
  length : rq.length ≤ 4064

/-- It also passes steps 2 and 3 of R446: a negotiation exists or is asked for, and no request of the cache has its TXN. -/
structure Fresh (s : State) (r : MbRow) (rq : MbReq) : Prop extends Heard s r rq where
  hello : (mboxOf s rq.port).major.isSome = true ∨ r.spec.code = 1
  fresh : rq.txn = 0 ∨ ∀ e ∈ (mboxOf s rq.port).cache, e.txn ≠ rq.txn

/-- A device reset that MB_RESET commanded while the other port's request was served begins when no request is served any more (R461). -/
def dueReset (t : State) : State := if t.heldun.resetDue && !mailboxBusy t then fullStart t else t

/-- The response written, LAST_TXN and DONE set, BUSY cleared, vector 0 sent, and the response entered in the cache of 64 unless TXN is 0 or
the command is MB_HELLO. -/
def replied (t : State) (r : MbRow) (rq : MbReq) (result detail : Nat) (payload : List Byte) : State :=
  let u := setMbox t rq.port { mboxOf t rq.port with busy := false }
  let bs := responseOf u r.spec.code rq.txn result detail payload
  dueReset (respond (cacheReply u rq.port r.spec.code rq (sha384 (payloadOf rq)) bs) rq.port rq.txn bs)

end Sys2Proof.Slice0

/-- Each mailbox request answers one response: with the result of its first failing check and nothing executed, or of its execution. For each of
the 40 mailbox rows and a request that reaches the Heldun: while its port serves another request, OVERRUN is set and nothing executes. Else
a header with an RSV byte or too long a LENGTH, and a command before any negotiation, are answered with MR_FORMAT and MR_NO_HELLO and enter
no cache. A request that passes steps 1 to 3 and fails a check of steps 4 to 7 is answered with that result, executes nothing and enters the
cache. One that passes is executed: exec answers the executed state with the response written and cached, after which MB_RESET starts the
device, at once or when the other port's request has its response. A request that waits for a board peer's word (MB_SHOE_INIT) leaves its
port BUSY and has its response later. Rules: R442, R443, R444, R445, R446, R447, R452, R461. -/
def Obligations.MailboxRequestsAreCheckedServedAndAnswered : Prop :=
  ∀ r ∈ Slice0.mbRows, ∀ (s : State) (rq : MbReq),
    (Slice0.Sent s r rq → (mboxOf s rq.port).busy = true →
      exec (r.row rq) s = .next (setMbox s rq.port { mboxOf s rq.port with overrun := true })) ∧
    (Slice0.Sent s r rq → (mboxOf s rq.port).busy = false → (rq.rsv ≠ 0 ∨ 4064 < rq.length) →
      ∃ d, exec (r.row rq) s = .next (respond s rq.port rq.txn (responseOf s r.spec.code rq.txn 3 (2 ^ 31 + d) []))) ∧
    (Slice0.Heard s r rq → (mboxOf s rq.port).major = none → r.spec.code ≠ 1 →
      exec (r.row rq) s = .next (respond s rq.port rq.txn (responseOf s r.spec.code rq.txn 1 0 []))) ∧
    (Slice0.Fresh s r rq → ∀ result detail, mbChecks r.spec s rq (Slice0.payloadOf rq) = some (result, detail) →
      exec (r.row rq) s = .next (Slice0.replied s r rq result detail [])) ∧
    (Slice0.Fresh s r rq → mbChecks r.spec s rq (Slice0.payloadOf rq) = none →
      ∀ d, r.spec.run s rq.port (Slice0.payloadOf rq) = some d →
        serving d.state = true →
        let t := Slice0.replied d.state r rq d.result d.detail d.payload
        (d.begun = none → d.reset = false → exec (r.row rq) s = .next t) ∧
        (d.begun = none → d.reset = true → mailboxBusy t = false → exec (r.row rq) s = .next (fullStart t)) ∧
        (d.begun = none → d.reset = true → mailboxBusy t = true →
          exec (r.row rq) s = .next { t with heldun := { t.heldun with resetDue := true } }) ∧
        (∀ id, d.begun = some id → exec (r.row rq) s = .next (setMbox { d.state with shoes := { d.state.shoes with init := some (id, rq) } }
          rq.port { mboxOf d.state rq.port with busy := true })))

/-- A request whose TXN is in the reply cache executes nothing: the same request gets its cached response with REPLAYED, another
MR_TXN_CONFLICT. For each mailbox row and a request with TXN not 0 that passes steps 1 and 2 of R446 and whose TXN matches the cache entry
e: if its command code, LENGTH and payload digest match e's, exec answers the state in which e's response is written with byte 8 of the
header, RFLAGS, set to REPLAYED; else MR_TXN_CONFLICT with the cached COMMAND as DETAIL. Nothing executes: whatever response is written,
only the port's response page, LAST_TXN and DONE and the device's output change. Rule: R448. -/
def Obligations.MailboxRepeatsExecuteNothing : Prop :=
  ∀ r ∈ Slice0.mbRows, ∀ (s : State) (rq : MbReq) (e : Reply), Slice0.Heard s r rq →
    ((mboxOf s rq.port).major.isSome = true ∨ r.spec.code = 1) → rq.txn ≠ 0 →
    (mboxOf s rq.port).cache.find? (fun e => e.txn == rq.txn) = some e →
    let same : Prop := e.command = r.spec.code ∧ e.length = rq.length ∧ e.digest = sha384 (Slice0.payloadOf rq)
    (same → exec (r.row rq) s = .next (respond s rq.port rq.txn (e.response.take 8 ++ [1#8] ++ e.response.drop 9))) ∧
    (¬ same → exec (r.row rq) s = .next (respond s rq.port rq.txn (responseOf s r.spec.code rq.txn 8 e.command []))) ∧
    (∀ bs, let t := respond s rq.port rq.txn bs
      { t with heldun := s.heldun, out := s.out } = s ∧
        mboxOf t rq.port = { mboxOf s rq.port with response := bs, lastTxn := rq.txn, done := true } ∧
        (∀ q, q < 2 → q ≠ rq.port → mboxOf t q = mboxOf s q))

/-- An owner-only request of a host that is not the owner answers MR_ROLE and executes nothing. For each mailbox row whose role is owner, and a
request offered at the port's negotiation with its payload's length that passes steps 1 to 5 of R446: if its port does not hold the owner
role, in particular while no host does, exec answers MR_ROLE with DETAIL 0xFFFF_FFFF; unless a device reset waits for this response, nothing
but the mailbox state and the device's output changes, and OWNER stays. For a row that needs a right, an observer without the right gets
MR_ROLE with its bit. Rules: R444, R446, R449, R450. -/
def Obligations.OwnerCommandsNeedTheOwnerRole : Prop :=
  ∀ r ∈ Slice0.mbRows, ∀ (s : State) (rq : MbReq), Slice0.Fresh s r rq → r.spec.code ≠ 1 →
    ((mboxOf s rq.port).major = some 2 ∨ r.spec.major1 = true) → 1 ≤ rq.minor → rq.minor ≤ minorOf (mboxOf s rq.port) (familyOf r.spec.code) →
    r.spec.lengths rq.length = true → s.heldun.owner ≠ some rq.port →
    (r.spec.role = .owner → exec (r.row rq) s = .next (Slice0.replied s r rq 5 0xFFFFFFFF [])) ∧
    (∀ b, r.spec.role = .right b → s.vault.observerRights.getLsbD b = false →
      exec (r.row rq) s = .next (Slice0.replied s r rq 5 b [])) ∧
    (∀ res d, s.heldun.resetDue = false → let t := Slice0.replied s r rq res d []
      { t with heldun := s.heldun, out := s.out } = s ∧ t.heldun.owner = s.heldun.owner)

/-- The mailbox reads answer their lists and change nothing but the mailbox state and the device's output. For MB_CERT_GET, MB_UNITS_GET,
MB_FAR_LIST, MB_VAULT_LIST, MB_FW_STATUS and MB_TELEM_READ, every state in which no device reset waits for a response, and every request:
exec answers a next state that differs from the one before in the mailbox state and the output at most. A served MB_UNITS_GET answers the
256-byte unit map, MB_FAR_LIST the four expander records in order, and MB_TELEM_READ the telemetry record. Rules: R29, R177, R189, R406,
R460, R506. -/
def Obligations.MailboxReadsChangeNothingElse : Prop :=
  (∀ r ∈ Slice0.mbRows.filter (fun r => [0x2001, 0x3001, 0x6001, 0x6003, 0x9002, 0x8010].contains r.spec.code), ∀ (s : State) (rq : MbReq),
    s.heldun.resetDue = false → ∃ t, exec (r.row rq) s = .next t ∧ { t with heldun := s.heldun, out := s.out } = s) ∧
  (∀ (s : State) (rq : MbReq),
    (Slice0.Fresh s ⟨.mbUnitsGet, unitsSpec⟩ rq → mbChecks unitsSpec s rq (Slice0.payloadOf rq) = none →
      exec (.mbUnitsGet rq) s = .next (Slice0.replied s ⟨.mbUnitsGet, unitsSpec⟩ rq 0 0 (mapBytes s))) ∧
    (Slice0.Fresh s ⟨.mbFarList, farListSpec⟩ rq → mbChecks farListSpec s rq (Slice0.payloadOf rq) = none →
      exec (.mbFarList rq) s = .next (Slice0.replied s ⟨.mbFarList, farListSpec⟩ rq 0 0
        (expanderBytes s 0 ++ expanderBytes s 1 ++ expanderBytes s 2 ++ expanderBytes s 3))) ∧
    (Slice0.Fresh s ⟨.mbTelemRead, telemSpec⟩ rq → mbChecks telemSpec s rq (Slice0.payloadOf rq) = none →
      exec (.mbTelemRead rq) s = .next (Slice0.replied s ⟨.mbTelemRead, telemSpec⟩ rq 0 0 (telemetryBytes s))))

namespace Sys2Proof.Slice0

/-- A request of the SPDM responder, of code `code` and with `act` on its port's connection, answers on its own port. -/
def SpdmAnswers (row : Nat → List Byte → Instr) (code : Nat) (act : State → Mbox → List Byte → State × Mbox × List Byte) : Prop :=
  ∀ (s : State) (port : Nat) (body : List Byte), serving s = true → port < 2 → portLive s port = true → fld body 1 1 = code →
    let a := act s (mboxOf s port) body
    let t := send (setMbox a.1 port a.2.1) (.doe port a.2.2)
    exec (row port body) s = .next t ∧ (∀ q, q < 2 → q ≠ port → mboxOf t q = mboxOf s q) ∧ mboxOf t port = a.2.1 ∧
      t.memories = s.memories ∧ t.keys = s.keys ∧ t.vault = s.vault

/-- A request that needs agreed algorithms is answered by UnexpectedRequest while none are agreed, and changes nothing. -/
def SpdmNeedsAlgorithms (row : Nat → List Byte → Instr) (code : Nat) : Prop :=
  ∀ (s : State) (port : Nat) (body : List Byte), serving s = true → port < 2 → portLive s port = true → fld body 1 1 = code →
    (mboxOf s port).spdmAlgs = false →
    ∃ t, exec (row port body) s = .next t ∧ t.out = s.out ++ [.doe port (spdmError (spdmVer (mboxOf s port)) 4)] ∧ { t with out := s.out } = s

end Sys2Proof.Slice0

/-- An SPDM request answers on its own port's DOE mailbox; only GET_VERSION, then GET_CAPABILITIES, then NEGOTIATE_ALGORITHMS open the
connection. For each of the seven requests, on a live port of a serving device and with a body of the row's code: exec answers the state in
which what the row does with the port's connection is stored and its reply has left on that port; the other port's mailbox state, the vault,
keys and memory stand. A request that needs agreed algorithms, on a port where none are agreed, changes nothing and is answered by an ERROR.
The message layouts are the model's (PRESUMED, log entry 33). Rule: R416. -/
def Obligations.SpdmRequestsAnswerOnTheirPort : Prop :=
  Slice0.SpdmAnswers .getVersion 0x84 versionAct ∧
  Slice0.SpdmAnswers .getCapabilities 0xE1 (spdmNeed (fun m => m.spdm == 0x10) capabilitiesAct) ∧
  Slice0.SpdmAnswers .negotiateAlgorithms 0xE3 (spdmNeed (fun m => decide (0x12 ≤ m.spdm) && !m.spdmAlgs) algorithmsAct) ∧
  Slice0.SpdmAnswers .getDigests 0x81 (spdmNeed spdmReady digestsAct) ∧
  Slice0.SpdmAnswers .getCertificate 0x82 (spdmNeed spdmReady certificateAct) ∧
  Slice0.SpdmAnswers .challenge 0x83 (spdmNeed spdmReady challengeAct) ∧
  Slice0.SpdmAnswers .getMeasurements 0xE0 (spdmNeed spdmReady measurementsAct) ∧
  Slice0.SpdmNeedsAlgorithms .getDigests 0x81 ∧ Slice0.SpdmNeedsAlgorithms .getCertificate 0x82 ∧
  Slice0.SpdmNeedsAlgorithms .challenge 0x83 ∧ Slice0.SpdmNeedsAlgorithms .getMeasurements 0xE0

/-- A write of 1 to DONE or OVERRUN of MB_STATUS clears it, EVT_HEAD takes its value, and a write to any other register without a row is
ignored. For a live port of a powered device whose BAR answers: a write of v to MB_STATUS clears OVERRUN if bit 2 of v is 1 and DONE if bit
1 is 1 and leaves each otherwise; a write to EVT_HEAD stores its low 32 bits; a write to any other offset leaves the state. The other port's
mailbox and everything outside the mailboxes stand. Rule: R441. -/
def Obligations.RegisterWritesClearBitsAndMoveEvtHead : Prop :=
  ∀ (s : State) (port off v : Nat), s.module.powered = true → port < 2 → 3 ≤ s.boot.step → portLive s port = true →
    ∃ t, exec (.registerWrite port off v) s = .next t ∧ { t with heldun := s.heldun } = s ∧
      (∀ q, q < 2 → q ≠ port → mboxOf t q = mboxOf s q) ∧
      (off = 0x2004 → (mboxOf t port).done = ((mboxOf s port).done && !v.testBit 1) ∧
        (mboxOf t port).overrun = ((mboxOf s port).overrun && !v.testBit 2) ∧ (mboxOf t port).evtHead = (mboxOf s port).evtHead) ∧
      (off = 0x200C → mboxOf t port = { mboxOf s port with evtHead := v % 2 ^ 32 }) ∧
      (off ≠ 0x2004 → off ≠ 0x200C → t = s)

namespace Sys2Proof.Slice0

/-- A command of the sideband: its row and its specification. -/
structure SbRow where
  row  : SbReq → Instr
  spec : SbSpec

/-- The commands of Table 22-5. -/
def sbRows : List SbRow :=
  [⟨.startRead, sbRead true startRecord⟩, ⟨.stopRead, sbRead true stopNow⟩, ⟨.tempRead, sbRead true tempNow⟩,
   ⟨.powerRead, sbRead true powerNow⟩, ⟨.statusRead, sbRead true statusNow⟩, ⟨.linkRead, sbRead true linksNow⟩,
   ⟨.installStage, installStageSpec⟩, ⟨.installCommit, installCommitSpec⟩, ⟨.installRead, installReadSpec⟩,
   ⟨.membersSet, membersSetSpec⟩, ⟨.expectSet, expectSetSpec⟩, ⟨.routeSet, routeSetSpec⟩, ⟨.epochPropose, epochProposeSpec⟩,
   ⟨.netPortSet, netPortSetSpec⟩, ⟨.qpSet, qpSpec 0⟩, ⟨.qpDestroy, qpSpec 1⟩, ⟨.mrSet, mrSpec 0⟩, ⟨.mrDestroy, mrSpec 1⟩]

end Sys2Proof.Slice0

/-- Each sideband request of a powered device answers one response frame: FORMAT, STATE or RANGE with nothing executed, or the command's own
result. For each of the 18 sideband rows and a powered device: a wrong length or a byte that must be 0 answers FORMAT; a command that needs
READY 1 answers STATE while the device does not serve; a field out of its range answers RANGE; none of the three changes any state but the
response. Otherwise the command runs, and exec answers its state with its result and payload in the frame. In this model FORMAT is tried
before STATE and STATE before RANGE (DESIGN CHOICE, log entry 45). Rules: R540, R541, R542. -/
def Obligations.SidebandRequestsAreCheckedServedAndAnswered : Prop :=
  ∀ r ∈ Slice0.sbRows, ∀ (s : State) (rq : SbReq), s.module.powered = true → r.spec.mine rq.payload = true →
    let formed : Prop := rq.len = rq.payload.length ∧ r.spec.lengths rq.payload.length = true ∧ r.spec.form rq.payload = true
    let open_ : Prop := r.spec.always = true ∨ serving s = true
    (¬ formed → exec (r.row rq) s = .next (sbAnswer s rq.seq 1 [])) ∧
    (formed → ¬ open_ → exec (r.row rq) s = .next (sbAnswer s rq.seq 3 [])) ∧
    (formed → open_ → r.spec.range rq.payload = false → exec (r.row rq) s = .next (sbAnswer s rq.seq 2 [])) ∧
    (formed → open_ → r.spec.range rq.payload = true →
      let a := r.spec.run s rq.payload
      exec (r.row rq) s = .next (sbAnswer a.2.1 rq.seq a.1 a.2.2)) ∧
    (∀ res bs, { sbAnswer s rq.seq res bs with sideband := { (sbAnswer s rq.seq res bs).sideband with response := s.sideband.response }, out := s.out } = s)

/-- What the sideband commands write: the staged record, the stored record and its domain, the route table, the network's ports, queue pairs and
regions. INSTALL_STAGE writes its bytes at its offset of the 2,136-byte staging copy and nothing else. INSTALL_COMMIT stores the staged
record only if it is one that R472 takes, and else is REFUSED and changes nothing. ROUTE_SET replaces all 32 routes and the route sequence.
NET_PORT_SET replaces its port's entry, QP_DESTROY and MR_DESTROY remove the entry named, MR_SET writes it; the other regions stand. The six
reads change nothing. Rules: R472, R482, R487, R541. -/
def Obligations.SidebandCommandsActOnTheirState : Prop :=
  (∀ (s : State) (p : List Byte), (installStageSpec.run s p).1 = 0 ∧
    (let t := (installStageSpec.run s p).2.1
     t.sideband.stage = (padTo 2136 s.sideband.stage).take (fld p 0 4) ++ p.drop 4 ++ (padTo 2136 s.sideband.stage).drop (fld p 0 4 + (p.length - 4)) ∧
       { t with sideband := { t.sideband with stage := s.sideband.stage } } = s)) ∧
  (∀ (s : State) (p : List Byte), let rec_ := padTo 2136 s.sideband.stage
    (installLegal s rec_ = true → (installCommitSpec.run s p).1 = 0 ∧ (installCommitSpec.run s p).2.1.vault.install = some rec_) ∧
    (installLegal s rec_ = false → installCommitSpec.run s p = (4, s, []))) ∧
  (∀ (s : State) (p : List Byte), let t := (routeSetSpec.run s p).2.1
    t.domain.routeSeq = fld p 0 4 ∧ ∀ i, i < 32 → routeOf t i =
      ⟨(fld p (4 + 4 * i) 4).testBit 29, fld p (4 + 4 * i) 4 / 2 ^ 24 % 32, fld p (4 + 4 * i) 4 % 2 ^ 16⟩) ∧
  (∀ (s : State) (p : List Byte), let t := (netPortSetSpec.run s p).2.1
    t = setNetPort s (fld p 0 1) { pfc := fld p 1 1, vlan := fld p 2 2, mac := fld p 4 6, ipv4 := fld p 12 4, ipv6 := fld p 16 16, paused := false }) ∧
  (∀ (s : State) (p : List Byte), tabFind ((qpSpec 1).run s p).2.1.net.qps (fld p 0 2) = none ∧
    tabFind ((qpSpec 0).run s p).2.1.net.qps (fld p 0 2) = some (qpFrom p)) ∧
  (∀ (s : State) (p : List Byte), tabFind ((mrSpec 0).run s p).2.1.net.mrs (fld p 0 2) = some (mrFrom p) ∧
    tabFind ((mrSpec 1).run s p).2.1.net.mrs (fld p 0 2) = none ∧
    ∀ m, m ≠ fld p 0 2 → ∀ a ∈ [0, 1], tabFind ((mrSpec a).run s p).2.1.net.mrs m = tabFind s.net.mrs m) ∧
  (∀ r ∈ Slice0.sbRows.take 6, ∀ (s : State) (p : List Byte), (r.spec.run s p).1 = 0 ∧ (r.spec.run s p).2.1 = s)

/-- The I3C common commands: a target without a dynamic address takes one, GETSTATUS and GETPID answer, and interrupts are enabled and disabled.
For a powered device: SETDASA at the static address 0x40 + POSITION, and ENTDAA, give a target that has no dynamic address the one named; a
target that has one keeps it. ENTDAA and GETPID send the provisioned ID, GETSTATUS two bytes whose bit 0 is the pending interrupt (PRESUMED,
log entry 46). EVENT_ENABLE and EVENT_DISABLE set and clear the enable of in-band interrupts. Nothing else changes. Rules: R539, R543. -/
def Obligations.I3cCommandsOnAPoweredDevice : Prop :=
  ∀ (s : State) (a : Nat), s.module.powered = true →
    (s.sideband.dynAddr = none →
      exec (.i3cSetdasa (0x40 + position s) a) s = .next { s with sideband := { s.sideband with dynAddr := some a } } ∧
      exec (.i3cEntdaa a) s =
        .next { s with sideband := { s.sideband with dynAddr := some a }, out := s.out ++ [.i3c (natBe 6 Config.provisionedId)] }) ∧
    (∀ b, s.sideband.dynAddr = some b →
      exec (.i3cSetdasa (0x40 + position s) a) s = .next s ∧ exec (.i3cEntdaa a) s = .next s) ∧
    (∀ st, st ≠ 0x40 + position s → exec (.i3cSetdasa st a) s = .next s) ∧
    exec .i3cGetstatus s = .next { s with out := s.out ++ [.i3c (natBe 2 (if s.sideband.pending = none then 0 else 1))] } ∧
    exec .i3cGetpid s = .next { s with out := s.out ++ [.i3c (natBe 6 Config.provisionedId)] } ∧
    exec .i3cEventEnable s = .next { s with sideband := { s.sideband with ibiOn := true } } ∧
    exec .i3cEventDisable s = .next { s with sideband := { s.sideband with ibiOn := false } }

/-- Which reset inputs begin a full start and which a port reset, what a full start leaves, and that a port reset affects its port only. Input
power that rises, RESET_N asserted and released, and a PCIe fundamental reset on the owner's port, or on either while READY is 2 or no owner
key is stored, begin a full start; any other fundamental reset, a hot reset and a Function Level Reset are a port reset. A full start ends
every command, leaves no shoe, context, adapter, key slot or owner, every byte of stacked memory 0, the epoch 0 and the cap 2,400 W, and
keeps the vault and the module's pins. A port reset clears its port's negotiation, cache, event ring, OVERRUN and DONE, its PORTS_LIVE bit,
and the owner role if its host held it; the other port, commands, shoes, contexts, memory, keys and the vault stand. Rules: R411, R477,
R526, R527, R528, R547. -/
def Obligations.FullStartsAndPortResets : Prop :=
  ∀ s : State,
    (s.module.powered = false →
      exec .powerOn s = .next (fullStart { s with module := { s.module with powered := true, rideThrough := false } })) ∧
    (s.module.powered = true → exec .powerOn s = .next s ∧
      exec .resetNAssert s = .next (fullStart { s with module := { s.module with resetLow := true } }) ∧
      (s.module.resetLow = true → exec .resetNRelease s = .next (fullStart { s with module := { s.module with resetLow := false } })) ∧
      ∀ port, port < 2 →
        let whole : Prop := s.heldun.owner = some port ∨ s.heldun.ready = 2 ∨ s.vault.ownerKey = none
        (whole → exec (.pcieFundamentalReset port) s = .next (fullStart s)) ∧
        (¬ whole → exec (.pcieFundamentalReset port) s = .next (portReset s port)) ∧
        exec (.pcieHotReset port) s = .next (portReset s port) ∧ exec (.functionLevelReset port) s = .next (portReset s port)) ∧
    (let t := fullStart s
     t.boot.step = 1 ∧ serving t = false ∧ t.flights.list = [] ∧ t.shoes.tab = [] ∧ t.kv.ctxs = [] ∧ t.adapters = [] ∧ t.keys.slots = [] ∧
       t.heldun.owner = none ∧ (∀ a, memGet t.memories.mem a = 0#8) ∧ t.domain.barrier.epoch = 0 ∧ t.power.cap = 2400 ∧
       t.vault = s.vault ∧ t.module.powered = s.module.powered ∧ t.module.resetLow = s.module.resetLow) ∧
    (∀ port, port < 2 → let t := portReset s port
      mboxOf t port = { mboxOf s port with major := none, minors := [], nonce := none, cache := [], overrun := false, done := false, ring := none } ∧
        (∀ q, q < 2 → q ≠ port → mboxOf t q = mboxOf s q) ∧ portLive t port = false ∧
        t.heldun.owner = (if s.heldun.owner = some port then none else s.heldun.owner) ∧
        t.flights = s.flights ∧ t.shoes = s.shoes ∧ t.kv = s.kv ∧ t.memories = s.memories ∧ t.keys = s.keys ∧ t.vault = s.vault)

/-- Each step of a start that meets no cause to stop is followed by the next; step 6 sets READY 1; a start that meets a cause stops with it. For
a start in progress with RESET_N high: a report whose cause may stop the step stops the start with that cause and DETAIL; else steps 1, 3, 4
and 5 are followed by the next step, step 2 reads the peg rows and is followed by step 3 with the bank that the ROM chose and stops with
cause 3 and the failed banks where none starts, and step 6 stops with cause 6, 7 or 8 if no engine, no stack channel or no walker is
present, and else sets READY 1 with MAP_SEQ 0 and clears the stop record. A start that has stopped does not serve. Rules: R20, R461, R529,
R534. -/
def Obligations.StartStepsRunInOrder : Prop :=
  ∀ (s : State) (rp : StepReport), starting s = true → s.module.resetLow = false →
    (causeAt s.boot.step rp.cause = true → exec (.startStepEnd rp) s = .next (failStart s rp.cause rp.detail)) ∧
    (causeAt s.boot.step rp.cause = false →
      ((s.boot.step = 1 ∨ s.boot.step = 3 ∨ s.boot.step = 4 ∨ s.boot.step = 5) →
        ∃ t, exec (.startStepEnd rp) s = .next t ∧ t.boot.step = s.boot.step + 1) ∧
      (s.boot.step = 2 → let u : State := readPegs { s with boot := { s.boot with atStart := s.vault.stopRec } }
        (∀ t, chooseBank u rp.bankBad = .ok t → exec (.startStepEnd rp) s = .next { t with boot := { t.boot with step := 3 } }) ∧
        (∀ failed, chooseBank u rp.bankBad = .error failed → exec (.startStepEnd rp) s = .next (failStart u 3 failed))) ∧
      (s.boot.step = 6 →
        (s.units.map.engines = 0#64 → exec (.startStepEnd rp) s = .next (failStart s 6 0)) ∧
        (s.units.map.engines ≠ 0#64 → s.units.map.channels = 0#256 → exec (.startStepEnd rp) s = .next (failStart s 7 0)) ∧
        (s.units.map.engines ≠ 0#64 → s.units.map.channels ≠ 0#256 → s.units.map.walkers = 0#32 →
          exec (.startStepEnd rp) s = .next (failStart s 8 0)) ∧
        (s.units.map.engines ≠ 0#64 → s.units.map.channels ≠ 0#256 → s.units.map.walkers ≠ 0#32 →
          ∃ t, exec (.startStepEnd rp) s = .next t ∧ serving t = true ∧ t.boot.step = 7 ∧ t.units.map.mapSeq = 0 ∧ t.vault.stopRec = none ∧
            t.memories = s.memories))) ∧
    (∀ c d, serving s = false → let t := failStart s c d
      t.boot.failed = true ∧ t.boot.cause = c ∧ t.boot.detail = d ∧ serving t = false ∧ t.module.alertLow = true)

/-- What the input, a converter trip, an OSFP plug and a host link do: the module turns off, rides through or stops fatally; ports become live
or not. A dropout, and a ride-through that expires, turn a powered module off, with no stop record and the vault as it was. Ride-through
itself is shown and work goes on, but a start in progress stops with cause 10; the return of the input ends it. A trip of rail 8 or 9 turns
the module off; of another rail the device stops through the fatal path with HUB_UE, UNIT_KIND 8 and INDEX 0x100 + the rail, and the rail is
off. A plug that asks for more than 15 W is not powered and its port reads 0 in PORTS_LIVE. A host link that goes down clears its bit and
one that trains sets it. Rules: R40, R527, R545, R547, R548. -/
def Obligations.InputRailsPlugsAndHostLinks : Prop :=
  ∀ s : State, s.module.powered = true →
    exec .inputDropout s = .next (turnOff s) ∧
    (s.module.rideThrough = true → exec .rideThroughExpiry s = .next (turnOff s)) ∧
    (s.module.rideThrough = false → exec .rideThroughExpiry s = .next s) ∧
    (let r : State := { s with module := { s.module with rideThrough := true } }
     (starting s = false → exec .rideThrough s = .next r) ∧ (starting s = true → exec .rideThrough s = .next (failStart r 10 0))) ∧
    exec .inputReturn s = .next { s with module := { s.module with rideThrough := false } } ∧
    (let t := turnOff s
     t.module.powered = false ∧ serving t = false ∧ t.boot.step = 0 ∧ t.vault = s.vault) ∧
    (∀ rail, (rail = 8 ∨ rail = 9 → exec (.converterTrip rail) s = .next (turnOff s)) ∧
      (rail ≤ 12 → rail ≠ 8 → rail ≠ 9 → ∃ t, exec (.converterTrip rail) s = .next t ∧ t.module.railsOff.getLsbD rail = true ∧
        { t with module := (fatalWith s 0x50 8 (0x100 + rail) 0 (rail ≠ 12)).module } = fatalWith s 0x50 8 (0x100 + rail) 0 (rail ≠ 12))) ∧
    (∀ port watts, port < 2 → ∃ t, exec (.osfpPlugInsert port watts) s = .next t ∧ t.module.osfp.getLsbD port = true ∧
      (15 < watts → t.module.osfpPowered.getLsbD port = false ∧ portLive t (4 + port) = false) ∧
      (watts ≤ 15 → s.power.portsDown.getLsbD (2 + port) = false → t.module.osfpPowered.getLsbD port = true)) ∧
    (∀ port, port < 2 → exec (.hostLinkDown port) s = .next (setPortLive s port false) ∧
      (1 ≤ s.boot.step → exec (.hostLinkUp port) s = .next (setPortLive s port true)))

/-- PTM uses the owner's port if its host has enabled PTM, else the other; a good response gives the time, a failed one leaves the last good
exchange. For a powered device, PTM_EXCHANGE on the port that R59 selects, when the port is new or PTM_INTERVAL hub steps have passed, sends
a request on it and waits; with no port enabled no port is used; else the state stands. For an exchange that waits on a port, a good
response makes the time VALID with its value, its port, the hub step and the exchange count one higher; a failed one ends the wait and
changes no time. PTM_ENABLE sets its port's enable; clearing that of the port in use ends its use, and nothing else changes. Rules: R59,
R60, R61. -/
def Obligations.PtmExchangesUseTheOwnersPort : Prop :=
  ∀ s : State, s.module.powered = true →
    (∀ p, ptmChoice s = some p →
      ((s.ptm.port ≠ some p ∨ 2 ^ s.ptm.log2Interval ≤ (hubNow s + 2 ^ 64 - s.ptm.lastStart) % 2 ^ 64) →
        ∃ t, exec .ptmExchange s = .next t ∧ t.out = s.out ++ [.ptmRequest p] ∧
          t.ptm = { s.ptm with port := some p, waiting := true, lastStart := hubNow s } ∧ { t with ptm := s.ptm, out := s.out } = s) ∧
      (s.ptm.port = some p → (hubNow s + 2 ^ 64 - s.ptm.lastStart) % 2 ^ 64 < 2 ^ s.ptm.log2Interval → exec .ptmExchange s = .next s)) ∧
    (ptmChoice s = none → exec .ptmExchange s = .next { s with ptm := { s.ptm with port := none, waiting := false } }) ∧
    (∀ o, o < 2 → s.heldun.owner = some o →
      (s.ptm.enabled.getLsbD o = true → ptmChoice s = some o) ∧
      (s.ptm.enabled.getLsbD o = false → s.ptm.enabled.getLsbD (1 - o) = true → ptmChoice s = some (1 - o))) ∧
    (∀ p time, s.ptm.waiting = true → s.ptm.port = some p →
      exec (.ptmResponse p time true) s = .next { s with ptm := { s.ptm with
        waiting := false, valid := true, goodPort := p, time := time % 2 ^ 64, seq := s.ptm.seq + 1, goodAt := hubNow s } } ∧
      exec (.ptmResponse p time false) s = .next { s with ptm := { s.ptm with waiting := false } }) ∧
    (∀ p on, p < 2 → ∃ t, exec (.ptmEnable p on) s = .next t ∧ t.ptm.enabled.getLsbD p = on ∧
      t.ptm.enabled.getLsbD (1 - p) = s.ptm.enabled.getLsbD (1 - p) ∧ { t with ptm := s.ptm } = s ∧
      { t.ptm with enabled := s.ptm.enabled } =
        (if on = false ∧ s.ptm.port = some p then { s.ptm with port := none, waiting := false } else s.ptm))

/-- A stack's refresh rate follows its sensor with hysteresis; a far link that goes down loses its ranges; a trained one waits for MB_FAR_MAP. A
stack's rate becomes 4x above 95 °C and 2x above 85 °C, falls from 4x only below 92 °C and to 1x only below 82 °C; the other stacks stand.
When a live far link goes down and no started command has an operand behind it, its mapped slots get STATE 3, its PORTS_LIVE bit clears, and
every byte outside their ranges stands. When it trains again, its bit is set, the slots stay in STATE 3 with the size now offered, and no
byte of memory changes. A channel copy that is done takes the band out for the next channel of the stack, if any: its copy then runs, unless
the channel failed and has nothing to copy. Rules: R164, R166, R172, R179, R458. -/
def Obligations.RefreshFarLinksAndChannelCopies : Prop :=
  (∀ (s : State) (k : Nat) (c : Int), k < 8 →
    let old := tabGet s.memories.refresh k 0
    ∃ t, exec (.stackTemperatureCrossing k c) s = .next t ∧
      { t with memories := { t.memories with refresh := s.memories.refresh } } = s ∧
      (∀ j, j ≠ k → tabGet t.memories.refresh j 0 = tabGet s.memories.refresh j 0) ∧
      (95 * 16 < c → tabGet t.memories.refresh k 0 = 2) ∧
      (92 * 16 ≤ c → c ≤ 95 * 16 → tabGet t.memories.refresh k 0 = if old = 2 then 2 else 1) ∧
      (85 * 16 < c → c < 92 * 16 → tabGet t.memories.refresh k 0 = 1) ∧
      (82 * 16 ≤ c → c ≤ 85 * 16 → tabGet t.memories.refresh k 0 = min old 1) ∧
      (c < 82 * 16 → tabGet t.memories.refresh k 0 = 0)) ∧
  (∀ (s : State) (port : Nat), serving s = true → port < 2 →
    (portLive s (2 + port) = false → exec (.farLinkDown port) s = .next s) ∧
    (portLive s (2 + port) = true → exec (.farLinkDown port) s = .next (farDownOp port s) ∧
      ((∀ f ∈ s.flights.list, isStarted f = true → ∀ k ∈ mappedSlots s port, k ∉ f.far) →
        portLive (farDownOp port s) (2 + port) = false ∧
        (∀ k ∈ mappedSlots s port, (expanderOf (farDownOp port s) k).state = 3 ∧ (expanderOf (farDownOp port s) k).trained = none) ∧
        (∀ a, (∀ k ∈ mappedSlots s port, ¬ ((expanderOf s k).base ≤ a ∧ a < (expanderOf s k).base + (expanderOf s k).sizeGib * 2 ^ 30)) →
          memGet (farDownOp port s).memories.mem a = memGet s.memories.mem a)))) ∧
  (∀ (s : State) (port : Nat) (offers : List FarOffer), serving s = true → port < 2 → portLive s (2 + port) = false →
    s.power.portsDown.getLsbD port = false →
    ∃ t, exec (.farLinkTrained port offers) s = .next t ∧ portLive t (2 + port) = true ∧ t.memories.mem = s.memories.mem ∧
      (∀ k, (expanderOf t k).state = (expanderOf s k).state ∧ (expanderOf t k).base = (expanderOf s k).base ∧
        (expanderOf t k).sizeGib = (expanderOf s k).sizeGib) ∧
      (∀ o, offers = [o] → o.slot / 2 = port → (expanderOf s o.slot).state = 3 →
        (expanderOf t o.slot).trained = some (if o.reject = 0 then o.sizeGib else 0))) ∧
  (∀ (s : State) (k c : Nat) (rest : List Nat), tabGet s.memories.copying k [] = c :: rest →
    ∃ t, exec (.channelCopyDone k) s = .next t ∧ t.memories.mem = s.memories.mem ∧
      (rest = [] → tabGet t.memories.copying k [] = [] ∧ t.memories.withdrawn = s.memories.withdrawn) ∧
      (∀ n r, rest = n :: r → n < 32 →
        (s.memories.lostChan.contains (32 * k + n) = false → tabGet t.memories.copying k [] = rest ∧
          tabGet t.memories.withdrawn k [] = tabGet s.memories.withdrawn k [] ++ [n]) ∧
        (s.memories.lostChan.contains (32 * k + n) = true → n ∈ tabGet t.memories.withdrawn k [])))

/-- A Binik port trains at the common version and the width of its lanes and is live if the records agree; a port that goes down clears its bit
and retrains. For a port that is down, with awake lanes, while the links train: with no common version it stays down and EV_LINK tells
VERSION; with one, at a device that knows its epoch and a port that has no earlier peer, exec answers the state in which the port has that
version and width and is live, with its TP_LIVE bit, or in probation, without it. For an open port: BINIK_PORT_DOWN takes it down, and with
no transfer unanswered on it the port is down, its bit clear and a training begun; a REPLAY that names no lane changes nothing until the
eighth, which takes the port down. Rules: R40, R466, R468, R470, R471, R475. -/
def Obligations.BinikPortsTrainAndGoDown : Prop :=
  (∀ (s : State) (port : Nat) (locked : BitVec 4) (low_ high : Nat) (rec_ : List Byte), linksTrain s = true → port < 16 →
    (linkOf s port).state = 0 → tpLive s port = false → (linkOf s port).peer = [] → awakeLanes s port ≠ 0 →
    widthOf (lanesUp s port locked).length ≠ 0 → s.domain.barrier.known = true →
    (commonVersion s low_ high = none → exec (.portTrained port locked low_ high rec_) s = .next (linkEvent s port linkVersion high)) ∧
    (∀ v, commonVersion s low_ high = some v → ∃ t, exec (.portTrained port locked low_ high rec_) s = .next t ∧
      (linkOf t port).protocol = v ∧ (linkOf t port).lanes = widthOf (lanesUp s port locked).length ∧
      ((linkOf t port).state = 2 ∨ (linkOf t port).state = 1) ∧ (tpLive t port = true ↔ (linkOf t port).state = 2) ∧
      t.memories = s.memories)) ∧
  (∀ (s : State) (port reason lane : Nat), linksTrain s = true → port < 16 →
    ((linkOf s port).state = 0 → exec (.binikPortDown port reason lane) s = .next s) ∧
    ((linkOf s port).state ≠ 0 → reason ≠ 1 →
      exec (.binikPortDown port reason lane) s = .next (send (portDownOp port reason s) (.retrain port 1)))) ∧
  (∀ (s : State) (port reason : Nat), port < 16 → (∀ m ∈ s.flights.sent, m.2 ≠ port) →
    (linkOf (portDownOp port reason s) port).state = 0 ∧ tpLive (portDownOp port reason s) port = false ∧
      (∀ q, q ≠ port → linkOf (portDownOp port reason s) q = linkOf s q)) ∧
  (∀ (s : State) (port lane : Nat), linksTrain s = true → port < 16 → (linkOf s port).state ≠ 0 → 4 ≤ lane →
    exec (.replay port lane false) s = .next s ∧ exec (.replay port lane true) s = .next (send (portDownOp port 0 s) (.retrain port 1)))

namespace Sys2Proof.Slice0

/-- A tensor message that another device sent: its row, its kind, and what serves it at its destination. -/
structure PeerRow where
  row   : PeerMsg → Instr
  kind  : Nat
  serve : State → PeerMsg → State

/-- Writes, reads, signals and ring blocks; a ring block is served through its receive buffer. -/
def peerRows : List PeerRow :=
  [⟨.peerWrite, kindWrite, serveWrite⟩, ⟨.peerReadRequest, kindRead, serveRead⟩, ⟨.signal, kindSignal, serveWrite⟩,
   ⟨.ringBlock, kindRing, serveRing⟩]

/-- A message arrives on a port that is up, at a device that serves, and need not wait for a stack. -/
structure Arrives (s : State) (m : PeerMsg) : Prop where
  served : serving s = true
  port   : m.port < 16
  up     : (linkOf s m.port).state ≠ 0
  awake  : peerWaits s m = false ∧ ringWaits s m = false

end Sys2Proof.Slice0

/-- A tensor message is served at its destination if its epoch and port are good, forwarded if it is for another device, and else refused with
nothing written. For a peer write, read, signal or ring block that arrives: on a port in probation it is refused with S_UNIT_ABSENT; for
another device it is forwarded whole, without a check of its epoch; at its destination with another epoch it is refused with S_EPOCH and
this device's epoch; and else exec answers the served state. A refusal writes no byte. A served write that may be written stores its bytes
at its address, leaves every other byte, and is acknowledged. A refusal that arrives for a message of this device ends what sent it; after
the last acknowledgement of a command's runs the rest of its write-out lands. Rules: R154, R471, R478, R481. -/
def Obligations.PeerMessagesAreServedForwardedOrRefused : Prop :=
  (∀ r ∈ Slice0.peerRows, ∀ (s : State) (m : PeerMsg), Slice0.Arrives s m →
    let t := takeFrames s m.port m.payload.length
    ((linkOf s m.port).state = 1 → exec (r.row m) s = .next (refuseMessage t m sUnitAbsent 0)) ∧
    ((linkOf s m.port).state ≠ 1 → m.dest ≠ deviceId s → exec (r.row m) s = .next (forwardMessage t m r.kind)) ∧
    ((linkOf s m.port).state ≠ 1 → m.dest = deviceId s → epochOk s m = false →
      exec (r.row m) s = .next (refuseMessage t m sEpoch (low 32 (openEpoch s)))) ∧
    ((linkOf s m.port).state ≠ 1 → m.dest = deviceId s → epochOk s m = true → exec (r.row m) s = .next (r.serve t m)) ∧
    (∀ st d, (refuseMessage t m st d).memories = s.memories ∧ (refuseMessage t m st d).flights = s.flights)) ∧
  (∀ (s : State) (m : PeerMsg) (x : Loc), let pa := m.addr % 2 ^ 53
    checkLocal s (peerActor s) true pa m.length = .ok x → anyPoison s pa m.length = false →
    (∀ a, a < pa ∨ pa + m.length ≤ a → memGet (serveWrite s m).memories.mem a = memGet s.memories.mem a) ∧
    (∀ i, i < m.length → i < m.payload.length → memGet (serveWrite s m).memories.mem (pa + i) = m.payload.getD i 0#8) ∧
    (serveWrite s m).out = s.out ++ [.peerAck m.port m.msgId]) ∧
  (∀ (s : State) (m : PeerMsg), Slice0.Arrives s m → (linkOf s m.port).state = 2 → m.dest = deviceId s → epochOk s m = true →
    exec (.readData m) s = .next (serveData s (takeFrames s m.port m.payload.length) m)) ∧
  (∀ (s : State) (m : PeerMsg), Slice0.Arrives s m → m.dest = deviceId s →
    ((∃ x ∈ s.flights.sent, x.1 = m.msgId) →
      exec (.refusal m) s = .next (let t := takeFrames s m.port m.payload.length
        failMessage t m.msgId (refusalResult t m).1 (refusalResult t m).2 m.port)) ∧
    ((∀ x ∈ s.flights.sent, x.1 ≠ m.msgId) → exec (.refusal m) s = .next (takeFrames s m.port m.payload.length))) ∧
  (∀ (s : State) (port id : Nat) (f : Flight) (ids : List Nat), serving s = true → (id, port) ∈ s.flights.sent →
    s.flights.list.find? (fun f => match f.phase with | .peer ids => ids.contains id | _ => false) = some f → f.phase = .peer ids →
    ((∀ i ∈ ids, i = id) → exec (.peerAcknowledgement port id) s = .next (landWriteOut (answered s id) f)) ∧
    ((∃ i ∈ ids, i ≠ id) → exec (.peerAcknowledgement port id) s =
      .next (putFlight (answered s id) { f with phase := .peer (ids.filter fun i => i != id) })))

/-- A device enters epoch E + 1 only with the arrivals of every member, itself included; proposals for another epoch are refused; a stall tells
how many miss. On an open port while the links train: a proposal whose epoch is not this device's leaves the domain's barrier as it is; one
for its epoch is recorded and forwarded once, and the device arrives when its cuts are ready; an arrival for its epoch is counted once. The
step into the next epoch happens if the device has arrived and every member's arrival is held, and then the epoch is one higher and the
barrier begins anew, with the arrivals that have already come for it; otherwise nothing changes. A stall raises EV_LINK with the number of
members that have not arrived, and no earlier than 2^24 hub steps after the last. Rules: R474, R475, R477, R479, R492. -/
def Obligations.TheBarrierAdvancesTheEpochByOne : Prop :=
  (∀ (s : State) (m : PeerMsg), linksTrain s = true → m.port < 16 → (linkOf s m.port).state ≠ 0 →
    let t := takeFrames s m.port m.payload.length
    exec (.domainRecord m) s = .next (takeRecord t m.port (padTo 160 m.payload)) ∧
    (m.epoch ≠ s.domain.barrier.epoch → exec (.proposal m) s = .next t ∧ t.domain.barrier = s.domain.barrier) ∧
    (m.epoch = s.domain.barrier.epoch →
      exec (.proposal m) s = .next (tryArrive (forwardOnce (recordProposal t) m kindProposal (kindProposal, m.epoch, 0)))) ∧
    (let u := forwardOnce t m kindArrival (kindArrival, m.epoch, m.src)
     (m.epoch ≠ s.domain.barrier.epoch → exec (.arrival m) s = .next u) ∧
     (m.epoch = s.domain.barrier.epoch → m.src ∈ s.domain.barrier.arrived → exec (.arrival m) s = .next (tryEnter u)) ∧
     (m.epoch = s.domain.barrier.epoch → m.src ∉ s.domain.barrier.arrived →
       exec (.arrival m) s = .next (tryEnter (putBarrier u { u.domain.barrier with arrived := u.domain.barrier.arrived ++ [m.src] }))))) ∧
  (∀ s : State, let b := s.domain.barrier
    let full : Prop := b.sent = true ∧ ∀ i ∈ members s, i ∈ b.arrived
    (full → (tryEnter s).domain.barrier = { b with
      epoch := wrapAdd 64 b.epoch 1, proposed := false, sent := false, withheld := [],
      arrived := (s.domain.seen.filter fun k => k.1 == kindArrival && k.2.1 == wrapAdd 64 b.epoch 1).map fun k => k.2.2 }) ∧
    (¬ full → tryEnter s = s)) ∧
  (∀ s : State, let b := s.domain.barrier
    let due : Prop := serving s = true ∧ b.proposed = true ∧ 2 ^ 24 ≤ (hubNow s + 2 ^ 64 - b.since) % 2 ^ 64
    (due → ∃ t, exec .barrierStall s = .next t ∧ t.domain.barrier = { b with since := wrapAdd 64 b.since (2 ^ 24) } ∧
      t.units.eventSeq = wrapAdd 32 s.units.eventSeq 1) ∧
    (¬ due → exec .barrierStall s = .next s))

namespace Sys2Proof.Slice0

/-- The entry at the head of a queue pair's send ring is read: its tail counter is ahead of its head, nothing waits for an answer, and the port is
not paused. `q` is the queue pair with the tail that was read, `b` the entry. -/
def EntryAt (s : State) (n : Nat) (q0 q : Qp) (b : List Byte) : Prop :=
  ∃ w, serving s = true ∧ tabFind s.net.qps n = some q0 ∧ q0.sent = none ∧ (netPortOf s q0.port).paused = false ∧
    netRead s q0.asid q0.tailVa 8 = .ok w ∧ q = { q0 with tail := fld w 0 4 } ∧ q.tail ≠ q.head ∧
    netRead s q0.asid (q0.sendVa + 64 * (q0.head % 2 ^ q0.log2Send)) 64 = .ok b

end Sys2Proof.Slice0

/-- A send entry of its row's OP is sent if it keeps Table 18-14 and its port is live, and ends on the answer, a negative answer or the retry
limit. For each of WRITE, WRITE with immediate and READ, and the entry at the head of a send ring with the row's OP: an entry that breaks
Table 18-14 ends with its status, one on a port that is not live with S_UNIT_ABSENT; else its request leaves and the entry waits. An
acknowledgement ends a write with S_OK and its bytes, read data a read once it is stored, a negative acknowledgement either with
S_NET_REMOTE and the syndrome, and the retry limit with 0xFF. An ended entry advances the head counter and writes its completion record if
COMPLETE is set or its status is not S_OK. Rules: R486, R487, R488, R489. -/
def Obligations.RdmaEntriesAreSentAndEnded : Prop :=
  (∀ r ∈ [(Instr.rdmaWrite, 0), (Instr.rdmaWriteWithImmediate, 1), (Instr.rdmaRead, 2)], ∀ (s : State) (n : Nat) (q0 q : Qp) (b : List Byte),
    Slice0.EntryAt s n q0 q b → fld b 0 1 = r.2 →
    (∀ st d, entryFault b = some (st, d) → exec (r.1 n) s = .next (endEntry s n q b st 0 d)) ∧
    (entryFault b = none → portLive s (4 + q.port) = false → exec (r.1 n) s = .next (endEntry s n q b sUnitAbsent 0 (netAbsent q.port))) ∧
    (entryFault b = none → portLive s (4 + q.port) = true → exec (r.1 n) s = .next (sendEntry s n q b)) ∧
    (r.2 ≠ 2 → ∀ bs, netRead s q.asid (fld b 8 8) (fld b 16 4) = .ok bs →
      sendEntry s n q b = send (putQp s n { q with sent := some b })
        (.rdma q.port n r.2 (if r.2 = 1 then fld b 4 4 else 0) (fld b 20 4) (fld b 24 8) (fld b 16 4) bs))) ∧
  (∀ (s : State) (n : Nat) (q : Qp) (b : List Byte), serving s = true → tabFind s.net.qps n = some q → q.sent = some b →
    exec (.rdmaRetryExpiry n) s = .next (endEntry s n q b 0x0042 0 0xFF) ∧
    (portLive s (4 + q.port) = true →
      (∀ syn, exec (.rdmaResponse n (.nak syn)) s = .next (endEntry s n q b 0x0042 0 (low 8 syn))) ∧
      (fld b 0 1 ≠ 2 → exec (.rdmaResponse n .ack) s = .next (endEntry s n q b sOk (fld b 16 4) 0)) ∧
      (fld b 0 1 = 2 → ∀ bs places, netDest s q.asid (fld b 8 8) (fld b 16 4) = .ok places →
        exec (.rdmaResponse n (.data bs)) s = .next (endEntry (netPut s places (padTo (fld b 16 4) bs)) n q b sOk (fld b 16 4) 0)))) ∧
  (∀ (s : State) (n : Nat) (q : Qp) (b : List Byte) (moved d : Nat), fld b 1 1 % 2 = 0 →
    endEntry s n q b sOk moved d = putQp s n { q with head := wrapAdd 32 q.head 1, sent := none })

/-- A request from the network is granted only within a memory region that has the right; the port's own services answer; a lost link ends what
is pending. For a request to a queue pair of a live port: without a region of its key that maps the range with the right it is answered with
a remote access error and nothing is written; with one, a write lands whole and is acknowledged, a write with immediate then posts IMM, and
a read answers the bytes. A congestion mark is answered by a notification. A notification slows its queue pair, priority flow control pauses
or frees the port's configured priority, ARP, neighbour discovery and echo requests for the port's own address are answered, a lost link
fails the entries of the port's queue pairs, and a link that comes up makes the port live and unpaused. Rules: R486, R487, R489, R490, R492. -/
def Obligations.RequestsFromTheNetworkAreGrantedByRegion : Prop :=
  (∀ (s : State) (p : RdmaReq) (q : Qp), serving s = true → p.port < 2 → portLive s (4 + p.port) = true → tabFind s.net.qps p.qp = some q →
    q.port = p.port →
    let ans (t : State) (ok : Bool) (bs : List Byte) : State :=
      let u := send t (.rdmaReply p.port p.qp ok bs)
      if p.ecn then send u (.cnp p.port p.qp) else u
    (regionOf s p true = none → exec (.incomingRdmaWrite p) s = .next (ans s false []) ∧
      exec (.incomingWriteWithImmediate p) s = .next (ans s false [])) ∧
    (regionOf s p false = none → exec (.incomingRdmaRead p) s = .next (ans s false [])) ∧
    (∀ mr places, regionOf s p true = some mr → netDest s mr.asid p.va p.len = .ok places →
      exec (.incomingRdmaWrite p) s = .next (ans (netPut s places (padTo p.len p.data)) true []) ∧
      exec (.incomingWriteWithImmediate p) s = .next (ans (postImmediate p (netPut s places (padTo p.len p.data)) q) true [])) ∧
    (∀ mr bs, regionOf s p false = some mr → netRead s mr.asid p.va p.len = .ok bs →
      exec (.incomingRdmaRead p) s = .next (ans s true bs))) ∧
  (∀ (s : State) (n : Nat) (q : Qp), serving s = true → tabFind s.net.qps n = some q → portLive s (4 + q.port) = true →
    exec (.congestionNotification n) s = .next (putQp s n { q with slowed := q.slowed + 1 })) ∧
  (∀ (s : State) (port : Nat), port < 2 → portLive s (4 + port) = true →
    (∀ (classes : BitVec 8) (pause : Bool), (netPortOf s port).pfc < 8 → classes.getLsbD (netPortOf s port).pfc = true →
      exec (.priorityFlowControl port classes pause) s = .next (setNetPort s port { netPortOf s port with paused := pause })) ∧
    (∀ ip mac, (netPortOf s port).ipv4 ≠ 0 → exec (.arp port ip (netPortOf s port).ipv4 mac) s =
      .next (send s (.net port 1 mac (natLe 6 (netPortOf s port).mac ++ natLe 4 (netPortOf s port).ipv4 ++ natLe 6 mac ++ natLe 4 ip)))) ∧
    (∀ ip mac, (netPortOf s port).ipv6 ≠ 0 → exec (.neighbourDiscovery port ip (netPortOf s port).ipv6 mac) s =
      .next (send s (.net port 2 mac (natLe 6 (netPortOf s port).mac ++ natLe 16 (netPortOf s port).ipv6 ++ natLe 6 mac ++ natLe 16 ip)))) ∧
    (∀ ip bs, (netPortOf s port).ipv4 ≠ 0 → exec (.icmpEcho port false ip (netPortOf s port).ipv4 bs) s = .next (send s (.net port 3 ip bs))) ∧
    (∀ other ip mac, other ≠ (netPortOf s port).ipv4 → exec (.arp port ip other mac) s = .next s) ∧
    exec (.ethernetLinkLost port) s = .next ((s.net.qps.filter fun q => q.2.port == port).foldl (fun t q => failQueue t q.1)
      (setPortLive s (4 + port) false))) ∧
  (∀ (s : State) (port : Nat), linksTrain s = true → port < 2 → portLive s (4 + port) = false → cageReady s port = true →
    s.power.portsDown.getLsbD (2 + port) = false →
    ∃ t, exec (.ethernetLinkUp port) s = .next t ∧ portLive t (4 + port) = true ∧ (netPortOf t port).paused = false)

/-- A region, hub or vault sensor above WARN_C raises EV_THERMAL once until it has fallen 3 °C below WARN_C, and the warning changes no state.
While the device serves (in any other state nothing is raised): with WARN_C not 0, a region, hub or vault reading above WARN_C raises
EV_THERMAL with kind WARN, naming the sensor and the reading, if that sensor has not warned since it last fell 3 °C below WARN_C; a reading
that low lets it warn again, and a reading between changes nothing. With WARN_C 0 nothing is raised. Beside which sensors have warned, only
what raising an event moves can change: the event sequence, the mailboxes' event rings, the hosts' memories and the output; not one unit,
byte of device memory, command or power state does. Rule: R507. -/
def Obligations.ThermalWarningsAreRaisedOnceAndChangeNoState : Prop :=
  ∀ (s : State) (sensor i : Nat) (c : Int) (code : Nat), warnCode sensor = some code →
    (serving s = false → exec (.thermalWarn sensor i c) s = .next s) ∧ (serving s = true →
    (s.power.warnC = 0 → exec (.thermalWarn sensor i c) s = .next s) ∧
    (s.power.warnC ≠ 0 → c ≤ ((s.power.warnC : Int) - 3) * 16 →
      exec (.thermalWarn sensor i c) s = .next (setWarned s (s.telemetry.warned.filter fun x => x != (sensor, i)))) ∧
    (s.power.warnC ≠ 0 → (s.power.warnC : Int) * 16 < c → (sensor, i) ∉ s.telemetry.warned →
      exec (.thermalWarn sensor i c) s =
        .next (raiseEvent (setWarned s ((sensor, i) :: s.telemetry.warned)) evThermal (thermalPayload 0 code i c))) ∧
    (s.power.warnC ≠ 0 → (s.power.warnC : Int) * 16 < c → (sensor, i) ∈ s.telemetry.warned → exec (.thermalWarn sensor i c) s = .next s) ∧
    (s.power.warnC ≠ 0 → ((s.power.warnC : Int) - 3) * 16 < c → c ≤ (s.power.warnC : Int) * 16 → exec (.thermalWarn sensor i c) s = .next s) ∧
    ∃ t, exec (.thermalWarn sensor i c) s = .next t ∧
      { t with telemetry := s.telemetry, units := s.units, heldun := s.heldun, host0 := s.host0, host1 := s.host1, out := s.out } = s ∧
      { t.telemetry with warned := s.telemetry.warned } = s.telemetry ∧ { t.units with eventSeq := s.units.eventSeq } = s.units ∧
      { t.heldun with port0 := s.heldun.port0, port1 := s.heldun.port1 } = s.heldun)

/-- A die sensor at 118 °C stops the device, a window keeps its readings, and a settled transition is no longer moving. While the device serves:
a die reading of 118 °C or more raises EV_THERMAL with kind STOP everywhere and stops the device fatally; a stack or vault sensor never
stops it. A telemetry window that is over, 2^20 hub steps after the last while the device serves, keeps its readings; one that is not leaves
the state. A settled stack, vault, lane or port transition is no longer moving; an engine that is gated settles only once its command has
ended. Rules: R499, R500, R501, R502, R506, R508. -/
def Obligations.ProtectiveStopsWindowsAndSettledTransitions : Prop :=
  (∀ (s : State) (sensor i : Nat) (c : Int), serving s = true →
    (∀ code, stopCode sensor = some code → 118 * 16 ≤ c →
      exec (.protectiveStop sensor i c) s = .next (fatal (raiseEverywhere s evThermal (thermalPayload 1 code i c)) 0x56 0 0 0) ∧
        serving (fatal (raiseEverywhere s evThermal (thermalPayload 1 code i c)) 0x56 0 0 0) = false) ∧
    (c < 118 * 16 → exec (.protectiveStop sensor i c) s = .next s) ∧
    (sensor = 1 ∨ sensor = 3 → exec (.protectiveStop sensor i c) s = .next s)) ∧
  (∀ (s : State) (rd : Readings), s.module.powered = true → serving s = true → (hubNow s + 2 ^ 64 - s.telemetry.windowAt) % 2 ^ 64 < 2 ^ 20 →
    exec (.telemetryWindow rd) s = .next s) ∧
  (∀ (s : State) (rd : Readings), s.module.powered = true →
    (serving s = false ∨ 2 ^ 20 ≤ (hubNow s + 2 ^ 64 - s.telemetry.windowAt) % 2 ^ 64) → ∃ t, exec (.telemetryWindow rd) s = .next t ∧ t.telemetry.rd = rd ∧
    (∀ x ∈ t.telemetry.warned, x ∈ s.telemetry.warned) ∧ t.memories = s.memories ∧ t.flights = s.flights ∧ t.power = s.power) ∧
  (∀ (s : State) (k : Nat), serving s = true →
    (k < 8 → ∃ t, exec (.powerTransitionSettled 2 k) s = .next t ∧ t.power.stackMoving.getLsbD k = false ∧ t.power.stackSr = s.power.stackSr) ∧
    exec (.powerTransitionSettled 3 k) s = .next { s with power := { s.power with vaultMoving := false } } ∧
    (∃ t, exec (.powerTransitionSettled 4 k) s = .next t ∧ tabFind t.power.oldLanes k = none) ∧
    (k < 4 → ∃ t, exec (.powerTransitionSettled 5 k) s = .next t ∧ t.power.portsMoving.getLsbD k = false) ∧
    (k < 64 → s.power.engMoving.getLsbD k = true → s.power.gated.getLsbD k = true →
      ((∃ f ∈ s.flights.list, onUnit f = true ∧ f.place = .engine k) → exec (.powerTransitionSettled 1 k) s = .next s) ∧
      ((∀ f ∈ s.flights.list, onUnit f = true → f.place ≠ .engine k) →
        ∃ t, exec (.powerTransitionSettled 1 k) s = .next t ∧ t.power.engMoving.getLsbD k = false ∧ t.power.gated = s.power.gated)))

/-- A unit under test starts its test when its commands have ended, takes 65,536 steps, and returns or is retired; windows end with their counts
cleared. While the device serves: a unit that needs its test starts it if no command is on it, and else waits; a running test that passes
ends it and adds 65,536 steps to an engine's or cluster's counter, and one that fails retires the unit at once with cause SELF_TEST. An
engine or cluster told of a kill that it has not acknowledged for 2^20 hub steps, and a channel that does not answer, is retired at once;
its EV_UNIT_RETIRED cause is free (log entry 44); a unit told of no kill, or of one not so long ago, stands. 2^46 hub steps after the last,
a retirement window ends: every window count is 0 and every life count stands. At EVENT_WINDOW_END the suppressed count of each cause and
unit whose window of 2^20 steps has passed is 0 and every COUNT stands. Rules: R33, R515, R519, R520. -/
def Obligations.FaultyUnitsAreTestedAndRetired : Prop :=
  (∀ (s : State) (kind i : Nat), serving s = true → underTest s kind i = true →
    (unitBusy s kind i = true → exec (.inServiceTest kind i) s = .next s) ∧
    (unitBusy s kind i = false → ∃ t, exec (.inServiceTest kind i) s = .next t ∧
      (∃ x ∈ t.units.tests, x.kind = kind ∧ x.index = i ∧ x.running = true) ∧ underTest t kind i = true ∧
      { t with units := { t.units with tests := s.units.tests } } = s)) ∧
  (∀ (s : State) (kind i : Nat), serving s = true → (∃ x ∈ s.units.tests, x.kind = kind ∧ x.index = i ∧ x.running = true) →
    (∃ t, exec (.inServiceTestEnd kind i true) s = .next t ∧ underTest t kind i = false ∧ t.units.map = s.units.map ∧
      (kind = 1 → counterOf t (.engine i) = (counterOf s (.engine i) + 65536) % 2 ^ 64) ∧
      (kind = 2 → counterOf t (.cluster i) = (counterOf s (.cluster i) + 65536) % 2 ^ 64)) ∧
    (kind = 3 → exec (.inServiceTestEnd kind i false) s = .next (retireNow { s with units := { s.units with
      tests := s.units.tests.filter fun t => !(t.kind == kind && t.index == i) } } kind i 0x61))) ∧
  (∀ (s : State) (kind i : Nat), serving s = true →
    (∀ at_, tabFind s.units.kills (unitKey kind i) = some at_ → let waited := (hubNow s + 2 ^ 64 - at_) % 2 ^ 64
      (kind = 1 ∨ kind = 2 → 2 ^ 20 ≤ waited →
        exec (.killAckTimeout kind i) s = .next (retireNow s kind i (Config.immediateCause kind))) ∧
      (waited < 2 ^ 20 → exec (.killAckTimeout kind i) s = .next s)) ∧
    (tabFind s.units.kills (unitKey kind i) = none → exec (.killAckTimeout kind i) s = .next s) ∧
    exec (.channelNoAnswer i) s = .next (retireNow s 4 i (Config.immediateCause 4)) ∧
    (∀ k c, unitHere s k i = false → retireNow s k i c = s)) ∧
  (∀ s : State, let passed := (hubNow s + 2 ^ 64 - s.units.windowAt) % 2 ^ 64
    (passed < 2 ^ 46 → exec .retirementWindowEnd s = .next s) ∧
    (2 ^ 46 ≤ passed → ∃ t, exec .retirementWindowEnd s = .next t ∧
      (∀ e ∈ t.units.window, e.2.window = 0 ∧ e.2.window2 = 0) ∧
      (∀ k n, n ≠ 0 → ((∃ e ∈ t.units.window, e.1 = k ∧ e.2.life = n) ↔ ∃ e ∈ s.units.window, e.1 = k ∧ e.2.life = n)) ∧
      t.units.windowAt = wrapAdd 64 s.units.windowAt (2 ^ 46) ∧
      { t with units := { t.units with window := s.units.window, windowAt := s.units.windowAt } } = s)) ∧
  (∀ s : State, ∃ t, exec .eventWindowEnd s = .next t ∧
    (∀ e ∈ s.units.errs, let passed := (hubNow s + 2 ^ 64 - e.since) % 2 ^ 64
      (2 ^ 20 ≤ passed → { e with raised := 0 } ∈ t.units.errs) ∧ (passed < 2 ^ 20 → e ∈ t.units.errs)) ∧
    t.units.errs.map (fun e => (e.cause, e.kind, e.index, e.count)) = s.units.errs.map (fun e => (e.cause, e.kind, e.index, e.count)) ∧
    { t with units := { t.units with errs := s.units.errs } } = s)

/-- A boundary runs when every CLOSE word has reached the open deal, a deal opens when one is wanted, and a batch, a board, a copy or the budget
when it is due. While the device serves and no hardware error comes with the row: with a deal open whose CLOSE condition holds,
DEAL_BOUNDARY answers the boundary's state, and else stands; with none open and one wanted, DEAL_OPEN answers the boundary's state, and else
stands. A batch is closed by KITTY_STEPS if its count has passed. A closed board that is not resolved becomes resolved, and any other
stands. A RETIRING copy that no command holds is released and EV_CUT_DONE raised; one that is held stays. HSS_BUDGET regains one signature,
to at most 1,024, each 2^32 hub steps. Rules: R211, R240, R290, R292, R373, R410. -/
def Obligations.DealsBatchesBoardsAndBudgetsMoveWhenDue : Prop :=
  ∀ s : State, serving s = true →
    (s.dealer.cur = none → exec (.dealBoundary []) s = .next s) ∧
    (∀ d, s.dealer.cur = some d → (closeDue s d = true → exec (.dealBoundary []) s = .next (boundary s false)) ∧
      (closeDue s d = false → exec (.dealBoundary []) s = .next s) ∧ exec (.dealOpen []) s = .next s) ∧
    (s.dealer.cur = none → (dealWanted s = true → exec (.dealOpen []) s = .next (boundary s false)) ∧
      (dealWanted s = false → exec (.dealOpen []) s = .next s)) ∧
    (kittyDue s = true → exec .kittyStepsExpiry s = .next (kittyCause s 4)) ∧
    (kittyDue s = false → exec .kittyStepsExpiry s = .next s) ∧
    (∀ n b, tabFind s.boards.tab n = some b → b.closed = true → b.resolved = false →
      (∀ f ∈ s.flights.list, ∀ p ms, f.phase ≠ .board n p ms) →
      exec (.routingBoardResolved n) s = .next (putBoard s n { b with resolved := true })) ∧
    (∀ n b, tabFind s.boards.tab n = some b → b.closed = false ∨ b.resolved = true → exec (.routingBoardResolved n) s = .next s) ∧
    (∀ m c, (modelOf s m).retiring = some c →
      (copyHeld s m c.slot = true → exec (.retiringCopyRelease m) s = .next s) ∧
      (copyHeld s m c.slot = false → ∃ t, exec (.retiringCopyRelease m) s = .next t ∧ (modelOf t m).retiring = none ∧
        (modelOf t m).live = (modelOf s m).live ∧ t.memories = s.memories)) ∧
    (let passed := (hubNow s + 2 ^ 64 - s.keys.hssRegainAt) % 2 ^ 64
     (2 ^ 32 ≤ passed → ∃ t, exec .hssBudgetRegain s = .next t ∧ t.keys.hssBudget = min 1024 (s.keys.hssBudget + 1) ∧
       t.keys.slots = s.keys.slots ∧ t.vault = s.vault) ∧
     (passed < 2 ^ 32 → exec .hssBudgetRegain s = .next s))

/-- A completed walk fills its engine's and cluster's buffers with the leaf; a staged unit that is poisoned is rewritten from the vault or lost.
For a started command that translates a page and a row without a hardware error: a walk that finds a leaf that the access may use answers
the state in which the leaf is in the buffers and the cached nodes in the walker's cache, with every mapping, byte and command as before; a
page that the command does not translate, or not for such an access, and one that the buffers hold leave the state. A STAGED_WEIGHT_REPAIR
of a unit that is not poisoned, or is in no frame of a copy, leaves the state; one in a chunk of a READY slot, with the vault awake, writes
the vault's 64 bytes to the unit, enciphered under the slot's key if it is PROTECTED, charges the channel of a unit in stacked memory, and
re-runs the commands that wait for the unit. Rules: R213, R227, R228, R229. -/
def Obligations.WalksFillTheBuffersAndRepairsRewriteTheUnit : Prop :=
  (∀ (s : State) (cid va : Nat) (write : Bool) (f : Flight), serving s = true → flightOf s cid = some f → isStarted f = true →
    (va / 65536 ∉ (if write then f.wrote else f.pages) → exec (.translationWalk cid va write []) s = .next s) ∧
    (misses s f.place f.cmd.asid va = false → exec (.translationWalk cid va write []) s = .next s) ∧
    (va / 65536 ∈ (if write then f.wrote else f.pages) → misses s f.place f.cmd.asid va = true → ∀ die e l, walkDie s f.place = some die → walkTables s f.place f.cmd.asid va false = .ok (.leaf e l) →
      accessReason e (f.cls == 0) write = none → ∃ t leaf nodes, exec (.translationWalk cid va write []) s = .next t ∧
        t = fillBuffers s f.place die leaf nodes ∧ leaf = ⟨f.cmd.asid, va / leafBytes l * leafBytes l, l, e, false⟩ ∧
        t.trans.asids = s.trans.asids ∧ { t with trans := s.trans } = s ∧
        (∀ n, f.place = .engine n → ∃ x, tabFind t.trans.level1 n = some (leaf :: x)))) ∧
  (∀ (s : State) (pa : Nat), serving s = true →
    (isPoisoned s (unitOf pa) = false → exec (.stagedWeightRepair pa []) s = .next s) ∧
    (isPoisoned s (unitOf pa) = true → frameOwner s (unitOf pa) = none → exec (.stagedWeightRepair pa []) s = .next s) ∧
    (isPoisoned s (unitOf pa) = true → ∀ model copy chunk c, frameOwner s (unitOf pa) = some (model, copy, chunk, c) →
      (vaultSlot s c.slot).state = .ready → chunk < (vaultSlot s c.slot).chunks → vaultAsleep s = false →
      let u := unitOf pa
      let at_ := chunk * chunkBytes + u % chunkBytes / 4096 * 4096
      let plain := memRead (vaultSlot s c.slot).payload at_ 4096
      let held := match (vaultSlot s c.slot).slotKey with
        | some key => if (vaultSlot s c.slot).prot then slotCrypt s true key at_ plain else plain
        | none => plain
      let t := (putMem s u (slice held (u % chunkBytes % 4096) 64)).1
      exec (.stagedWeightRepair pa []) s = .next (rerunRepaired (if u < stackedEnd then
        charge (raiseError t ⟨0, 0x10, 4, channelIndex u, 0, 0, u⟩) 4 (channelIndex u) 0x10 true false else t) u)))

end
end

