-- ==== Sys2Proof/Laws/Memory.lean ====
section
/-!
SUPPORT. Sys2Proof/Laws/Memory.lean: every operation on a byte memory keeps its canonical form, and what a read gives after a write.
-/

namespace Sys2Proof.Machine

theorem Memory.wf_nil : Memory.wf [] := ⟨List.Pairwise.nil, by simp⟩

theorem Memory.wf_filter {m : Mem} (p : Host.Cell → Bool) (h : Memory.wf m) : Memory.wf (m.filter p) :=
  ⟨h.1.filter p, fun c hc => h.2 c (List.mem_filter.mp hc).1⟩

theorem cellsOf_ge (bs : List Byte) (a : Nat) : ∀ c ∈ cellsOf a bs, a ≤ c.1 := by
  induction bs generalizing a with
  | nil => simp [cellsOf]
  | cons b bs ih =>
    intro c hc
    simp only [cellsOf] at hc
    split at hc
    · exact Nat.le_of_succ_le (ih (a + 1) c hc)
    · rcases List.mem_cons.mp hc with h | h
      · simp [h]
      · exact Nat.le_of_succ_le (ih (a + 1) c h)

theorem cellsOf_lt (bs : List Byte) (a : Nat) : ∀ c ∈ cellsOf a bs, c.1 < a + bs.length := by
  induction bs generalizing a with
  | nil => simp [cellsOf]
  | cons b bs ih =>
    intro c hc
    simp only [cellsOf] at hc
    simp only [List.length_cons]
    split at hc
    · have := ih (a + 1) c hc; omega
    · rcases List.mem_cons.mp hc with h | h
      · simp [h]
      · have := ih (a + 1) c h; omega

theorem cellsOf_wf (bs : List Byte) (a : Nat) : Memory.wf (cellsOf a bs) := by
  induction bs generalizing a with
  | nil => exact Memory.wf_nil
  | cons b bs ih =>
    simp only [cellsOf]
    split
    · exact ih (a + 1)
    · rename_i hb
      refine ⟨List.Pairwise.cons (fun c hc => ?_) (ih (a + 1)).1, fun c hc => ?_⟩
      · exact cellsOf_ge bs (a + 1) c hc
      · rcases List.mem_cons.mp hc with h | h
        · simp [h, hb]
        · exact (ih (a + 1)).2 c h

/-- Two canonical memories, the first wholly below the second, are canonical together. -/
theorem Memory.wf_append {m n : Mem} (hm : Memory.wf m) (hn : Memory.wf n) (h : ∀ x ∈ m, ∀ y ∈ n, x.1 < y.1) : Memory.wf (m ++ n) :=
  ⟨List.pairwise_append.mpr ⟨hm.1, hn.1, h⟩, fun c hc => (List.mem_append.mp hc).elim (hm.2 c) (hn.2 c)⟩

/-- A write keeps the canonical form. -/
theorem memWrite_wf {m : Mem} (h : Memory.wf m) (a : Nat) (bs : List Byte) : Memory.wf (memWrite m a bs) := by
  refine Memory.wf_append (Memory.wf_filter _ h) (Memory.wf_append (cellsOf_wf bs a) (Memory.wf_filter _ h) ?_) ?_
  · intro x hx y hy
    have := cellsOf_lt bs a x hx
    have := (List.mem_filter.mp hy).2
    simp only [decide_eq_true_eq] at this
    omega
  · intro x hx y hy
    have hx := (List.mem_filter.mp hx).2
    simp only [decide_eq_true_eq] at hx
    rcases List.mem_append.mp hy with h | h
    · have := cellsOf_ge bs a y h; omega
    · have := (List.mem_filter.mp h).2
      simp only [decide_eq_true_eq] at this
      omega

/-- Zeroing a range keeps the canonical form. -/
theorem memZero_wf {m : Mem} (h : Memory.wf m) (a n : Nat) : Memory.wf (memZero m a n) := by
  refine Memory.wf_append (Memory.wf_filter _ h) (Memory.wf_filter _ h) ?_
  intro x hx y hy
  have hx := (List.mem_filter.mp hx).2
  have hy := (List.mem_filter.mp hy).2
  simp only [decide_eq_true_eq] at hx hy
  omega

/-! ## Reads after writes -/

theorem memGet_append {m n : Mem} (a : Nat) (h : ∀ c ∈ m, c.1 ≠ a) : memGet (m ++ n) a = memGet n a := by
  induction m with
  | nil => rfl
  | cons c m ih =>
    obtain ⟨j, b⟩ := c
    simp only [List.cons_append, memGet]
    have hj : j ≠ a := h (j, b) (by simp)
    simp only [hj, if_false]
    exact ih fun c hc => h c (by simp [hc])

theorem memGet_none {m : Mem} (a : Nat) (h : ∀ c ∈ m, c.1 ≠ a) : memGet m a = 0#8 := by
  have := memGet_append (n := []) a h
  simpa [memGet] using this

theorem memGet_filter {m : Mem} (p : Host.Cell → Bool) (a : Nat) (h : ∀ b, p (a, b) = true) : memGet (m.filter p) a = memGet m a := by
  induction m with
  | nil => rfl
  | cons c m ih =>
    obtain ⟨j, b⟩ := c
    by_cases hj : j = a
    · subst hj
      simp [List.filter, h b, memGet]
    · cases hp : p (j, b) <;> simp [List.filter, hp, memGet, hj, ih]

theorem memGet_append_found {m n : Mem} (a : Nat) (h : ∀ c ∈ n, c.1 ≠ a) : memGet (m ++ n) a = memGet m a := by
  induction m with
  | nil => simp [memGet_none a h, memGet]
  | cons c m ih =>
    obtain ⟨j, b⟩ := c
    simp only [List.cons_append, memGet, ih]

theorem memGet_cellsOf (bs : List Byte) (a i : Nat) : memGet (cellsOf a bs) (a + i) = (bs[i]?).getD 0#8 := by
  induction bs generalizing a i with
  | nil => simp [cellsOf, memGet]
  | cons b bs ih =>
    cases i with
    | zero =>
      simp only [cellsOf]
      split
      · rename_i hb
        rw [memGet_none]
        · simp [hb]
        · intro c hc; have := cellsOf_ge bs (a + 1) c hc; omega
      · simp [memGet]
    | succ i =>
      simp only [cellsOf]
      have e : a + (i + 1) = (a + 1) + i := by omega
      split
      · rw [e, ih]; simp
      · simp only [memGet]
        rw [if_neg (by omega), e, ih]; simp

/-- A byte outside a write reads as before. -/
theorem memGet_memWrite_ne (m : Mem) (a x : Nat) (bs : List Byte) (h : x < a ∨ a + bs.length ≤ x) :
    memGet (memWrite m a bs) x = memGet m x := by
  unfold memWrite
  rcases h with h | h
  · rw [memGet_append_found]
    · exact memGet_filter _ x (by intro b; simpa using h)
    · intro c hc
      rcases List.mem_append.mp hc with hc | hc
      · have := cellsOf_ge bs a c hc; omega
      · have := (List.mem_filter.mp hc).2
        simp only [decide_eq_true_eq] at this; omega
  · rw [memGet_append, memGet_append]
    · exact memGet_filter _ x (by intro b; simpa using h)
    · intro c hc; have := cellsOf_lt bs a c hc; omega
    · intro c hc
      have := (List.mem_filter.mp hc).2
      simp only [decide_eq_true_eq] at this; omega

/-- A byte of a write reads as written. -/
theorem memGet_memWrite (m : Mem) (a i : Nat) (bs : List Byte) (h : i < bs.length) :
    memGet (memWrite m a bs) (a + i) = bs[i] := by
  unfold memWrite
  rw [memGet_append, memGet_append_found, memGet_cellsOf]
  · simp [List.getElem?_eq_getElem h]
  · intro c hc
    have := (List.mem_filter.mp hc).2
    simp only [decide_eq_true_eq] at this; omega
  · intro c hc
    have := (List.mem_filter.mp hc).2
    simp only [decide_eq_true_eq] at this; omega

/-- A byte outside a zeroed range reads as before, and a byte inside reads 0. -/
theorem memGet_memZero (m : Mem) (a n x : Nat) : memGet (memZero m a n) x = if a ≤ x ∧ x < a + n then 0#8 else memGet m x := by
  unfold memZero
  split
  · rename_i h
    apply memGet_none
    intro c hc
    rcases List.mem_append.mp hc with hc | hc <;>
    · have := (List.mem_filter.mp hc).2
      simp only [decide_eq_true_eq] at this; omega
  · rename_i h
    by_cases hx : x < a
    · rw [memGet_append_found]
      · exact memGet_filter _ x (by intro b; simpa using hx)
      · intro c hc
        have := (List.mem_filter.mp hc).2
        simp only [decide_eq_true_eq] at this; omega
    · rw [memGet_append]
      · exact memGet_filter _ x (by intro b; simp; omega)
      · intro c hc
        have := (List.mem_filter.mp hc).2
        simp only [decide_eq_true_eq] at this; omega

/-- A run of bytes reads as written. -/
theorem memRead_length (m : Mem) (a n : Nat) : (memRead m a n).length = n := by simp [memRead]

theorem memGet_near (m : Mem) (a n x : Nat) (h : a ≤ x ∧ x < a + n) :
    memGet (m.filter fun c => decide (a ≤ c.1) && decide (c.1 < a + n)) x = memGet m x :=
  memGet_filter _ x (by intro b; simp [h.1, h.2])

theorem memRead_get (m : Mem) (a n : Nat) : memRead m a n = (List.range n).map fun i => memGet m (a + i) := by
  unfold memRead
  apply List.map_congr_left
  intro i hi
  exact memGet_near m a n (a + i) ⟨by omega, by have := List.mem_range.mp hi; omega⟩

theorem memRead_memWrite (m : Mem) (a : Nat) (bs : List Byte) : memRead (memWrite m a bs) a bs.length = bs := by
  rw [memRead_get]
  apply List.ext_getElem
  · simp
  · intro i h1 h2
    simp only [List.getElem_map, List.getElem_range]
    exact memGet_memWrite m a i bs h2

end Sys2Proof.Machine
end

