-- ==== Sys2Proof/Laws/Kept.lean ====
section
/-!
SUPPORT. Sys2Proof/Laws/Kept.lean: what every operation of the model keeps, as one relation between the state before and the state after:
byte memories stay canonical, peg rows and the list of retired units never shrink, and the queue of commands is untouched. The lemmas of
Laws/Kept*.lean say it of each operation.
-/

namespace Sys2Proof.Safety

open Sys2Proof.Machine

theorem PegsRise.refl (p : Pegs) : PegsRise p p := ⟨Nat.le_refl _, Nat.le_refl _, Nat.le_refl _, Nat.le_refl _⟩

theorem PegsRise.trans {p q r : Pegs} (h : PegsRise p q) (k : PegsRise q r) : PegsRise p r :=
  ⟨Nat.le_trans h.1 k.1, Nat.le_trans h.2 k.2, Nat.le_trans h.3 k.3, Nat.le_trans h.4 k.4⟩

end Sys2Proof.Safety

namespace Sys2Proof.Laws

open Sys2Proof.Machine Sys2Proof.Safety

/-- What every operation keeps of the vault. -/
structure VaultKept (v w : Vault) : Prop where
  payload : (∀ e ∈ v.slots, Memory.wf e.2.payload) → ∀ e ∈ w.slots, Memory.wf e.2.payload
  pegs    : PegsRise v.pegs w.pegs
  retired : ∀ u ∈ v.retired, u ∈ w.retired
  stops   : v.fatalStops ≤ w.fatalStops

/-- What every operation keeps of a host: the canonical form of its memory. -/
def HostKept (a b : HostEnv) : Prop := Memory.wf a.mem → Memory.wf b.mem

/-- What every operation keeps of the memories. -/
structure MemKept (a b : Memories) : Prop where
  mem   : Memory.wf a.mem → Memory.wf b.mem
  areas : Memory.wf a.areas → Memory.wf b.areas

/-- What every operation keeps. -/
structure Kept (s t : State) : Prop where
  vault    : VaultKept s.vault t.vault
  memories : MemKept s.memories t.memories
  host0    : HostKept s.host0 t.host0
  host1    : HostKept s.host1 t.host1
  pending  : t.pending = s.pending

theorem VaultKept.refl (v : Vault) : VaultKept v v := ⟨id, PegsRise.refl _, fun _ h => h, Nat.le_refl _⟩

theorem VaultKept.trans {u v w : Vault} (h : VaultKept u v) (k : VaultKept v w) : VaultKept u w :=
  ⟨fun p => k.payload (h.payload p), h.pegs.trans k.pegs, fun x hx => k.retired x (h.retired x hx), Nat.le_trans h.stops k.stops⟩

theorem HostKept.refl (a : HostEnv) : HostKept a a := id

theorem MemKept.refl (a : Memories) : MemKept a a := ⟨id, id⟩

theorem MemKept.trans {a b c : Memories} (h : MemKept a b) (k : MemKept b c) : MemKept a c :=
  ⟨fun p => k.mem (h.mem p), fun p => k.areas (h.areas p)⟩

theorem Kept.refl (s : State) : Kept s s := ⟨VaultKept.refl _, MemKept.refl _, id, id, rfl⟩

theorem Kept.trans {s t u : State} (h : Kept s t) (k : Kept t u) : Kept s u :=
  ⟨h.vault.trans k.vault, h.memories.trans k.memories, fun p => k.host0 (h.host0 p), fun p => k.host1 (h.host1 p),
    k.pending.trans h.pending⟩

/-- A record update of a state, as one term that no unifier takes apart. -/
@[irreducible] def put (s : State) (boot : Boot) (module : Module) (vault : Vault) (models : Tab Model) (units : Units) (power : Power)
    (telemetry : Telemetry) (steps : Steps) (ptm : Ptm) (heldun : Heldun) (keys : Keys) (memories : Memories) (trans : Trans) (kitty : Kitty)
    (shoes : Shoes) (flights : Flights) (dealer : Dealer) (kv : Kv) (boards : Boards) (adapters : Tab Adapter) (domain : Domain) (net : Net)
    (sideband : Sideband) (host0 host1 : HostEnv) (out : List Out) (fresh : Nat) : State :=
  ⟨boot, module, vault, models, units, power, telemetry, steps, ptm, heldun, keys, memories, trans, kitty, shoes, flights,
      dealer, kv, boards, adapters, domain, net, sideband, host0, host1, out, fresh, s.pending⟩

theorem mk_put (s : State) {boot module vault models units power telemetry steps ptm heldun keys memories trans kitty shoes flights
    dealer kv boards adapters domain net sideband host0 host1 out fresh} :
    (⟨boot, module, vault, models, units, power, telemetry, steps, ptm, heldun, keys, memories, trans, kitty, shoes, flights,
      dealer, kv, boards, adapters, domain, net, sideband, host0, host1, out, fresh, s.pending⟩ : State) =
    put s boot module vault models units power telemetry steps ptm heldun keys memories trans kitty shoes flights dealer kv boards adapters
      domain net sideband host0 host1 out fresh := by unfold put; rfl

/-- A record update of a state that has been kept. -/
theorem Kept.put {e s : State} {boot module vault models units power telemetry steps ptm heldun keys memories trans kitty shoes flights
    dealer kv boards adapters domain net sideband host0 host1 out fresh} (h : Kept e s)
    (hv : VaultKept s.vault vault) (hm : MemKept s.memories memories) (h0 : HostKept s.host0 host0) (h1 : HostKept s.host1 host1) :
    Kept e (put s boot module vault models units power telemetry steps ptm heldun keys memories trans kitty shoes flights dealer kv boards
      adapters domain net sideband host0 host1 out fresh) :=
  h.trans (by rw [← mk_put]; exact ⟨hv, hm, h0, h1, rfl⟩)

/-- A vault whose slots, peg rows, retired units and stop count stand. -/
theorem VaultKept.upd {v : Vault} {wear wearRaised stackFailed badGranules banks pegCopies ownerKey observerRights life install stopRec armedToken
    transfer slotKeySeq systemWrites} :
    VaultKept v ⟨v.slots, wear, wearRaised, stackFailed, badGranules, banks, v.pegs, pegCopies, ownerKey, observerRights, v.retired, life, v.fatalStops,
      install, stopRec, armedToken, transfer, slotKeySeq, systemWrites⟩ :=
  ⟨id, PegsRise.refl _, fun _ h => h, Nat.le_refl _⟩

/-- What a table of vault slots must keep. -/
abbrev slotsWf (T : Tab Slot) : Prop := ∀ e ∈ T, Memory.wf e.2.payload

theorem mem_tabPut {α : Type} {t : Tab α} {k : Nat} {v : α} {e : Nat × α} (h : e ∈ tabPut t k v) : e ∈ t ∨ e = (k, v) := by
  induction t with
  | nil => simp [tabPut] at h; exact .inr h
  | cons x r ih =>
    obtain ⟨j, w⟩ := x
    simp only [tabPut] at h
    split at h
    · rcases List.mem_cons.1 h with h | h
      · exact .inr h
      · exact .inl h
    · split at h
      · rcases List.mem_cons.1 h with h | h
        · exact .inr h
        · exact .inl (List.mem_cons_of_mem _ h)
      · rcases List.mem_cons.1 h with h | h
        · exact .inl (h ▸ List.mem_cons_self ..)
        · rcases ih h with h | h
          · exact .inl (List.mem_cons_of_mem _ h)
          · exact .inr h

theorem tabFind_mem {α : Type} {t : Tab α} {k : Nat} {v : α} (h : tabFind t k = some v) : (k, v) ∈ t := by
  induction t with
  | nil => simp [tabFind] at h
  | cons x r ih =>
    obtain ⟨j, w⟩ := x
    simp only [tabFind] at h
    split at h
    · rename_i hj; subst hj; cases h; exact List.mem_cons_self ..
    · exact List.mem_cons_of_mem _ (ih h)

theorem slotsWf_put {T : Tab Slot} {k : Nat} {sl : Slot} (h : slotsWf T) (hs : Memory.wf sl.payload) : slotsWf (tabPut T k sl) := fun e he => by
  rcases mem_tabPut he with h' | h'
  · exact h e h'
  · rw [h']; exact hs

theorem slotsWf_get {s : State} (h : slotsWf s.vault.slots) (k : Nat) : Memory.wf (vaultSlot s k).payload := by
  unfold vaultSlot tabGet
  cases hf : tabFind s.vault.slots k with
  | none => exact Memory.wf_nil
  | some v => exact h _ (tabFind_mem hf)

/-- A vault whose slot table keeps the payloads' form. -/
theorem VaultKept.of_slots {v : Vault} {slots wear wearRaised stackFailed badGranules banks pegCopies ownerKey observerRights life install stopRec
    armedToken transfer slotKeySeq systemWrites} (h : slotsWf v.slots → slotsWf slots) :
    VaultKept v ⟨slots, wear, wearRaised, stackFailed, badGranules, banks, v.pegs, pegCopies, ownerKey, observerRights, v.retired, life, v.fatalStops,
      install, stopRec, armedToken, transfer, slotKeySeq, systemWrites⟩ :=
  ⟨h, PegsRise.refl _, fun _ h => h, Nat.le_refl _⟩

theorem Kept.ite {e a b : State} {c : Prop} [Decidable c] (ha : Kept e a) (hb : Kept e b) : Kept e (if c then a else b) := by
  split <;> assumption

theorem Kept.foldl {e s : State} {α : Type} {f : State → α → State} {l : List α} (h : Kept e s)
    (hf : ∀ t x, Kept e t → Kept e (f t x)) : Kept e (l.foldl f s) := by
  induction l generalizing s with
  | nil => exact h
  | cons x l ih => exact ih (hf s x h)

theorem mem_foldl {α : Type} {f : Mem → α → Mem} {l : List α} {m : Mem} (h : Memory.wf m) (hf : ∀ m x, Memory.wf m → Memory.wf (f m x)) :
    Memory.wf (l.foldl f m) := by
  induction l generalizing m with
  | nil => exact h
  | cons x l ih => exact ih (hf m x h)

theorem Kept.foldr {e s : State} {α : Type} {f : α → State → State} {l : List α} (h : Kept e s)
    (hf : ∀ t x, Kept e t → Kept e (f x t)) : Kept e (l.foldr f s) := by
  induction l with
  | nil => exact h
  | cons x l ih => exact hf _ x ih

theorem Kept.foldl_fst {e : State} {α β : Type} {f : State × β → α → State × β} {l : List α} {a : State × β} (h : Kept e a.1)
    (hf : ∀ t x, Kept e t.1 → Kept e (f t x).1) : Kept e (l.foldl f a).1 := by
  induction l generalizing a with
  | nil => exact h
  | cons x l ih => exact ih (hf a x h)

theorem Kept.fst_of {e s : State} {β : Type} {p : State × β} {b : β} (h : p = (s, b)) (k : Kept e p.1) : Kept e s := by
  subst h; exact k

theorem Kept.snd_of {e s : State} {β : Type} {p : β × State} {b : β} (h : p = (b, s)) (k : Kept e p.2) : Kept e s := by
  subst h; exact k

theorem Kept.mid_of {e s : State} {β γ : Type} {p : β × State × γ} {b : β} {c : γ} (h : p = (b, s, c)) (k : Kept e p.2.1) : Kept e s := by
  subst h; exact k

theorem Kept.id_of {e s : State} (h : Kept e s) : Kept e (id s) := h

theorem Kept.use {P Q : Prop} (h : P) (k : P → Q) : Q := k h

/-! ## States inside other results -/

/-- A state that may be there is kept. -/
def OptKept (e : State) (o : Option State) : Prop := ∀ t, o = some t → Kept e t
def OptFst (e : State) {β : Type} (o : Option (State × β)) : Prop := ∀ t b, o = some (t, b) → Kept e t
def OptSnd (e : State) {β : Type} (o : Option (β × State)) : Prop := ∀ t b, o = some (b, t) → Kept e t
def ExcKept (e : State) {ε : Type} (o : Except ε State) : Prop := ∀ t, o = .ok t → Kept e t
def ExcFst (e : State) {ε β : Type} (o : Except ε (State × β)) : Prop := ∀ t b, o = .ok (t, b) → Kept e t

theorem OptKept.none {e : State} : OptKept e none := fun _ h => nomatch h
theorem OptKept.some {e s : State} (h : Kept e s) : OptKept e (some s) := fun _ k => Option.some.inj k ▸ h
theorem OptKept.get {e t : State} {o : Option State} (h : o = .some t) (k : OptKept e o) : Kept e t := k t h
theorem OptKept.ite {e : State} {a b : Option State} {c : Prop} [Decidable c] (ha : OptKept e a) (hb : OptKept e b) :
    OptKept e (if c then a else b) := by split <;> assumption
theorem OptKept.map {e : State} {α : Type} {o : Option α} {f : α → State} (h : ∀ x, o = .some x → Kept e (f x)) : OptKept e (o.map f) := by
  cases o with
  | none => exact OptKept.none
  | some x => exact OptKept.some (h x rfl)
theorem OptKept.getD {e s : State} {o : Option State} (h : OptKept e o) (k : Kept e s) : Kept e (o.getD s) := by
  cases o with
  | none => exact k
  | some x => exact h x rfl
theorem OptKept.findSome {e : State} {α : Type} {l : List α} {f : α → Option State} (h : ∀ x, OptKept e (f x)) : OptKept e (l.findSome? f) := by
  induction l with
  | nil => exact OptKept.none
  | cons x l ih =>
    intro t ht
    rw [List.findSome?_cons] at ht
    split at ht
    · rename_i y hy; exact h x t (by rw [hy]; exact ht)
    · exact ih t ht

theorem OptFst.none {e : State} {β : Type} : OptFst e (none : Option (State × β)) := fun _ _ h => nomatch h
theorem OptFst.some {e : State} {β : Type} {p : State × β} (h : Kept e p.1) : OptFst e (some p) := fun t b k => by
  cases Option.some.inj k; exact h
theorem OptFst.get {e t : State} {β : Type} {o : Option (State × β)} {b : β} (h : o = .some (t, b)) (k : OptFst e o) : Kept e t := k t b h
theorem OptFst.get1 {e : State} {β : Type} {o : Option (State × β)} {p : State × β} (h : o = .some p) (k : OptFst e o) : Kept e p.1 :=
  k p.1 p.2 h
theorem OptFst.ite {e : State} {β : Type} {a b : Option (State × β)} {c : Prop} [Decidable c] (ha : OptFst e a) (hb : OptFst e b) :
    OptFst e (if c then a else b) := by split <;> assumption
theorem OptFst.map {e : State} {α β : Type} {o : Option α} {f : α → State × β} (h : ∀ x, o = .some x → Kept e (f x).1) :
    OptFst e (o.map f) := by
  cases o with
  | none => exact OptFst.none
  | some x => exact OptFst.some (h x rfl)

theorem OptSnd.none {e : State} {β : Type} : OptSnd e (none : Option (β × State)) := fun _ _ h => nomatch h
theorem OptSnd.some {e : State} {β : Type} {p : β × State} (h : Kept e p.2) : OptSnd e (some p) := fun t b k => by
  cases Option.some.inj k; exact h
theorem OptSnd.get {e t : State} {β : Type} {o : Option (β × State)} {b : β} (h : o = .some (b, t)) (k : OptSnd e o) : Kept e t := k t b h
theorem OptSnd.ite {e : State} {β : Type} {a b : Option (β × State)} {c : Prop} [Decidable c] (ha : OptSnd e a) (hb : OptSnd e b) :
    OptSnd e (if c then a else b) := by split <;> assumption

theorem ExcKept.error {e : State} {ε : Type} {x : ε} : ExcKept e (.error x) := fun _ h => nomatch h
theorem ExcKept.ok {e s : State} {ε : Type} (h : Kept e s) : ExcKept e (.ok s : Except ε State) := fun _ k => by cases k; exact h
theorem ExcKept.get {e t : State} {ε : Type} {o : Except ε State} (h : o = .ok t) (k : ExcKept e o) : Kept e t := k t h
theorem ExcKept.ite {e : State} {ε : Type} {a b : Except ε State} {c : Prop} [Decidable c] (ha : ExcKept e a) (hb : ExcKept e b) :
    ExcKept e (if c then a else b) := by split <;> assumption
theorem ExcKept.bind {e : State} {ε α : Type} {x : Except ε α} {f : α → Except ε State} (h : ∀ a, x = .ok a → ExcKept e (f a)) :
    ExcKept e (x >>= f) := by
  cases x with
  | error y => exact fun _ k => nomatch k
  | ok a => exact h a rfl

theorem ExcFst.error {e : State} {ε β : Type} {x : ε} : ExcFst e (.error x : Except ε (State × β)) := fun _ _ h => nomatch h
theorem ExcFst.ok {e : State} {ε β : Type} {p : State × β} (h : Kept e p.1) : ExcFst e (.ok p : Except ε (State × β)) :=
  fun _ _ k => by cases k; exact h
theorem ExcFst.get {e t : State} {ε β : Type} {o : Except ε (State × β)} {b : β} (h : o = .ok (t, b)) (k : ExcFst e o) : Kept e t := k t b h
theorem ExcFst.ite {e : State} {ε β : Type} {a b : Except ε (State × β)} {c : Prop} [Decidable c] (ha : ExcFst e a) (hb : ExcFst e b) :
    ExcFst e (if c then a else b) := by split <;> assumption
/-! ## Plans, mailbox and sideband commands, rows -/

def DoneKept (e : State) (o : Option MbDone) : Prop := ∀ d, o = some d → Kept e d.state
theorem DoneKept.none {e : State} : DoneKept e none := fun _ h => nomatch h
theorem DoneKept.some {e : State} {d : MbDone} (h : Kept e d.state) : DoneKept e (some d) := fun _ k => Option.some.inj k ▸ h
theorem DoneKept.ite {e : State} {a b : Option MbDone} {c : Prop} [Decidable c] (ha : DoneKept e a) (hb : DoneKept e b) :
    DoneKept e (if c then a else b) := by split <;> assumption
def SpecKept (sp : MbSpec) : Prop := ∀ e s port p, Kept e s → DoneKept e (sp.run s port p)
theorem SpecKept.get {sp : MbSpec} (h : SpecKept sp) {e s : State} {port : Nat} {p : List Byte} {d : MbDone} (hd : sp.run s port p = some d)
    (k : Kept e s) : Kept e d.state := h e s port p k d hd
theorem SpecKept.run {sp : MbSpec} (h : SpecKept sp) {e s : State} {port : Nat} {p : List Byte} (k : Kept e s) : DoneKept e (sp.run s port p) :=
  h e s port p k
def SideKept (sp : SbSpec) : Prop := ∀ e s p, Kept e s → Kept e (sp.run s p).2.1

theorem SideKept.get {sp : SbSpec} (h : SideKept sp) {e s : State} {p : List Byte} (k : Kept e s) : Kept e (sp.run s p).2.1 := h e s p k

theorem SideKept.run_mk {e s : State} {p : List Byte} {a : Bool} {m f g : List Byte → Bool} {l : Nat → Bool}
    {r : State → List Byte → Nat × State × List Byte} (h : Kept e (r s p).2.1) : Kept e ((SbSpec.mk a m l f g r).run s p).2.1 := h

/-- The states of a plan are kept. -/
def PlanKept (e : State) : Plan → Prop
  | .noop _ => True
  | .staged _ => True
  | .vector _ _ => True
  | .act t _ _ _ _ => Kept e t
  | .drain t _ _ _ _ _ => Kept e t
  | .wait t _ _ => Kept e t
  | .ended t _ _ => Kept e t

theorem PlanKept.noop {e : State} {n : Nat} : PlanKept e (.noop n) := trivial
theorem PlanKept.staged {e : State} {r : Staged} : PlanKept e (.staged r) := trivial
theorem PlanKept.vector {e : State} {v : Vx} {n : Nat} : PlanKept e (.vector v n) := trivial
theorem PlanKept.act {e t : State} {ws : List SWrite} {n d a : Nat} (h : Kept e t) : PlanKept e (.act t ws n d a) := h
theorem PlanKept.drain {e t : State} {d : Drain} {on : List Nat} {n b a : Nat} (h : Kept e t) : PlanKept e (.drain t d on n b a) := h
theorem PlanKept.wait {e t : State} {ph : Phase} {n : Nat} (h : Kept e t) : PlanKept e (.wait t ph n) := h
theorem PlanKept.ended {e t : State} {a b : Nat} (h : Kept e t) : PlanKept e (.ended t a b) := h
theorem PlanKept.ite {e : State} {a b : Plan} {c : Prop} [Decidable c] (ha : PlanKept e a) (hb : PlanKept e b) :
    PlanKept e (if c then a else b) := by split <;> assumption

/-- What a computation gives, if it gives something, satisfies `P`. -/
def RunAll {α : Type} (P : α → Prop) (r : Run α) : Prop := ∀ l a l', r l = .ok (a, l') → P a
theorem RunAll.pure {α : Type} {P : α → Prop} {a : α} (h : P a) : RunAll P (pure a) := fun _ _ _ k => by cases k; exact h
theorem RunAll.stop {α : Type} {P : α → Prop} {e : Stop} : RunAll P (stopWith e) := fun _ _ _ k => nomatch k
theorem RunAll.finish {α : Type} {P : α → Prop} {a b : Nat} : RunAll P (Machine.finish a b) := fun _ _ _ k => nomatch k
theorem RunAll.lift {α : Type} {P : α → Prop} {x : Except Stop α} (h : ∀ a, x = .ok a → P a) : RunAll P (liftE x) := by
  intro l a l' k
  cases x with
  | error y => exact nomatch k
  | ok b => exact h _ (by cases k; rfl)
theorem RunAll.denied {α : Type} {P : α → Prop} : RunAll P (liftE Machine.denied) := fun _ _ _ k => nomatch k
theorem RunAll.absent {α : Type} {P : α → Prop} {a b : Nat} : RunAll P (liftE (Machine.absent a b)) := fun _ _ _ k => nomatch k
theorem RunAll.sealed {α : Type} {P : α → Prop} {a b : Nat} : RunAll P (liftE (Machine.sealed a b)) := fun _ _ _ k => nomatch k
theorem RunAll.use {α : Type} {P : α → Prop} {r : Run α} (h : RunAll P r) {l l' : Log} {a : α} (k : r l = .ok (a, l')) : P a := h l a l' k
theorem RunAll.bindWith {α β : Type} {Q : α → Prop} {P : β → Prop} {r : Run α} {f : α → Run β} (hr : RunAll Q r)
    (hf : ∀ a, Q a → RunAll P (f a)) : RunAll P (r >>= f) := by
  intro l b l' k
  rw [show (r >>= f) l = (r l >>= fun q => f q.1 q.2) from rfl] at k
  cases hq : r l with
  | error y => rw [hq] at k; exact nomatch k
  | ok q => rw [hq] at k; exact hf q.1 (hr l q.1 q.2 hq) q.2 b l' k
theorem RunAll.bind {α β : Type} {P : β → Prop} {r : Run α} {f : α → Run β} (hf : ∀ a, RunAll P (f a)) : RunAll P (r >>= f) :=
  RunAll.bindWith (Q := fun _ => True) (fun _ _ _ _ => trivial) fun a _ => hf a
theorem RunAll.ite {α : Type} {P : α → Prop} {a b : Run α} {c : Prop} [Decidable c] (ha : RunAll P a) (hb : RunAll P b) :
    RunAll P (if c then a else b) := by split <;> assumption

/-- The state with which a row begins is kept. -/
def BegunKept (e : State) : Begun → Prop
  | .no => True
  | .over t => Kept e t
  | .go t _ => Kept e t
theorem BegunKept.no {e : State} : BegunKept e .no := trivial
theorem BegunKept.over {e t : State} (h : Kept e t) : BegunKept e (.over t) := h
theorem BegunKept.go {e t : State} {f : Flight} (h : Kept e t) : BegunKept e (.go t f) := h
theorem BegunKept.getOver {e t : State} {x : Begun} (h : x = .over t) (k : BegunKept e x) : Kept e t := by subst h; exact k
theorem BegunKept.getGo {e t : State} {f : Flight} {x : Begun} (h : x = .go t f) (k : BegunKept e x) : Kept e t := by subst h; exact k
theorem BegunKept.ite {e : State} {a b : Begun} {c : Prop} [Decidable c] (ha : BegunKept e a) (hb : BegunKept e b) :
    BegunKept e (if c then a else b) := by split <;> assumption

/-- The state at a commit point is kept. -/
def AtKept (e : State) : AtCommit → Prop
  | .wait => True
  | .failed _ _ _ => True
  | .go t _ => Kept e t
theorem AtKept.wait {e : State} : AtKept e .wait := trivial
theorem AtKept.failed {e : State} {a b : Nat} {l : List (Nat × Nat)} : AtKept e (.failed a b l) := trivial
theorem AtKept.go {e t : State} {f : Flight} (h : Kept e t) : AtKept e (.go t f) := h
theorem AtKept.get {e t : State} {f : Flight} {x : AtCommit} (h : x = .go t f) (k : AtKept e x) : Kept e t := by subst h; exact k
theorem AtKept.ite {e : State} {a b : AtCommit} {c : Prop} [Decidable c] (ha : AtKept e a) (hb : AtKept e b) :
    AtKept e (if c then a else b) := by split <;> assumption

abbrev RunKept (e : State) (r : Run Plan) : Prop := RunAll (PlanKept e) r
def BodyKept (b : Body) : Prop := ∀ e s a f p, Kept e s → RunKept e (b s a f p)
theorem BodyKept.use {b : Body} (h : BodyKept b) {e s : State} {a : Actor} {f : Flight} {p : List Byte} (k : Kept e s) : RunKept e (b s a f p) :=
  h e s a f p k

/-- A row's outcome keeps. -/
def OutcomeKept (e : State) (o : Host.Outcome State Fault Refusal) : Prop := ∀ t, o = .next t → Kept e t
theorem OutcomeKept.answer {e t : State} (h : Kept e t) : OutcomeKept e (answer t) := fun _ k => by cases k; exact h

theorem ExcFst.map {e : State} {ε α β : Type} {o : Except ε α} {f : α → State × β} (h : ∀ x, o = .ok x → Kept e (f x).1) :
    ExcFst e (o.map f) := by
  cases o with
  | error y => exact fun _ _ k => nomatch k
  | ok x => exact ExcFst.ok (h x rfl)

end Sys2Proof.Laws
end

