-- ==== Sys2Proof/Laws/KeptOps.lean ====
section
/-!
SUPPORT. Sys2Proof/Laws/KeptOps.lean: what the operations of Machine/Ops.lean keep (Laws/Kept.lean).
-/

set_option linter.unusedTactic false
set_option linter.unreachableTactic false
set_option linter.unusedVariables false

namespace Sys2Proof.Laws

open Sys2Proof.Machine Sys2Proof.Safety

theorem kept_mapChange {e s : State} (h : Kept e s) (f : UnitsMap → UnitsMap) : Kept e (mapChange s f) := by
  unfold mapChange
  rw [mk_put]
  exact h.put (VaultKept.refl _) (MemKept.refl _) id id

theorem kept_setPortLive {e0_ : State} (s : State) (p : Nat) (b : Bool) (h_s : Kept e0_ s) : Kept e0_ (setPortLive s p b) := by
  unfold setPortLive
  repeat' with_reducible first
    | assumption | apply kept_mapChange | (fail_if_no_progress beta_reduce) | split

theorem kept_setTpLive {e0_ : State} (s : State) (p : Nat) (b : Bool) (h_s : Kept e0_ s) : Kept e0_ (setTpLive s p b) := by
  unfold setTpLive
  repeat' with_reducible first
    | assumption | apply kept_mapChange | (fail_if_no_progress beta_reduce) | split

theorem kept_advance {e0_ : State} (s : State) (u : StepUnit) (k : Nat) (h_s : Kept e0_ s) : Kept e0_ (advance s u k) := by
  unfold advance
  repeat' with_reducible first
    | assumption | exact Kept.refl _ | apply Kept.id_of | exact VaultKept.refl _ | exact MemKept.refl _ | exact HostKept.refl _
    | exact VaultKept.upd | exact MemKept.mk id id | exact id | exact (fun w => memWrite_wf w _ _) | exact (fun w => memZero_wf w _ _)
    | exact (fun w => Memory.wf_filter _ w) | apply OptKept.getD | apply Kept.put | (fail_if_no_progress beta_reduce)
    | (refine Kept.foldl ?_ (fun _ _ _ => ?_)) | (refine Kept.foldl_fst ?_ (fun _ _ _ => ?_)) | (refine Kept.foldr ?_ (fun _ _ _ => ?_))
    | split | rw [mk_put] | (refine MemKept.mk ?_ ?_)

theorem kept_advanceAll {e0_ : State} (s : State) (h_s : Kept e0_ s) : Kept e0_ (advanceAll s) := by
  unfold advanceAll
  repeat' with_reducible first
    | assumption | exact Kept.refl _ | apply Kept.id_of | exact VaultKept.refl _ | exact MemKept.refl _ | exact HostKept.refl _
    | exact VaultKept.upd | exact MemKept.mk id id | exact id | exact (fun w => memWrite_wf w _ _) | exact (fun w => memZero_wf w _ _)
    | exact (fun w => Memory.wf_filter _ w) | apply OptKept.getD | apply Kept.put | (fail_if_no_progress beta_reduce)
    | (refine Kept.foldl ?_ (fun _ _ _ => ?_)) | (refine Kept.foldl_fst ?_ (fun _ _ _ => ?_)) | (refine Kept.foldr ?_ (fun _ _ _ => ?_))
    | split | rw [mk_put] | (refine MemKept.mk ?_ ?_)

theorem kept_hostPut {e s : State} (h : Kept e s) (port a : Nat) (bs : List Byte) : Kept e (hostPut s port a bs) := by
  unfold hostPut setHost hostOf
  split <;> rw [mk_put]
  · exact h.put (VaultKept.refl _) (MemKept.refl _) (fun w => memWrite_wf w a bs) id
  · exact h.put (VaultKept.refl _) (MemKept.refl _) id (fun w => memWrite_wf w a bs)

theorem kept_setMbox {e0_ : State} (s : State) (port : Nat) (m : Mbox) (h_s : Kept e0_ s) : Kept e0_ (setMbox s port m) := by
  unfold setMbox
  repeat' with_reducible first
    | assumption | exact Kept.refl _ | apply Kept.id_of | exact VaultKept.refl _ | exact MemKept.refl _ | exact HostKept.refl _
    | exact VaultKept.upd | exact MemKept.mk id id | exact id | exact (fun w => memWrite_wf w _ _) | exact (fun w => memZero_wf w _ _)
    | exact (fun w => Memory.wf_filter _ w) | apply OptKept.getD | apply Kept.put | (fail_if_no_progress beta_reduce)
    | (refine Kept.foldl ?_ (fun _ _ _ => ?_)) | (refine Kept.foldl_fst ?_ (fun _ _ _ => ?_)) | (refine Kept.foldr ?_ (fun _ _ _ => ?_))
    | split | rw [mk_put] | (refine MemKept.mk ?_ ?_)

theorem kept_send {e0_ : State} (s : State) (o : Out) (h_s : Kept e0_ s) : Kept e0_ (send s o) := by
  unfold send
  repeat' with_reducible first
    | assumption | exact Kept.refl _ | apply Kept.id_of | exact VaultKept.refl _ | exact MemKept.refl _ | exact HostKept.refl _
    | exact VaultKept.upd | exact MemKept.mk id id | exact id | exact (fun w => memWrite_wf w _ _) | exact (fun w => memZero_wf w _ _)
    | exact (fun w => Memory.wf_filter _ w) | apply OptKept.getD | apply Kept.put | (fail_if_no_progress beta_reduce)
    | (refine Kept.foldl ?_ (fun _ _ _ => ?_)) | (refine Kept.foldl_fst ?_ (fun _ _ _ => ?_)) | (refine Kept.foldr ?_ (fun _ _ _ => ?_))
    | split | rw [mk_put] | (refine MemKept.mk ?_ ?_)

theorem kept_drawFresh {e0_ : State} (s : State) (h_s : Kept e0_ s) : Kept e0_ (drawFresh s).2 := by
  unfold drawFresh
  repeat' with_reducible first
    | assumption | exact Kept.refl _ | apply Kept.id_of | exact VaultKept.refl _ | exact MemKept.refl _ | exact HostKept.refl _
    | exact VaultKept.upd | exact MemKept.mk id id | exact id | exact (fun w => memWrite_wf w _ _) | exact (fun w => memZero_wf w _ _)
    | exact (fun w => Memory.wf_filter _ w) | apply OptKept.getD | apply Kept.put | (fail_if_no_progress beta_reduce)
    | (refine Kept.foldl ?_ (fun _ _ _ => ?_)) | (refine Kept.foldl_fst ?_ (fun _ _ _ => ?_)) | (refine Kept.foldr ?_ (fun _ _ _ => ?_))
    | split | rw [mk_put] | (refine MemKept.mk ?_ ?_)

theorem kept_deliverEvent {e0_ : State} (record : List Byte) (s : State) (port : Nat) (h_s : Kept e0_ s) : Kept e0_ (deliverEvent record s port) := by
  unfold deliverEvent
  repeat' with_reducible first
    | assumption | exact Kept.refl _ | apply Kept.id_of | exact VaultKept.refl _ | exact MemKept.refl _ | exact HostKept.refl _
    | exact VaultKept.upd | exact MemKept.mk id id | exact id | exact (fun w => memWrite_wf w _ _) | exact (fun w => memZero_wf w _ _)
    | exact (fun w => Memory.wf_filter _ w) | apply kept_hostPut | apply kept_setMbox | apply kept_send | apply OptKept.getD
    | apply Kept.put | apply Kept.ite | (refine Kept.foldl ?_ (fun _ _ _ => ?_)) | (refine Kept.foldl_fst ?_ (fun _ _ _ => ?_))
    | (refine Kept.foldr ?_ (fun _ _ _ => ?_)) | (fail_if_no_progress beta_reduce)
    | ((try lift_lets -underBinder); intro xx; first | (refine Kept.use (P := Kept e0_ xx) ?_ (fun hx => ?_); (on_goal 2 => clear_value xx); (on_goal 1 => subst xx)) | clear_value xx)
    | split | rw [mk_put] | (refine MemKept.mk ?_ ?_)

theorem kept_raiseEvent {e0_ : State} (s : State) (code : Nat) (payload : List Byte) (h_s : Kept e0_ s) : Kept e0_ (raiseEvent s code payload) := by
  unfold raiseEvent
  repeat' with_reducible first
    | assumption | exact Kept.refl _ | apply Kept.id_of | exact VaultKept.refl _ | exact MemKept.refl _ | exact HostKept.refl _
    | exact VaultKept.upd | exact MemKept.mk id id | exact id | exact (fun w => memWrite_wf w _ _) | exact (fun w => memZero_wf w _ _)
    | exact (fun w => Memory.wf_filter _ w) | apply kept_deliverEvent | apply OptKept.getD | apply Kept.put
    | (fail_if_no_progress beta_reduce) | (refine Kept.foldl ?_ (fun _ _ _ => ?_)) | (refine Kept.foldl_fst ?_ (fun _ _ _ => ?_))
    | (refine Kept.foldr ?_ (fun _ _ _ => ?_)) | split | rw [mk_put] | (refine MemKept.mk ?_ ?_)

theorem kept_raiseError {e0_ : State} (s : State) (e : ErrInfo) (h_s : Kept e0_ s) : Kept e0_ (raiseError s e) := by
  unfold raiseError
  repeat' with_reducible first
    | assumption | exact Kept.refl _ | apply Kept.id_of | exact VaultKept.refl _ | exact MemKept.refl _ | exact HostKept.refl _
    | exact VaultKept.upd | exact MemKept.mk id id | exact id | exact (fun w => memWrite_wf w _ _) | exact (fun w => memZero_wf w _ _)
    | exact (fun w => Memory.wf_filter _ w) | apply kept_raiseEvent | apply OptKept.getD | apply Kept.put | apply Kept.ite
    | (refine Kept.foldl ?_ (fun _ _ _ => ?_)) | (refine Kept.foldl_fst ?_ (fun _ _ _ => ?_)) | (refine Kept.foldr ?_ (fun _ _ _ => ?_))
    | (fail_if_no_progress beta_reduce)
    | ((try lift_lets -underBinder); intro xx; first | (refine Kept.use (P := Kept e0_ xx) ?_ (fun hx => ?_); (on_goal 2 => clear_value xx); (on_goal 1 => subst xx)) | clear_value xx)
    | split | rw [mk_put] | (refine MemKept.mk ?_ ?_)

end Sys2Proof.Laws
end

