-- ==== Sys2Proof/Laws/KeptDomain.lean ====
section
/-!
SUPPORT. Sys2Proof/Laws/KeptDomain.lean: what the operations of Machine/Domain.lean keep (Laws/Kept.lean).
-/

set_option linter.unusedTactic false
set_option linter.unreachableTactic false
set_option linter.unusedVariables false

namespace Sys2Proof.Laws

open Sys2Proof.Machine Sys2Proof.Safety

theorem kept_putLink {e0_ : State} (s : State) (p : Nat) (l : Link) (h_s : Kept e0_ s) : Kept e0_ (putLink s p l) := by
  unfold putLink
  repeat' with_reducible first
    | assumption | exact Kept.refl _ | apply Kept.id_of | exact VaultKept.refl _ | exact MemKept.refl _ | exact HostKept.refl _
    | exact VaultKept.upd | exact MemKept.mk id id | exact id | exact (fun w => memWrite_wf w _ _) | exact (fun w => memZero_wf w _ _)
    | exact (fun w => Memory.wf_filter _ w) | apply OptKept.getD | apply Kept.put | (fail_if_no_progress beta_reduce)
    | (refine Kept.foldl ?_ (fun _ _ _ => ?_)) | (refine Kept.foldl_fst ?_ (fun _ _ _ => ?_)) | (refine Kept.foldr ?_ (fun _ _ _ => ?_))
    | split | rw [mk_put] | (refine MemKept.mk ?_ ?_)

theorem kept_sendFrames {e0_ : State} (s : State) (port len : Nat) (msg : Nat → Out) (h_s : Kept e0_ s) : Kept e0_ (sendFrames s port len msg) := by
  unfold sendFrames
  repeat' with_reducible first
    | assumption | apply kept_send | apply kept_putLink | (fail_if_no_progress beta_reduce) | split

theorem kept_takeFrames {e0_ : State} (s : State) (port len : Nat) (h_s : Kept e0_ s) : Kept e0_ (takeFrames s port len) := by
  unfold takeFrames
  repeat' with_reducible first
    | assumption | apply kept_putLink | (fail_if_no_progress beta_reduce) | split

theorem kept_linkEvent {e0_ : State} (s : State) (port reason detail : Nat) (h_s : Kept e0_ s) : Kept e0_ (linkEvent s port reason detail) := by
  unfold linkEvent
  repeat' with_reducible first
    | assumption | apply kept_raiseEvent | (fail_if_no_progress beta_reduce) | split

theorem kept_compareLink {e0_ : State} (s : State) (port : Nat) (h_s : Kept e0_ s) : Kept e0_ (compareLink s port) := by
  unfold compareLink
  repeat' with_reducible first
    | assumption | exact Kept.refl _ | apply Kept.id_of | exact VaultKept.refl _ | exact MemKept.refl _ | exact HostKept.refl _
    | exact VaultKept.upd | exact MemKept.mk id id | exact id | exact (fun w => memWrite_wf w _ _) | exact (fun w => memZero_wf w _ _)
    | exact (fun w => Memory.wf_filter _ w) | apply kept_setTpLive | apply kept_putLink | apply kept_linkEvent | apply OptKept.getD
    | apply Kept.put | apply Kept.ite | (refine Kept.foldl ?_ (fun _ _ _ => ?_)) | (refine Kept.foldl_fst ?_ (fun _ _ _ => ?_))
    | (refine Kept.foldr ?_ (fun _ _ _ => ?_)) | (fail_if_no_progress beta_reduce)
    | ((try lift_lets -underBinder); intro xx; first | (refine Kept.use (P := Kept e0_ xx) ?_ (fun hx => ?_); (on_goal 2 => clear_value xx); (on_goal 1 => subst xx)) | clear_value xx)
    | split | rw [mk_put] | (refine MemKept.mk ?_ ?_)

theorem kept_sendManagement {e0_ : State} (s : State) (port kind src epoch : Nat) (payload : List Byte) (h_s : Kept e0_ s) : Kept e0_ (sendManagement s port kind src epoch payload) := by
  unfold sendManagement
  repeat' with_reducible first
    | assumption | apply kept_sendFrames | (fail_if_no_progress beta_reduce) | split

theorem kept_announce {e0_ : State} (s : State) (h_s : Kept e0_ s) : Kept e0_ (announce s) := by
  unfold announce
  repeat' with_reducible first
    | assumption | exact Kept.refl _ | apply Kept.id_of | exact VaultKept.refl _ | exact MemKept.refl _ | exact HostKept.refl _
    | exact VaultKept.upd | exact MemKept.mk id id | exact id | exact (fun w => memWrite_wf w _ _) | exact (fun w => memZero_wf w _ _)
    | exact (fun w => Memory.wf_filter _ w) | apply kept_compareLink | apply kept_sendManagement | apply OptKept.getD | apply Kept.put
    | (fail_if_no_progress beta_reduce) | (refine Kept.foldl ?_ (fun _ _ _ => ?_)) | (refine Kept.foldl_fst ?_ (fun _ _ _ => ?_))
    | (refine Kept.foldr ?_ (fun _ _ _ => ?_)) | split | rw [mk_put] | (refine MemKept.mk ?_ ?_)

theorem kept_putBarrier {e0_ : State} (s : State) (b : Barrier) (h_s : Kept e0_ s) : Kept e0_ (putBarrier s b) := by
  unfold putBarrier
  repeat' with_reducible first
    | assumption | exact Kept.refl _ | apply Kept.id_of | exact VaultKept.refl _ | exact MemKept.refl _ | exact HostKept.refl _
    | exact VaultKept.upd | exact MemKept.mk id id | exact id | exact (fun w => memWrite_wf w _ _) | exact (fun w => memZero_wf w _ _)
    | exact (fun w => Memory.wf_filter _ w) | apply OptKept.getD | apply Kept.put | (fail_if_no_progress beta_reduce)
    | (refine Kept.foldl ?_ (fun _ _ _ => ?_)) | (refine Kept.foldl_fst ?_ (fun _ _ _ => ?_)) | (refine Kept.foldr ?_ (fun _ _ _ => ?_))
    | split | rw [mk_put] | (refine MemKept.mk ?_ ?_)

theorem kept_noteSeen {e0_ : State} (s : State) (key : Nat × Nat × Nat) (h_s : Kept e0_ s) : Kept e0_ (noteSeen s key) := by
  unfold noteSeen
  repeat' with_reducible first
    | assumption | exact Kept.refl _ | apply Kept.id_of | exact VaultKept.refl _ | exact MemKept.refl _ | exact HostKept.refl _
    | exact VaultKept.upd | exact MemKept.mk id id | exact id | exact (fun w => memWrite_wf w _ _) | exact (fun w => memZero_wf w _ _)
    | exact (fun w => Memory.wf_filter _ w) | apply OptKept.getD | apply Kept.put | apply Kept.ite
    | (refine Kept.foldl ?_ (fun _ _ _ => ?_)) | (refine Kept.foldl_fst ?_ (fun _ _ _ => ?_)) | (refine Kept.foldr ?_ (fun _ _ _ => ?_))
    | (fail_if_no_progress beta_reduce)
    | ((try lift_lets -underBinder); intro xx; first | (refine Kept.use (P := Kept e0_ xx) ?_ (fun hx => ?_); (on_goal 2 => clear_value xx); (on_goal 1 => subst xx)) | clear_value xx)
    | split | rw [mk_put] | (refine MemKept.mk ?_ ?_)

theorem kept_flood {e0_ : State} (s : State) (kind src epoch : Nat) (from_ : Option Nat) (h_s : Kept e0_ s) : Kept e0_ (flood s kind src epoch from_) := by
  unfold flood
  repeat' with_reducible first
    | assumption | exact Kept.refl _ | apply Kept.id_of | exact VaultKept.refl _ | exact MemKept.refl _ | exact HostKept.refl _
    | exact VaultKept.upd | exact MemKept.mk id id | exact id | exact (fun w => memWrite_wf w _ _) | exact (fun w => memZero_wf w _ _)
    | exact (fun w => Memory.wf_filter _ w) | apply kept_sendManagement | apply OptKept.getD | apply Kept.put
    | (fail_if_no_progress beta_reduce) | (refine Kept.foldl ?_ (fun _ _ _ => ?_)) | (refine Kept.foldl_fst ?_ (fun _ _ _ => ?_))
    | (refine Kept.foldr ?_ (fun _ _ _ => ?_)) | split | rw [mk_put] | (refine MemKept.mk ?_ ?_)

theorem kept_tryEnter {e0_ : State} (s : State) (h_s : Kept e0_ s) : Kept e0_ (tryEnter s) := by
  unfold tryEnter
  repeat' with_reducible first
    | assumption | exact Kept.refl _ | apply Kept.id_of | exact VaultKept.refl _ | exact MemKept.refl _ | exact HostKept.refl _
    | exact VaultKept.upd | exact MemKept.mk id id | exact id | exact (fun w => memWrite_wf w _ _) | exact (fun w => memZero_wf w _ _)
    | exact (fun w => Memory.wf_filter _ w) | apply kept_putBarrier | apply kept_linkEvent | apply kept_announce | apply OptKept.getD
    | apply Kept.put | apply Kept.ite | (refine Kept.foldl ?_ (fun _ _ _ => ?_)) | (refine Kept.foldl_fst ?_ (fun _ _ _ => ?_))
    | (refine Kept.foldr ?_ (fun _ _ _ => ?_)) | (fail_if_no_progress beta_reduce)
    | ((try lift_lets -underBinder); intro xx; first | (refine Kept.use (P := Kept e0_ xx) ?_ (fun hx => ?_); (on_goal 2 => clear_value xx); (on_goal 1 => subst xx)) | clear_value xx)
    | split | rw [mk_put] | (refine MemKept.mk ?_ ?_)

theorem kept_tryArrive {e0_ : State} (s : State) (h_s : Kept e0_ s) : Kept e0_ (tryArrive s) := by
  unfold tryArrive
  repeat' with_reducible first
    | assumption | exact Kept.refl _ | apply Kept.id_of | exact VaultKept.refl _ | exact MemKept.refl _ | exact HostKept.refl _
    | exact VaultKept.upd | exact MemKept.mk id id | exact id | exact (fun w => memWrite_wf w _ _) | exact (fun w => memZero_wf w _ _)
    | exact (fun w => Memory.wf_filter _ w) | apply kept_noteSeen | apply kept_putBarrier | apply kept_tryEnter | apply kept_flood
    | apply OptKept.getD | apply Kept.put | apply Kept.ite | (refine Kept.foldl ?_ (fun _ _ _ => ?_))
    | (refine Kept.foldl_fst ?_ (fun _ _ _ => ?_)) | (refine Kept.foldr ?_ (fun _ _ _ => ?_)) | (fail_if_no_progress beta_reduce)
    | ((try lift_lets -underBinder); intro xx; first | (refine Kept.use (P := Kept e0_ xx) ?_ (fun hx => ?_); (on_goal 2 => clear_value xx); (on_goal 1 => subst xx)) | clear_value xx)
    | split | rw [mk_put] | (refine MemKept.mk ?_ ?_)

end Sys2Proof.Laws
end

