-- ==== Sys2Proof/Laws/KeptCommit.lean ====
section
/-!
SUPPORT. Sys2Proof/Laws/KeptCommit.lean: what the operations of Machine/Commit.lean keep (Laws/Kept.lean).
-/

set_option linter.unusedTactic false
set_option linter.unreachableTactic false
set_option linter.unusedVariables false

namespace Sys2Proof.Laws

open Sys2Proof.Machine Sys2Proof.Safety

theorem kept_putShoe {e0_ : State} (s : State) (n : Nat) (h : Shoe) (h_s : Kept e0_ s) : Kept e0_ (putShoe s n h) := by
  unfold putShoe
  repeat' with_reducible first
    | assumption | exact Kept.refl _ | apply Kept.id_of | exact VaultKept.refl _ | exact MemKept.refl _ | exact HostKept.refl _
    | exact VaultKept.upd | exact MemKept.mk id id | exact id | exact (fun w => memWrite_wf w _ _) | exact (fun w => memZero_wf w _ _)
    | exact (fun w => Memory.wf_filter _ w) | apply OptKept.getD | apply Kept.put | (fail_if_no_progress beta_reduce)
    | (refine Kept.foldl ?_ (fun _ _ _ => ?_)) | (refine Kept.foldl_fst ?_ (fun _ _ _ => ?_)) | (refine Kept.foldr ?_ (fun _ _ _ => ?_))
    | split | rw [mk_put] | (refine MemKept.mk ?_ ?_)

theorem kept_modShoe {e0_ : State} (s : State) (n : Nat) (f : Shoe → Shoe) (h_s : Kept e0_ s) : Kept e0_ (modShoe s n f) := by
  unfold modShoe
  repeat' with_reducible first
    | assumption | apply kept_putShoe | (fail_if_no_progress beta_reduce) | split

theorem kept_setFlights {e0_ : State} (s : State) (l : List Flight) (h_s : Kept e0_ s) : Kept e0_ (setFlights s l) := by
  unfold setFlights
  repeat' with_reducible first
    | assumption | exact Kept.refl _ | apply Kept.id_of | exact VaultKept.refl _ | exact MemKept.refl _ | exact HostKept.refl _
    | exact VaultKept.upd | exact MemKept.mk id id | exact id | exact (fun w => memWrite_wf w _ _) | exact (fun w => memZero_wf w _ _)
    | exact (fun w => Memory.wf_filter _ w) | apply OptKept.getD | apply Kept.put | (fail_if_no_progress beta_reduce)
    | (refine Kept.foldl ?_ (fun _ _ _ => ?_)) | (refine Kept.foldl_fst ?_ (fun _ _ _ => ?_)) | (refine Kept.foldr ?_ (fun _ _ _ => ?_))
    | split | rw [mk_put] | (refine MemKept.mk ?_ ?_)

theorem kept_unname {e0_ : State} (s : State) (cid : Nat) (lose : Bool) (h_s : Kept e0_ s) : Kept e0_ (unname s cid lose) := by
  unfold unname
  repeat' with_reducible first
    | assumption | exact Kept.refl _ | apply Kept.id_of | exact VaultKept.refl _ | exact MemKept.refl _ | exact HostKept.refl _
    | exact VaultKept.upd | exact MemKept.mk id id | exact id | exact (fun w => memWrite_wf w _ _) | exact (fun w => memZero_wf w _ _)
    | exact (fun w => Memory.wf_filter _ w) | apply OptKept.getD | apply Kept.put | apply Kept.ite
    | (refine Kept.foldl ?_ (fun _ _ _ => ?_)) | (refine Kept.foldl_fst ?_ (fun _ _ _ => ?_)) | (refine Kept.foldr ?_ (fun _ _ _ => ?_))
    | (fail_if_no_progress beta_reduce)
    | ((try lift_lets -underBinder); intro xx; first | (refine Kept.use (P := Kept e0_ xx) ?_ (fun hx => ?_); (on_goal 2 => clear_value xx); (on_goal 1 => subst xx)) | (have yy : _ → _ := xx; clear yy; subst xx) | (have yy : Memories := xx; clear yy; subst xx) | (have yy : Vault := xx; clear yy; subst xx) | (have yy : HostEnv := xx; clear yy; subst xx) | clear_value xx)
    | split | rw [mk_put] | (refine MemKept.mk ?_ ?_)

theorem kept_putFlight {e0_ : State} (s : State) (f : Flight) (h_s : Kept e0_ s) : Kept e0_ (putFlight s f) := by
  unfold putFlight
  repeat' with_reducible first
    | assumption | apply kept_setFlights | (fail_if_no_progress beta_reduce) | split

theorem kept_dropFlight {e0_ : State} (s : State) (cid : Nat) (h_s : Kept e0_ s) : Kept e0_ (dropFlight s cid) := by
  unfold dropFlight
  repeat' with_reducible first
    | assumption | exact Kept.refl _ | apply Kept.id_of | exact VaultKept.refl _ | exact MemKept.refl _ | exact HostKept.refl _
    | exact VaultKept.upd | exact MemKept.mk id id | exact id | exact (fun w => memWrite_wf w _ _) | exact (fun w => memZero_wf w _ _)
    | exact (fun w => Memory.wf_filter _ w) | apply kept_unname | apply kept_setFlights | apply OptKept.getD | apply Kept.put
    | apply Kept.ite | (refine Kept.foldl ?_ (fun _ _ _ => ?_)) | (refine Kept.foldl_fst ?_ (fun _ _ _ => ?_))
    | (refine Kept.foldr ?_ (fun _ _ _ => ?_)) | (fail_if_no_progress beta_reduce)
    | ((try lift_lets -underBinder); intro xx; first | (refine Kept.use (P := Kept e0_ xx) ?_ (fun hx => ?_); (on_goal 2 => clear_value xx); (on_goal 1 => subst xx)) | (have yy : _ → _ := xx; clear yy; subst xx) | (have yy : Memories := xx; clear yy; subst xx) | (have yy : Vault := xx; clear yy; subst xx) | (have yy : HostEnv := xx; clear yy; subst xx) | clear_value xx)
    | split | rw [mk_put] | (refine MemKept.mk ?_ ?_)

theorem kept_ringTails {e0_ : State} (s : State) (units : List Nat) (h_s : Kept e0_ s) : Kept e0_ (ringTails s units) := by
  unfold ringTails
  repeat' with_reducible first
    | assumption | exact Kept.refl _ | apply Kept.id_of | exact VaultKept.refl _ | exact MemKept.refl _ | exact HostKept.refl _
    | exact VaultKept.upd | exact MemKept.mk id id | exact id | exact (fun w => memWrite_wf w _ _) | exact (fun w => memZero_wf w _ _)
    | exact (fun w => Memory.wf_filter _ w) | apply OptKept.getD | apply Kept.put | (fail_if_no_progress beta_reduce)
    | (refine Kept.foldl ?_ (fun _ _ _ => ?_)) | (refine Kept.foldl_fst ?_ (fun _ _ _ => ?_)) | (refine Kept.foldr ?_ (fun _ _ _ => ?_))
    | split | rw [mk_put] | (refine MemKept.mk ?_ ?_)

theorem kept_afterWrite {e0_ : State} (s : State) (pa len : Nat) (h_s : Kept e0_ s) : Kept e0_ (afterWrite s pa len) := by
  unfold afterWrite
  repeat' with_reducible first
    | assumption | exact Kept.refl _ | apply Kept.id_of | exact VaultKept.refl _ | exact MemKept.refl _ | exact HostKept.refl _
    | exact VaultKept.upd | exact MemKept.mk id id | exact id | exact (fun w => memWrite_wf w _ _) | exact (fun w => memZero_wf w _ _)
    | exact (fun w => Memory.wf_filter _ w) | apply OptKept.getD | apply Kept.put | apply Kept.ite
    | (refine Kept.foldl ?_ (fun _ _ _ => ?_)) | (refine Kept.foldl_fst ?_ (fun _ _ _ => ?_)) | (refine Kept.foldr ?_ (fun _ _ _ => ?_))
    | (fail_if_no_progress beta_reduce)
    | ((try lift_lets -underBinder); intro xx; first | (refine Kept.use (P := Kept e0_ xx) ?_ (fun hx => ?_); (on_goal 2 => clear_value xx); (on_goal 1 => subst xx)) | (have yy : _ → _ := xx; clear yy; subst xx) | (have yy : Memories := xx; clear yy; subst xx) | (have yy : Vault := xx; clear yy; subst xx) | (have yy : HostEnv := xx; clear yy; subst xx) | clear_value xx)
    | split | rw [mk_put] | (refine MemKept.mk ?_ ?_)

theorem kept_putCovered {e0_ : State} (cov : List (Nat × Nat)) (s : State) (pa : Nat) (bs : List Byte) (h : Kept e0_ s) :
    Kept e0_ (putCovered cov s pa bs).1 := by
  unfold putCovered
  dsimp only
  split
  · apply kept_afterWrite
    rw [mk_put]
    exact h.put (VaultKept.refl _) ⟨fun w => memWrite_wf w _ _, id⟩ (HostKept.refl _) (HostKept.refl _)
  · split
    · apply kept_afterWrite
      rw [mk_put]
      refine h.put (VaultKept.refl _) ⟨fun w => ?_, id⟩ (HostKept.refl _) (HostKept.refl _)
      refine mem_foldl w fun m u hm => ?_
      split
      · exact hm
      · exact memWrite_wf hm _ _
    · apply kept_afterWrite
      rw [mk_put]
      exact h.put (VaultKept.refl _) ⟨fun w => memWrite_wf w _ _, id⟩ (HostKept.refl _) (HostKept.refl _)

theorem kept_putMem {e0_ : State} (s : State) (pa : Nat) (bs : List Byte) (h_s : Kept e0_ s) : Kept e0_ (putMem s pa bs).1 := by
  unfold putMem
  repeat' with_reducible first
    | assumption | exact Kept.refl _ | apply Kept.id_of | exact VaultKept.refl _ | exact MemKept.refl _ | exact HostKept.refl _
    | exact VaultKept.upd | exact MemKept.mk id id | exact id | exact (fun w => memWrite_wf w _ _) | exact (fun w => memZero_wf w _ _)
    | exact (fun w => Memory.wf_filter _ w) | apply kept_putCovered | (refine Kept.fst_of (by assumption) ?_; apply kept_putCovered)
    | apply OptKept.getD | apply Kept.put | apply Kept.ite | (refine Kept.foldl ?_ (fun _ _ _ => ?_))
    | (refine Kept.foldl_fst ?_ (fun _ _ _ => ?_)) | (refine Kept.foldr ?_ (fun _ _ _ => ?_)) | (fail_if_no_progress beta_reduce)
    | ((try lift_lets -underBinder); intro xx; first | (refine Kept.use (P := Kept e0_ xx) ?_ (fun hx => ?_); (on_goal 2 => clear_value xx); (on_goal 1 => subst xx)) | clear_value xx)
    | split | rw [mk_put] | (refine MemKept.mk ?_ ?_)

theorem kept_zeroMem {e0_ : State} (s : State) (pa len : Nat) (h_s : Kept e0_ s) : Kept e0_ (zeroMem s pa len) := by
  unfold zeroMem
  repeat' with_reducible first
    | assumption | exact Kept.refl _ | apply Kept.id_of | exact VaultKept.refl _ | exact MemKept.refl _ | exact HostKept.refl _
    | exact VaultKept.upd | exact MemKept.mk id id | exact id | exact (fun w => memWrite_wf w _ _) | exact (fun w => memZero_wf w _ _)
    | exact (fun w => Memory.wf_filter _ w) | apply kept_afterWrite | apply OptKept.getD | apply Kept.put | apply Kept.ite
    | (refine Kept.foldl ?_ (fun _ _ _ => ?_)) | (refine Kept.foldl_fst ?_ (fun _ _ _ => ?_)) | (refine Kept.foldr ?_ (fun _ _ _ => ?_))
    | (fail_if_no_progress beta_reduce)
    | ((try lift_lets -underBinder); intro xx; first | (refine Kept.use (P := Kept e0_ xx) ?_ (fun hx => ?_); (on_goal 2 => clear_value xx); (on_goal 1 => subst xx)) | (have yy : _ → _ := xx; clear yy; subst xx) | (have yy : Memories := xx; clear yy; subst xx) | (have yy : Vault := xx; clear yy; subst xx) | (have yy : HostEnv := xx; clear yy; subst xx) | clear_value xx)
    | split | rw [mk_put] | (refine MemKept.mk ?_ ?_)

theorem kept_tagStores {e0_ : State} (s : State) (f : Flight) (l : Loc) (len : Nat) (h_s : Kept e0_ s) : Kept e0_ (tagStores s f l len) := by
  unfold tagStores
  repeat' with_reducible first
    | assumption | exact Kept.refl _ | apply Kept.id_of | exact VaultKept.refl _ | exact MemKept.refl _ | exact HostKept.refl _
    | exact VaultKept.upd | exact MemKept.mk id id | exact id | exact (fun w => memWrite_wf w _ _) | exact (fun w => memZero_wf w _ _)
    | exact (fun w => Memory.wf_filter _ w) | apply OptKept.getD | apply Kept.put | apply Kept.ite
    | (refine Kept.foldl ?_ (fun _ _ _ => ?_)) | (refine Kept.foldl_fst ?_ (fun _ _ _ => ?_)) | (refine Kept.foldr ?_ (fun _ _ _ => ?_))
    | (fail_if_no_progress beta_reduce)
    | ((try lift_lets -underBinder); intro xx; first | (refine Kept.use (P := Kept e0_ xx) ?_ (fun hx => ?_); (on_goal 2 => clear_value xx); (on_goal 1 => subst xx)) | (have yy : _ → _ := xx; clear yy; subst xx) | (have yy : Memories := xx; clear yy; subst xx) | (have yy : Vault := xx; clear yy; subst xx) | (have yy : HostEnv := xx; clear yy; subst xx) | clear_value xx)
    | split | rw [mk_put] | (refine MemKept.mk ?_ ?_)

theorem kept_sealUnit {e0_ : State} (ws : List SWrite) (s : State) (x : WinUnit × List Byte × Nat × Nat) (h_s : Kept e0_ s) : Kept e0_ (sealUnit ws s x) := by
  unfold sealUnit
  repeat' with_reducible first
    | assumption | exact Kept.refl _ | apply Kept.id_of | exact VaultKept.refl _ | exact MemKept.refl _ | exact HostKept.refl _
    | exact VaultKept.upd | exact MemKept.mk id id | exact id | exact (fun w => memWrite_wf w _ _) | exact (fun w => memZero_wf w _ _)
    | exact (fun w => Memory.wf_filter _ w) | apply kept_hostPut | apply OptKept.getD | apply Kept.put | apply Kept.ite
    | (refine Kept.foldl ?_ (fun _ _ _ => ?_)) | (refine Kept.foldl_fst ?_ (fun _ _ _ => ?_)) | (refine Kept.foldr ?_ (fun _ _ _ => ?_))
    | (fail_if_no_progress beta_reduce)
    | ((try lift_lets -underBinder); intro xx; first | (refine Kept.use (P := Kept e0_ xx) ?_ (fun hx => ?_); (on_goal 2 => clear_value xx); (on_goal 1 => subst xx)) | clear_value xx)
    | split | rw [mk_put] | (refine MemKept.mk ?_ ?_)

theorem kept_writeWindows {e0_ : State} (p : Place) (s : State) (ws : List SWrite) (h_s : Kept e0_ s) : Kept e0_ (writeWindows p s ws).1 := by
  unfold writeWindows
  repeat' with_reducible first
    | assumption | exact Kept.refl _ | apply Kept.id_of | exact VaultKept.refl _ | exact MemKept.refl _ | exact HostKept.refl _
    | exact VaultKept.upd | exact MemKept.mk id id | exact id | exact (fun w => memWrite_wf w _ _) | exact (fun w => memZero_wf w _ _)
    | exact (fun w => Memory.wf_filter _ w) | apply kept_sealUnit | apply kept_done | apply OptKept.getD | apply Kept.put
    | apply Kept.ite | (refine Kept.foldl ?_ (fun _ _ _ => ?_)) | (refine Kept.foldl_fst ?_ (fun _ _ _ => ?_))
    | (refine Kept.foldr ?_ (fun _ _ _ => ?_)) | (fail_if_no_progress beta_reduce)
    | ((try lift_lets -underBinder); intro xx; first | (refine Kept.use (P := Kept e0_ xx) ?_ (fun hx => ?_); (on_goal 2 => clear_value xx); (on_goal 1 => subst xx)) | clear_value xx)
    | split | rw [mk_put] | (refine MemKept.mk ?_ ?_)

theorem kept_writeOne {e0_ : State} (cov : List (Nat × Nat)) (f : Flight) (s : State) (w : SWrite) (h_s : Kept e0_ s) : Kept e0_ (writeOne cov f s w).1 := by
  unfold writeOne
  repeat' with_reducible first
    | assumption | exact Kept.refl _ | apply Kept.id_of | exact VaultKept.refl _ | exact MemKept.refl _ | exact HostKept.refl _
    | exact VaultKept.upd | exact MemKept.mk id id | exact id | exact (fun w => memWrite_wf w _ _) | exact (fun w => memZero_wf w _ _)
    | exact (fun w => Memory.wf_filter _ w) | apply kept_tagStores | apply kept_putCovered
    | (refine Kept.fst_of (by assumption) ?_; apply kept_putCovered) | apply kept_hostPut | apply OptKept.getD | apply Kept.put
    | apply Kept.ite | (refine Kept.foldl ?_ (fun _ _ _ => ?_)) | (refine Kept.foldl_fst ?_ (fun _ _ _ => ?_))
    | (refine Kept.foldr ?_ (fun _ _ _ => ?_)) | (fail_if_no_progress beta_reduce)
    | ((try lift_lets -underBinder); intro xx; first | (refine Kept.use (P := Kept e0_ xx) ?_ (fun hx => ?_); (on_goal 2 => clear_value xx); (on_goal 1 => subst xx)) | (have yy : _ → _ := xx; clear yy; subst xx) | (have yy : Memories := xx; clear yy; subst xx) | (have yy : Vault := xx; clear yy; subst xx) | (have yy : HostEnv := xx; clear yy; subst xx) | clear_value xx)
    | split | rw [mk_put] | (refine MemKept.mk ?_ ?_)

theorem kept_ringFor {e0_ : State} (s : State) (ws : List SWrite) (h_s : Kept e0_ s) : Kept e0_ (ringFor s ws) := by
  unfold ringFor
  repeat' with_reducible first
    | assumption | exact Kept.refl _ | apply Kept.id_of | exact VaultKept.refl _ | exact MemKept.refl _ | exact HostKept.refl _
    | exact VaultKept.upd | exact MemKept.mk id id | exact id | exact (fun w => memWrite_wf w _ _) | exact (fun w => memZero_wf w _ _)
    | exact (fun w => Memory.wf_filter _ w) | apply kept_ringTails | apply OptKept.getD | apply Kept.put | apply Kept.ite
    | (refine Kept.foldl ?_ (fun _ _ _ => ?_)) | (refine Kept.foldl_fst ?_ (fun _ _ _ => ?_)) | (refine Kept.foldr ?_ (fun _ _ _ => ?_))
    | (fail_if_no_progress beta_reduce)
    | ((try lift_lets -underBinder); intro xx; first | (refine Kept.use (P := Kept e0_ xx) ?_ (fun hx => ?_); (on_goal 2 => clear_value xx); (on_goal 1 => subst xx)) | clear_value xx)
    | split | rw [mk_put] | (refine MemKept.mk ?_ ?_)

theorem kept_writeRuns {e0_ : State} (f : Flight) (s : State) (ws : List SWrite) (h_s : Kept e0_ s) : Kept e0_ (writeRuns f s ws).1 := by
  unfold writeRuns
  repeat' with_reducible first
    | assumption | exact Kept.refl _ | apply Kept.id_of | exact VaultKept.refl _ | exact MemKept.refl _ | exact HostKept.refl _
    | exact VaultKept.upd | exact MemKept.mk id id | exact id | exact (fun w => memWrite_wf w _ _) | exact (fun w => memZero_wf w _ _)
    | exact (fun w => Memory.wf_filter _ w) | apply kept_writeWindows
    | (refine Kept.fst_of (by assumption) ?_; apply kept_writeWindows) | apply kept_writeOne
    | (refine Kept.fst_of (by assumption) ?_; apply kept_writeOne) | apply OptKept.getD | apply Kept.put | apply Kept.ite
    | (refine Kept.foldl ?_ (fun _ _ _ => ?_)) | (refine Kept.foldl_fst ?_ (fun _ _ _ => ?_)) | (refine Kept.foldr ?_ (fun _ _ _ => ?_))
    | (fail_if_no_progress beta_reduce)
    | ((try lift_lets -underBinder); intro xx; first | (refine Kept.use (P := Kept e0_ xx) ?_ (fun hx => ?_); (on_goal 2 => clear_value xx); (on_goal 1 => subst xx)) | clear_value xx)
    | split | rw [mk_put] | (refine MemKept.mk ?_ ?_)

theorem kept_writeAll {e0_ : State} (f : Flight) (s : State) (ws : List SWrite) (h_s : Kept e0_ s) : Kept e0_ (writeAll f s ws).1 := by
  unfold writeAll
  repeat' with_reducible first
    | assumption | exact Kept.refl _ | apply Kept.id_of | exact VaultKept.refl _ | exact MemKept.refl _ | exact HostKept.refl _
    | exact VaultKept.upd | exact MemKept.mk id id | exact id | exact (fun w => memWrite_wf w _ _) | exact (fun w => memZero_wf w _ _)
    | exact (fun w => Memory.wf_filter _ w) | apply kept_writeRuns | (refine Kept.fst_of (by assumption) ?_; apply kept_writeRuns)
    | apply kept_ringFor | apply OptKept.getD | apply Kept.put | apply Kept.ite | (refine Kept.foldl ?_ (fun _ _ _ => ?_))
    | (refine Kept.foldl_fst ?_ (fun _ _ _ => ?_)) | (refine Kept.foldr ?_ (fun _ _ _ => ?_)) | (fail_if_no_progress beta_reduce)
    | ((try lift_lets -underBinder); intro xx; first | (refine Kept.use (P := Kept e0_ xx) ?_ (fun hx => ?_); (on_goal 2 => clear_value xx); (on_goal 1 => subst xx)) | clear_value xx)
    | split | rw [mk_put] | (refine MemKept.mk ?_ ?_)

theorem kept_enterTicket {e0_ : State} (s : State) (f : Flight) (h_s : Kept e0_ s) : Kept e0_ (enterTicket s f) := by
  unfold enterTicket
  repeat' with_reducible first
    | assumption | apply kept_modShoe | (fail_if_no_progress beta_reduce) | split

theorem kept_removeTicket {e0_ : State} (s : State) (f : Flight) (h_s : Kept e0_ s) : Kept e0_ (removeTicket s f) := by
  unfold removeTicket
  repeat' with_reducible first
    | assumption | apply kept_modShoe | (fail_if_no_progress beta_reduce) | split

theorem kept_pushStatus {e0_ : State} (s : State) (f : Flight) (status : Nat) (h_s : Kept e0_ s) : Kept e0_ (pushStatus s f status) := by
  unfold pushStatus
  repeat' with_reducible first
    | assumption | apply kept_modShoe | (fail_if_no_progress beta_reduce) | split

theorem kept_chargeDeal {e0_ : State} (s : State) (seq : Nat) (c : Charge) (h_s : Kept e0_ s) : Kept e0_ (chargeDeal s seq c) := by
  unfold chargeDeal
  repeat' with_reducible first
    | assumption | exact Kept.refl _ | apply Kept.id_of | exact VaultKept.refl _ | exact MemKept.refl _ | exact HostKept.refl _
    | exact VaultKept.upd | exact MemKept.mk id id | exact id | exact (fun w => memWrite_wf w _ _) | exact (fun w => memZero_wf w _ _)
    | exact (fun w => Memory.wf_filter _ w) | apply OptKept.getD | apply Kept.put | apply Kept.ite
    | (refine Kept.foldl ?_ (fun _ _ _ => ?_)) | (refine Kept.foldl_fst ?_ (fun _ _ _ => ?_)) | (refine Kept.foldr ?_ (fun _ _ _ => ?_))
    | (fail_if_no_progress beta_reduce)
    | ((try lift_lets -underBinder); intro xx; first | (refine Kept.use (P := Kept e0_ xx) ?_ (fun hx => ?_); (on_goal 2 => clear_value xx); (on_goal 1 => subst xx)) | clear_value xx)
    | split | rw [mk_put] | (refine MemKept.mk ?_ ?_)

theorem kept_chargeStatus {e0_ : State} (s : State) (seq ctx status : Nat) (h_s : Kept e0_ s) : Kept e0_ (chargeStatus s seq ctx status) := by
  unfold chargeStatus
  repeat' with_reducible first
    | assumption | exact Kept.refl _ | apply Kept.id_of | exact VaultKept.refl _ | exact MemKept.refl _ | exact HostKept.refl _
    | exact VaultKept.upd | exact MemKept.mk id id | exact id | exact (fun w => memWrite_wf w _ _) | exact (fun w => memZero_wf w _ _)
    | exact (fun w => Memory.wf_filter _ w) | apply kept_chargeDeal | apply OptKept.getD | apply Kept.put | apply Kept.ite
    | (refine Kept.foldl ?_ (fun _ _ _ => ?_)) | (refine Kept.foldl_fst ?_ (fun _ _ _ => ?_)) | (refine Kept.foldr ?_ (fun _ _ _ => ?_))
    | (fail_if_no_progress beta_reduce)
    | ((try lift_lets -underBinder); intro xx; first | (refine Kept.use (P := Kept e0_ xx) ?_ (fun hx => ?_); (on_goal 2 => clear_value xx); (on_goal 1 => subst xx)) | clear_value xx)
    | split | rw [mk_put] | (refine MemKept.mk ?_ ?_)

theorem kept_chargeCommand {e0_ : State} (s : State) (f : Flight) (status measured : Nat) (h_s : Kept e0_ s) : Kept e0_ (chargeCommand s f status measured) := by
  unfold chargeCommand
  repeat' with_reducible first
    | assumption | exact Kept.refl _ | apply Kept.id_of | exact VaultKept.refl _ | exact MemKept.refl _ | exact HostKept.refl _
    | exact VaultKept.upd | exact MemKept.mk id id | exact id | exact (fun w => memWrite_wf w _ _) | exact (fun w => memZero_wf w _ _)
    | exact (fun w => Memory.wf_filter _ w) | apply kept_chargeDeal | apply OptKept.getD | apply Kept.put | apply Kept.ite
    | (refine Kept.foldl ?_ (fun _ _ _ => ?_)) | (refine Kept.foldl_fst ?_ (fun _ _ _ => ?_)) | (refine Kept.foldr ?_ (fun _ _ _ => ?_))
    | (fail_if_no_progress beta_reduce)
    | ((try lift_lets -underBinder); intro xx; first | (refine Kept.use (P := Kept e0_ xx) ?_ (fun hx => ?_); (on_goal 2 => clear_value xx); (on_goal 1 => subst xx)) | clear_value xx)
    | split | rw [mk_put] | (refine MemKept.mk ?_ ?_)

theorem kept_sendNew {e0_ : State} (s : State) (port kind dest epoch addr : Nat) (payload : List Byte) (h_s : Kept e0_ s) : Kept e0_ (sendNew s port kind dest epoch addr payload).1 := by
  unfold sendNew
  repeat' with_reducible first
    | assumption | exact Kept.refl _ | apply Kept.id_of | exact VaultKept.refl _ | exact MemKept.refl _ | exact HostKept.refl _
    | exact VaultKept.upd | exact MemKept.mk id id | exact id | exact (fun w => memWrite_wf w _ _) | exact (fun w => memZero_wf w _ _)
    | exact (fun w => Memory.wf_filter _ w) | apply kept_sendFrames | apply OptKept.getD | apply Kept.put
    | (fail_if_no_progress beta_reduce) | (refine Kept.foldl ?_ (fun _ _ _ => ?_)) | (refine Kept.foldl_fst ?_ (fun _ _ _ => ?_))
    | (refine Kept.foldr ?_ (fun _ _ _ => ?_)) | split | rw [mk_put] | (refine MemKept.mk ?_ ?_)

theorem kept_sendTensor {e0_ : State} (s : State) (kind q epoch addr : Nat) (payload : List Byte) (h_s : Kept e0_ s) : OptFst e0_ (sendTensor s kind q epoch addr payload) := by
  unfold sendTensor
  repeat' with_reducible first
    | assumption | apply kept_sendNew | exact OptFst.none | apply OptFst.some | apply OptFst.ite | (refine OptFst.map (fun _ _ => ?_))
    | (fail_if_no_progress beta_reduce) | split

theorem kept_notePosted {e0_ : State} (s : State) (p : Posted) (h_s : Kept e0_ s) : Kept e0_ (notePosted s p) := by
  unfold notePosted
  repeat' with_reducible first
    | assumption | exact Kept.refl _ | apply Kept.id_of | exact VaultKept.refl _ | exact MemKept.refl _ | exact HostKept.refl _
    | exact VaultKept.upd | exact MemKept.mk id id | exact id | exact (fun w => memWrite_wf w _ _) | exact (fun w => memZero_wf w _ _)
    | exact (fun w => Memory.wf_filter _ w) | apply OptKept.getD | apply Kept.put | (fail_if_no_progress beta_reduce)
    | (refine Kept.foldl ?_ (fun _ _ _ => ?_)) | (refine Kept.foldl_fst ?_ (fun _ _ _ => ?_)) | (refine Kept.foldr ?_ (fun _ _ _ => ?_))
    | split | rw [mk_put] | (refine MemKept.mk ?_ ?_)

theorem kept_postBytes {e0_ : State} (s : State) (f : Flight) (signal : Bool) (va : Nat) (bs : List Byte) (h_s : Kept e0_ s) : Kept e0_ (postBytes s f signal va bs).1 := by
  unfold postBytes
  repeat' with_reducible first
    | assumption | exact Kept.refl _ | apply Kept.id_of | exact VaultKept.refl _ | exact MemKept.refl _ | exact HostKept.refl _
    | exact VaultKept.upd | exact MemKept.mk id id | exact id | exact (fun w => memWrite_wf w _ _) | exact (fun w => memZero_wf w _ _)
    | exact (fun w => Memory.wf_filter _ w) | apply kept_sendTensor | (refine OptFst.get (by assumption) ?_; apply kept_sendTensor)
    | (refine OptFst.get1 (by assumption) ?_; apply kept_sendTensor) | apply kept_notePosted | apply kept_writeRuns
    | (refine Kept.fst_of (by assumption) ?_; apply kept_writeRuns) | apply kept_ringFor | apply OptKept.getD | apply Kept.put
    | apply Kept.ite | (refine Kept.foldl ?_ (fun _ _ _ => ?_)) | (refine Kept.foldl_fst ?_ (fun _ _ _ => ?_))
    | (refine Kept.foldr ?_ (fun _ _ _ => ?_)) | (fail_if_no_progress beta_reduce)
    | ((try lift_lets -underBinder); intro xx; first | (refine Kept.use (P := Kept e0_ xx) ?_ (fun hx => ?_); (on_goal 2 => clear_value xx); (on_goal 1 => subst xx)) | clear_value xx)
    | split | rw [mk_put] | (refine MemKept.mk ?_ ?_)

theorem kept_shoeError {e0_ : State} (s : State) (cause shoe ticket status addr : Nat) (h_s : Kept e0_ s) : Kept e0_ (shoeError s cause shoe ticket status addr) := by
  unfold shoeError
  repeat' with_reducible first
    | assumption | apply kept_raiseError | (fail_if_no_progress beta_reduce) | split

theorem kept_stopShoe {e0_ : State} (s : State) (n cause va : Nat) (h_s : Kept e0_ s) : Kept e0_ (stopShoe s n cause va) := by
  unfold stopShoe
  repeat' with_reducible first
    | assumption | apply kept_modShoe | apply kept_shoeError | (fail_if_no_progress beta_reduce) | split

theorem kept_writeRecord {e0_ : State} (s : State) (f : Flight) (status detail steps flags aux : Nat) (h_s : Kept e0_ s) : Kept e0_ (writeRecord s f status detail steps flags aux) := by
  unfold writeRecord
  repeat' with_reducible first
    | assumption | exact Kept.refl _ | apply Kept.id_of | exact VaultKept.refl _ | exact MemKept.refl _ | exact HostKept.refl _
    | exact VaultKept.upd | exact MemKept.mk id id | exact id | exact (fun w => memWrite_wf w _ _) | exact (fun w => memZero_wf w _ _)
    | exact (fun w => Memory.wf_filter _ w) | apply kept_postBytes | apply kept_shoeError | apply OptKept.getD | apply Kept.put
    | apply Kept.ite | (refine Kept.foldl ?_ (fun _ _ _ => ?_)) | (refine Kept.foldl_fst ?_ (fun _ _ _ => ?_))
    | (refine Kept.foldr ?_ (fun _ _ _ => ?_)) | (refine Kept.fst_of (by assumption) ?_; apply kept_postBytes)
    | (fail_if_no_progress beta_reduce)
    | ((try lift_lets -underBinder); intro xx; first | (refine Kept.use (P := Kept e0_ xx) ?_ (fun hx => ?_); (on_goal 2 => clear_value xx); (on_goal 1 => subst xx)) | clear_value xx)
    | split | rw [mk_put] | (refine MemKept.mk ?_ ?_)

theorem kept_postSignal {e0_ : State} (s : State) (f : Flight) (target value : Nat) (h_s : Kept e0_ s) : Kept e0_ (postSignal s f target value) := by
  unfold postSignal
  repeat' with_reducible first
    | assumption | exact Kept.refl _ | apply Kept.id_of | exact VaultKept.refl _ | exact MemKept.refl _ | exact HostKept.refl _
    | exact VaultKept.upd | exact MemKept.mk id id | exact id | exact (fun w => memWrite_wf w _ _) | exact (fun w => memZero_wf w _ _)
    | exact (fun w => Memory.wf_filter _ w) | apply kept_postBytes | apply kept_shoeError | apply OptKept.getD | apply Kept.put
    | (fail_if_no_progress beta_reduce) | (refine Kept.fst_of (by assumption) ?_; apply kept_postBytes)
    | (refine Kept.foldl ?_ (fun _ _ _ => ?_)) | (refine Kept.foldl_fst ?_ (fun _ _ _ => ?_)) | (refine Kept.foldr ?_ (fun _ _ _ => ?_))
    | split | rw [mk_put] | (refine MemKept.mk ?_ ?_)

theorem kept_finalStatus {e0_ : State} (s : State) (f : Flight) (status detail aux : Nat) (signal : Bool) (h_s : Kept e0_ s) : Kept e0_ (finalStatus s f status detail aux signal) := by
  unfold finalStatus
  repeat' with_reducible first
    | assumption | apply kept_dropFlight | apply kept_pushStatus | apply kept_chargeCommand | apply kept_writeRecord
    | apply kept_postSignal | (fail_if_no_progress beta_reduce) | split

theorem kept_resolveDups {e0_ : State} (n : Nat) (s : State) (f : Flight) (st : Nat) (h : Kept e0_ s) : Kept e0_ (resolveDups n s f st) := by
  induction n generalizing s f st with
  | zero => exact h
  | succ n ih =>
    simp only [resolveDups]
    repeat' with_reducible first
      | assumption | (refine Kept.foldl ?_ (fun _ _ _ => ?_)) | apply kept_finalStatus | apply kept_putFlight | apply ih | apply Kept.ite
      | split

theorem kept_deliverBatch {e0_ : State} (s : State) (h_s : Kept e0_ s) : Kept e0_ (deliverBatch s) := by
  unfold deliverBatch
  repeat' with_reducible first
    | assumption | exact Kept.refl _ | apply Kept.id_of | exact VaultKept.refl _ | exact MemKept.refl _ | exact HostKept.refl _
    | exact VaultKept.upd | exact MemKept.mk id id | exact id | exact (fun w => memWrite_wf w _ _) | exact (fun w => memZero_wf w _ _)
    | exact (fun w => Memory.wf_filter _ w) | apply kept_hostPut | apply kept_raiseEvent | apply kept_raiseError | apply OptKept.getD
    | apply Kept.put | apply Kept.ite | (refine Kept.foldl ?_ (fun _ _ _ => ?_)) | (refine Kept.foldl_fst ?_ (fun _ _ _ => ?_))
    | (refine Kept.foldr ?_ (fun _ _ _ => ?_)) | (fail_if_no_progress beta_reduce)
    | ((try lift_lets -underBinder); intro xx; first | (refine Kept.use (P := Kept e0_ xx) ?_ (fun hx => ?_); (on_goal 2 => clear_value xx); (on_goal 1 => subst xx)) | clear_value xx)
    | split | rw [mk_put] | (refine MemKept.mk ?_ ?_)

theorem kept_closeBatch {e0_ : State} (s : State) (h_s : Kept e0_ s) : Kept e0_ (closeBatch s) := by
  unfold closeBatch
  repeat' with_reducible first
    | assumption | exact Kept.refl _ | apply Kept.id_of | exact VaultKept.refl _ | exact MemKept.refl _ | exact HostKept.refl _
    | exact VaultKept.upd | exact MemKept.mk id id | exact id | exact (fun w => memWrite_wf w _ _) | exact (fun w => memZero_wf w _ _)
    | exact (fun w => Memory.wf_filter _ w) | apply kept_deliverBatch | apply OptKept.getD | apply Kept.put | apply Kept.ite
    | (refine Kept.foldl ?_ (fun _ _ _ => ?_)) | (refine Kept.foldl_fst ?_ (fun _ _ _ => ?_)) | (refine Kept.foldr ?_ (fun _ _ _ => ?_))
    | (fail_if_no_progress beta_reduce)
    | ((try lift_lets -underBinder); intro xx; first | (refine Kept.use (P := Kept e0_ xx) ?_ (fun hx => ?_); (on_goal 2 => clear_value xx); (on_goal 1 => subst xx)) | clear_value xx)
    | split | rw [mk_put] | (refine MemKept.mk ?_ ?_)

theorem kept_noteCause {e0_ : State} (s : State) (c : Nat) (h_s : Kept e0_ s) : Kept e0_ (noteCause s c) := by
  unfold noteCause
  repeat' with_reducible first
    | assumption | exact Kept.refl _ | apply Kept.id_of | exact VaultKept.refl _ | exact MemKept.refl _ | exact HostKept.refl _
    | exact VaultKept.upd | exact MemKept.mk id id | exact id | exact (fun w => memWrite_wf w _ _) | exact (fun w => memZero_wf w _ _)
    | exact (fun w => Memory.wf_filter _ w) | apply OptKept.getD | apply Kept.put | apply Kept.ite
    | (refine Kept.foldl ?_ (fun _ _ _ => ?_)) | (refine Kept.foldl_fst ?_ (fun _ _ _ => ?_)) | (refine Kept.foldr ?_ (fun _ _ _ => ?_))
    | (fail_if_no_progress beta_reduce)
    | ((try lift_lets -underBinder); intro xx; first | (refine Kept.use (P := Kept e0_ xx) ?_ (fun hx => ?_); (on_goal 2 => clear_value xx); (on_goal 1 => subst xx)) | (have yy : _ → _ := xx; clear yy; subst xx) | (have yy : Memories := xx; clear yy; subst xx) | (have yy : Vault := xx; clear yy; subst xx) | (have yy : HostEnv := xx; clear yy; subst xx) | clear_value xx)
    | split | rw [mk_put] | (refine MemKept.mk ?_ ?_)

theorem kept_noteDue {e0_ : State} (s : State) (h_s : Kept e0_ s) : Kept e0_ (noteDue s) := by
  unfold noteDue
  repeat' with_reducible first
    | assumption | exact Kept.refl _ | apply Kept.id_of | exact VaultKept.refl _ | exact MemKept.refl _ | exact HostKept.refl _
    | exact VaultKept.upd | exact MemKept.mk id id | exact id | exact (fun w => memWrite_wf w _ _) | exact (fun w => memZero_wf w _ _)
    | exact (fun w => Memory.wf_filter _ w) | apply kept_noteCause | apply OptKept.getD | apply Kept.put | apply Kept.ite
    | (refine Kept.foldl ?_ (fun _ _ _ => ?_)) | (refine Kept.foldl_fst ?_ (fun _ _ _ => ?_)) | (refine Kept.foldr ?_ (fun _ _ _ => ?_))
    | (fail_if_no_progress beta_reduce)
    | ((try lift_lets -underBinder); intro xx; first | (refine Kept.use (P := Kept e0_ xx) ?_ (fun hx => ?_); (on_goal 2 => clear_value xx); (on_goal 1 => subst xx)) | (have yy : _ → _ := xx; clear yy; subst xx) | (have yy : Memories := xx; clear yy; subst xx) | (have yy : Vault := xx; clear yy; subst xx) | (have yy : HostEnv := xx; clear yy; subst xx) | clear_value xx)
    | split | rw [mk_put] | (refine MemKept.mk ?_ ?_)

theorem kept_kittyCause {e0_ : State} (s : State) (c : Nat) (h_s : Kept e0_ s) : Kept e0_ (kittyCause s c) := by
  unfold kittyCause
  repeat' with_reducible first
    | assumption | exact Kept.refl _ | apply Kept.id_of | exact VaultKept.refl _ | exact MemKept.refl _ | exact HostKept.refl _
    | exact VaultKept.upd | exact MemKept.mk id id | exact id | exact (fun w => memWrite_wf w _ _) | exact (fun w => memZero_wf w _ _)
    | exact (fun w => Memory.wf_filter _ w) | apply kept_closeBatch | apply kept_noteCause | apply kept_noteDue | apply OptKept.getD
    | apply Kept.put | apply Kept.ite | (refine Kept.foldl ?_ (fun _ _ _ => ?_)) | (refine Kept.foldl_fst ?_ (fun _ _ _ => ?_))
    | (refine Kept.foldr ?_ (fun _ _ _ => ?_)) | (fail_if_no_progress beta_reduce)
    | ((try lift_lets -underBinder); intro xx; first | (refine Kept.use (P := Kept e0_ xx) ?_ (fun hx => ?_); (on_goal 2 => clear_value xx); (on_goal 1 => subst xx)) | (have yy : _ → _ := xx; clear yy; subst xx) | (have yy : Memories := xx; clear yy; subst xx) | (have yy : Vault := xx; clear yy; subst xx) | (have yy : HostEnv := xx; clear yy; subst xx) | clear_value xx)
    | split | rw [mk_put] | (refine MemKept.mk ?_ ?_)

theorem kept_freePage {e0_ : State} (s : State) (p : Nat) (h_s : Kept e0_ s) : Kept e0_ (freePage s p) := by
  unfold freePage
  repeat' with_reducible first
    | assumption | exact Kept.refl _ | apply Kept.id_of | exact VaultKept.refl _ | exact MemKept.refl _ | exact HostKept.refl _
    | exact VaultKept.upd | exact MemKept.mk id id | exact id | exact (fun w => memWrite_wf w _ _) | exact (fun w => memZero_wf w _ _)
    | exact (fun w => Memory.wf_filter _ w) | apply kept_afterWrite | apply kept_zeroMem | apply OptKept.getD | apply Kept.put
    | (fail_if_no_progress beta_reduce) | (refine Kept.foldl ?_ (fun _ _ _ => ?_)) | (refine Kept.foldl_fst ?_ (fun _ _ _ => ?_))
    | (refine Kept.foldr ?_ (fun _ _ _ => ?_)) | split | rw [mk_put] | (refine MemKept.mk ?_ ?_)

theorem kept_sweepOld {e0_ : State} (s : State) (h_s : Kept e0_ s) : Kept e0_ (sweepOld s) := by
  unfold sweepOld
  repeat' with_reducible first
    | assumption | exact Kept.refl _ | apply Kept.id_of | exact VaultKept.refl _ | exact MemKept.refl _ | exact HostKept.refl _
    | exact VaultKept.upd | exact MemKept.mk id id | exact id | exact (fun w => memWrite_wf w _ _) | exact (fun w => memZero_wf w _ _)
    | exact (fun w => Memory.wf_filter _ w) | apply kept_freePage | apply OptKept.getD | apply Kept.put | apply Kept.ite
    | (refine Kept.foldl ?_ (fun _ _ _ => ?_)) | (refine Kept.foldl_fst ?_ (fun _ _ _ => ?_)) | (refine Kept.foldr ?_ (fun _ _ _ => ?_))
    | (fail_if_no_progress beta_reduce)
    | ((try lift_lets -underBinder); intro xx; first | (refine Kept.use (P := Kept e0_ xx) ?_ (fun hx => ?_); (on_goal 2 => clear_value xx); (on_goal 1 => subst xx)) | clear_value xx)
    | split | rw [mk_put] | (refine MemKept.mk ?_ ?_)

theorem kept_sweepScratch {e0_ : State} (s : State) (h_s : Kept e0_ s) : Kept e0_ (sweepScratch s) := by
  unfold sweepScratch
  repeat' with_reducible first
    | assumption | exact Kept.refl _ | apply Kept.id_of | exact VaultKept.refl _ | exact MemKept.refl _ | exact HostKept.refl _
    | exact VaultKept.upd | exact MemKept.mk id id | exact id | exact (fun w => memWrite_wf w _ _) | exact (fun w => memZero_wf w _ _)
    | exact (fun w => Memory.wf_filter _ w) | apply kept_zeroMem | apply OptKept.getD | apply Kept.put
    | (fail_if_no_progress beta_reduce) | (refine Kept.foldl ?_ (fun _ _ _ => ?_)) | (refine Kept.foldl_fst ?_ (fun _ _ _ => ?_))
    | (refine Kept.foldr ?_ (fun _ _ _ => ?_)) | split | rw [mk_put] | (refine MemKept.mk ?_ ?_)

theorem kept_settleKitty {e0_ : State} (s : State) (h_s : Kept e0_ s) : Kept e0_ (settleKitty s) := by
  unfold settleKitty
  repeat' with_reducible first
    | assumption | apply kept_kittyCause | (fail_if_no_progress beta_reduce) | split

theorem kept_promoteWatch {e0_ : State} (s : State) (h_s : Kept e0_ s) : Kept e0_ (promoteWatch s) := by
  unfold promoteWatch
  repeat' with_reducible first
    | assumption | exact Kept.refl _ | apply Kept.id_of | exact VaultKept.refl _ | exact MemKept.refl _ | exact HostKept.refl _
    | exact VaultKept.upd | exact MemKept.mk id id | exact id | exact (fun w => memWrite_wf w _ _) | exact (fun w => memZero_wf w _ _)
    | exact (fun w => Memory.wf_filter _ w) | apply kept_putFlight | apply OptKept.getD | apply Kept.put | apply Kept.ite
    | (refine Kept.foldl ?_ (fun _ _ _ => ?_)) | (refine Kept.foldl_fst ?_ (fun _ _ _ => ?_)) | (refine Kept.foldr ?_ (fun _ _ _ => ?_))
    | (fail_if_no_progress beta_reduce)
    | ((try lift_lets -underBinder); intro xx; first | (refine Kept.use (P := Kept e0_ xx) ?_ (fun hx => ?_); (on_goal 2 => clear_value xx); (on_goal 1 => subst xx)) | (have yy : _ → _ := xx; clear yy; subst xx) | (have yy : Memories := xx; clear yy; subst xx) | (have yy : Vault := xx; clear yy; subst xx) | (have yy : HostEnv := xx; clear yy; subst xx) | clear_value xx)
    | split | rw [mk_put] | (refine MemKept.mk ?_ ?_)

theorem kept_settle {e0_ : State} (s : State) (h_s : Kept e0_ s) : Kept e0_ (settle s) := by
  unfold settle
  repeat' with_reducible first
    | assumption | apply kept_sweepOld | apply kept_sweepScratch | apply kept_settleKitty | apply kept_promoteWatch
    | (fail_if_no_progress beta_reduce) | split

theorem kept_noteKill {e0_ : State} (s : State) (p : Place) (h_s : Kept e0_ s) : Kept e0_ (noteKill s p) := by
  unfold noteKill
  repeat' with_reducible first
    | assumption | exact Kept.refl _ | apply Kept.id_of | exact VaultKept.refl _ | exact MemKept.refl _ | exact HostKept.refl _
    | exact VaultKept.upd | exact MemKept.mk id id | exact id | exact (fun w => memWrite_wf w _ _) | exact (fun w => memZero_wf w _ _)
    | exact (fun w => Memory.wf_filter _ w) | apply OptKept.getD | apply Kept.put | apply Kept.ite
    | (refine Kept.foldl ?_ (fun _ _ _ => ?_)) | (refine Kept.foldl_fst ?_ (fun _ _ _ => ?_)) | (refine Kept.foldr ?_ (fun _ _ _ => ?_))
    | (fail_if_no_progress beta_reduce)
    | ((try lift_lets -underBinder); intro xx; first | (refine Kept.use (P := Kept e0_ xx) ?_ (fun hx => ?_); (on_goal 2 => clear_value xx); (on_goal 1 => subst xx)) | (have yy : _ → _ := xx; clear yy; subst xx) | (have yy : Memories := xx; clear yy; subst xx) | (have yy : Vault := xx; clear yy; subst xx) | (have yy : HostEnv := xx; clear yy; subst xx) | clear_value xx)
    | split | rw [mk_put] | (refine MemKept.mk ?_ ?_)

theorem kept_noteAck {e0_ : State} (s : State) (p : Place) (h_s : Kept e0_ s) : Kept e0_ (noteAck s p) := by
  unfold noteAck
  repeat' with_reducible first
    | assumption | exact Kept.refl _ | apply Kept.id_of | exact VaultKept.refl _ | exact MemKept.refl _ | exact HostKept.refl _
    | exact VaultKept.upd | exact MemKept.mk id id | exact id | exact (fun w => memWrite_wf w _ _) | exact (fun w => memZero_wf w _ _)
    | exact (fun w => Memory.wf_filter _ w) | apply OptKept.getD | apply Kept.put | apply Kept.ite
    | (refine Kept.foldl ?_ (fun _ _ _ => ?_)) | (refine Kept.foldl_fst ?_ (fun _ _ _ => ?_)) | (refine Kept.foldr ?_ (fun _ _ _ => ?_))
    | (fail_if_no_progress beta_reduce)
    | ((try lift_lets -underBinder); intro xx; first | (refine Kept.use (P := Kept e0_ xx) ?_ (fun hx => ?_); (on_goal 2 => clear_value xx); (on_goal 1 => subst xx)) | (have yy : _ → _ := xx; clear yy; subst xx) | (have yy : Memories := xx; clear yy; subst xx) | (have yy : Vault := xx; clear yy; subst xx) | (have yy : HostEnv := xx; clear yy; subst xx) | clear_value xx)
    | split | rw [mk_put] | (refine MemKept.mk ?_ ?_)

theorem kept_killForRerun {e0_ : State} (s : State) (f : Flight) (phase : Phase) (h_s : Kept e0_ s) : Kept e0_ (killForRerun s f phase) := by
  unfold killForRerun
  repeat' with_reducible first
    | assumption | apply kept_putFlight | (fail_if_no_progress beta_reduce) | split

theorem kept_complete {e0_ : State} (s : State) (f : Flight) (status detail aux : Nat) (h_s : Kept e0_ s) : Kept e0_ (complete s f status detail aux) := by
  unfold complete
  repeat' with_reducible first
    | assumption | apply kept_finalStatus | apply kept_resolveDups | apply kept_settle | (fail_if_no_progress beta_reduce) | split

theorem kept_commitComplete {e0_ : State} (s : State) (f : Flight) (detail aux : Nat) (h_s : Kept e0_ s) : Kept e0_ (commitComplete s f detail aux) := by
  unfold commitComplete
  repeat' with_reducible first
    | assumption | apply kept_enterTicket | apply kept_complete | (fail_if_no_progress beta_reduce) | split

theorem kept_faultCommand {e0_ : State} (s : State) (f : Flight) (asid va reason level : Nat) (write : Bool) (h_s : Kept e0_ s) : Kept e0_ (faultCommand s f asid va reason level write) := by
  unfold faultCommand
  repeat' with_reducible first
    | assumption | exact Kept.refl _ | apply Kept.id_of | exact VaultKept.refl _ | exact MemKept.refl _ | exact HostKept.refl _
    | exact VaultKept.upd | exact MemKept.mk id id | exact id | exact (fun w => memWrite_wf w _ _) | exact (fun w => memZero_wf w _ _)
    | exact (fun w => Memory.wf_filter _ w) | apply kept_kittyCause | apply kept_settle | apply kept_killForRerun | apply kept_complete
    | apply OptKept.getD | apply Kept.put | (fail_if_no_progress beta_reduce) | (refine Kept.foldl ?_ (fun _ _ _ => ?_))
    | (refine Kept.foldl_fst ?_ (fun _ _ _ => ?_)) | (refine Kept.foldr ?_ (fun _ _ _ => ?_)) | split | rw [mk_put]
    | (refine MemKept.mk ?_ ?_)

theorem kept_stopCommand {e0_ : State} (s : State) (f : Flight) (e : Stop) (h_s : Kept e0_ s) : Kept e0_ (stopCommand s f e) := by
  unfold stopCommand
  repeat' with_reducible first
    | assumption | apply kept_settle | apply kept_killForRerun | apply kept_complete | apply kept_faultCommand
    | (fail_if_no_progress beta_reduce) | split

end Sys2Proof.Laws
end

