-- ==== Sys2Proof/Laws/KeptService.lean ====
section
/-!
SUPPORT. Sys2Proof/Laws/KeptService.lean: what the operations of Machine/Service.lean keep (Laws/Kept.lean).
-/

set_option linter.unusedTactic false
set_option linter.unreachableTactic false
set_option linter.unusedVariables false

namespace Sys2Proof.Laws

open Sys2Proof.Machine Sys2Proof.Safety

theorem kept_raiseAlert {e0_ : State} (s : State) (byte : Nat) (h_s : Kept e0_ s) : Kept e0_ (raiseAlert s byte) := by
  unfold raiseAlert
  repeat' with_reducible first
    | assumption | exact Kept.refl _ | apply Kept.id_of | exact VaultKept.refl _ | exact MemKept.refl _ | exact HostKept.refl _
    | exact VaultKept.upd | exact MemKept.mk id id | exact id | exact (fun w => memWrite_wf w _ _) | exact (fun w => memZero_wf w _ _)
    | exact (fun w => Memory.wf_filter _ w) | apply kept_send | apply OptKept.getD | apply Kept.put | (fail_if_no_progress beta_reduce)
    | (refine Kept.foldl ?_ (fun _ _ _ => ?_)) | (refine Kept.foldl_fst ?_ (fun _ _ _ => ?_)) | (refine Kept.foldr ?_ (fun _ _ _ => ?_))
    | split | rw [mk_put] | (refine MemKept.mk ?_ ?_)

theorem kept_raiseEverywhere {e0_ : State} (s : State) (code : Nat) (payload : List Byte) (h_s : Kept e0_ s) : Kept e0_ (raiseEverywhere s code payload) := by
  unfold raiseEverywhere
  dsimp only
  have h1 : Kept e0_ { s with units := { s.units with eventSeq := wrapAdd 32 s.units.eventSeq 1 } } := by
    rw [mk_put]
    exact h_s.put (VaultKept.refl _) (MemKept.refl _) id id
  generalize natLe 2 code ++ natLe 2 0 ++ natLe 4 _ ++ stampBytes _ ++ _ = record
  have one : ∀ (t : State) (port : Nat), Kept e0_ t → Kept e0_ (match (mboxOf t port).ring with
      | none => deliverEvent record t port
      | some base =>
        if (decide (((mboxOf t port).evtTail + 2 ^ 32 - (mboxOf t port).evtHead) % 2 ^ 32 = 2 ^ (mboxOf t port).log2) || !portLive t port
          || hostRefuses t port (base + 64 * ((mboxOf t port).evtTail % 2 ^ (mboxOf t port).log2)) 64) = true then deliverEvent record t port
        else
          send (setMbox (hostPut t port (base + 64 * ((mboxOf t port).evtTail % 2 ^ (mboxOf t port).log2)) record) port
            { mboxOf t port with evtTail := wrapAdd 32 (mboxOf t port).evtTail 1 }) (.msix port 1)) := by
    intro t port ht
    split
    · exact kept_deliverEvent _ _ _ ht
    · split
      · exact kept_deliverEvent _ _ _ ht
      · exact kept_send _ _ (kept_setMbox _ _ _ (kept_hostPut ht _ _ _))
  exact one _ _ (one _ _ h1)

theorem kept_stopWriteOuts {e0_ : State} (s : State) (h_s : Kept e0_ s) : Kept e0_ (stopWriteOuts s) := by
  unfold stopWriteOuts
  repeat' with_reducible first
    | assumption | exact Kept.refl _ | apply Kept.id_of | exact VaultKept.refl _ | exact MemKept.refl _ | exact HostKept.refl _
    | exact VaultKept.upd | exact MemKept.mk id id | exact id | exact (fun w => memWrite_wf w _ _) | exact (fun w => memZero_wf w _ _)
    | exact (fun w => Memory.wf_filter _ w) | apply kept_hostPut | apply OptKept.getD | apply Kept.put | apply Kept.ite
    | (refine Kept.foldl ?_ (fun _ _ _ => ?_)) | (refine Kept.foldl_fst ?_ (fun _ _ _ => ?_)) | (refine Kept.foldr ?_ (fun _ _ _ => ?_))
    | (fail_if_no_progress beta_reduce)
    | ((try lift_lets -underBinder); intro xx; first | (refine Kept.use (P := Kept e0_ xx) ?_ (fun hx => ?_); (on_goal 2 => clear_value xx); (on_goal 1 => subst xx)) | (have yy : _ → _ := xx; clear yy; subst xx) | (have yy : Memories := xx; clear yy; subst xx) | (have yy : Vault := xx; clear yy; subst xx) | (have yy : HostEnv := xx; clear yy; subst xx) | clear_value xx)
    | split | rw [mk_put] | (refine MemKept.mk ?_ ?_)

theorem kept_rebuilt {e0_ : State} (s : State) (h_s : Kept e0_ s) : Kept e0_ (rebuilt s) :=
  h_s.trans ⟨VaultKept.refl _, ⟨fun _ => Memory.wf_nil, fun _ => Memory.wf_nil⟩, id, id, rfl⟩

theorem kept_fullStart {e0_ : State} (s : State) (h_s : Kept e0_ s) : Kept e0_ (fullStart s) := by
  unfold fullStart
  repeat' with_reducible first
    | assumption | exact Kept.refl _ | apply Kept.id_of | exact VaultKept.refl _ | exact MemKept.refl _ | exact HostKept.refl _
    | exact VaultKept.upd | exact MemKept.mk id id | exact id | exact (fun w => memWrite_wf w _ _) | exact (fun w => memZero_wf w _ _)
    | exact (fun w => Memory.wf_filter _ w) | apply kept_stopWriteOuts | apply kept_rebuilt | apply kept_send | apply OptKept.getD
    | apply Kept.put | apply Kept.ite | (refine Kept.foldl ?_ (fun _ _ _ => ?_)) | (refine Kept.foldl_fst ?_ (fun _ _ _ => ?_))
    | (refine Kept.foldr ?_ (fun _ _ _ => ?_)) | (fail_if_no_progress beta_reduce)
    | ((try lift_lets -underBinder); intro xx; first | (refine Kept.use (P := Kept e0_ xx) ?_ (fun hx => ?_); (on_goal 2 => clear_value xx); (on_goal 1 => subst xx)) | (have yy : _ → _ := xx; clear yy; subst xx) | (have yy : Memories := xx; clear yy; subst xx) | (have yy : Vault := xx; clear yy; subst xx) | (have yy : HostEnv := xx; clear yy; subst xx) | clear_value xx)
    | split | rw [mk_put] | (refine MemKept.mk ?_ ?_)

theorem kept_respond {e0_ : State} (s : State) (port txn : Nat) (response : List Byte) (h_s : Kept e0_ s) : Kept e0_ (respond s port txn response) := by
  unfold respond
  repeat' with_reducible first
    | assumption | apply kept_setMbox | apply kept_send | apply kept_done | (fail_if_no_progress beta_reduce) | split

theorem kept_cacheReply {e0_ : State} (s : State) (port code : Nat) (rq : MbReq) (digest response : List Byte) (h_s : Kept e0_ s) : Kept e0_ (cacheReply s port code rq digest response) := by
  unfold cacheReply
  repeat' with_reducible first
    | assumption | apply kept_setMbox | (fail_if_no_progress beta_reduce) | split

theorem kept_endRequest {e0_ : State} (s : State) (code : Nat) (rq : MbReq) (result detail : Nat) (payload : List Byte) (h_s : Kept e0_ s) : Kept e0_ (endRequest s code rq result detail payload) := by
  unfold endRequest
  repeat' with_reducible first
    | assumption | exact Kept.refl _ | apply Kept.id_of | exact VaultKept.refl _ | exact MemKept.refl _ | exact HostKept.refl _
    | exact VaultKept.upd | exact MemKept.mk id id | exact id | exact (fun w => memWrite_wf w _ _) | exact (fun w => memZero_wf w _ _)
    | exact (fun w => Memory.wf_filter _ w) | apply kept_setMbox | apply kept_respond | apply kept_cacheReply | apply kept_fullStart
    | apply OptKept.getD | apply Kept.put | apply Kept.ite | (refine Kept.foldl ?_ (fun _ _ _ => ?_))
    | (refine Kept.foldl_fst ?_ (fun _ _ _ => ?_)) | (refine Kept.foldr ?_ (fun _ _ _ => ?_)) | (fail_if_no_progress beta_reduce)
    | ((try lift_lets -underBinder); intro xx; first | (refine Kept.use (P := Kept e0_ xx) ?_ (fun hx => ?_); (on_goal 2 => clear_value xx); (on_goal 1 => subst xx)) | (have yy : _ → _ := xx; clear yy; subst xx) | (have yy : Memories := xx; clear yy; subst xx) | (have yy : Vault := xx; clear yy; subst xx) | (have yy : HostEnv := xx; clear yy; subst xx) | clear_value xx)
    | split | rw [mk_put] | (refine MemKept.mk ?_ ?_)

theorem kept_fatalWith {e0_ : State} (s : State) (cause kind index addr : Nat) (vaultUp : Bool) (h_s : Kept e0_ s) : Kept e0_ (fatalWith s cause kind index addr vaultUp) := by
  unfold fatalWith
  repeat' with_reducible first
    | assumption | exact Kept.refl _ | apply Kept.id_of | exact VaultKept.refl _ | exact MemKept.refl _ | exact HostKept.refl _
    | exact VaultKept.upd | exact MemKept.mk id id | exact id | exact (fun w => memWrite_wf w _ _) | exact (fun w => memZero_wf w _ _)
    | exact (fun w => Memory.wf_filter _ w) | apply kept_raiseAlert | apply kept_raiseEverywhere | apply kept_stopWriteOuts
    | apply OptKept.getD | apply Kept.put | (fail_if_no_progress beta_reduce) | (refine Kept.foldl ?_ (fun _ _ _ => ?_))
    | (refine Kept.foldl_fst ?_ (fun _ _ _ => ?_)) | (refine Kept.foldr ?_ (fun _ _ _ => ?_)) | split | rw [mk_put]
    | (refine MemKept.mk ?_ ?_)

theorem kept_fatal {e0_ : State} (s : State) (cause kind index addr : Nat) (h_s : Kept e0_ s) : Kept e0_ (fatal s cause kind index addr) := by
  unfold fatal
  repeat' with_reducible first
    | assumption | apply kept_fatalWith | (fail_if_no_progress beta_reduce) | split

theorem kept_resizeAnte {e0_ : State} (s : State) (h_s : Kept e0_ s) : Kept e0_ (resizeAnte s) := by
  unfold resizeAnte
  repeat' with_reducible first
    | assumption | exact Kept.refl _ | apply Kept.id_of | exact VaultKept.refl _ | exact MemKept.refl _ | exact HostKept.refl _
    | exact VaultKept.upd | exact MemKept.mk id id | exact id | exact (fun w => memWrite_wf w _ _) | exact (fun w => memZero_wf w _ _)
    | exact (fun w => Memory.wf_filter _ w) | apply kept_settleKitty | apply kept_raiseEvent | apply OptKept.getD | apply Kept.put
    | apply Kept.ite | (refine Kept.foldl ?_ (fun _ _ _ => ?_)) | (refine Kept.foldl_fst ?_ (fun _ _ _ => ?_))
    | (refine Kept.foldr ?_ (fun _ _ _ => ?_)) | (fail_if_no_progress beta_reduce)
    | ((try lift_lets -underBinder); intro xx; first | (refine Kept.use (P := Kept e0_ xx) ?_ (fun hx => ?_); (on_goal 2 => clear_value xx); (on_goal 1 => subst xx)) | (have yy : _ → _ := xx; clear yy; subst xx) | (have yy : Memories := xx; clear yy; subst xx) | (have yy : Vault := xx; clear yy; subst xx) | (have yy : HostEnv := xx; clear yy; subst xx) | clear_value xx)
    | split | rw [mk_put] | (refine MemKept.mk ?_ ?_)

theorem kept_wearCheck {e0_ : State} (s : State) (item index stack count limit : Nat) (h_s : Kept e0_ s) : Kept e0_ (wearCheck s item index stack count limit) := by
  unfold wearCheck
  repeat' with_reducible first
    | assumption | exact Kept.refl _ | apply Kept.id_of | exact VaultKept.refl _ | exact MemKept.refl _ | exact HostKept.refl _
    | exact VaultKept.upd | exact MemKept.mk id id | exact id | exact (fun w => memWrite_wf w _ _) | exact (fun w => memZero_wf w _ _)
    | exact (fun w => Memory.wf_filter _ w) | apply kept_raiseError | apply OptKept.getD | apply Kept.put
    | (fail_if_no_progress beta_reduce) | (refine Kept.foldl ?_ (fun _ _ _ => ?_)) | (refine Kept.foldl_fst ?_ (fun _ _ _ => ?_))
    | (refine Kept.foldr ?_ (fun _ _ _ => ?_)) | split | rw [mk_put] | (refine MemKept.mk ?_ ?_)

theorem kept_recordWrite {e0_ : State} (s : State) (h_s : Kept e0_ s) : Kept e0_ (recordWrite s) := by
  unfold recordWrite
  repeat' with_reducible first
    | assumption | exact Kept.refl _ | apply Kept.id_of | exact VaultKept.refl _ | exact MemKept.refl _ | exact HostKept.refl _
    | exact VaultKept.upd | exact MemKept.mk id id | exact id | exact (fun w => memWrite_wf w _ _) | exact (fun w => memZero_wf w _ _)
    | exact (fun w => Memory.wf_filter _ w) | apply kept_wearCheck | apply OptKept.getD | apply Kept.put
    | (fail_if_no_progress beta_reduce) | (refine Kept.foldl ?_ (fun _ _ _ => ?_)) | (refine Kept.foldl_fst ?_ (fun _ _ _ => ?_))
    | (refine Kept.foldr ?_ (fun _ _ _ => ?_)) | split | rw [mk_put] | (refine MemKept.mk ?_ ?_)

theorem kept_bumpLife {e0_ : State} (s : State) (kind index : Nat) (h_s : Kept e0_ s) : Kept e0_ (bumpLife s kind index) := by
  unfold bumpLife
  repeat' with_reducible first
    | assumption | exact Kept.refl _ | apply Kept.id_of | exact VaultKept.refl _ | exact MemKept.refl _ | exact HostKept.refl _
    | exact VaultKept.upd | exact MemKept.mk id id | exact id | exact (fun w => memWrite_wf w _ _) | exact (fun w => memZero_wf w _ _)
    | exact (fun w => Memory.wf_filter _ w) | apply kept_recordWrite | apply OptKept.getD | apply Kept.put
    | (fail_if_no_progress beta_reduce) | (refine Kept.foldl ?_ (fun _ _ _ => ?_)) | (refine Kept.foldl_fst ?_ (fun _ _ _ => ?_))
    | (refine Kept.foldr ?_ (fun _ _ _ => ?_)) | split | rw [mk_put] | (refine MemKept.mk ?_ ?_)

theorem kept_recordRetired {e0_ : State} (s : State) (kind index : Nat) (h_s : Kept e0_ s) : Kept e0_ (recordRetired s kind index) := by
  unfold recordRetired
  split
  · exact h_s
  · apply kept_recordWrite
    rw [mk_put]
    exact h_s.put ⟨id, PegsRise.refl _, fun _ h => List.mem_append_left _ h, Nat.le_refl _⟩ (MemKept.refl _) id id

theorem kept_withdrawBand {e0_ : State} (s : State) (channel : Nat) (h_s : Kept e0_ s) : Kept e0_ (withdrawBand s channel) := by
  unfold withdrawBand
  repeat' with_reducible first
    | assumption | exact Kept.refl _ | apply Kept.id_of | exact VaultKept.refl _ | exact MemKept.refl _ | exact HostKept.refl _
    | exact VaultKept.upd | exact MemKept.mk id id | exact id | exact (fun w => memWrite_wf w _ _) | exact (fun w => memZero_wf w _ _)
    | exact (fun w => Memory.wf_filter _ w) | apply OptKept.getD | apply Kept.put | (fail_if_no_progress beta_reduce)
    | (refine Kept.foldl ?_ (fun _ _ _ => ?_)) | (refine Kept.foldl_fst ?_ (fun _ _ _ => ?_)) | (refine Kept.foldr ?_ (fun _ _ _ => ?_))
    | split | rw [mk_put] | (refine MemKept.mk ?_ ?_)

theorem kept_killWhere {e0_ : State} (s : State) (p : Flight → Bool) (h_s : Kept e0_ s) : Kept e0_ (killWhere s p) := by
  unfold killWhere
  repeat' with_reducible first
    | assumption | apply kept_setFlights | apply kept_settle | (fail_if_no_progress beta_reduce) | split

theorem kept_poisonRun {e0_ : State} (s : State) (pa len : Nat) (h_s : Kept e0_ s) : Kept e0_ (poisonRun s pa len) := by
  unfold poisonRun
  repeat' with_reducible first
    | assumption | exact Kept.refl _ | apply Kept.id_of | exact VaultKept.refl _ | exact MemKept.refl _ | exact HostKept.refl _
    | exact VaultKept.upd | exact MemKept.mk id id | exact id | exact (fun w => memWrite_wf w _ _) | exact (fun w => memZero_wf w _ _)
    | exact (fun w => Memory.wf_filter _ w) | apply OptKept.getD | apply Kept.put | (fail_if_no_progress beta_reduce)
    | (refine Kept.foldl ?_ (fun _ _ _ => ?_)) | (refine Kept.foldl_fst ?_ (fun _ _ _ => ?_)) | (refine Kept.foldr ?_ (fun _ _ _ => ?_))
    | split | rw [mk_put] | (refine MemKept.mk ?_ ?_)

theorem kept_lostCommand {e0_ : State} (s : State) (f : Flight) (status detail kind index : Nat) (h_s : Kept e0_ s) : Kept e0_ (lostCommand s f status detail kind index) := by
  unfold lostCommand
  repeat' with_reducible first
    | assumption | apply kept_raiseError | apply kept_removeTicket | apply kept_finalStatus | apply kept_resolveDups | apply kept_settle
    | (fail_if_no_progress beta_reduce) | split

theorem kept_poisonWords {e0_ : State} (s : State) (pa len : Nat) (h_s : Kept e0_ s) : Kept e0_ (poisonWords s pa len) := by
  unfold poisonWords
  repeat' with_reducible first
    | assumption | exact Kept.refl _ | apply Kept.id_of | exact VaultKept.refl _ | exact MemKept.refl _ | exact HostKept.refl _
    | exact VaultKept.upd | exact MemKept.mk id id | exact id | exact (fun w => memWrite_wf w _ _) | exact (fun w => memZero_wf w _ _)
    | exact (fun w => Memory.wf_filter _ w) | apply OptKept.getD | apply Kept.put | apply Kept.ite
    | (refine Kept.foldl ?_ (fun _ _ _ => ?_)) | (refine Kept.foldl_fst ?_ (fun _ _ _ => ?_)) | (refine Kept.foldr ?_ (fun _ _ _ => ?_))
    | (fail_if_no_progress beta_reduce)
    | ((try lift_lets -underBinder); intro xx; first | (refine Kept.use (P := Kept e0_ xx) ?_ (fun hx => ?_); (on_goal 2 => clear_value xx); (on_goal 1 => subst xx)) | (have yy : _ → _ := xx; clear yy; subst xx) | (have yy : Memories := xx; clear yy; subst xx) | (have yy : Vault := xx; clear yy; subst xx) | (have yy : HostEnv := xx; clear yy; subst xx) | clear_value xx)
    | split | rw [mk_put] | (refine MemKept.mk ?_ ?_)

theorem kept_poisonStaged {e0_ : State} (s : State) (f : Flight) (h_s : Kept e0_ s) : Kept e0_ (poisonStaged s f) := by
  unfold poisonStaged
  repeat' with_reducible first
    | assumption | exact Kept.refl _ | apply Kept.id_of | exact VaultKept.refl _ | exact MemKept.refl _ | exact HostKept.refl _
    | exact VaultKept.upd | exact MemKept.mk id id | exact id | exact (fun w => memWrite_wf w _ _) | exact (fun w => memZero_wf w _ _)
    | exact (fun w => Memory.wf_filter _ w) | apply kept_poisonRun | apply kept_poisonWords | apply OptKept.getD | apply Kept.put
    | apply Kept.ite | (refine Kept.foldl ?_ (fun _ _ _ => ?_)) | (refine Kept.foldl_fst ?_ (fun _ _ _ => ?_))
    | (refine Kept.foldr ?_ (fun _ _ _ => ?_)) | (fail_if_no_progress beta_reduce)
    | ((try lift_lets -underBinder); intro xx; first | (refine Kept.use (P := Kept e0_ xx) ?_ (fun hx => ?_); (on_goal 2 => clear_value xx); (on_goal 1 => subst xx)) | (have yy : _ → _ := xx; clear yy; subst xx) | (have yy : Memories := xx; clear yy; subst xx) | (have yy : Vault := xx; clear yy; subst xx) | (have yy : HostEnv := xx; clear yy; subst xx) | clear_value xx)
    | split | rw [mk_put] | (refine MemKept.mk ?_ ?_)

theorem kept_loseWriteOut {e0_ : State} (s : State) (f : Flight) (kind index : Nat) (h_s : Kept e0_ s) : Kept e0_ (loseWriteOut s f kind index) := by
  unfold loseWriteOut
  repeat' with_reducible first
    | assumption | exact Kept.refl _ | apply Kept.id_of | exact VaultKept.refl _ | exact MemKept.refl _ | exact HostKept.refl _
    | exact VaultKept.upd | exact MemKept.mk id id | exact id | exact (fun w => memWrite_wf w _ _) | exact (fun w => memZero_wf w _ _)
    | exact (fun w => Memory.wf_filter _ w) | apply kept_lostCommand | apply kept_poisonStaged | apply OptKept.getD | apply Kept.put
    | apply Kept.ite | (refine Kept.foldl ?_ (fun _ _ _ => ?_)) | (refine Kept.foldl_fst ?_ (fun _ _ _ => ?_))
    | (refine Kept.foldr ?_ (fun _ _ _ => ?_)) | (fail_if_no_progress beta_reduce)
    | ((try lift_lets -underBinder); intro xx; first | (refine Kept.use (P := Kept e0_ xx) ?_ (fun hx => ?_); (on_goal 2 => clear_value xx); (on_goal 1 => subst xx)) | (have yy : _ → _ := xx; clear yy; subst xx) | (have yy : Memories := xx; clear yy; subst xx) | (have yy : Vault := xx; clear yy; subst xx) | (have yy : HostEnv := xx; clear yy; subst xx) | clear_value xx)
    | split | rw [mk_put] | (refine MemKept.mk ?_ ?_)

theorem kept_answered {e0_ : State} (s : State) (id : Nat) (h_s : Kept e0_ s) : Kept e0_ (answered s id) := by
  unfold answered
  repeat' with_reducible first
    | assumption | exact Kept.refl _ | apply Kept.id_of | exact VaultKept.refl _ | exact MemKept.refl _ | exact HostKept.refl _
    | exact VaultKept.upd | exact MemKept.mk id id | exact id | exact (fun w => memWrite_wf w _ _) | exact (fun w => memZero_wf w _ _)
    | exact (fun w => Memory.wf_filter _ w) | apply OptKept.getD | apply Kept.put | (fail_if_no_progress beta_reduce)
    | (refine Kept.foldl ?_ (fun _ _ _ => ?_)) | (refine Kept.foldl_fst ?_ (fun _ _ _ => ?_)) | (refine Kept.foldr ?_ (fun _ _ _ => ?_))
    | split | rw [mk_put] | (refine MemKept.mk ?_ ?_)

theorem kept_failInit {e0_ : State} (s : State) (id : Nat) (h_s : Kept e0_ s) : Kept e0_ (failInit s id) := by
  unfold failInit
  repeat' with_reducible first
    | assumption | exact Kept.refl _ | apply Kept.id_of | exact VaultKept.refl _ | exact MemKept.refl _ | exact HostKept.refl _
    | exact VaultKept.upd | exact MemKept.mk id id | exact id | exact (fun w => memWrite_wf w _ _) | exact (fun w => memZero_wf w _ _)
    | exact (fun w => Memory.wf_filter _ w) | apply kept_endRequest | apply OptKept.getD | apply Kept.put | apply Kept.ite
    | (refine Kept.foldl ?_ (fun _ _ _ => ?_)) | (refine Kept.foldl_fst ?_ (fun _ _ _ => ?_)) | (refine Kept.foldr ?_ (fun _ _ _ => ?_))
    | (fail_if_no_progress beta_reduce)
    | ((try lift_lets -underBinder); intro xx; first | (refine Kept.use (P := Kept e0_ xx) ?_ (fun hx => ?_); (on_goal 2 => clear_value xx); (on_goal 1 => subst xx)) | (have yy : _ → _ := xx; clear yy; subst xx) | (have yy : Memories := xx; clear yy; subst xx) | (have yy : Vault := xx; clear yy; subst xx) | (have yy : HostEnv := xx; clear yy; subst xx) | clear_value xx)
    | split | rw [mk_put] | (refine MemKept.mk ?_ ?_)

theorem kept_failMessage {e0_ : State} (s : State) (id status detail port : Nat) (h_s : Kept e0_ s) : Kept e0_ (failMessage s id status detail port) := by
  unfold failMessage
  repeat' with_reducible first
    | assumption | exact Kept.refl _ | apply Kept.id_of | exact VaultKept.refl _ | exact MemKept.refl _ | exact HostKept.refl _
    | exact VaultKept.upd | exact MemKept.mk id id | exact id | exact (fun w => memWrite_wf w _ _) | exact (fun w => memZero_wf w _ _)
    | exact (fun w => Memory.wf_filter _ w) | apply kept_answered | apply kept_raiseError | apply kept_lostCommand
    | apply kept_poisonStaged | apply kept_complete | apply kept_stopShoe | apply kept_failInit | apply OptKept.getD | apply Kept.put
    | apply Kept.ite | (refine Kept.foldl ?_ (fun _ _ _ => ?_)) | (refine Kept.foldl_fst ?_ (fun _ _ _ => ?_))
    | (refine Kept.foldr ?_ (fun _ _ _ => ?_)) | (fail_if_no_progress beta_reduce)
    | ((try lift_lets -underBinder); intro xx; first | (refine Kept.use (P := Kept e0_ xx) ?_ (fun hx => ?_); (on_goal 2 => clear_value xx); (on_goal 1 => subst xx)) | (have yy : _ → _ := xx; clear yy; subst xx) | (have yy : Memories := xx; clear yy; subst xx) | (have yy : Vault := xx; clear yy; subst xx) | (have yy : HostEnv := xx; clear yy; subst xx) | clear_value xx)
    | split | rw [mk_put] | (refine MemKept.mk ?_ ?_)

theorem kept_portDownOp {e0_ : State} (port reason : Nat) (s : State) (h_s : Kept e0_ s) : Kept e0_ (portDownOp port reason s) := by
  unfold portDownOp
  repeat' with_reducible first
    | assumption | exact Kept.refl _ | apply Kept.id_of | exact VaultKept.refl _ | exact MemKept.refl _ | exact HostKept.refl _
    | exact VaultKept.upd | exact MemKept.mk id id | exact id | exact (fun w => memWrite_wf w _ _) | exact (fun w => memZero_wf w _ _)
    | exact (fun w => Memory.wf_filter _ w) | apply kept_setTpLive | apply kept_putLink | apply kept_linkEvent | apply kept_failMessage
    | apply OptKept.getD | apply Kept.put | (fail_if_no_progress beta_reduce) | (refine Kept.foldl ?_ (fun _ _ _ => ?_))
    | (refine Kept.foldl_fst ?_ (fun _ _ _ => ?_)) | (refine Kept.foldr ?_ (fun _ _ _ => ?_)) | split | rw [mk_put]
    | (refine MemKept.mk ?_ ?_)

theorem kept_afterRetire {e0_ : State} (s : State) (kind index : Nat) (failed : Bool) (h_s : Kept e0_ s) : Kept e0_ (afterRetire s kind index failed) := by
  unfold afterRetire
  repeat' with_reducible first
    | assumption | exact Kept.refl _ | apply Kept.id_of | exact VaultKept.refl _ | exact MemKept.refl _ | exact HostKept.refl _
    | exact VaultKept.upd | exact MemKept.mk id id | exact id | exact (fun w => memWrite_wf w _ _) | exact (fun w => memZero_wf w _ _)
    | exact (fun w => Memory.wf_filter _ w) | apply kept_killWhere | apply kept_fatal | apply kept_resizeAnte
    | apply kept_loseWriteOut | apply kept_setTpLive | apply kept_portDownOp | apply OptKept.getD | apply Kept.put | apply Kept.ite
    | (refine Kept.foldl ?_ (fun _ _ _ => ?_)) | (refine Kept.foldl_fst ?_ (fun _ _ _ => ?_)) | (refine Kept.foldr ?_ (fun _ _ _ => ?_))
    | (fail_if_no_progress beta_reduce)
    | ((try lift_lets -underBinder); intro xx; first | (refine Kept.use (P := Kept e0_ xx) ?_ (fun hx => ?_); (on_goal 2 => clear_value xx); (on_goal 1 => subst xx)) | (have yy : _ → _ := xx; clear yy; subst xx) | (have yy : Memories := xx; clear yy; subst xx) | (have yy : Vault := xx; clear yy; subst xx) | (have yy : HostEnv := xx; clear yy; subst xx) | clear_value xx)
    | split | rw [mk_put] | (refine MemKept.mk ?_ ?_)

theorem kept_retireEffective {e0_ : State} (s : State) (kind index cause : Nat) (failed : Bool) (h_s : Kept e0_ s) : Kept e0_ (retireEffective s kind index cause failed) := by
  unfold retireEffective
  repeat' with_reducible first
    | assumption | exact Kept.refl _ | apply Kept.id_of | exact VaultKept.refl _ | exact MemKept.refl _ | exact HostKept.refl _
    | exact VaultKept.upd | exact MemKept.mk id id | exact id | exact (fun w => memWrite_wf w _ _) | exact (fun w => memZero_wf w _ _)
    | exact (fun w => Memory.wf_filter _ w) | apply kept_mapChange | apply kept_raiseEvent | apply kept_withdrawBand
    | apply kept_afterRetire | apply OptKept.getD | apply Kept.put | apply Kept.ite | (refine Kept.foldl ?_ (fun _ _ _ => ?_))
    | (refine Kept.foldl_fst ?_ (fun _ _ _ => ?_)) | (refine Kept.foldr ?_ (fun _ _ _ => ?_)) | (fail_if_no_progress beta_reduce)
    | ((try lift_lets -underBinder); intro xx; first | (refine Kept.use (P := Kept e0_ xx) ?_ (fun hx => ?_); (on_goal 2 => clear_value xx); (on_goal 1 => subst xx)) | (have yy : _ → _ := xx; clear yy; subst xx) | (have yy : Memories := xx; clear yy; subst xx) | (have yy : Vault := xx; clear yy; subst xx) | (have yy : HostEnv := xx; clear yy; subst xx) | clear_value xx)
    | split | rw [mk_put] | (refine MemKept.mk ?_ ?_)

theorem kept_retireNow {e0_ : State} (s : State) (kind index cause : Nat) (h_s : Kept e0_ s) : Kept e0_ (retireNow s kind index cause) := by
  unfold retireNow
  repeat' with_reducible first
    | assumption | apply kept_recordRetired | apply kept_retireEffective | (fail_if_no_progress beta_reduce) | split

theorem kept_retireDeferred {e0_ : State} (s : State) (kind index cause : Nat) (h_s : Kept e0_ s) : Kept e0_ (retireDeferred s kind index cause) := by
  unfold retireDeferred
  repeat' with_reducible first
    | assumption | exact Kept.refl _ | apply Kept.id_of | exact VaultKept.refl _ | exact MemKept.refl _ | exact HostKept.refl _
    | exact VaultKept.upd | exact MemKept.mk id id | exact id | exact (fun w => memWrite_wf w _ _) | exact (fun w => memZero_wf w _ _)
    | exact (fun w => Memory.wf_filter _ w) | apply kept_mapChange | apply kept_raiseEvent | apply kept_recordRetired
    | apply OptKept.getD | apply Kept.put | (fail_if_no_progress beta_reduce) | (refine Kept.foldl ?_ (fun _ _ _ => ?_))
    | (refine Kept.foldl_fst ?_ (fun _ _ _ => ?_)) | (refine Kept.foldr ?_ (fun _ _ _ => ?_)) | split | rw [mk_put]
    | (refine MemKept.mk ?_ ?_)

theorem kept_charge {e0_ : State} (s : State) (kind index cause : Nat) (second life : Bool) (h_s : Kept e0_ s) : Kept e0_ (charge s kind index cause second life) := by
  unfold charge
  repeat' with_reducible first
    | assumption | exact Kept.refl _ | apply Kept.id_of | exact VaultKept.refl _ | exact MemKept.refl _ | exact HostKept.refl _
    | exact VaultKept.upd | exact MemKept.mk id id | exact id | exact (fun w => memWrite_wf w _ _) | exact (fun w => memZero_wf w _ _)
    | exact (fun w => Memory.wf_filter _ w) | apply kept_bumpLife | apply kept_retireDeferred | apply OptKept.getD | apply Kept.put
    | apply Kept.ite | (refine Kept.foldl ?_ (fun _ _ _ => ?_)) | (refine Kept.foldl_fst ?_ (fun _ _ _ => ?_))
    | (refine Kept.foldr ?_ (fun _ _ _ => ?_)) | (fail_if_no_progress beta_reduce)
    | ((try lift_lets -underBinder); intro xx; first | (refine Kept.use (P := Kept e0_ xx) ?_ (fun hx => ?_); (on_goal 2 => clear_value xx); (on_goal 1 => subst xx)) | clear_value xx)
    | split | rw [mk_put] | (refine MemKept.mk ?_ ?_)

theorem kept_putModel {e0_ : State} (s : State) (m : Nat) (x : Model) (h_s : Kept e0_ s) : Kept e0_ (putModel s m x) := by
  unfold putModel
  repeat' with_reducible first
    | assumption | exact Kept.refl _ | apply Kept.id_of | exact VaultKept.refl _ | exact MemKept.refl _ | exact HostKept.refl _
    | exact VaultKept.upd | exact MemKept.mk id id | exact id | exact (fun w => memWrite_wf w _ _) | exact (fun w => memZero_wf w _ _)
    | exact (fun w => Memory.wf_filter _ w) | apply kept_announce | apply OptKept.getD | apply Kept.put | apply Kept.ite
    | (refine Kept.foldl ?_ (fun _ _ _ => ?_)) | (refine Kept.foldl_fst ?_ (fun _ _ _ => ?_)) | (refine Kept.foldr ?_ (fun _ _ _ => ?_))
    | (fail_if_no_progress beta_reduce)
    | ((try lift_lets -underBinder); intro xx; first | (refine Kept.use (P := Kept e0_ xx) ?_ (fun hx => ?_); (on_goal 2 => clear_value xx); (on_goal 1 => subst xx)) | clear_value xx)
    | split | rw [mk_put] | (refine MemKept.mk ?_ ?_)

theorem kept_withholdArrival {e0_ : State} (s : State) (m epoch : Nat) (h_s : Kept e0_ s) : Kept e0_ (withholdArrival s m epoch) := by
  unfold withholdArrival
  repeat' with_reducible first
    | assumption | exact Kept.refl _ | apply Kept.id_of | exact VaultKept.refl _ | exact MemKept.refl _ | exact HostKept.refl _
    | exact VaultKept.upd | exact MemKept.mk id id | exact id | exact (fun w => memWrite_wf w _ _) | exact (fun w => memZero_wf w _ _)
    | exact (fun w => Memory.wf_filter _ w) | apply OptKept.getD | apply Kept.put | (fail_if_no_progress beta_reduce)
    | (refine Kept.foldl ?_ (fun _ _ _ => ?_)) | (refine Kept.foldl_fst ?_ (fun _ _ _ => ?_)) | (refine Kept.foldr ?_ (fun _ _ _ => ?_))
    | split | rw [mk_put] | (refine MemKept.mk ?_ ?_)

theorem kept_damageSlot {e0_ : State} (s : State) (k : Nat) (h_s : Kept e0_ s) : Kept e0_ (damageSlot s k) := by
  have h1 : Kept e0_ { s with vault := { s.vault with slots := tabPut s.vault.slots k { vaultSlot s k with state := .damaged } } } := by
    rw [mk_put]
    exact h_s.put (VaultKept.of_slots fun w => slotsWf_put w (slotsWf_get w k)) (MemKept.refl _) id id
  unfold damageSlot
  dsimp only
  split
  · exact h_s
  · refine Kept.foldl (Kept.foldl (kept_raiseError _ _ (kept_recordWrite _ h1)) fun t f ht => kept_complete _ _ _ _ _ ht) fun t m ht => ?_
    split
    · split
      · apply kept_raiseEvent
        apply kept_putModel
        apply kept_withholdArrival
        exact ht
      · exact ht
    · exact ht

theorem kept_damageRow {e0_ : State} (s : State) (group granule : Nat) (h_s : Kept e0_ s) : Kept e0_ (damageRow s group granule) := by
  unfold damageRow
  repeat' with_reducible first
    | assumption | exact Kept.refl _ | apply Kept.id_of | exact VaultKept.refl _ | exact MemKept.refl _ | exact HostKept.refl _
    | exact VaultKept.upd | exact MemKept.mk id id | exact id | exact (fun w => memWrite_wf w _ _) | exact (fun w => memZero_wf w _ _)
    | exact (fun w => Memory.wf_filter _ w) | apply kept_damageSlot | apply OptKept.getD | apply Kept.put | apply Kept.ite
    | (refine Kept.foldl ?_ (fun _ _ _ => ?_)) | (refine Kept.foldl_fst ?_ (fun _ _ _ => ?_)) | (refine Kept.foldr ?_ (fun _ _ _ => ?_))
    | (fail_if_no_progress beta_reduce)
    | ((try lift_lets -underBinder); intro xx; first | (refine Kept.use (P := Kept e0_ xx) ?_ (fun hx => ?_); (on_goal 2 => clear_value xx); (on_goal 1 => subst xx)) | (have yy : _ → _ := xx; clear yy; subst xx) | (have yy : Memories := xx; clear yy; subst xx) | (have yy : Vault := xx; clear yy; subst xx) | (have yy : HostEnv := xx; clear yy; subst xx) | clear_value xx)
    | split | rw [mk_put] | (refine MemKept.mk ?_ ?_)

theorem kept_noteBad {e0_ : State} (s : State) (extent granule : Nat) (h_s : Kept e0_ s) : Kept e0_ (noteBad s extent granule) := by
  unfold noteBad
  repeat' with_reducible first
    | assumption | exact Kept.refl _ | apply Kept.id_of | exact VaultKept.refl _ | exact MemKept.refl _ | exact HostKept.refl _
    | exact VaultKept.upd | exact MemKept.mk id id | exact id | exact (fun w => memWrite_wf w _ _) | exact (fun w => memZero_wf w _ _)
    | exact (fun w => Memory.wf_filter _ w) | apply OptKept.getD | apply Kept.put | apply Kept.ite
    | (refine Kept.foldl ?_ (fun _ _ _ => ?_)) | (refine Kept.foldl_fst ?_ (fun _ _ _ => ?_)) | (refine Kept.foldr ?_ (fun _ _ _ => ?_))
    | (fail_if_no_progress beta_reduce)
    | ((try lift_lets -underBinder); intro xx; first | (refine Kept.use (P := Kept e0_ xx) ?_ (fun hx => ?_); (on_goal 2 => clear_value xx); (on_goal 1 => subst xx)) | (have yy : _ → _ := xx; clear yy; subst xx) | (have yy : Memories := xx; clear yy; subst xx) | (have yy : Vault := xx; clear yy; subst xx) | (have yy : HostEnv := xx; clear yy; subst xx) | clear_value xx)
    | split | rw [mk_put] | (refine MemKept.mk ?_ ?_)

theorem slotOfExtent_mem {s : State} {x k : Nat} {sl : Slot} (h : slotOfExtent s x = some (k, sl)) : (k, sl) ∈ s.vault.slots := by
  unfold slotOfExtent at h
  exact List.mem_of_find?_eq_some h

theorem kept_badGranule {e0_ : State} (s : State) (extent granule : Nat) (h_s : Kept e0_ s) : Kept e0_ (badGranule s extent granule) := by
  unfold badGranule
  repeat' with_reducible first
    | assumption | exact Kept.refl _ | apply Kept.id_of | exact VaultKept.refl _ | exact MemKept.refl _ | exact HostKept.refl _
    | exact VaultKept.upd | exact MemKept.mk id id | exact id | exact (fun w => memWrite_wf w _ _) | exact (fun w => memZero_wf w _ _)
    | exact (fun w => Memory.wf_filter _ w) | apply kept_noteBad | apply kept_raiseError | apply kept_damageRow | apply OptKept.getD
    | apply Kept.put | apply Kept.ite | (refine Kept.foldl ?_ (fun _ _ _ => ?_)) | (refine Kept.foldl_fst ?_ (fun _ _ _ => ?_))
    | (refine Kept.foldr ?_ (fun _ _ _ => ?_))
     | (fail_if_no_progress beta_reduce)
    | ((try lift_lets -underBinder); intro xx; first | (refine Kept.use (P := Kept e0_ xx) ?_ (fun hx => ?_); (on_goal 2 => clear_value xx); (on_goal 1 => subst xx)) | (have yy : _ → _ := xx; clear yy; subst xx) | (have yy : Memories := xx; clear yy; subst xx) | (have yy : Vault := xx; clear yy; subst xx) | (have yy : HostEnv := xx; clear yy; subst xx) | clear_value xx)
    | split | rw [mk_put] | (refine MemKept.mk ?_ ?_)
  rename_i heq
  exact VaultKept.of_slots fun w => slotsWf_put w (w _ (slotOfExtent_mem heq))

theorem kept_damageWhere {e0_ : State} (s : State) (p : Slot → Bool) (h_s : Kept e0_ s) : Kept e0_ (damageWhere s p) := by
  unfold damageWhere
  repeat' with_reducible first
    | assumption | exact Kept.refl _ | apply Kept.id_of | exact VaultKept.refl _ | exact MemKept.refl _ | exact HostKept.refl _
    | exact VaultKept.upd | exact MemKept.mk id id | exact id | exact (fun w => memWrite_wf w _ _) | exact (fun w => memZero_wf w _ _)
    | exact (fun w => Memory.wf_filter _ w) | apply kept_damageSlot | apply OptKept.getD | apply Kept.put | apply Kept.ite
    | (refine Kept.foldl ?_ (fun _ _ _ => ?_)) | (refine Kept.foldl_fst ?_ (fun _ _ _ => ?_)) | (refine Kept.foldr ?_ (fun _ _ _ => ?_))
    | (fail_if_no_progress beta_reduce)
    | ((try lift_lets -underBinder); intro xx; first | (refine Kept.use (P := Kept e0_ xx) ?_ (fun hx => ?_); (on_goal 2 => clear_value xx); (on_goal 1 => subst xx)) | (have yy : _ → _ := xx; clear yy; subst xx) | (have yy : Memories := xx; clear yy; subst xx) | (have yy : Vault := xx; clear yy; subst xx) | (have yy : HostEnv := xx; clear yy; subst xx) | clear_value xx)
    | split | rw [mk_put] | (refine MemKept.mk ?_ ?_)

theorem kept_vaultStackLost {e0_ : State} (s : State) (stack : Nat) (h_s : Kept e0_ s) : Kept e0_ (vaultStackLost s stack) := by
  unfold vaultStackLost
  split
  · exact h_s
  · refine Kept.foldl ?_ fun t x ht => kept_damageSlot _ _ ht
    apply kept_raiseError
    rw [mk_put]
    refine h_s.put (VaultKept.of_slots fun w e he => ?_) (MemKept.refl _) id id
    obtain ⟨x, hx, rfl⟩ := List.mem_map.1 he
    dsimp only
    split <;> exact w x hx

theorem kept_applyErr {e0_ : State} (place : Place) (ticket : Nat) (s : State) (e : HwErr) (h_s : Kept e0_ s) : Kept e0_ (applyErr place ticket s e) := by
  unfold applyErr
  repeat' with_reducible first
    | assumption | exact Kept.refl _ | apply Kept.id_of | exact VaultKept.refl _ | exact MemKept.refl _ | exact HostKept.refl _
    | exact VaultKept.upd | exact MemKept.mk id id | exact id | exact (fun w => memWrite_wf w _ _) | exact (fun w => memZero_wf w _ _)
    | exact (fun w => Memory.wf_filter _ w) | apply kept_raiseError | apply kept_fatal | apply kept_poisonRun | apply kept_charge
    | apply kept_badGranule | apply kept_vaultStackLost | apply OptKept.getD | apply Kept.put | (fail_if_no_progress beta_reduce)
    | (refine Kept.foldl ?_ (fun _ _ _ => ?_)) | (refine Kept.foldl_fst ?_ (fun _ _ _ => ?_)) | (refine Kept.foldr ?_ (fun _ _ _ => ?_))
    | split | rw [mk_put] | (refine MemKept.mk ?_ ?_)

theorem kept_applyErrs {e0_ : State} (s : State) (place : Place) (ticket : Nat) (es : List HwErr) (h_s : Kept e0_ s) : Kept e0_ (applyErrs s place ticket es) := by
  unfold applyErrs
  repeat' with_reducible first
    | assumption | exact Kept.refl _ | apply Kept.id_of | exact VaultKept.refl _ | exact MemKept.refl _ | exact HostKept.refl _
    | exact VaultKept.upd | exact MemKept.mk id id | exact id | exact (fun w => memWrite_wf w _ _) | exact (fun w => memZero_wf w _ _)
    | exact (fun w => Memory.wf_filter _ w) | apply kept_applyErr | apply OptKept.getD | apply Kept.put
    | (fail_if_no_progress beta_reduce) | (refine Kept.foldl ?_ (fun _ _ _ => ?_)) | (refine Kept.foldl_fst ?_ (fun _ _ _ => ?_))
    | (refine Kept.foldr ?_ (fun _ _ _ => ?_)) | split | rw [mk_put] | (refine MemKept.mk ?_ ?_)

end Sys2Proof.Laws
end

