-- ==== Sys2Proof/Laws/KeptKv.lean ====
section
/-!
SUPPORT. Sys2Proof/Laws/KeptKv.lean: what the operations of Machine/Kv.lean keep (Laws/Kept.lean).
-/

set_option linter.unusedTactic false
set_option linter.unreachableTactic false
set_option linter.unusedVariables false

namespace Sys2Proof.Laws

open Sys2Proof.Machine Sys2Proof.Safety

theorem kept_putCtx {e0_ : State} (s : State) (c : Nat) (x : Ctx) (h_s : Kept e0_ s) : Kept e0_ (putCtx s c x) := by
  unfold putCtx
  repeat' with_reducible first
    | assumption | exact Kept.refl _ | apply Kept.id_of | exact VaultKept.refl _ | exact MemKept.refl _ | exact HostKept.refl _
    | exact VaultKept.upd | exact MemKept.mk id id | exact id | exact (fun w => memWrite_wf w _ _) | exact (fun w => memZero_wf w _ _)
    | exact (fun w => Memory.wf_filter _ w) | apply OptKept.getD | apply Kept.put | (fail_if_no_progress beta_reduce)
    | (refine Kept.foldl ?_ (fun _ _ _ => ?_)) | (refine Kept.foldl_fst ?_ (fun _ _ _ => ?_)) | (refine Kept.foldr ?_ (fun _ _ _ => ?_))
    | split | rw [mk_put] | (refine MemKept.mk ?_ ?_)

theorem kept_modCtx {e0_ : State} (s : State) (c : Nat) (g : Ctx → Ctx) (h_s : Kept e0_ s) : Kept e0_ (modCtx s c g) := by
  unfold modCtx
  repeat' with_reducible first
    | assumption | apply kept_putCtx | (fail_if_no_progress beta_reduce) | split

theorem kept_putSpec {e0_ : State} (s : State) (c : Nat) (x : Spec) (h_s : Kept e0_ s) : Kept e0_ (putSpec s c x) := by
  unfold putSpec
  repeat' with_reducible first
    | assumption | exact Kept.refl _ | apply Kept.id_of | exact VaultKept.refl _ | exact MemKept.refl _ | exact HostKept.refl _
    | exact VaultKept.upd | exact MemKept.mk id id | exact id | exact (fun w => memWrite_wf w _ _) | exact (fun w => memZero_wf w _ _)
    | exact (fun w => Memory.wf_filter _ w) | apply OptKept.getD | apply Kept.put | (fail_if_no_progress beta_reduce)
    | (refine Kept.foldl ?_ (fun _ _ _ => ?_)) | (refine Kept.foldl_fst ?_ (fun _ _ _ => ?_)) | (refine Kept.foldr ?_ (fun _ _ _ => ?_))
    | split | rw [mk_put] | (refine MemKept.mk ?_ ?_)

theorem kept_putMade {e0_ : State} (s : State) (c e : Nat) (x : PageEntry) (h_s : Kept e0_ s) : Kept e0_ (putMade s c e x) := by
  unfold putMade
  repeat' with_reducible first
    | assumption | exact Kept.refl _ | apply Kept.id_of | exact VaultKept.refl _ | exact MemKept.refl _ | exact HostKept.refl _
    | exact VaultKept.upd | exact MemKept.mk id id | exact id | exact (fun w => memWrite_wf w _ _) | exact (fun w => memZero_wf w _ _)
    | exact (fun w => Memory.wf_filter _ w) | apply OptKept.getD | apply Kept.put | (fail_if_no_progress beta_reduce)
    | (refine Kept.foldl ?_ (fun _ _ _ => ?_)) | (refine Kept.foldl_fst ?_ (fun _ _ _ => ?_)) | (refine Kept.foldr ?_ (fun _ _ _ => ?_))
    | split | rw [mk_put] | (refine MemKept.mk ?_ ?_)

theorem kept_writePage {e0_ : State} (s : State) (c : Nat) (isOpen : Bool) (e page off : Nat) (data : List Byte) (h_s : Kept e0_ s) : Kept e0_ (writePage s c isOpen e page off data).1 := by
  unfold writePage
  repeat' with_reducible first
    | assumption | exact Kept.refl _ | apply Kept.id_of | exact VaultKept.refl _ | exact MemKept.refl _ | exact HostKept.refl _
    | exact VaultKept.upd | exact MemKept.mk id id | exact id | exact (fun w => memWrite_wf w _ _) | exact (fun w => memZero_wf w _ _)
    | exact (fun w => Memory.wf_filter _ w) | apply kept_putMem | apply OptKept.getD | apply Kept.put | apply Kept.ite
    | (refine Kept.foldl ?_ (fun _ _ _ => ?_)) | (refine Kept.foldl_fst ?_ (fun _ _ _ => ?_)) | (refine Kept.foldr ?_ (fun _ _ _ => ?_))
    | (refine Kept.fst_of (by assumption) ?_; apply kept_putMem) | (fail_if_no_progress beta_reduce)
    | ((try lift_lets -underBinder); intro xx; first | (refine Kept.use (P := Kept e0_ xx) ?_ (fun hx => ?_); (on_goal 2 => clear_value xx); (on_goal 1 => subst xx)) | clear_value xx)
    | split | rw [mk_put] | (refine MemKept.mk ?_ ?_)

theorem kept_allocPage {e0_ : State} (s : State) (r : PageRec) (h_s : Kept e0_ s) : OptFst e0_ (allocPage s r) := by
  unfold allocPage
  repeat' with_reducible first
    | assumption | exact Kept.refl _ | apply Kept.id_of | exact VaultKept.refl _ | exact MemKept.refl _ | exact HostKept.refl _
    | exact VaultKept.upd | exact MemKept.mk id id | exact id | exact (fun w => memWrite_wf w _ _) | exact (fun w => memZero_wf w _ _)
    | exact (fun w => Memory.wf_filter _ w) | exact OptFst.none | apply OptFst.some | apply OptFst.ite
    | (refine OptFst.map (fun _ _ => ?_)) | apply OptKept.getD | apply Kept.put | (fail_if_no_progress beta_reduce)
    | (refine Kept.foldl ?_ (fun _ _ _ => ?_)) | (refine Kept.foldl_fst ?_ (fun _ _ _ => ?_)) | (refine Kept.foldr ?_ (fun _ _ _ => ?_))
    | split | rw [mk_put] | (refine MemKept.mk ?_ ?_)

theorem kept_setFrame {e0_ : State} (s : State) (pool i : Nat) (page : Option (Nat × Nat)) (h_s : Kept e0_ s) : Kept e0_ (setFrame s pool i page) := by
  unfold setFrame
  repeat' with_reducible first
    | assumption | exact Kept.refl _ | apply Kept.id_of | exact VaultKept.refl _ | exact MemKept.refl _ | exact HostKept.refl _
    | exact VaultKept.upd | exact MemKept.mk id id | exact id | exact (fun w => memWrite_wf w _ _) | exact (fun w => memZero_wf w _ _)
    | exact (fun w => Memory.wf_filter _ w) | apply OptKept.getD | apply Kept.put | (fail_if_no_progress beta_reduce)
    | (refine Kept.foldl ?_ (fun _ _ _ => ?_)) | (refine Kept.foldl_fst ?_ (fun _ _ _ => ?_)) | (refine Kept.foldr ?_ (fun _ _ _ => ?_))
    | split | rw [mk_put] | (refine MemKept.mk ?_ ?_)

theorem kept_frameOut {e0_ : State} (s : State) (f : SpillFrame) (pa : Nat) (h_s : Kept e0_ s) : Kept e0_ (frameOut s f pa).1 := by
  unfold frameOut
  repeat' with_reducible first
    | assumption | exact Kept.refl _ | apply Kept.id_of | exact VaultKept.refl _ | exact MemKept.refl _ | exact HostKept.refl _
    | exact VaultKept.upd | exact MemKept.mk id id | exact id | exact (fun w => memWrite_wf w _ _) | exact (fun w => memZero_wf w _ _)
    | exact (fun w => Memory.wf_filter _ w) | apply kept_hostPut | apply kept_putMem | apply OptKept.getD | apply Kept.put
    | apply Kept.ite | (refine Kept.foldl ?_ (fun _ _ _ => ?_)) | (refine Kept.foldl_fst ?_ (fun _ _ _ => ?_))
    | (refine Kept.foldr ?_ (fun _ _ _ => ?_)) | (refine Kept.fst_of (by assumption) ?_; apply kept_putMem)
    | (fail_if_no_progress beta_reduce)
    | ((try lift_lets -underBinder); intro xx; first | (refine Kept.use (P := Kept e0_ xx) ?_ (fun hx => ?_); (on_goal 2 => clear_value xx); (on_goal 1 => subst xx)) | (have yy : _ → _ := xx; clear yy; subst xx) | (have yy : Memories := xx; clear yy; subst xx) | (have yy : Vault := xx; clear yy; subst xx) | (have yy : HostEnv := xx; clear yy; subst xx) | clear_value xx)
    | split | rw [mk_put] | (refine MemKept.mk ?_ ?_)

theorem kept_spillPage {e0_ : State} (s : State) (page : Nat) (r : PageRec) (h_s : Kept e0_ s) : OptKept e0_ (spillPage s page r) := by
  unfold spillPage
  repeat' with_reducible first
    | assumption | exact Kept.refl _ | apply Kept.id_of | exact VaultKept.refl _ | exact MemKept.refl _ | exact HostKept.refl _
    | exact VaultKept.upd | exact MemKept.mk id id | exact id | exact (fun w => memWrite_wf w _ _) | exact (fun w => memZero_wf w _ _)
    | exact (fun w => Memory.wf_filter _ w) | apply kept_freePage | apply kept_putMade | apply kept_setFrame | apply kept_frameOut
    | exact OptKept.none | apply OptKept.some | apply OptKept.ite | (refine OptKept.map (fun _ _ => ?_))
    | (refine OptKept.findSome (fun _ => ?_)) | apply OptKept.getD | apply Kept.put | (fail_if_no_progress beta_reduce)
    | (refine Kept.fst_of (by assumption) ?_; apply kept_frameOut) | (refine Kept.foldl ?_ (fun _ _ _ => ?_))
    | (refine Kept.foldl_fst ?_ (fun _ _ _ => ?_)) | (refine Kept.foldr ?_ (fun _ _ _ => ?_)) | split | rw [mk_put]
    | (refine MemKept.mk ?_ ?_)

theorem kept_takePage {e0_ : State} (fore : List Nat) (n : Nat) (s : State) (r : PageRec) (h : Kept e0_ s) : Kept e0_ (takePage fore n s r).1 := by
  induction n generalizing s with
  | zero => exact h
  | succ n ih =>
    simp only [takePage]
    repeat' with_reducible first
    | assumption | exact Kept.refl _ | apply Kept.id_of | exact VaultKept.refl _ | exact MemKept.refl _ | exact HostKept.refl _
    | exact VaultKept.upd | exact MemKept.mk id id | exact id | exact (fun w => memWrite_wf w _ _) | exact (fun w => memZero_wf w _ _)
    | exact (fun w => Memory.wf_filter _ w) | apply ih | apply kept_allocPage | apply kept_spillPage | apply OptKept.getD
    | apply Kept.put | apply Kept.ite | (refine Kept.foldl ?_ (fun _ _ _ => ?_)) | (refine Kept.foldl_fst ?_ (fun _ _ _ => ?_))
    | (refine Kept.foldr ?_ (fun _ _ _ => ?_)) | (refine OptFst.get (by assumption) ?_; apply kept_allocPage)
    | (refine OptFst.get1 (by assumption) ?_; apply kept_allocPage) | (refine OptKept.get (by assumption) ?_; apply kept_spillPage)
    | (fail_if_no_progress beta_reduce)
    | ((try lift_lets -underBinder); intro xx; first | (refine Kept.use (P := Kept e0_ xx) ?_ (fun hx => ?_); (on_goal 2 => clear_value xx); (on_goal 1 => subst xx)) | (refine Kept.use (P := OptKept e0_ xx) ?_ (fun hx => ?_); (on_goal 2 => clear_value xx); (on_goal 1 => subst xx)) | (refine Kept.use (P := Kept e0_ (Prod.fst (α := State) xx)) ?_ (fun hx => ?_); (on_goal 2 => clear_value xx); (on_goal 1 => subst xx)) | (refine Kept.use (P := Kept e0_ (Prod.snd (β := State) xx)) ?_ (fun hx => ?_); (on_goal 2 => clear_value xx); (on_goal 1 => subst xx)) | (refine Kept.use (P := OptFst e0_ xx) ?_ (fun hx => ?_); (on_goal 2 => clear_value xx); (on_goal 1 => subst xx)) | (refine Kept.use (P := ExcKept e0_ xx) ?_ (fun hx => ?_); (on_goal 2 => clear_value xx); (on_goal 1 => subst xx)) | (have yy : _ → _ := xx; clear yy; subst xx) | (have yy : Memories := xx; clear yy; subst xx) | (have yy : Vault := xx; clear yy; subst xx) | (have yy : HostEnv := xx; clear yy; subst xx) | clear_value xx)
    | split | rw [mk_put] | (refine MemKept.mk ?_ ?_)

theorem kept_discardOpen {e0_ : State} (s : State) (c : Nat) (h_s : Kept e0_ s) : Kept e0_ (discardOpen s c) := by
  unfold discardOpen
  repeat' with_reducible first
    | assumption | exact Kept.refl _ | apply Kept.id_of | exact VaultKept.refl _ | exact MemKept.refl _ | exact HostKept.refl _
    | exact VaultKept.upd | exact MemKept.mk id id | exact id | exact (fun w => memWrite_wf w _ _) | exact (fun w => memZero_wf w _ _)
    | exact (fun w => Memory.wf_filter _ w) | apply kept_sweepOld | apply kept_putSpec | apply OptKept.getD | apply Kept.put
    | apply Kept.ite | (refine Kept.foldl ?_ (fun _ _ _ => ?_)) | (refine Kept.foldl_fst ?_ (fun _ _ _ => ?_))
    | (refine Kept.foldr ?_ (fun _ _ _ => ?_)) | (fail_if_no_progress beta_reduce)
    | ((try lift_lets -underBinder); intro xx; first | (refine Kept.use (P := Kept e0_ xx) ?_ (fun hx => ?_); (on_goal 2 => clear_value xx); (on_goal 1 => subst xx)) | clear_value xx)
    | split | rw [mk_put] | (refine MemKept.mk ?_ ?_)

theorem kept_holdCtx {e0_ : State} (s : State) (c hold deal : Nat) (h_s : Kept e0_ s) : Kept e0_ (holdCtx s c hold deal) := by
  unfold holdCtx
  repeat' with_reducible first
    | assumption | exact Kept.refl _ | apply Kept.id_of | exact VaultKept.refl _ | exact MemKept.refl _ | exact HostKept.refl _
    | exact VaultKept.upd | exact MemKept.mk id id | exact id | exact (fun w => memWrite_wf w _ _) | exact (fun w => memZero_wf w _ _)
    | exact (fun w => Memory.wf_filter _ w) | apply kept_modCtx | apply kept_discardOpen | apply OptKept.getD | apply Kept.put
    | (fail_if_no_progress beta_reduce) | (refine Kept.foldl ?_ (fun _ _ _ => ?_)) | (refine Kept.foldl_fst ?_ (fun _ _ _ => ?_))
    | (refine Kept.foldr ?_ (fun _ _ _ => ?_)) | split | rw [mk_put] | (refine MemKept.mk ?_ ?_)

theorem kept_takeList {e0_ : State} (s : State) (c blk deal : Nat) (h_s : Kept e0_ s) : Kept e0_ (takeList s c blk deal).1 := by
  unfold takeList
  repeat' with_reducible first
    | assumption | exact Kept.refl _ | apply Kept.id_of | exact VaultKept.refl _ | exact MemKept.refl _ | exact HostKept.refl _
    | exact VaultKept.upd | exact MemKept.mk id id | exact id | exact (fun w => memWrite_wf w _ _) | exact (fun w => memZero_wf w _ _)
    | exact (fun w => Memory.wf_filter _ w) | apply kept_takePage | apply OptKept.getD | apply Kept.put | apply Kept.ite
    | (refine Kept.foldl ?_ (fun _ _ _ => ?_)) | (refine Kept.foldl_fst ?_ (fun _ _ _ => ?_)) | (refine Kept.foldr ?_ (fun _ _ _ => ?_))
    | (refine Kept.fst_of (by assumption) ?_; apply kept_takePage) | (fail_if_no_progress beta_reduce)
    | ((try lift_lets -underBinder); intro xx; first | (refine Kept.use (P := Kept e0_ xx) ?_ (fun hx => ?_); (on_goal 2 => clear_value xx); (on_goal 1 => subst xx)) | clear_value xx)
    | split | rw [mk_put] | (refine MemKept.mk ?_ ?_)

theorem kept_takeMade {e0_ : State} (s : State) (c e deal : Nat) (h_s : Kept e0_ s) : Kept e0_ (takeMade s c e deal).1 := by
  unfold takeMade
  repeat' with_reducible first
    | assumption | exact Kept.refl _ | apply Kept.id_of | exact VaultKept.refl _ | exact MemKept.refl _ | exact HostKept.refl _
    | exact VaultKept.upd | exact MemKept.mk id id | exact id | exact (fun w => memWrite_wf w _ _) | exact (fun w => memZero_wf w _ _)
    | exact (fun w => Memory.wf_filter _ w) | apply kept_putMade | apply kept_takePage | apply kept_takeList | apply OptKept.getD
    | apply Kept.put | (fail_if_no_progress beta_reduce) | (refine Kept.fst_of (by assumption) ?_; apply kept_takePage)
    | (refine Kept.fst_of (by assumption) ?_; apply kept_takeList) | (refine Kept.foldl ?_ (fun _ _ _ => ?_))
    | (refine Kept.foldl_fst ?_ (fun _ _ _ => ?_)) | (refine Kept.foldr ?_ (fun _ _ _ => ?_)) | split | rw [mk_put]
    | (refine MemKept.mk ?_ ?_)

theorem kept_bringBack {e0_ : State} (fore : List Nat) (s : State) (c e deal : Nat) (h_s : Kept e0_ s) : Kept e0_ (bringBack fore s c e deal).1 := by
  unfold bringBack
  repeat' with_reducible first
    | assumption | exact Kept.refl _ | apply Kept.id_of | exact VaultKept.refl _ | exact MemKept.refl _ | exact HostKept.refl _
    | exact VaultKept.upd | exact MemKept.mk id id | exact id | exact (fun w => memWrite_wf w _ _) | exact (fun w => memZero_wf w _ _)
    | exact (fun w => Memory.wf_filter _ w) | apply kept_putMem | apply kept_putMade | apply kept_setFrame | apply kept_takePage
    | apply kept_holdCtx | apply OptKept.getD | apply Kept.put | apply Kept.ite | (refine Kept.foldl ?_ (fun _ _ _ => ?_))
    | (refine Kept.foldl_fst ?_ (fun _ _ _ => ?_)) | (refine Kept.foldr ?_ (fun _ _ _ => ?_))
    | (refine Kept.fst_of (by assumption) ?_; apply kept_putMem) | (refine Kept.fst_of (by assumption) ?_; apply kept_takePage)
    | (fail_if_no_progress beta_reduce)
    | ((try lift_lets -underBinder); intro xx; first | (refine Kept.use (P := Kept e0_ xx) ?_ (fun hx => ?_); (on_goal 2 => clear_value xx); (on_goal 1 => subst xx)) | (have yy : _ → _ := xx; clear yy; subst xx) | (have yy : Memories := xx; clear yy; subst xx) | (have yy : Vault := xx; clear yy; subst xx) | (have yy : HostEnv := xx; clear yy; subst xx) | clear_value xx)
    | split | rw [mk_put] | (refine MemKept.mk ?_ ?_)

theorem kept_touchPage {e0_ : State} (s : State) (p deal : Nat) (h_s : Kept e0_ s) : Kept e0_ (touchPage s p deal) := by
  unfold touchPage
  repeat' with_reducible first
    | assumption | exact Kept.refl _ | apply Kept.id_of | exact VaultKept.refl _ | exact MemKept.refl _ | exact HostKept.refl _
    | exact VaultKept.upd | exact MemKept.mk id id | exact id | exact (fun w => memWrite_wf w _ _) | exact (fun w => memZero_wf w _ _)
    | exact (fun w => Memory.wf_filter _ w) | apply OptKept.getD | apply Kept.put | (fail_if_no_progress beta_reduce)
    | (refine Kept.foldl ?_ (fun _ _ _ => ?_)) | (refine Kept.foldl_fst ?_ (fun _ _ _ => ?_)) | (refine Kept.foldr ?_ (fun _ _ _ => ?_))
    | split | rw [mk_put] | (refine MemKept.mk ?_ ?_)

theorem kept_touchLists {e0_ : State} (s : State) (c e deal : Nat) (h_s : Kept e0_ s) : Kept e0_ (touchLists s c e deal) := by
  unfold touchLists
  repeat' with_reducible first
    | assumption | exact Kept.refl _ | apply Kept.id_of | exact VaultKept.refl _ | exact MemKept.refl _ | exact HostKept.refl _
    | exact VaultKept.upd | exact MemKept.mk id id | exact id | exact (fun w => memWrite_wf w _ _) | exact (fun w => memZero_wf w _ _)
    | exact (fun w => Memory.wf_filter _ w) | apply kept_touchPage | apply OptKept.getD | apply Kept.put | apply Kept.ite
    | (refine Kept.foldl ?_ (fun _ _ _ => ?_)) | (refine Kept.foldl_fst ?_ (fun _ _ _ => ?_)) | (refine Kept.foldr ?_ (fun _ _ _ => ?_))
    | (fail_if_no_progress beta_reduce)
    | ((try lift_lets -underBinder); intro xx; first | (refine Kept.use (P := Kept e0_ xx) ?_ (fun hx => ?_); (on_goal 2 => clear_value xx); (on_goal 1 => subst xx)) | (have yy : _ → _ := xx; clear yy; subst xx) | (have yy : Memories := xx; clear yy; subst xx) | (have yy : Vault := xx; clear yy; subst xx) | (have yy : HostEnv := xx; clear yy; subst xx) | clear_value xx)
    | split | rw [mk_put] | (refine MemKept.mk ?_ ?_)

theorem kept_needMade {e0_ : State} (s : State) (c layer pos deal : Nat) (h_s : Kept e0_ s) : Kept e0_ (needMade s c layer pos deal).1 := by
  unfold needMade
  repeat' with_reducible first
    | assumption | exact Kept.refl _ | apply Kept.id_of | exact VaultKept.refl _ | exact MemKept.refl _ | exact HostKept.refl _
    | exact VaultKept.upd | exact MemKept.mk id id | exact id | exact (fun w => memWrite_wf w _ _) | exact (fun w => memZero_wf w _ _)
    | exact (fun w => Memory.wf_filter _ w) | apply kept_holdCtx | apply kept_takeMade
    | (refine Kept.fst_of (by assumption) ?_; apply kept_takeMade) | apply kept_touchLists | apply kept_bringBack
    | (refine Kept.fst_of (by assumption) ?_; apply kept_bringBack) | apply kept_forecast | apply OptKept.getD | apply Kept.put
    | apply Kept.ite | (refine Kept.foldl ?_ (fun _ _ _ => ?_)) | (refine Kept.foldl_fst ?_ (fun _ _ _ => ?_))
    | (refine Kept.foldr ?_ (fun _ _ _ => ?_)) | (fail_if_no_progress beta_reduce)
    | ((try lift_lets -underBinder); intro xx; first | (refine Kept.use (P := Kept e0_ xx) ?_ (fun hx => ?_); (on_goal 2 => clear_value xx); (on_goal 1 => subst xx)) | (have yy : _ → _ := xx; clear yy; subst xx) | (have yy : Memories := xx; clear yy; subst xx) | (have yy : Vault := xx; clear yy; subst xx) | (have yy : HostEnv := xx; clear yy; subst xx) | clear_value xx)
    | split | rw [mk_put] | (refine MemKept.mk ?_ ?_)

theorem kept_openDirFor {e0_ : State} (s : State) (c deal : Nat) (h_s : Kept e0_ s) : Kept e0_ (openDirFor s c deal).1 := by
  unfold openDirFor
  repeat' with_reducible first
    | assumption | exact Kept.refl _ | apply Kept.id_of | exact VaultKept.refl _ | exact MemKept.refl _ | exact HostKept.refl _
    | exact VaultKept.upd | exact MemKept.mk id id | exact id | exact (fun w => memWrite_wf w _ _) | exact (fun w => memZero_wf w _ _)
    | exact (fun w => Memory.wf_filter _ w) | apply kept_takePage | (refine Kept.fst_of (by assumption) ?_; apply kept_takePage)
    | apply kept_putSpec | apply kept_touchPage | apply OptKept.getD | apply Kept.put | apply Kept.ite
    | (refine Kept.foldl ?_ (fun _ _ _ => ?_)) | (refine Kept.foldl_fst ?_ (fun _ _ _ => ?_)) | (refine Kept.foldr ?_ (fun _ _ _ => ?_))
    | (fail_if_no_progress beta_reduce)
    | ((try lift_lets -underBinder); intro xx; first | (refine Kept.use (P := Kept e0_ xx) ?_ (fun hx => ?_); (on_goal 2 => clear_value xx); (on_goal 1 => subst xx)) | (have yy : _ → _ := xx; clear yy; subst xx) | (have yy : Memories := xx; clear yy; subst xx) | (have yy : Vault := xx; clear yy; subst xx) | (have yy : HostEnv := xx; clear yy; subst xx) | clear_value xx)
    | split | rw [mk_put] | (refine MemKept.mk ?_ ?_)

theorem kept_needOpen {e0_ : State} (s : State) (c layer i deal : Nat) (h_s : Kept e0_ s) : Kept e0_ (needOpen s c layer i deal).1 := by
  unfold needOpen
  repeat' with_reducible first
    | assumption | exact Kept.refl _ | apply Kept.id_of | exact VaultKept.refl _ | exact MemKept.refl _ | exact HostKept.refl _
    | exact VaultKept.upd | exact MemKept.mk id id | exact id | exact (fun w => memWrite_wf w _ _) | exact (fun w => memZero_wf w _ _)
    | exact (fun w => Memory.wf_filter _ w) | apply kept_discardOpen | apply kept_openDirFor
    | (refine Kept.fst_of (by assumption) ?_; apply kept_openDirFor) | apply kept_takePage
    | (refine Kept.fst_of (by assumption) ?_; apply kept_takePage) | apply kept_freePage | apply OptKept.getD | apply Kept.put
    | apply Kept.ite | (refine Kept.foldl ?_ (fun _ _ _ => ?_)) | (refine Kept.foldl_fst ?_ (fun _ _ _ => ?_))
    | (refine Kept.foldr ?_ (fun _ _ _ => ?_)) | (fail_if_no_progress beta_reduce)
    | ((try lift_lets -underBinder); intro xx; first | (refine Kept.use (P := Kept e0_ xx) ?_ (fun hx => ?_); (on_goal 2 => clear_value xx); (on_goal 1 => subst xx)) | (have yy : _ → _ := xx; clear yy; subst xx) | (have yy : Memories := xx; clear yy; subst xx) | (have yy : Vault := xx; clear yy; subst xx) | (have yy : HostEnv := xx; clear yy; subst xx) | clear_value xx)
    | split | rw [mk_put] | (refine MemKept.mk ?_ ?_)

theorem kept_writeFrame {e0_ : State} (s : State) (c e : Nat) (f : SpillFrame) (off : Nat) (data : List Byte) (h_s : Kept e0_ s) : Kept e0_ (writeFrame s c e f off data).1 := by
  unfold writeFrame
  repeat' with_reducible first
    | assumption | exact Kept.refl _ | apply Kept.id_of | exact VaultKept.refl _ | exact MemKept.refl _ | exact HostKept.refl _
    | exact VaultKept.upd | exact MemKept.mk id id | exact id | exact (fun w => memWrite_wf w _ _) | exact (fun w => memZero_wf w _ _)
    | exact (fun w => Memory.wf_filter _ w) | apply kept_putMem | (refine Kept.fst_of (by assumption) ?_; apply kept_putMem)
    | apply kept_hostPut | apply OptKept.getD | apply Kept.put | apply Kept.ite | (refine Kept.foldl ?_ (fun _ _ _ => ?_))
    | (refine Kept.foldl_fst ?_ (fun _ _ _ => ?_)) | (refine Kept.foldr ?_ (fun _ _ _ => ?_)) | (fail_if_no_progress beta_reduce)
    | ((try lift_lets -underBinder); intro xx; first | (refine Kept.use (P := Kept e0_ xx) ?_ (fun hx => ?_); (on_goal 2 => clear_value xx); (on_goal 1 => subst xx)) | (have yy : _ → _ := xx; clear yy; subst xx) | (have yy : Memories := xx; clear yy; subst xx) | (have yy : Vault := xx; clear yy; subst xx) | (have yy : HostEnv := xx; clear yy; subst xx) | clear_value xx)
    | split | rw [mk_put] | (refine MemKept.mk ?_ ?_)

theorem kept_putPage {e0_ : State} (deal : Nat) (acc : State × Nat) (c : Nat) (isOpen : Bool) (e page off : Nat) (data : List Byte) (h_acc : Kept e0_ acc.1) : Kept e0_ (putPage deal acc c isOpen e page off data).1 := by
  unfold putPage
  repeat' with_reducible first
    | assumption | exact Kept.refl _ | apply Kept.id_of | exact VaultKept.refl _ | exact MemKept.refl _ | exact HostKept.refl _
    | exact VaultKept.upd | exact MemKept.mk id id | exact id | exact (fun w => memWrite_wf w _ _) | exact (fun w => memZero_wf w _ _)
    | exact (fun w => Memory.wf_filter _ w) | apply kept_writePage | (refine Kept.fst_of (by assumption) ?_; apply kept_writePage)
    | apply kept_touchPage | apply OptKept.getD | apply Kept.put | apply Kept.ite | (refine Kept.foldl ?_ (fun _ _ _ => ?_))
    | (refine Kept.foldl_fst ?_ (fun _ _ _ => ?_)) | (refine Kept.foldr ?_ (fun _ _ _ => ?_)) | (fail_if_no_progress beta_reduce)
    | ((try lift_lets -underBinder); intro xx; first | (refine Kept.use (P := Kept e0_ xx) ?_ (fun hx => ?_); (on_goal 2 => clear_value xx); (on_goal 1 => subst xx)) | (have yy : _ → _ := xx; clear yy; subst xx) | (have yy : Memories := xx; clear yy; subst xx) | (have yy : Vault := xx; clear yy; subst xx) | (have yy : HostEnv := xx; clear yy; subst xx) | clear_value xx)
    | split | rw [mk_put] | (refine MemKept.mk ?_ ?_)

theorem kept_putRow {e0_ : State} (deal : Nat) (acc : State × Nat) (w : RowWrite) (h_acc : Kept e0_ acc.1) : Kept e0_ (putRow deal acc w).1 := by
  unfold putRow
  repeat' with_reducible first
    | assumption | exact Kept.refl _ | apply Kept.id_of | exact VaultKept.refl _ | exact MemKept.refl _ | exact HostKept.refl _
    | exact VaultKept.upd | exact MemKept.mk id id | exact id | exact (fun w => memWrite_wf w _ _) | exact (fun w => memZero_wf w _ _)
    | exact (fun w => Memory.wf_filter _ w) | apply kept_putPage | (refine Kept.fst_of (by assumption) ?_; apply kept_putPage)
    | apply kept_writeFrame | (refine Kept.fst_of (by assumption) ?_; apply kept_writeFrame) | apply OptKept.getD | apply Kept.put
    | apply Kept.ite | (refine Kept.foldl ?_ (fun _ _ _ => ?_)) | (refine Kept.foldl_fst ?_ (fun _ _ _ => ?_))
    | (refine Kept.foldr ?_ (fun _ _ _ => ?_)) | (fail_if_no_progress beta_reduce)
    | ((try lift_lets -underBinder); intro xx; first | (refine Kept.use (P := Kept e0_ xx) ?_ (fun hx => ?_); (on_goal 2 => clear_value xx); (on_goal 1 => subst xx)) | (have yy : _ → _ := xx; clear yy; subst xx) | (have yy : Memories := xx; clear yy; subst xx) | (have yy : Vault := xx; clear yy; subst xx) | (have yy : HostEnv := xx; clear yy; subst xx) | clear_value xx)
    | split | rw [mk_put] | (refine MemKept.mk ?_ ?_)

theorem kept_putRows {e0_ : State} (s : State) (deal : Nat) (ws : List RowWrite) (h_s : Kept e0_ s) : Kept e0_ (putRows s deal ws).1 := by
  unfold putRows
  repeat' with_reducible first
    | assumption | exact Kept.refl _ | apply Kept.id_of | exact VaultKept.refl _ | exact MemKept.refl _ | exact HostKept.refl _
    | exact VaultKept.upd | exact MemKept.mk id id | exact id | exact (fun w => memWrite_wf w _ _) | exact (fun w => memZero_wf w _ _)
    | exact (fun w => Memory.wf_filter _ w) | apply kept_putRow | apply OptKept.getD | apply Kept.put
    | (fail_if_no_progress beta_reduce) | (refine Kept.fst_of (by assumption) ?_; apply kept_putRow)
    | (refine Kept.foldl ?_ (fun _ _ _ => ?_)) | (refine Kept.foldl_fst ?_ (fun _ _ _ => ?_)) | (refine Kept.foldr ?_ (fun _ _ _ => ?_))
    | split | rw [mk_put] | (refine MemKept.mk ?_ ?_)

theorem kept_freeEntry {e0_ : State} (s : State) (e : PageEntry) (h_s : Kept e0_ s) : Kept e0_ (freeEntry s e) := by
  unfold freeEntry
  repeat' with_reducible first
    | assumption | apply kept_freePage | apply kept_setFrame | (fail_if_no_progress beta_reduce) | split

theorem kept_finishRelease {e0_ : State} (s : State) (c : Nat) (h_s : Kept e0_ s) : Kept e0_ (finishRelease s c) := by
  unfold finishRelease
  repeat' with_reducible first
    | assumption | exact Kept.refl _ | apply Kept.id_of | exact VaultKept.refl _ | exact MemKept.refl _ | exact HostKept.refl _
    | exact VaultKept.upd | exact MemKept.mk id id | exact id | exact (fun w => memWrite_wf w _ _) | exact (fun w => memZero_wf w _ _)
    | exact (fun w => Memory.wf_filter _ w) | apply kept_freePage | apply kept_freeEntry | apply OptKept.getD | apply Kept.put
    | (fail_if_no_progress beta_reduce) | (refine Kept.foldl ?_ (fun _ _ _ => ?_)) | (refine Kept.foldl_fst ?_ (fun _ _ _ => ?_))
    | (refine Kept.foldr ?_ (fun _ _ _ => ?_)) | split | rw [mk_put] | (refine MemKept.mk ?_ ?_)

theorem kept_zeroRows {e0_ : State} (s : State) (c e : Nat) (pe : PageEntry) (row : Nat) (h_s : Kept e0_ s) : Kept e0_ (zeroRows s c e pe row) := by
  unfold zeroRows
  repeat' with_reducible first
    | assumption | exact Kept.refl _ | apply Kept.id_of | exact VaultKept.refl _ | exact MemKept.refl _ | exact HostKept.refl _
    | exact VaultKept.upd | exact MemKept.mk id id | exact id | exact (fun w => memWrite_wf w _ _) | exact (fun w => memZero_wf w _ _)
    | exact (fun w => Memory.wf_filter _ w) | apply kept_putPage | (refine Kept.fst_of (by assumption) ?_; apply kept_putPage)
    | apply kept_writeFrame | (refine Kept.fst_of (by assumption) ?_; apply kept_writeFrame) | apply OptKept.getD | apply Kept.put
    | apply Kept.ite | (refine Kept.foldl ?_ (fun _ _ _ => ?_)) | (refine Kept.foldl_fst ?_ (fun _ _ _ => ?_))
    | (refine Kept.foldr ?_ (fun _ _ _ => ?_)) | (fail_if_no_progress beta_reduce)
    | ((try lift_lets -underBinder); intro xx; first | (refine Kept.use (P := Kept e0_ xx) ?_ (fun hx => ?_); (on_goal 2 => clear_value xx); (on_goal 1 => subst xx)) | (have yy : _ → _ := xx; clear yy; subst xx) | (have yy : Memories := xx; clear yy; subst xx) | (have yy : Vault := xx; clear yy; subst xx) | (have yy : HostEnv := xx; clear yy; subst xx) | clear_value xx)
    | split | rw [mk_put] | (refine MemKept.mk ?_ ?_)

theorem kept_finishTrim {e0_ : State} (s : State) (c newPos : Nat) (h_s : Kept e0_ s) : Kept e0_ (finishTrim s c newPos) := by
  unfold finishTrim
  repeat' with_reducible first
    | assumption | exact Kept.refl _ | apply Kept.id_of | exact VaultKept.refl _ | exact MemKept.refl _ | exact HostKept.refl _
    | exact VaultKept.upd | exact MemKept.mk id id | exact id | exact (fun w => memWrite_wf w _ _) | exact (fun w => memZero_wf w _ _)
    | exact (fun w => Memory.wf_filter _ w) | apply kept_freeEntry | apply kept_zeroRows | apply kept_touchPage | apply kept_modCtx
    | apply OptKept.getD | apply Kept.put | apply Kept.ite | (refine Kept.foldl ?_ (fun _ _ _ => ?_))
    | (refine Kept.foldl_fst ?_ (fun _ _ _ => ?_)) | (refine Kept.foldr ?_ (fun _ _ _ => ?_)) | (fail_if_no_progress beta_reduce)
    | ((try lift_lets -underBinder); intro xx; first | (refine Kept.use (P := Kept e0_ xx) ?_ (fun hx => ?_); (on_goal 2 => clear_value xx); (on_goal 1 => subst xx)) | (have yy : _ → _ := xx; clear yy; subst xx) | (have yy : Memories := xx; clear yy; subst xx) | (have yy : Vault := xx; clear yy; subst xx) | (have yy : HostEnv := xx; clear yy; subst xx) | clear_value xx)
    | split | rw [mk_put] | (refine MemKept.mk ?_ ?_)

end Sys2Proof.Laws
end

