-- ==== Sys2Proof/Laws/KeptRelease.lean ====
section
/-!
SUPPORT. Sys2Proof/Laws/KeptRelease.lean: what the operations of Machine/Release.lean keep (Laws/Kept.lean).
-/

set_option linter.unusedTactic false
set_option linter.unreachableTactic false
set_option linter.unusedVariables false

namespace Sys2Proof.Laws

open Sys2Proof.Machine Sys2Proof.Safety

theorem kept_invalWhere {e0_ : State} (s : State) (leaf : Leaf → Bool) (node : NonLeaf → Bool) (h_s : Kept e0_ s) : Kept e0_ (invalWhere s leaf node) := by
  unfold invalWhere
  repeat' with_reducible first
    | assumption | exact Kept.refl _ | apply Kept.id_of | exact VaultKept.refl _ | exact MemKept.refl _ | exact HostKept.refl _
    | exact VaultKept.upd | exact MemKept.mk id id | exact id | exact (fun w => memWrite_wf w _ _) | exact (fun w => memZero_wf w _ _)
    | exact (fun w => Memory.wf_filter _ w) | apply OptKept.getD | apply Kept.put | (fail_if_no_progress beta_reduce)
    | (refine Kept.foldl ?_ (fun _ _ _ => ?_)) | (refine Kept.foldl_fst ?_ (fun _ _ _ => ?_)) | (refine Kept.foldr ?_ (fun _ _ _ => ?_))
    | split | rw [mk_put] | (refine MemKept.mk ?_ ?_)

theorem kept_invalAsid {e0_ : State} (s : State) (a : Nat) (h_s : Kept e0_ s) : Kept e0_ (invalAsid s a) := by
  unfold invalAsid
  repeat' with_reducible first
    | assumption | apply kept_invalWhere | (fail_if_no_progress beta_reduce) | split

theorem kept_putSeg {e0_ : State} (s : State) (i : Nat) (g : Seg) (h_s : Kept e0_ s) : Kept e0_ (putSeg s i g) := by
  unfold putSeg
  repeat' with_reducible first
    | assumption | exact Kept.refl _ | apply Kept.id_of | exact VaultKept.refl _ | exact MemKept.refl _ | exact HostKept.refl _
    | exact VaultKept.upd | exact MemKept.mk id id | exact id | exact (fun w => memWrite_wf w _ _) | exact (fun w => memZero_wf w _ _)
    | exact (fun w => Memory.wf_filter _ w) | apply OptKept.getD | apply Kept.put | (fail_if_no_progress beta_reduce)
    | (refine Kept.foldl ?_ (fun _ _ _ => ?_)) | (refine Kept.foldl_fst ?_ (fun _ _ _ => ?_)) | (refine Kept.foldr ?_ (fun _ _ _ => ?_))
    | split | rw [mk_put] | (refine MemKept.mk ?_ ?_)

theorem kept_assignSeg {e0_ : State} (c kind tenant : Nat) (s : State) (k : Nat) (h_s : Kept e0_ s) : Kept e0_ (assignSeg c kind tenant s k) := by
  unfold assignSeg
  repeat' with_reducible first
    | assumption | exact Kept.refl _ | apply Kept.id_of | exact VaultKept.refl _ | exact MemKept.refl _ | exact HostKept.refl _
    | exact VaultKept.upd | exact MemKept.mk id id | exact id | exact (fun w => memWrite_wf w _ _) | exact (fun w => memZero_wf w _ _)
    | exact (fun w => Memory.wf_filter _ w) | apply kept_zeroMem | apply kept_putSeg | apply OptKept.getD | apply Kept.put
    | apply Kept.ite | (refine Kept.foldl ?_ (fun _ _ _ => ?_)) | (refine Kept.foldl_fst ?_ (fun _ _ _ => ?_))
    | (refine Kept.foldr ?_ (fun _ _ _ => ?_)) | (fail_if_no_progress beta_reduce)
    | ((try lift_lets -underBinder); intro xx; first | (refine Kept.use (P := Kept e0_ xx) ?_ (fun hx => ?_); (on_goal 2 => clear_value xx); (on_goal 1 => subst xx)) | clear_value xx)
    | split | rw [mk_put] | (refine MemKept.mk ?_ ?_)

theorem kept_freeShoeEntry {e0_ : State} (s : State) (n : Nat) (h_s : Kept e0_ s) : Kept e0_ (freeShoeEntry s n) := by
  unfold freeShoeEntry
  repeat' with_reducible first
    | assumption | exact Kept.refl _ | apply Kept.id_of | exact VaultKept.refl _ | exact MemKept.refl _ | exact HostKept.refl _
    | exact VaultKept.upd | exact MemKept.mk id id | exact id | exact (fun w => memWrite_wf w _ _) | exact (fun w => memZero_wf w _ _)
    | exact (fun w => Memory.wf_filter _ w) | apply OptKept.getD | apply Kept.put | (fail_if_no_progress beta_reduce)
    | (refine Kept.foldl ?_ (fun _ _ _ => ?_)) | (refine Kept.foldl_fst ?_ (fun _ _ _ => ?_)) | (refine Kept.foldr ?_ (fun _ _ _ => ?_))
    | split | rw [mk_put] | (refine MemKept.mk ?_ ?_)

theorem kept_drainEffect {e0_ : State} (s : State) (d : Drain) (h_s : Kept e0_ s) : Kept e0_ (drainEffect s d) := by
  cases d <;> simp only [drainEffect]
  repeat' with_reducible first
    | assumption | exact Kept.refl _ | apply Kept.id_of | exact VaultKept.refl _ | exact MemKept.refl _ | exact HostKept.refl _
    | exact VaultKept.upd | exact MemKept.mk id id | exact id | exact (fun w => memWrite_wf w _ _) | exact (fun w => memZero_wf w _ _)
    | exact (fun w => Memory.wf_filter _ w) | apply kept_afterWrite | apply kept_zeroMem | apply kept_finishRelease
    | apply kept_finishTrim | apply kept_invalAsid | apply kept_putSeg | apply kept_assignSeg | apply kept_freeShoeEntry
    | apply OptKept.getD | apply Kept.put | apply Kept.ite | (refine Kept.foldl ?_ (fun _ _ _ => ?_))
    | (refine Kept.foldl_fst ?_ (fun _ _ _ => ?_)) | (refine Kept.foldr ?_ (fun _ _ _ => ?_)) | (fail_if_no_progress beta_reduce)
    | ((try lift_lets -underBinder); intro xx; first | (refine Kept.use (P := Kept e0_ xx) ?_ (fun hx => ?_); (on_goal 2 => clear_value xx); (on_goal 1 => subst xx)) | (refine Kept.use (P := OptKept e0_ xx) ?_ (fun hx => ?_); (on_goal 2 => clear_value xx); (on_goal 1 => subst xx)) | (refine Kept.use (P := Kept e0_ (Prod.fst (α := State) xx)) ?_ (fun hx => ?_); (on_goal 2 => clear_value xx); (on_goal 1 => subst xx)) | (refine Kept.use (P := Kept e0_ (Prod.snd (β := State) xx)) ?_ (fun hx => ?_); (on_goal 2 => clear_value xx); (on_goal 1 => subst xx)) | (refine Kept.use (P := OptFst e0_ xx) ?_ (fun hx => ?_); (on_goal 2 => clear_value xx); (on_goal 1 => subst xx)) | (refine Kept.use (P := ExcKept e0_ xx) ?_ (fun hx => ?_); (on_goal 2 => clear_value xx); (on_goal 1 => subst xx)) | (have yy : _ → _ := xx; clear yy; subst xx) | (have yy : Memories := xx; clear yy; subst xx) | (have yy : Vault := xx; clear yy; subst xx) | (have yy : HostEnv := xx; clear yy; subst xx) | clear_value xx)
    | split | rw [mk_put] | (refine MemKept.mk ?_ ?_)

theorem kept_finishDrain {e0_ : State} (s : State) (f : Flight) (d : Drain) (h_s : Kept e0_ s) : Kept e0_ (finishDrain s f d) := by
  unfold finishDrain
  repeat' with_reducible first
    | assumption | apply kept_complete | apply kept_commitComplete | apply kept_drainEffect | (fail_if_no_progress beta_reduce) | split

theorem kept_drainOn {e0_ : State} (s : State) (f : Flight) (d : Drain) (on : List Nat) (h_s : Kept e0_ s) : Kept e0_ (drainOn s f d on) := by
  unfold drainOn
  repeat' with_reducible first
    | assumption | apply kept_putFlight | apply kept_finishDrain | (fail_if_no_progress beta_reduce) | split

theorem kept_forgetAttempt {e0_ : State} (s : State) (cid : Nat) (h_s : Kept e0_ s) : Kept e0_ (forgetAttempt s cid) := by
  unfold forgetAttempt
  repeat' with_reducible first
    | assumption | exact Kept.refl _ | apply Kept.id_of | exact VaultKept.refl _ | exact MemKept.refl _ | exact HostKept.refl _
    | exact VaultKept.upd | exact MemKept.mk id id | exact id | exact (fun w => memWrite_wf w _ _) | exact (fun w => memZero_wf w _ _)
    | exact (fun w => Memory.wf_filter _ w) | apply kept_setFlights | apply OptKept.getD | apply Kept.put
    | (fail_if_no_progress beta_reduce) | (refine Kept.foldl ?_ (fun _ _ _ => ?_)) | (refine Kept.foldl_fst ?_ (fun _ _ _ => ?_))
    | (refine Kept.foldr ?_ (fun _ _ _ => ?_)) | split | rw [mk_put] | (refine MemKept.mk ?_ ?_)

end Sys2Proof.Laws
end

