-- ==== Sys2Proof/Laws/KeptStart.lean ====
section
/-!
SUPPORT. Sys2Proof/Laws/KeptStart.lean: what the operations of Machine/Start.lean keep (Laws/Kept.lean).
-/

set_option linter.unusedTactic false
set_option linter.unreachableTactic false
set_option linter.unusedVariables false

namespace Sys2Proof.Laws

open Sys2Proof.Machine Sys2Proof.Safety

theorem kept_onlyWrites {e0_ : State} (ws : List SWrite) (n : Nat) : PlanKept e0_ (onlyWrites ws n) := trivial

theorem kept_putArea {e0_ : State} (s : State) (n : Nat) (t : AreaTag) (h_s : Kept e0_ s) : Kept e0_ (putArea s n t) := by
  unfold putArea
  repeat' with_reducible first
    | assumption | exact Kept.refl _ | apply Kept.id_of | exact VaultKept.refl _ | exact MemKept.refl _ | exact HostKept.refl _
    | exact VaultKept.upd | exact MemKept.mk id id | exact id | exact (fun w => memWrite_wf w _ _) | exact (fun w => memZero_wf w _ _)
    | exact (fun w => Memory.wf_filter _ w) | apply OptKept.getD | apply Kept.put | (fail_if_no_progress beta_reduce)
    | (refine Kept.foldl ?_ (fun _ _ _ => ?_)) | (refine Kept.foldl_fst ?_ (fun _ _ _ => ?_)) | (refine Kept.foldr ?_ (fun _ _ _ => ?_))
    | split | rw [mk_put] | (refine MemKept.mk ?_ ?_)

theorem kept_zeroArea {e0_ : State} (s : State) (n : Nat) (tenant : Option Nat) (h_s : Kept e0_ s) : Kept e0_ (zeroArea s n tenant) := by
  unfold zeroArea
  repeat' with_reducible first
    | assumption | exact Kept.refl _ | apply Kept.id_of | exact VaultKept.refl _ | exact MemKept.refl _ | exact HostKept.refl _
    | exact VaultKept.upd | exact MemKept.mk id id | exact id | exact (fun w => memWrite_wf w _ _) | exact (fun w => memZero_wf w _ _)
    | exact (fun w => Memory.wf_filter _ w) | apply kept_putArea | apply OptKept.getD | apply Kept.put
    | (fail_if_no_progress beta_reduce) | (refine Kept.foldl ?_ (fun _ _ _ => ?_)) | (refine Kept.foldl_fst ?_ (fun _ _ _ => ?_))
    | (refine Kept.foldr ?_ (fun _ _ _ => ?_)) | split | rw [mk_put] | (refine MemKept.mk ?_ ?_)

theorem kept_readyArea {e0_ : State} (s : State) (n : Nat) (a : Actor) (h_s : Kept e0_ s) : Kept e0_ (readyArea s n a) := by
  unfold readyArea
  repeat' with_reducible first
    | assumption | exact Kept.refl _ | apply Kept.id_of | exact VaultKept.refl _ | exact MemKept.refl _ | exact HostKept.refl _
    | exact VaultKept.upd | exact MemKept.mk id id | exact id | exact (fun w => memWrite_wf w _ _) | exact (fun w => memZero_wf w _ _)
    | exact (fun w => Memory.wf_filter _ w) | apply kept_putArea | apply kept_zeroArea | apply OptKept.getD | apply Kept.put
    | apply Kept.ite | (refine Kept.foldl ?_ (fun _ _ _ => ?_)) | (refine Kept.foldl_fst ?_ (fun _ _ _ => ?_))
    | (refine Kept.foldr ?_ (fun _ _ _ => ?_)) | (fail_if_no_progress beta_reduce)
    | ((try lift_lets -underBinder); intro xx; first | (refine Kept.use (P := Kept e0_ xx) ?_ (fun hx => ?_); (on_goal 2 => clear_value xx); (on_goal 1 => subst xx)) | clear_value xx)
    | split | rw [mk_put] | (refine MemKept.mk ?_ ?_)

theorem kept_onActionAt {e0_ : State} (off : Nat) (p : List Byte) (mine count : Nat) (act : Run Plan) (h : RunKept e0_ act) : RunKept e0_ (onActionAt off p mine count act) := by
  unfold onActionAt
  split
  · exact h
  · split
    · exact RunAll.stop
    · exact RunAll.finish

theorem kept_onAction {e0_ : State} (p : List Byte) (mine count : Nat) (act : Run Plan) (h : RunKept e0_ act) : RunKept e0_ (onAction p mine count act) :=
  kept_onActionAt _ _ _ _ _ h

theorem kept_takeUnit {e0_ : State} (s : State) (f : Flight) (st : Start) (h_s : Kept e0_ s) : BegunKept e0_ (takeUnit s f st) := by
  unfold takeUnit
  repeat' with_reducible first
    | assumption | exact Kept.refl _ | apply Kept.id_of | exact VaultKept.refl _ | exact MemKept.refl _ | exact HostKept.refl _
    | exact VaultKept.upd | exact MemKept.mk id id | exact id | exact (fun w => memWrite_wf w _ _) | exact (fun w => memZero_wf w _ _)
    | exact (fun w => Memory.wf_filter _ w) | apply kept_readyArea | apply kept_forgetAttempt | apply kept_advance
    | apply kept_putFlight | apply kept_noteAck | apply kept_applyErrs | apply kept_complete | exact BegunKept.no | apply BegunKept.over
    | apply BegunKept.go | apply BegunKept.ite | apply OptKept.getD | apply Kept.put | apply Kept.ite
    | (refine Kept.foldl ?_ (fun _ _ _ => ?_)) | (refine Kept.foldl_fst ?_ (fun _ _ _ => ?_)) | (refine Kept.foldr ?_ (fun _ _ _ => ?_))
    | (fail_if_no_progress beta_reduce)
    | ((try lift_lets -underBinder); intro xx; first | (refine Kept.use (P := Kept e0_ xx) ?_ (fun hx => ?_); (on_goal 2 => clear_value xx); (on_goal 1 => subst xx)) | (refine Kept.use (P := OptKept e0_ xx) ?_ (fun hx => ?_); (on_goal 2 => clear_value xx); (on_goal 1 => subst xx)) | (refine Kept.use (P := Kept e0_ (Prod.fst (α := State) xx)) ?_ (fun hx => ?_); (on_goal 2 => clear_value xx); (on_goal 1 => subst xx)) | (refine Kept.use (P := Kept e0_ (Prod.snd (β := State) xx)) ?_ (fun hx => ?_); (on_goal 2 => clear_value xx); (on_goal 1 => subst xx)) | (refine Kept.use (P := OptFst e0_ xx) ?_ (fun hx => ?_); (on_goal 2 => clear_value xx); (on_goal 1 => subst xx)) | (refine Kept.use (P := ExcKept e0_ xx) ?_ (fun hx => ?_); (on_goal 2 => clear_value xx); (on_goal 1 => subst xx)) | (have yy : _ → _ := xx; clear yy; subst xx) | (have yy : Memories := xx; clear yy; subst xx) | (have yy : Vault := xx; clear yy; subst xx) | (have yy : HostEnv := xx; clear yy; subst xx) | clear_value xx)
    | split | rw [mk_put] | (refine MemKept.mk ?_ ?_)

theorem kept_begin {e0_ : State} (s : State) (st : Start) (place : Place) (p : Flight → Bool) (h_s : Kept e0_ s) : BegunKept e0_ (begin s st place p) := by
  unfold begin
  repeat' with_reducible first
    | assumption | exact Kept.refl _ | apply Kept.id_of | exact VaultKept.refl _ | exact MemKept.refl _ | exact HostKept.refl _
    | exact VaultKept.upd | exact MemKept.mk id id | exact id | exact (fun w => memWrite_wf w _ _) | exact (fun w => memZero_wf w _ _)
    | exact (fun w => Memory.wf_filter _ w) | apply kept_complete | apply kept_takeUnit | exact BegunKept.no | apply BegunKept.over
    | apply BegunKept.go | apply BegunKept.ite | apply OptKept.getD | apply Kept.put | apply Kept.ite
    | (refine Kept.foldl ?_ (fun _ _ _ => ?_)) | (refine Kept.foldl_fst ?_ (fun _ _ _ => ?_)) | (refine Kept.foldr ?_ (fun _ _ _ => ?_))
    | (refine BegunKept.getOver (by assumption) ?_; apply kept_takeUnit)
    | (refine BegunKept.getGo (by assumption) ?_; apply kept_takeUnit) | (fail_if_no_progress beta_reduce)
    | ((try lift_lets -underBinder); intro xx; first | (refine Kept.use (P := Kept e0_ xx) ?_ (fun hx => ?_); (on_goal 2 => clear_value xx); (on_goal 1 => subst xx)) | (refine Kept.use (P := OptKept e0_ xx) ?_ (fun hx => ?_); (on_goal 2 => clear_value xx); (on_goal 1 => subst xx)) | (refine Kept.use (P := Kept e0_ (Prod.fst (α := State) xx)) ?_ (fun hx => ?_); (on_goal 2 => clear_value xx); (on_goal 1 => subst xx)) | (refine Kept.use (P := Kept e0_ (Prod.snd (β := State) xx)) ?_ (fun hx => ?_); (on_goal 2 => clear_value xx); (on_goal 1 => subst xx)) | (refine Kept.use (P := OptFst e0_ xx) ?_ (fun hx => ?_); (on_goal 2 => clear_value xx); (on_goal 1 => subst xx)) | (refine Kept.use (P := ExcKept e0_ xx) ?_ (fun hx => ?_); (on_goal 2 => clear_value xx); (on_goal 1 => subst xx)) | (have yy : _ → _ := xx; clear yy; subst xx) | (have yy : Memories := xx; clear yy; subst xx) | (have yy : Vault := xx; clear yy; subst xx) | (have yy : HostEnv := xx; clear yy; subst xx) | clear_value xx)
    | split | rw [mk_put] | (refine MemKept.mk ?_ ?_)

theorem kept_putLevel1 {e0_ : State} (s : State) (n : Nat) (ls : List Leaf) (h_s : Kept e0_ s) : Kept e0_ (putLevel1 s n ls) := by
  unfold putLevel1
  repeat' with_reducible first
    | assumption | exact Kept.refl _ | apply Kept.id_of | exact VaultKept.refl _ | exact MemKept.refl _ | exact HostKept.refl _
    | exact VaultKept.upd | exact MemKept.mk id id | exact id | exact (fun w => memWrite_wf w _ _) | exact (fun w => memZero_wf w _ _)
    | exact (fun w => Memory.wf_filter _ w) | apply OptKept.getD | apply Kept.put | apply Kept.ite
    | (refine Kept.foldl ?_ (fun _ _ _ => ?_)) | (refine Kept.foldl_fst ?_ (fun _ _ _ => ?_)) | (refine Kept.foldr ?_ (fun _ _ _ => ?_))
    | (fail_if_no_progress beta_reduce)
    | ((try lift_lets -underBinder); intro xx; first | (refine Kept.use (P := Kept e0_ xx) ?_ (fun hx => ?_); (on_goal 2 => clear_value xx); (on_goal 1 => subst xx)) | (refine Kept.use (P := OptKept e0_ xx) ?_ (fun hx => ?_); (on_goal 2 => clear_value xx); (on_goal 1 => subst xx)) | (refine Kept.use (P := Kept e0_ (Prod.fst (α := State) xx)) ?_ (fun hx => ?_); (on_goal 2 => clear_value xx); (on_goal 1 => subst xx)) | (refine Kept.use (P := Kept e0_ (Prod.snd (β := State) xx)) ?_ (fun hx => ?_); (on_goal 2 => clear_value xx); (on_goal 1 => subst xx)) | (refine Kept.use (P := OptFst e0_ xx) ?_ (fun hx => ?_); (on_goal 2 => clear_value xx); (on_goal 1 => subst xx)) | (refine Kept.use (P := ExcKept e0_ xx) ?_ (fun hx => ?_); (on_goal 2 => clear_value xx); (on_goal 1 => subst xx)) | (have yy : _ → _ := xx; clear yy; subst xx) | (have yy : Memories := xx; clear yy; subst xx) | (have yy : Vault := xx; clear yy; subst xx) | (have yy : HostEnv := xx; clear yy; subst xx) | clear_value xx)
    | split | rw [mk_put] | (refine MemKept.mk ?_ ?_)

theorem kept_putLevel2 {e0_ : State} (s : State) (c : Nat) (ls : List Leaf) (h_s : Kept e0_ s) : Kept e0_ (putLevel2 s c ls) := by
  unfold putLevel2
  repeat' with_reducible first
    | assumption | exact Kept.refl _ | apply Kept.id_of | exact VaultKept.refl _ | exact MemKept.refl _ | exact HostKept.refl _
    | exact VaultKept.upd | exact MemKept.mk id id | exact id | exact (fun w => memWrite_wf w _ _) | exact (fun w => memZero_wf w _ _)
    | exact (fun w => Memory.wf_filter _ w) | apply OptKept.getD | apply Kept.put | apply Kept.ite
    | (refine Kept.foldl ?_ (fun _ _ _ => ?_)) | (refine Kept.foldl_fst ?_ (fun _ _ _ => ?_)) | (refine Kept.foldr ?_ (fun _ _ _ => ?_))
    | (fail_if_no_progress beta_reduce)
    | ((try lift_lets -underBinder); intro xx; first | (refine Kept.use (P := Kept e0_ xx) ?_ (fun hx => ?_); (on_goal 2 => clear_value xx); (on_goal 1 => subst xx)) | (refine Kept.use (P := OptKept e0_ xx) ?_ (fun hx => ?_); (on_goal 2 => clear_value xx); (on_goal 1 => subst xx)) | (refine Kept.use (P := Kept e0_ (Prod.fst (α := State) xx)) ?_ (fun hx => ?_); (on_goal 2 => clear_value xx); (on_goal 1 => subst xx)) | (refine Kept.use (P := Kept e0_ (Prod.snd (β := State) xx)) ?_ (fun hx => ?_); (on_goal 2 => clear_value xx); (on_goal 1 => subst xx)) | (refine Kept.use (P := OptFst e0_ xx) ?_ (fun hx => ?_); (on_goal 2 => clear_value xx); (on_goal 1 => subst xx)) | (refine Kept.use (P := ExcKept e0_ xx) ?_ (fun hx => ?_); (on_goal 2 => clear_value xx); (on_goal 1 => subst xx)) | (have yy : _ → _ := xx; clear yy; subst xx) | (have yy : Memories := xx; clear yy; subst xx) | (have yy : Vault := xx; clear yy; subst xx) | (have yy : HostEnv := xx; clear yy; subst xx) | clear_value xx)
    | split | rw [mk_put] | (refine MemKept.mk ?_ ?_)

theorem kept_renewL2 {e0_ : State} (s : State) (c : Nat) (va : Nat) (old new : Leaf) (h_s : Kept e0_ s) : Kept e0_ (renewL2 s c va old new) := by
  unfold renewL2
  repeat' with_reducible first
    | assumption | exact Kept.refl _ | apply Kept.id_of | exact VaultKept.refl _ | exact MemKept.refl _ | exact HostKept.refl _
    | exact VaultKept.upd | exact MemKept.mk id id | exact id | exact (fun w => memWrite_wf w _ _) | exact (fun w => memZero_wf w _ _)
    | exact (fun w => Memory.wf_filter _ w) | apply kept_putLevel2 | apply OptKept.getD | apply Kept.put | apply Kept.ite
    | (refine Kept.foldl ?_ (fun _ _ _ => ?_)) | (refine Kept.foldl_fst ?_ (fun _ _ _ => ?_)) | (refine Kept.foldr ?_ (fun _ _ _ => ?_))
    | (fail_if_no_progress beta_reduce)
    | ((try lift_lets -underBinder); intro xx; first | (refine Kept.use (P := Kept e0_ xx) ?_ (fun hx => ?_); (on_goal 2 => clear_value xx); (on_goal 1 => subst xx)) | (refine Kept.use (P := OptKept e0_ xx) ?_ (fun hx => ?_); (on_goal 2 => clear_value xx); (on_goal 1 => subst xx)) | (refine Kept.use (P := Kept e0_ (Prod.fst (α := State) xx)) ?_ (fun hx => ?_); (on_goal 2 => clear_value xx); (on_goal 1 => subst xx)) | (refine Kept.use (P := Kept e0_ (Prod.snd (β := State) xx)) ?_ (fun hx => ?_); (on_goal 2 => clear_value xx); (on_goal 1 => subst xx)) | (refine Kept.use (P := OptFst e0_ xx) ?_ (fun hx => ?_); (on_goal 2 => clear_value xx); (on_goal 1 => subst xx)) | (refine Kept.use (P := ExcKept e0_ xx) ?_ (fun hx => ?_); (on_goal 2 => clear_value xx); (on_goal 1 => subst xx)) | (have yy : _ → _ := xx; clear yy; subst xx) | (have yy : Memories := xx; clear yy; subst xx) | (have yy : Vault := xx; clear yy; subst xx) | (have yy : HostEnv := xx; clear yy; subst xx) | clear_value xx)
    | split | rw [mk_put] | (refine MemKept.mk ?_ ?_)

theorem kept_touchPage1 {e0_ : State} (p : Place) (asid : Nat) (kernel : Bool) (s : State) (pg : Nat × Bool) (h_s : Kept e0_ s) : Kept e0_ (touchPage1 p asid kernel s pg) := by
  unfold touchPage1
  repeat' with_reducible first
    | assumption | exact Kept.refl _ | apply Kept.id_of | exact VaultKept.refl _ | exact MemKept.refl _ | exact HostKept.refl _
    | exact VaultKept.upd | exact MemKept.mk id id | exact id | exact (fun w => memWrite_wf w _ _) | exact (fun w => memZero_wf w _ _)
    | exact (fun w => Memory.wf_filter _ w) | apply kept_putLevel1 | apply kept_renewL2 | apply OptKept.getD | apply Kept.put
    | apply Kept.ite | (refine Kept.foldl ?_ (fun _ _ _ => ?_)) | (refine Kept.foldl_fst ?_ (fun _ _ _ => ?_))
    | (refine Kept.foldr ?_ (fun _ _ _ => ?_)) | (fail_if_no_progress beta_reduce)
    | ((try lift_lets -underBinder); intro xx; first | (refine Kept.use (P := Kept e0_ xx) ?_ (fun hx => ?_); (on_goal 2 => clear_value xx); (on_goal 1 => subst xx)) | (refine Kept.use (P := OptKept e0_ xx) ?_ (fun hx => ?_); (on_goal 2 => clear_value xx); (on_goal 1 => subst xx)) | (refine Kept.use (P := Kept e0_ (Prod.fst (α := State) xx)) ?_ (fun hx => ?_); (on_goal 2 => clear_value xx); (on_goal 1 => subst xx)) | (refine Kept.use (P := Kept e0_ (Prod.snd (β := State) xx)) ?_ (fun hx => ?_); (on_goal 2 => clear_value xx); (on_goal 1 => subst xx)) | (refine Kept.use (P := OptFst e0_ xx) ?_ (fun hx => ?_); (on_goal 2 => clear_value xx); (on_goal 1 => subst xx)) | (refine Kept.use (P := ExcKept e0_ xx) ?_ (fun hx => ?_); (on_goal 2 => clear_value xx); (on_goal 1 => subst xx)) | (have yy : _ → _ := xx; clear yy; subst xx) | (have yy : Memories := xx; clear yy; subst xx) | (have yy : Vault := xx; clear yy; subst xx) | (have yy : HostEnv := xx; clear yy; subst xx) | clear_value xx)
    | split | rw [mk_put] | (refine MemKept.mk ?_ ?_)

theorem kept_touchBuffers {e0_ : State} (s : State) (f : Flight) (pages : List (Nat × Bool)) (h_s : Kept e0_ s) : Kept e0_ (touchBuffers s f pages) := by
  unfold touchBuffers
  repeat' with_reducible first
    | assumption | exact Kept.refl _ | apply Kept.id_of | exact VaultKept.refl _ | exact MemKept.refl _ | exact HostKept.refl _
    | exact VaultKept.upd | exact MemKept.mk id id | exact id | exact (fun w => memWrite_wf w _ _) | exact (fun w => memZero_wf w _ _)
    | exact (fun w => Memory.wf_filter _ w) | apply kept_touchPage1 | apply OptKept.getD | apply Kept.put | apply Kept.ite
    | (refine Kept.foldl ?_ (fun _ _ _ => ?_)) | (refine Kept.foldl_fst ?_ (fun _ _ _ => ?_)) | (refine Kept.foldr ?_ (fun _ _ _ => ?_))
    | (fail_if_no_progress beta_reduce)
    | ((try lift_lets -underBinder); intro xx; first | (refine Kept.use (P := Kept e0_ xx) ?_ (fun hx => ?_); (on_goal 2 => clear_value xx); (on_goal 1 => subst xx)) | (refine Kept.use (P := OptKept e0_ xx) ?_ (fun hx => ?_); (on_goal 2 => clear_value xx); (on_goal 1 => subst xx)) | (refine Kept.use (P := Kept e0_ (Prod.fst (α := State) xx)) ?_ (fun hx => ?_); (on_goal 2 => clear_value xx); (on_goal 1 => subst xx)) | (refine Kept.use (P := Kept e0_ (Prod.snd (β := State) xx)) ?_ (fun hx => ?_); (on_goal 2 => clear_value xx); (on_goal 1 => subst xx)) | (refine Kept.use (P := OptFst e0_ xx) ?_ (fun hx => ?_); (on_goal 2 => clear_value xx); (on_goal 1 => subst xx)) | (refine Kept.use (P := ExcKept e0_ xx) ?_ (fun hx => ?_); (on_goal 2 => clear_value xx); (on_goal 1 => subst xx)) | (have yy : _ → _ := xx; clear yy; subst xx) | (have yy : Memories := xx; clear yy; subst xx) | (have yy : Vault := xx; clear yy; subst xx) | (have yy : HostEnv := xx; clear yy; subst xx) | clear_value xx)
    | split | rw [mk_put] | (refine MemKept.mk ?_ ?_)

theorem kept_hubWriteOut {e0_ : State} (s : State) (f : Flight) (ws : List SWrite) (detail aux : Nat) (h_s : Kept e0_ s) : Kept e0_ (hubWriteOut s f ws detail aux) := by
  unfold hubWriteOut
  repeat' with_reducible first
    | assumption | exact Kept.refl _ | apply Kept.id_of | exact VaultKept.refl _ | exact MemKept.refl _ | exact HostKept.refl _
    | exact VaultKept.upd | exact MemKept.mk id id | exact id | exact (fun w => memWrite_wf w _ _) | exact (fun w => memZero_wf w _ _)
    | exact (fun w => Memory.wf_filter _ w) | apply kept_writeAll | apply kept_enterTicket | apply kept_complete
    | apply kept_lostCommand | apply OptKept.getD | apply Kept.put | apply Kept.ite | (refine Kept.foldl ?_ (fun _ _ _ => ?_))
    | (refine Kept.foldl_fst ?_ (fun _ _ _ => ?_)) | (refine Kept.foldr ?_ (fun _ _ _ => ?_))
    | (refine Kept.fst_of (by assumption) ?_; apply kept_writeAll) | (fail_if_no_progress beta_reduce)
    | ((try lift_lets -underBinder); intro xx; first | (refine Kept.use (P := Kept e0_ xx) ?_ (fun hx => ?_); (on_goal 2 => clear_value xx); (on_goal 1 => subst xx)) | clear_value xx)
    | split | rw [mk_put] | (refine MemKept.mk ?_ ?_)

theorem kept_applyPlan {e0_ : State} (s0 : State) (f : Flight) (plan : Plan) (log : Log) (h_s0 : Kept e0_ s0) (h_p : PlanKept e0_ plan) :
    Kept e0_ (applyPlan s0 f plan log) := by
  unfold applyPlan
  cases plan <;> simp only [PlanKept] at h_p <;> dsimp only
  repeat' with_reducible first
    | assumption | exact Kept.refl _ | apply Kept.id_of | exact VaultKept.refl _ | exact MemKept.refl _ | exact HostKept.refl _
    | exact VaultKept.upd | exact MemKept.mk id id | exact id | exact (fun w => memWrite_wf w _ _) | exact (fun w => memZero_wf w _ _)
    | exact (fun w => Memory.wf_filter _ w) | apply kept_touchBuffers | apply kept_commitComplete | apply kept_putFlight
    | apply kept_hubWriteOut | apply kept_drainOn | apply kept_enterTicket | apply kept_complete | apply OptKept.getD | apply Kept.put
    | apply Kept.ite | (refine Kept.foldl ?_ (fun _ _ _ => ?_)) | (refine Kept.foldl_fst ?_ (fun _ _ _ => ?_))
    | (refine Kept.foldr ?_ (fun _ _ _ => ?_)) | apply kept_touchBuffers | (fail_if_no_progress beta_reduce)
    | ((try lift_lets -underBinder); intro xx; first | (refine Kept.use (P := Kept e0_ xx) ?_ (fun hx => ?_); (on_goal 2 => clear_value xx); (on_goal 1 => subst xx)) | (refine Kept.use (P := OptKept e0_ xx) ?_ (fun hx => ?_); (on_goal 2 => clear_value xx); (on_goal 1 => subst xx)) | (refine Kept.use (P := Kept e0_ (Prod.fst (α := State) xx)) ?_ (fun hx => ?_); (on_goal 2 => clear_value xx); (on_goal 1 => subst xx)) | (refine Kept.use (P := Kept e0_ (Prod.snd (β := State) xx)) ?_ (fun hx => ?_); (on_goal 2 => clear_value xx); (on_goal 1 => subst xx)) | (refine Kept.use (P := OptFst e0_ xx) ?_ (fun hx => ?_); (on_goal 2 => clear_value xx); (on_goal 1 => subst xx)) | (refine Kept.use (P := ExcKept e0_ xx) ?_ (fun hx => ?_); (on_goal 2 => clear_value xx); (on_goal 1 => subst xx)) | (have yy : _ → _ := xx; clear yy; subst xx) | (have yy : Memories := xx; clear yy; subst xx) | (have yy : Vault := xx; clear yy; subst xx) | (have yy : HostEnv := xx; clear yy; subst xx) | clear_value xx)
    | split | rw [mk_put] | (refine MemKept.mk ?_ ?_)

theorem kept_settleStart {e0_ : State} (s0 s : State) (f : Flight) (r : Except Stop (Plan × Log)) (h_s0 : Kept e0_ s0) (h_s : Kept e0_ s)
    (h_p : ∀ p l, r = .ok (p, l) → PlanKept e0_ p) : Kept e0_ (settleStart s0 s f r) := by
  unfold settleStart
  split
  · exact h_s0
  · exact kept_fatal _ _ _ _ _ h_s
  · exact kept_stopCommand _ _ _ h_s
  · rename_i plan log
    split
    · exact h_s0
    · exact kept_applyPlan _ _ _ _ h_s (h_p _ _ rfl)

theorem kept_runBlock {e0_ : State} {body : Body} (hb : BodyKept body) (s : State) (f : Flight) (p : List Byte) (h_s : Kept e0_ s) :
    RunKept e0_ (runBlock s f body p) := by
  unfold runBlock
  exact RunAll.bindWith (hb _ _ _ _ _ h_s) fun plan hp => RunAll.bind fun _ => RunAll.pure hp

theorem kept_runBody {e0_ : State} {body : Body} (hb : BodyKept body) (s : State) (f : Flight) (h_s : Kept e0_ s) : RunKept e0_ (runBody s f body) := by
  unfold runBody
  exact RunAll.bind fun _ => RunAll.bind fun p => kept_runBlock hb s f p h_s

theorem kept_resumeBody {e0_ : State} {body : Body} (hb : BodyKept body) (s : State) (f : Flight) (h_s : Kept e0_ s) :
    RunKept e0_ (resumeBody s f body) := by
  unfold resumeBody
  exact RunAll.bind fun _ => kept_runBlock hb s f f.block h_s

theorem kept_startWith {e0_ : State} {body : Body} (hb : BodyKept body) (place : Place) (p : Flight → Bool) (st : Start) (s : State) (h : Kept e0_ s) :
    Kept e0_ (startWith place p body st s) := by
  unfold startWith
  have hg := kept_begin s st place p h
  split
  · exact h
  · rename_i t ht
    rw [ht] at hg; exact hg
  · rename_i t f ht
    rw [ht] at hg
    exact kept_settleStart _ _ _ _ h hg fun p l hr => kept_runBody hb t f hg _ _ _ hr

/-- What the preparation of a row keeps, and its body. -/
structure PrepKept {α β : Type} (prep : State → Flight → α → State × Except Stop β) (body : State → Actor → Flight → α → β → Run Plan) : Prop where
  prep : ∀ e s f x, Kept e s → Kept e (prep s f x).1
  body : ∀ e s a f x y, Kept e s → RunKept e (body s a f x y)

theorem kept_startPrep {e0_ : State} {α β : Type} {prep : State → Flight → α → State × Except Stop β} {body : State → Actor → Flight → α → β → Run Plan}
    (hp : PrepKept prep body) (place : Place) (p : Flight → Bool) (check : State → Actor → Flight → List Byte → Run (Except Nat α))
    (st : Start) (s : State) (h : Kept e0_ s) : Kept e0_ (startPrep place p check prep body st s) := by
  unfold startPrep
  have hg := kept_begin s st place p h
  split
  · exact h
  · rename_i t ht
    rw [ht] at hg; exact hg
  · rename_i t f ht
    rw [ht] at hg
    have hg : Kept e0_ t := hg
    dsimp only
    split
    · exact kept_settleStart _ _ _ _ h hg fun _ _ hr => nomatch hr
    · exact kept_settleStart _ _ _ _ h hg fun _ _ hr => by cases hr; trivial
    · rename_i x log _
      split
      · exact h
      · have h1 := hp.prep _ t f x hg
        split
        · rename_i t1 e hq
          exact kept_settleStart _ _ _ _ h (Kept.fst_of hq h1) fun _ _ hr => nomatch hr
        · rename_i t1 y hq
          have ht1 := Kept.fst_of hq h1
          refine kept_settleStart _ _ _ _ h ht1 fun p l hr => ?_
          refine RunAll.bindWith (hp.body _ t1 _ f x y ht1) (fun plan hq => RunAll.bind fun _ => RunAll.pure hq) _ _ _ hr

theorem kept_startEngine {e0_ : State} {body : Body} (hb : BodyKept body) (opcode : Nat) (st : Start) (s : State) (h : Kept e0_ s) :
    OutcomeKept e0_ (startEngine opcode body st s) := OutcomeKept.answer (kept_startWith hb _ _ _ _ h)

theorem kept_startHub {e0_ : State} {body : Body} (hb : BodyKept body) (opcode : Nat) (st : Start) (s : State) (h : Kept e0_ s) :
    OutcomeKept e0_ (startHub opcode body st s) := OutcomeKept.answer (kept_startWith hb _ _ _ _ h)

end Sys2Proof.Laws
end

