-- ==== Sys2Proof/Laws/KeptMm.lean ====
section
/-!
SUPPORT. Sys2Proof/Laws/KeptMm.lean: what the operations of Machine/Mm.lean keep (Laws/Kept.lean).
-/

set_option linter.unusedTactic false
set_option linter.unreachableTactic false
set_option linter.unusedVariables false

namespace Sys2Proof.Laws

open Sys2Proof.Machine Sys2Proof.Safety

theorem kept_mmMulBody   : BodyKept (mmMulBody) := by
  intro e0_ s a f p h
  unfold mmMulBody
  repeat' with_reducible first
    | assumption | exact Kept.refl _ | apply Kept.id_of | exact PlanKept.noop | exact PlanKept.staged | exact PlanKept.vector
    | apply PlanKept.act | apply PlanKept.drain | apply PlanKept.wait | apply PlanKept.ended | apply PlanKept.ite | apply RunAll.ite
    | apply RunAll.pure | exact RunAll.stop | exact RunAll.finish | exact RunAll.denied | exact RunAll.absent | exact RunAll.sealed
    | (refine RunAll.lift (fun _ _ => ?_)) | (refine RunAll.bind (fun _ => ?_)) | (fail_if_no_progress beta_reduce) | split

theorem kept_mmMulListBody   : BodyKept (mmMulListBody) := by
  intro e0_ s a f p h
  unfold mmMulListBody
  repeat' with_reducible first
    | assumption | exact Kept.refl _ | apply Kept.id_of | exact VaultKept.refl _ | exact MemKept.refl _ | exact HostKept.refl _
    | exact VaultKept.upd | exact MemKept.mk id id | exact id | exact (fun w => memWrite_wf w _ _) | exact (fun w => memZero_wf w _ _)
    | exact (fun w => Memory.wf_filter _ w) | exact PlanKept.noop | exact PlanKept.staged | exact PlanKept.vector | apply PlanKept.act
    | apply PlanKept.drain | apply PlanKept.wait | apply PlanKept.ended | apply PlanKept.ite | apply RunAll.ite | apply RunAll.pure
    | exact RunAll.stop | exact RunAll.finish | exact RunAll.denied | exact RunAll.absent | exact RunAll.sealed
    | (refine RunAll.lift (fun _ _ => ?_)) | (refine RunAll.bind (fun _ => ?_)) | apply Kept.put | apply Kept.ite
    | (refine Kept.foldl ?_ (fun _ _ _ => ?_)) | (refine Kept.foldl_fst ?_ (fun _ _ _ => ?_)) | (refine Kept.foldr ?_ (fun _ _ _ => ?_))
    | (fail_if_no_progress beta_reduce)
    | ((try lift_lets -underBinder); intro xx; first | (refine Kept.use (P := Kept e0_ xx) ?_ (fun hx => ?_); (on_goal 2 => clear_value xx); (on_goal 1 => subst xx)) | clear_value xx)
    | split | rw [mk_put] | (refine MemKept.mk ?_ ?_)

theorem kept_execMmMul {e0_ : State} (st : Start) (s : State) (h_s : Kept e0_ s) : OutcomeKept e0_ (execMmMul st s) := by
  unfold execMmMul
  repeat' with_reducible first
    | assumption | apply kept_startEngine | exact kept_mmMulBody | apply kept_mmMulBody
    | (refine BodyKept.use (by apply kept_mmMulBody) ?_) | apply OutcomeKept.answer

theorem kept_execMmMulList {e0_ : State} (st : Start) (s : State) (h_s : Kept e0_ s) : OutcomeKept e0_ (execMmMulList st s) := by
  unfold execMmMulList
  repeat' with_reducible first
    | assumption | apply kept_startEngine | exact kept_mmMulListBody | apply kept_mmMulListBody
    | (refine BodyKept.use (by apply kept_mmMulListBody) ?_) | apply OutcomeKept.answer

end Sys2Proof.Laws
end

