-- ==== Sys2Proof/Laws/KeptPost.lean ====
section
/-!
SUPPORT. Sys2Proof/Laws/KeptPost.lean: what the operations of Machine/Post.lean keep (Laws/Kept.lean).
-/

set_option linter.unusedTactic false
set_option linter.unreachableTactic false
set_option linter.unusedVariables false

namespace Sys2Proof.Laws

open Sys2Proof.Machine Sys2Proof.Safety

theorem kept_putBoard {e0_ : State} (s : State) (n : Nat) (b : Board) (h_s : Kept e0_ s) : Kept e0_ (putBoard s n b) := by
  unfold putBoard
  repeat' with_reducible first
    | assumption | exact Kept.refl _ | apply Kept.id_of | exact VaultKept.refl _ | exact MemKept.refl _ | exact HostKept.refl _
    | exact VaultKept.upd | exact MemKept.mk id id | exact id | exact (fun w => memWrite_wf w _ _) | exact (fun w => memZero_wf w _ _)
    | exact (fun w => Memory.wf_filter _ w) | apply OptKept.getD | apply Kept.put | (fail_if_no_progress beta_reduce)
    | (refine Kept.foldl ?_ (fun _ _ _ => ?_)) | (refine Kept.foldl_fst ?_ (fun _ _ _ => ?_)) | (refine Kept.foldr ?_ (fun _ _ _ => ?_))
    | split | rw [mk_put] | (refine MemKept.mk ?_ ?_)

theorem kept_releaseBoard {e0_ : State} (s : State) (n : Nat) (b : Board) (h_s : Kept e0_ s) : Kept e0_ (releaseBoard s n b) := by
  unfold releaseBoard
  repeat' with_reducible first
    | assumption | exact Kept.refl _ | apply Kept.id_of | exact VaultKept.refl _ | exact MemKept.refl _ | exact HostKept.refl _
    | exact VaultKept.upd | exact MemKept.mk id id | exact id | exact (fun w => memWrite_wf w _ _) | exact (fun w => memZero_wf w _ _)
    | exact (fun w => Memory.wf_filter _ w) | apply OptKept.getD | apply Kept.put | (fail_if_no_progress beta_reduce)
    | (refine Kept.foldl ?_ (fun _ _ _ => ?_)) | (refine Kept.foldl_fst ?_ (fun _ _ _ => ?_)) | (refine Kept.foldr ?_ (fun _ _ _ => ?_))
    | split | rw [mk_put] | (refine MemKept.mk ?_ ?_)

theorem kept_commitRoute {e0_ : State} (s : State) (f : Flight) (model layer : Nat) (recd : List Byte) (es : List RouteEntry) (h_s : Kept e0_ s) : AtKept e0_ (commitRoute s f model layer recd es) := by
  unfold commitRoute
  repeat' with_reducible first
    | assumption | exact Kept.refl _ | apply Kept.id_of | exact VaultKept.refl _ | exact MemKept.refl _ | exact HostKept.refl _
    | exact VaultKept.upd | exact MemKept.mk id id | exact id | exact (fun w => memWrite_wf w _ _) | exact (fun w => memZero_wf w _ _)
    | exact (fun w => Memory.wf_filter _ w) | apply kept_putBoard | exact AtKept.wait | exact AtKept.failed | apply AtKept.go
    | apply AtKept.ite | apply OptKept.getD | apply Kept.put | apply Kept.ite | (refine Kept.foldl ?_ (fun _ _ _ => ?_))
    | (refine Kept.foldl_fst ?_ (fun _ _ _ => ?_)) | (refine Kept.foldr ?_ (fun _ _ _ => ?_)) | (fail_if_no_progress beta_reduce)
    | ((try lift_lets -underBinder); intro xx; first | (refine Kept.use (P := Kept e0_ xx) ?_ (fun hx => ?_); (on_goal 2 => clear_value xx); (on_goal 1 => subst xx)) | (have yy : _ → _ := xx; clear yy; subst xx) | (have yy : Memories := xx; clear yy; subst xx) | (have yy : Vault := xx; clear yy; subst xx) | (have yy : HostEnv := xx; clear yy; subst xx) | clear_value xx)
    | split | rw [mk_put] | (refine MemKept.mk ?_ ?_)

theorem kept_commitSettle {e0_ : State} (s : State) (n deal model layer gen : Nat) (toks : List (Nat × Nat)) (h_s : Kept e0_ s) : Kept e0_ (commitSettle s n deal model layer gen toks) := by
  unfold commitSettle
  repeat' with_reducible first
    | assumption | exact Kept.refl _ | apply Kept.id_of | exact VaultKept.refl _ | exact MemKept.refl _ | exact HostKept.refl _
    | exact VaultKept.upd | exact MemKept.mk id id | exact id | exact (fun w => memWrite_wf w _ _) | exact (fun w => memZero_wf w _ _)
    | exact (fun w => Memory.wf_filter _ w) | apply kept_releaseBoard | apply kept_putBoard | apply OptKept.getD | apply Kept.put
    | apply Kept.ite | (refine Kept.foldl ?_ (fun _ _ _ => ?_)) | (refine Kept.foldl_fst ?_ (fun _ _ _ => ?_))
    | (refine Kept.foldr ?_ (fun _ _ _ => ?_)) | (fail_if_no_progress beta_reduce)
    | ((try lift_lets -underBinder); intro xx; first | (refine Kept.use (P := Kept e0_ xx) ?_ (fun hx => ?_); (on_goal 2 => clear_value xx); (on_goal 1 => subst xx)) | (refine Kept.use (P := OptKept e0_ xx) ?_ (fun hx => ?_); (on_goal 2 => clear_value xx); (on_goal 1 => subst xx)) | (refine Kept.use (P := Kept e0_ (Prod.fst (α := State) xx)) ?_ (fun hx => ?_); (on_goal 2 => clear_value xx); (on_goal 1 => subst xx)) | (refine Kept.use (P := Kept e0_ (Prod.snd (β := State) xx)) ?_ (fun hx => ?_); (on_goal 2 => clear_value xx); (on_goal 1 => subst xx)) | (refine Kept.use (P := OptFst e0_ xx) ?_ (fun hx => ?_); (on_goal 2 => clear_value xx); (on_goal 1 => subst xx)) | (refine Kept.use (P := ExcKept e0_ xx) ?_ (fun hx => ?_); (on_goal 2 => clear_value xx); (on_goal 1 => subst xx)) | (have yy : _ → _ := xx; clear yy; subst xx) | (have yy : Memories := xx; clear yy; subst xx) | (have yy : Vault := xx; clear yy; subst xx) | (have yy : HostEnv := xx; clear yy; subst xx) | clear_value xx)
    | split | rw [mk_put] | (refine MemKept.mk ?_ ?_)

theorem kept_commitVerify {e0_ : State} (s : State) (e : VerifyEntry) (h_s : Kept e0_ s) : Kept e0_ (commitVerify s e) := by
  unfold commitVerify
  repeat' with_reducible first
    | assumption | apply kept_modCtx | apply kept_putSpec | apply kept_discardOpen | (fail_if_no_progress beta_reduce) | split

theorem kept_countGrad {e0_ : State} (s : State) (a : Nat) (h_s : Kept e0_ s) : Kept e0_ (countGrad s a) := by
  unfold countGrad
  repeat' with_reducible first
    | assumption | exact Kept.refl _ | apply Kept.id_of | exact VaultKept.refl _ | exact MemKept.refl _ | exact HostKept.refl _
    | exact VaultKept.upd | exact MemKept.mk id id | exact id | exact (fun w => memWrite_wf w _ _) | exact (fun w => memZero_wf w _ _)
    | exact (fun w => Memory.wf_filter _ w) | apply OptKept.getD | apply Kept.put | (fail_if_no_progress beta_reduce)
    | (refine Kept.foldl ?_ (fun _ _ _ => ?_)) | (refine Kept.foldl_fst ?_ (fun _ _ _ => ?_)) | (refine Kept.foldr ?_ (fun _ _ _ => ?_))
    | split | rw [mk_put] | (refine MemKept.mk ?_ ?_)

theorem kept_commitVerifies {e0_ : State} (s : State) (f : Flight) (es : List VerifyEntry) (h_s : Kept e0_ s) : AtKept e0_ (commitVerifies s f es) := by
  unfold commitVerifies
  repeat' with_reducible first
    | assumption | exact Kept.refl _ | apply Kept.id_of | exact VaultKept.refl _ | exact MemKept.refl _ | exact HostKept.refl _
    | exact VaultKept.upd | exact MemKept.mk id id | exact id | exact (fun w => memWrite_wf w _ _) | exact (fun w => memZero_wf w _ _)
    | exact (fun w => Memory.wf_filter _ w) | apply kept_putRows | apply kept_commitVerify | exact AtKept.wait | exact AtKept.failed
    | apply AtKept.go | apply AtKept.ite | apply OptKept.getD | apply Kept.put | (fail_if_no_progress beta_reduce)
    | (refine Kept.fst_of (by assumption) ?_; apply kept_putRows) | (refine Kept.foldl ?_ (fun _ _ _ => ?_))
    | (refine Kept.foldl_fst ?_ (fun _ _ _ => ?_)) | (refine Kept.foldr ?_ (fun _ _ _ => ?_)) | split | rw [mk_put]
    | (refine MemKept.mk ?_ ?_)

theorem kept_commitPost {e0_ : State} (s : State) (f : Flight) (h_s : Kept e0_ s) : AtKept e0_ (commitPost s f) := by
  unfold commitPost
  repeat' with_reducible first
    | assumption | exact Kept.refl _ | apply Kept.id_of | exact VaultKept.refl _ | exact MemKept.refl _ | exact HostKept.refl _
    | exact VaultKept.upd | exact MemKept.mk id id | exact id | exact (fun w => memWrite_wf w _ _) | exact (fun w => memZero_wf w _ _)
    | exact (fun w => Memory.wf_filter _ w) | apply kept_putRows | (refine Kept.fst_of (by assumption) ?_; apply kept_putRows)
    | apply kept_commitVerifies | apply kept_commitRoute | apply kept_settle | apply kept_commitSettle | apply kept_countGrad
    | exact AtKept.wait | exact AtKept.failed | apply AtKept.go | apply AtKept.ite | apply OptKept.getD | apply Kept.put | apply Kept.ite
    | (refine Kept.foldl ?_ (fun _ _ _ => ?_)) | (refine Kept.foldl_fst ?_ (fun _ _ _ => ?_)) | (refine Kept.foldr ?_ (fun _ _ _ => ?_))
    | (fail_if_no_progress beta_reduce)
    | ((try lift_lets -underBinder); intro xx; first | (refine Kept.use (P := Kept e0_ xx) ?_ (fun hx => ?_); (on_goal 2 => clear_value xx); (on_goal 1 => subst xx)) | (refine Kept.use (P := OptKept e0_ xx) ?_ (fun hx => ?_); (on_goal 2 => clear_value xx); (on_goal 1 => subst xx)) | (refine Kept.use (P := Kept e0_ (Prod.fst (α := State) xx)) ?_ (fun hx => ?_); (on_goal 2 => clear_value xx); (on_goal 1 => subst xx)) | (refine Kept.use (P := Kept e0_ (Prod.snd (β := State) xx)) ?_ (fun hx => ?_); (on_goal 2 => clear_value xx); (on_goal 1 => subst xx)) | (refine Kept.use (P := OptFst e0_ xx) ?_ (fun hx => ?_); (on_goal 2 => clear_value xx); (on_goal 1 => subst xx)) | (refine Kept.use (P := ExcKept e0_ xx) ?_ (fun hx => ?_); (on_goal 2 => clear_value xx); (on_goal 1 => subst xx)) | (have yy : _ → _ := xx; clear yy; subst xx) | (have yy : Memories := xx; clear yy; subst xx) | (have yy : Vault := xx; clear yy; subst xx) | (have yy : HostEnv := xx; clear yy; subst xx) | clear_value xx)
    | split | rw [mk_put] | (refine MemKept.mk ?_ ?_)

theorem kept_chargeMarks {e0_ : State} (s : State) (f : Flight) (marks : List (Nat × Nat)) (h_s : Kept e0_ s) : Kept e0_ (chargeMarks s f marks) := by
  unfold chargeMarks
  repeat' with_reducible first
    | assumption | exact Kept.refl _ | apply Kept.id_of | exact VaultKept.refl _ | exact MemKept.refl _ | exact HostKept.refl _
    | exact VaultKept.upd | exact MemKept.mk id id | exact id | exact (fun w => memWrite_wf w _ _) | exact (fun w => memZero_wf w _ _)
    | exact (fun w => Memory.wf_filter _ w) | apply kept_chargeStatus | apply OptKept.getD | apply Kept.put
    | (fail_if_no_progress beta_reduce) | (refine Kept.foldl ?_ (fun _ _ _ => ?_)) | (refine Kept.foldl_fst ?_ (fun _ _ _ => ?_))
    | (refine Kept.foldr ?_ (fun _ _ _ => ?_)) | split | rw [mk_put] | (refine MemKept.mk ?_ ?_)

theorem kept_passCommit {e0_ : State} (s : State) (f : Flight) (h_s : Kept e0_ s) : Kept e0_ (passCommit s f) := by
  unfold passCommit
  repeat' with_reducible first
    | assumption | exact Kept.refl _ | apply Kept.id_of | exact VaultKept.refl _ | exact MemKept.refl _ | exact HostKept.refl _
    | exact VaultKept.upd | exact MemKept.mk id id | exact id | exact (fun w => memWrite_wf w _ _) | exact (fun w => memZero_wf w _ _)
    | exact (fun w => Memory.wf_filter _ w) | apply kept_putFlight | apply kept_enterTicket | apply kept_settle | apply kept_complete
    | apply kept_commitPost | apply kept_chargeMarks | apply OptKept.getD | apply Kept.put | (fail_if_no_progress beta_reduce)
    | (refine AtKept.get (by assumption) ?_; apply kept_commitPost) | (refine Kept.foldl ?_ (fun _ _ _ => ?_))
    | (refine Kept.foldl_fst ?_ (fun _ _ _ => ?_)) | (refine Kept.foldr ?_ (fun _ _ _ => ?_)) | split | rw [mk_put]
    | (refine MemKept.mk ?_ ?_)

theorem kept_commitPointOp {e0_ : State} (cid : Nat) (s : State) (h_s : Kept e0_ s) : Kept e0_ (commitPointOp cid s) := by
  unfold commitPointOp
  repeat' with_reducible first
    | assumption | apply kept_passCommit | (fail_if_no_progress beta_reduce) | split

theorem kept_sendRuns {e0_ : State} (epoch : Nat) (s : State) (l : List (Nat × Nat × List Byte)) (h : Kept e0_ s) : OptFst e0_ (sendRuns epoch s l) := by
  induction l generalizing s with
  | nil => exact OptFst.some h
  | cons x l ih =>
    obtain ⟨q, pa, bs⟩ := x
    simp only [sendRuns]
    split
    · exact OptFst.none
    · rename_i s1 id h1
      have hs1 := OptFst.get h1 (kept_sendTensor s 1 q epoch pa bs h)
      split
      · exact OptFst.none
      · rename_i s2 ids h2
        exact OptFst.some (OptFst.get h2 (ih s1 hs1))

theorem kept_readyAreas {e0_ : State} (s : State) (f : Flight) (h_s : Kept e0_ s) : Kept e0_ (readyAreas s f) := by
  unfold readyAreas
  repeat' with_reducible first
    | assumption | exact Kept.refl _ | apply Kept.id_of | exact VaultKept.refl _ | exact MemKept.refl _ | exact HostKept.refl _
    | exact VaultKept.upd | exact MemKept.mk id id | exact id | exact (fun w => memWrite_wf w _ _) | exact (fun w => memZero_wf w _ _)
    | exact (fun w => Memory.wf_filter _ w) | apply kept_zeroArea | apply OptKept.getD | apply Kept.put | apply Kept.ite
    | (refine Kept.foldl ?_ (fun _ _ _ => ?_)) | (refine Kept.foldl_fst ?_ (fun _ _ _ => ?_)) | (refine Kept.foldr ?_ (fun _ _ _ => ?_))
    | (fail_if_no_progress beta_reduce)
    | ((try lift_lets -underBinder); intro xx; first | (refine Kept.use (P := Kept e0_ xx) ?_ (fun hx => ?_); (on_goal 2 => clear_value xx); (on_goal 1 => subst xx)) | clear_value xx)
    | split | rw [mk_put] | (refine MemKept.mk ?_ ?_)

theorem kept_landWriteOut {e0_ : State} (s : State) (f : Flight) (h_s : Kept e0_ s) : Kept e0_ (landWriteOut s f) := by
  unfold landWriteOut
  repeat' with_reducible first
    | assumption | exact Kept.refl _ | apply Kept.id_of | exact VaultKept.refl _ | exact MemKept.refl _ | exact HostKept.refl _
    | exact VaultKept.upd | exact MemKept.mk id id | exact id | exact (fun w => memWrite_wf w _ _) | exact (fun w => memZero_wf w _ _)
    | exact (fun w => Memory.wf_filter _ w) | apply kept_writeAll | (refine Kept.fst_of (by assumption) ?_; apply kept_writeAll)
    | apply kept_readyAreas | apply kept_lostCommand | apply kept_complete | apply OptKept.getD | apply Kept.put | apply Kept.ite
    | (refine Kept.foldl ?_ (fun _ _ _ => ?_)) | (refine Kept.foldl_fst ?_ (fun _ _ _ => ?_)) | (refine Kept.foldr ?_ (fun _ _ _ => ?_))
    | (fail_if_no_progress beta_reduce)
    | ((try lift_lets -underBinder); intro xx; first | (refine Kept.use (P := Kept e0_ xx) ?_ (fun hx => ?_); (on_goal 2 => clear_value xx); (on_goal 1 => subst xx)) | (refine Kept.use (P := OptKept e0_ xx) ?_ (fun hx => ?_); (on_goal 2 => clear_value xx); (on_goal 1 => subst xx)) | (refine Kept.use (P := Kept e0_ (Prod.fst (α := State) xx)) ?_ (fun hx => ?_); (on_goal 2 => clear_value xx); (on_goal 1 => subst xx)) | (refine Kept.use (P := Kept e0_ (Prod.snd (β := State) xx)) ?_ (fun hx => ?_); (on_goal 2 => clear_value xx); (on_goal 1 => subst xx)) | (refine Kept.use (P := OptFst e0_ xx) ?_ (fun hx => ?_); (on_goal 2 => clear_value xx); (on_goal 1 => subst xx)) | (refine Kept.use (P := ExcKept e0_ xx) ?_ (fun hx => ?_); (on_goal 2 => clear_value xx); (on_goal 1 => subst xx)) | (have yy : _ → _ := xx; clear yy; subst xx) | (have yy : Memories := xx; clear yy; subst xx) | (have yy : Vault := xx; clear yy; subst xx) | (have yy : HostEnv := xx; clear yy; subst xx) | clear_value xx)
    | split | rw [mk_put] | (refine MemKept.mk ?_ ?_)

theorem kept_endWriteOut {e0_ : State} (s : State) (f : Flight) (h_s : Kept e0_ s) : Kept e0_ (endWriteOut s f) := by
  unfold endWriteOut
  repeat' with_reducible first
    | assumption | exact Kept.refl _ | apply Kept.id_of | exact VaultKept.refl _ | exact MemKept.refl _ | exact HostKept.refl _
    | exact VaultKept.upd | exact MemKept.mk id id | exact id | exact (fun w => memWrite_wf w _ _) | exact (fun w => memZero_wf w _ _)
    | exact (fun w => Memory.wf_filter _ w) | apply kept_landWriteOut | apply kept_sendRuns
    | (refine OptFst.get (by assumption) ?_; apply kept_sendRuns) | (refine OptFst.get1 (by assumption) ?_; apply kept_sendRuns)
    | apply kept_lostCommand | apply kept_poisonStaged | apply kept_putFlight | apply OptKept.getD | apply Kept.put | apply Kept.ite
    | (refine Kept.foldl ?_ (fun _ _ _ => ?_)) | (refine Kept.foldl_fst ?_ (fun _ _ _ => ?_)) | (refine Kept.foldr ?_ (fun _ _ _ => ?_))
    | (fail_if_no_progress beta_reduce)
    | ((try lift_lets -underBinder); intro xx; first | (refine Kept.use (P := Kept e0_ xx) ?_ (fun hx => ?_); (on_goal 2 => clear_value xx); (on_goal 1 => subst xx)) | (refine Kept.use (P := OptKept e0_ xx) ?_ (fun hx => ?_); (on_goal 2 => clear_value xx); (on_goal 1 => subst xx)) | (refine Kept.use (P := Kept e0_ (Prod.fst (α := State) xx)) ?_ (fun hx => ?_); (on_goal 2 => clear_value xx); (on_goal 1 => subst xx)) | (refine Kept.use (P := Kept e0_ (Prod.snd (β := State) xx)) ?_ (fun hx => ?_); (on_goal 2 => clear_value xx); (on_goal 1 => subst xx)) | (refine Kept.use (P := OptFst e0_ xx) ?_ (fun hx => ?_); (on_goal 2 => clear_value xx); (on_goal 1 => subst xx)) | (refine Kept.use (P := ExcKept e0_ xx) ?_ (fun hx => ?_); (on_goal 2 => clear_value xx); (on_goal 1 => subst xx)) | (have yy : _ → _ := xx; clear yy; subst xx) | (have yy : Memories := xx; clear yy; subst xx) | (have yy : Vault := xx; clear yy; subst xx) | (have yy : HostEnv := xx; clear yy; subst xx) | clear_value xx)
    | split | rw [mk_put] | (refine MemKept.mk ?_ ?_)

theorem kept_writeOutEndOp {e0_ : State} (st : Start) (s : State) (h_s : Kept e0_ s) : Kept e0_ (writeOutEndOp st s) := by
  unfold writeOutEndOp
  repeat' with_reducible first
    | assumption | exact Kept.refl _ | apply Kept.id_of | exact VaultKept.refl _ | exact MemKept.refl _ | exact HostKept.refl _
    | exact VaultKept.upd | exact MemKept.mk id id | exact id | exact (fun w => memWrite_wf w _ _) | exact (fun w => memZero_wf w _ _)
    | exact (fun w => Memory.wf_filter _ w) | apply kept_advance | apply kept_loseWriteOut | apply kept_applyErrs
    | apply kept_endWriteOut | apply OptKept.getD | apply Kept.put | apply Kept.ite | (refine Kept.foldl ?_ (fun _ _ _ => ?_))
    | (refine Kept.foldl_fst ?_ (fun _ _ _ => ?_)) | (refine Kept.foldr ?_ (fun _ _ _ => ?_)) | (fail_if_no_progress beta_reduce)
    | ((try lift_lets -underBinder); intro xx; first | (refine Kept.use (P := Kept e0_ xx) ?_ (fun hx => ?_); (on_goal 2 => clear_value xx); (on_goal 1 => subst xx)) | clear_value xx)
    | split | rw [mk_put] | (refine MemKept.mk ?_ ?_)

theorem kept_execCommitPoint {e0_ : State} (cid : Nat) (s : State) (h_s : Kept e0_ s) : OutcomeKept e0_ (execCommitPoint cid s) := by
  unfold execCommitPoint
  repeat' with_reducible first
    | assumption | apply kept_commitPointOp | apply OutcomeKept.answer

theorem kept_execWriteOutEnd {e0_ : State} (st : Start) (s : State) (h_s : Kept e0_ s) : OutcomeKept e0_ (execWriteOutEnd st s) := by
  unfold execWriteOutEnd
  repeat' with_reducible first
    | assumption | apply kept_writeOutEndOp | apply OutcomeKept.answer

theorem kept_drainCompleteOp {e0_ : State} (cid : Nat) (s : State) (h_s : Kept e0_ s) : Kept e0_ (drainCompleteOp cid s) := by
  unfold drainCompleteOp
  repeat' with_reducible first
    | assumption | apply kept_finishDrain | (fail_if_no_progress beta_reduce) | split

theorem kept_execDrainComplete {e0_ : State} (cid : Nat) (s : State) (h_s : Kept e0_ s) : OutcomeKept e0_ (execDrainComplete cid s) := by
  unfold execDrainComplete
  repeat' with_reducible first
    | assumption | apply kept_drainCompleteOp | apply OutcomeKept.answer

end Sys2Proof.Laws
end

