-- ==== Sys2Proof/Laws/KeptFetch.lean ====
section
/-!
SUPPORT. Sys2Proof/Laws/KeptFetch.lean: what the operations of Machine/Fetch.lean keep (Laws/Kept.lean).
-/

set_option linter.unusedTactic false
set_option linter.unreachableTactic false
set_option linter.unusedVariables false

namespace Sys2Proof.Laws

open Sys2Proof.Machine Sys2Proof.Safety

theorem kept_hostDoorbellOp {e0_ : State} (port shoe : Nat) (writes : List HostWrite) (s : State) (h_s : Kept e0_ s) : Kept e0_ (hostDoorbellOp port shoe writes s) := by
  unfold hostDoorbellOp
  repeat' with_reducible first
    | assumption | exact Kept.refl _ | apply Kept.id_of | exact VaultKept.refl _ | exact MemKept.refl _ | exact HostKept.refl _
    | exact VaultKept.upd | exact MemKept.mk id id | exact id | exact (fun w => memWrite_wf w _ _) | exact (fun w => memZero_wf w _ _)
    | exact (fun w => Memory.wf_filter _ w) | apply kept_hostPut | apply kept_putShoe | apply OptKept.getD | apply Kept.put
    | apply Kept.ite | (refine Kept.foldl ?_ (fun _ _ _ => ?_)) | (refine Kept.foldl_fst ?_ (fun _ _ _ => ?_))
    | (refine Kept.foldr ?_ (fun _ _ _ => ?_)) | (fail_if_no_progress beta_reduce)
    | ((try lift_lets -underBinder); intro xx; first | (refine Kept.use (P := Kept e0_ xx) ?_ (fun hx => ?_); (on_goal 2 => clear_value xx); (on_goal 1 => subst xx)) | clear_value xx)
    | split | rw [mk_put] | (refine MemKept.mk ?_ ?_)

theorem kept_acceptUnit {e0_ : State} (s : State) (n : Nat) (va ctr : Nat) (unit : List Byte) (h_s : Kept e0_ s) : OptKept e0_ (acceptUnit s n va ctr unit) := by
  unfold acceptUnit
  repeat' with_reducible first
    | assumption | exact Kept.refl _ | apply Kept.id_of | exact VaultKept.refl _ | exact MemKept.refl _ | exact HostKept.refl _
    | exact VaultKept.upd | exact MemKept.mk id id | exact id | exact (fun w => memWrite_wf w _ _) | exact (fun w => memZero_wf w _ _)
    | exact (fun w => Memory.wf_filter _ w) | apply kept_putShoe | exact OptKept.none | apply OptKept.some | apply OptKept.ite
    | (refine OptKept.map (fun _ _ => ?_)) | (refine OptKept.findSome (fun _ => ?_)) | apply OptKept.getD | apply Kept.put
    | (fail_if_no_progress beta_reduce) | (refine Kept.foldl ?_ (fun _ _ _ => ?_)) | (refine Kept.foldl_fst ?_ (fun _ _ _ => ?_))
    | (refine Kept.foldr ?_ (fun _ _ _ => ?_)) | split | rw [mk_put] | (refine MemKept.mk ?_ ?_)

theorem kept_readSlot {e0_ : State} (s : State) (n : Nat) (h_s : Kept e0_ s) : ExcFst e0_ (readSlot s n) := by
  unfold readSlot
  repeat' with_reducible first
    | assumption | exact Kept.refl _ | apply Kept.id_of | exact VaultKept.refl _ | exact MemKept.refl _ | exact HostKept.refl _
    | exact VaultKept.upd | exact MemKept.mk id id | exact id | exact (fun w => memWrite_wf w _ _) | exact (fun w => memZero_wf w _ _)
    | exact (fun w => Memory.wf_filter _ w) | apply kept_acceptUnit | exact ExcFst.error | apply ExcFst.ok | apply ExcFst.ite
    | (refine ExcFst.map (fun _ _ => ?_)) | apply OptKept.getD | apply Kept.put | (fail_if_no_progress beta_reduce)
    | (refine OptKept.get (by assumption) ?_; apply kept_acceptUnit) | (refine Kept.foldl ?_ (fun _ _ _ => ?_))
    | (refine Kept.foldl_fst ?_ (fun _ _ _ => ?_)) | (refine Kept.foldr ?_ (fun _ _ _ => ?_)) | split | rw [mk_put]
    | (refine MemKept.mk ?_ ?_)

theorem kept_checkFetched {e0_ : State} (s : State) (f : Flight) (h_s : Kept e0_ s) : Kept e0_ (checkFetched s f) := by
  unfold checkFetched
  repeat' with_reducible first
    | assumption | apply kept_putFlight | apply kept_complete | (fail_if_no_progress beta_reduce) | split

theorem kept_takeSlot {e0_ : State} (s : State) (n : Nat) (bs : List Byte) (h_s : Kept e0_ s) : Kept e0_ (takeSlot s n bs) := by
  unfold takeSlot
  repeat' with_reducible first
    | assumption | exact Kept.refl _ | apply Kept.id_of | exact VaultKept.refl _ | exact MemKept.refl _ | exact HostKept.refl _
    | exact VaultKept.upd | exact MemKept.mk id id | exact id | exact (fun w => memWrite_wf w _ _) | exact (fun w => memZero_wf w _ _)
    | exact (fun w => Memory.wf_filter _ w) | apply kept_putShoe | apply kept_checkFetched | apply OptKept.getD | apply Kept.put
    | (fail_if_no_progress beta_reduce) | (refine Kept.foldl ?_ (fun _ _ _ => ?_)) | (refine Kept.foldl_fst ?_ (fun _ _ _ => ?_))
    | (refine Kept.foldr ?_ (fun _ _ _ => ?_)) | split | rw [mk_put] | (refine MemKept.mk ?_ ?_)

theorem kept_postHead {e0_ : State} (s : State) (n : Nat) (h_s : Kept e0_ s) : OptKept e0_ (postHead s n) := by
  unfold postHead
  repeat' with_reducible first
    | assumption | exact Kept.refl _ | apply Kept.id_of | exact VaultKept.refl _ | exact MemKept.refl _ | exact HostKept.refl _
    | exact VaultKept.upd | exact MemKept.mk id id | exact id | exact (fun w => memWrite_wf w _ _) | exact (fun w => memZero_wf w _ _)
    | exact (fun w => Memory.wf_filter _ w) | apply kept_raiseError | apply kept_sendTensor
    | (refine OptFst.get (by assumption) ?_; apply kept_sendTensor) | (refine OptFst.get1 (by assumption) ?_; apply kept_sendTensor)
    | apply kept_notePosted | apply kept_writeRuns | (refine Kept.fst_of (by assumption) ?_; apply kept_writeRuns) | exact OptKept.none
    | apply OptKept.some | apply OptKept.ite | apply OptKept.getD | apply Kept.put | apply Kept.ite
    | (refine Kept.foldl ?_ (fun _ _ _ => ?_)) | (refine Kept.foldl_fst ?_ (fun _ _ _ => ?_)) | (refine Kept.foldr ?_ (fun _ _ _ => ?_))
    | (fail_if_no_progress beta_reduce)
    | ((try lift_lets -underBinder); intro xx; first | (refine Kept.use (P := Kept e0_ xx) ?_ (fun hx => ?_); (on_goal 2 => clear_value xx); (on_goal 1 => subst xx)) | (refine Kept.use (P := OptKept e0_ xx) ?_ (fun hx => ?_); (on_goal 2 => clear_value xx); (on_goal 1 => subst xx)) | (refine Kept.use (P := Kept e0_ (Prod.fst (α := State) xx)) ?_ (fun hx => ?_); (on_goal 2 => clear_value xx); (on_goal 1 => subst xx)) | (refine Kept.use (P := Kept e0_ (Prod.snd (β := State) xx)) ?_ (fun hx => ?_); (on_goal 2 => clear_value xx); (on_goal 1 => subst xx)) | (refine Kept.use (P := OptFst e0_ xx) ?_ (fun hx => ?_); (on_goal 2 => clear_value xx); (on_goal 1 => subst xx)) | (refine Kept.use (P := ExcKept e0_ xx) ?_ (fun hx => ?_); (on_goal 2 => clear_value xx); (on_goal 1 => subst xx)) | (have yy : _ → _ := xx; clear yy; subst xx) | (have yy : Memories := xx; clear yy; subst xx) | (have yy : Vault := xx; clear yy; subst xx) | (have yy : HostEnv := xx; clear yy; subst xx) | clear_value xx)
    | split | rw [mk_put] | (refine MemKept.mk ?_ ?_)

theorem kept_endBatch {e0_ : State} (s : State) (n k : Nat) (h_s : Kept e0_ s) : OptKept e0_ (endBatch s n k) := by
  unfold endBatch
  repeat' with_reducible first
    | assumption | apply kept_advance | apply kept_postHead | exact OptKept.none | apply OptKept.some | apply OptKept.ite
    | (refine OptKept.map (fun _ _ => ?_)) | (refine OptKept.findSome (fun _ => ?_)) | (fail_if_no_progress beta_reduce) | split

theorem kept_fetchSlots {e0_ : State} (n m k : Nat) (s : State) (h : Kept e0_ s) : OptFst e0_ (fetchSlots n m k s) := by
  induction m generalizing k s with
  | zero => simp only [fetchSlots]; exact OptFst.map fun x hx => OptKept.get hx (kept_endBatch _ _ _ h)
  | succ m ih =>
    simp only [fetchSlots]
    split
    · exact OptFst.map fun x hx => OptKept.get hx (kept_endBatch _ _ _ h)
    · split
      · exact OptFst.map fun x hx => OptKept.get hx (kept_endBatch _ _ _ h)
      · split
        · exact OptFst.map fun x hx => OptKept.get hx (kept_endBatch _ _ _ h)
        · rename_i s1 bs h1
          have hs := kept_takeSlot s1 n bs (ExcFst.get h1 (kept_readSlot s n h))
          split
          · split
            · exact OptFst.none
            · rename_i s3 h3
              exact ih 0 s3 (OptKept.get h3 (kept_endBatch _ _ _ hs))
          · exact ih _ _ hs

theorem kept_askPeer {e0_ : State} (s : State) (n q pa len va : Nat) (h_s : Kept e0_ s) : Kept e0_ (askPeer s n q pa len va) := by
  unfold askPeer
  repeat' with_reducible first
    | assumption | exact Kept.refl _ | apply Kept.id_of | exact VaultKept.refl _ | exact MemKept.refl _ | exact HostKept.refl _
    | exact VaultKept.upd | exact MemKept.mk id id | exact id | exact (fun w => memWrite_wf w _ _) | exact (fun w => memZero_wf w _ _)
    | exact (fun w => Memory.wf_filter _ w) | apply kept_modShoe | apply kept_sendTensor | apply kept_stopShoe | apply OptKept.getD
    | apply Kept.put | (fail_if_no_progress beta_reduce) | (refine OptFst.get (by assumption) ?_; apply kept_sendTensor)
    | (refine OptFst.get1 (by assumption) ?_; apply kept_sendTensor) | (refine Kept.foldl ?_ (fun _ _ _ => ?_))
    | (refine Kept.foldl_fst ?_ (fun _ _ _ => ?_)) | (refine Kept.foldr ?_ (fun _ _ _ => ?_)) | split | rw [mk_put]
    | (refine MemKept.mk ?_ ?_)

theorem kept_endTurn {e0_ : State} (s0 s : State) (n : Nat) (t : Turn) (h_s0 : Kept e0_ s0) (h_s : Kept e0_ s) : Kept e0_ (endTurn s0 s n t) := by
  unfold endTurn
  repeat' with_reducible first
    | assumption | apply kept_modShoe | apply kept_fatal | apply kept_stopShoe | apply kept_askPeer | (fail_if_no_progress beta_reduce)
    | split

theorem kept_takeTurn {e0_ : State} (s : State) (n : Nat) (last : Nat × Nat × Nat) (h_s : Kept e0_ s) : Kept e0_ (takeTurn s n last) := by
  unfold takeTurn
  repeat' with_reducible first
    | assumption | exact Kept.refl _ | apply Kept.id_of | exact VaultKept.refl _ | exact MemKept.refl _ | exact HostKept.refl _
    | exact VaultKept.upd | exact MemKept.mk id id | exact id | exact (fun w => memWrite_wf w _ _) | exact (fun w => memZero_wf w _ _)
    | exact (fun w => Memory.wf_filter _ w) | apply kept_putShoe | apply kept_modShoe | apply kept_applyErrs | apply kept_fetchSlots
    | apply kept_stopShoe | apply kept_endTurn | apply OptKept.getD | apply Kept.put | apply Kept.ite
    | (refine Kept.foldl ?_ (fun _ _ _ => ?_)) | (refine Kept.foldl_fst ?_ (fun _ _ _ => ?_)) | (refine Kept.foldr ?_ (fun _ _ _ => ?_))
    | (refine OptFst.get (by assumption) ?_; apply kept_fetchSlots) | (refine OptFst.get1 (by assumption) ?_; apply kept_fetchSlots)
    | (fail_if_no_progress beta_reduce)
    | ((try lift_lets -underBinder); intro xx; first | (refine Kept.use (P := Kept e0_ xx) ?_ (fun hx => ?_); (on_goal 2 => clear_value xx); (on_goal 1 => subst xx)) | clear_value xx)
    | split | rw [mk_put] | (refine MemKept.mk ?_ ?_)

theorem kept_runTurn {e0_ : State} (s0 s : State) (n tail : Nat) (h_s0 : Kept e0_ s0) (h_s : Kept e0_ s) : Kept e0_ (runTurn s0 s n tail) := by
  unfold runTurn
  repeat' with_reducible first
    | assumption | exact Kept.refl _ | apply Kept.id_of | exact VaultKept.refl _ | exact MemKept.refl _ | exact HostKept.refl _
    | exact VaultKept.upd | exact MemKept.mk id id | exact id | exact (fun w => memWrite_wf w _ _) | exact (fun w => memZero_wf w _ _)
    | exact (fun w => Memory.wf_filter _ w) | apply kept_putShoe | apply kept_modShoe | apply kept_applyErrs | apply kept_fetchSlots
    | apply kept_stopShoe | apply kept_endTurn | apply OptKept.getD | apply Kept.put | apply Kept.ite
    | (refine Kept.foldl ?_ (fun _ _ _ => ?_)) | (refine Kept.foldl_fst ?_ (fun _ _ _ => ?_)) | (refine Kept.foldr ?_ (fun _ _ _ => ?_))
    | (refine OptFst.get (by assumption) ?_; apply kept_fetchSlots) | (refine OptFst.get1 (by assumption) ?_; apply kept_fetchSlots)
    | (fail_if_no_progress beta_reduce)
    | ((try lift_lets -underBinder); intro xx; first | (refine Kept.use (P := Kept e0_ xx) ?_ (fun hx => ?_); (on_goal 2 => clear_value xx); (on_goal 1 => subst xx)) | clear_value xx)
    | split | rw [mk_put] | (refine MemKept.mk ?_ ?_)

theorem kept_shoeFetchOp {e0_ : State} (errs : List HwErr) (s : State) (h_s : Kept e0_ s) : Kept e0_ (shoeFetchOp errs s) := by
  unfold shoeFetchOp
  repeat' with_reducible first
    | assumption | exact Kept.refl _ | apply Kept.id_of | exact VaultKept.refl _ | exact MemKept.refl _ | exact HostKept.refl _
    | exact VaultKept.upd | exact MemKept.mk id id | exact id | exact (fun w => memWrite_wf w _ _) | exact (fun w => memZero_wf w _ _)
    | exact (fun w => Memory.wf_filter _ w) | apply kept_putShoe | apply kept_modShoe | apply kept_applyErrs | apply kept_takeTurn | apply kept_runTurn
    | apply kept_stopShoe | apply kept_endTurn | apply OptKept.getD | apply Kept.put | apply Kept.ite
    | (refine Kept.foldl ?_ (fun _ _ _ => ?_)) | (refine Kept.foldl_fst ?_ (fun _ _ _ => ?_)) | (refine Kept.foldr ?_ (fun _ _ _ => ?_))
    | (refine OptFst.get (by assumption) ?_; apply kept_fetchSlots) | (refine OptFst.get1 (by assumption) ?_; apply kept_fetchSlots)
    | (fail_if_no_progress beta_reduce)
    | ((try lift_lets -underBinder); intro xx; first | (refine Kept.use (P := Kept e0_ xx) ?_ (fun hx => ?_); (on_goal 2 => clear_value xx); (on_goal 1 => subst xx)) | clear_value xx)
    | split | rw [mk_put] | (refine MemKept.mk ?_ ?_)

theorem kept_execHostDoorbell {e0_ : State} (port shoe : Nat) (writes : List HostWrite) (s : State) (h_s : Kept e0_ s) : OutcomeKept e0_ (execHostDoorbell port shoe writes s) := by
  unfold execHostDoorbell
  repeat' with_reducible first
    | assumption | apply kept_hostDoorbellOp | apply OutcomeKept.answer

theorem kept_execShoeFetch {e0_ : State} (errs : List HwErr) (s : State) (h_s : Kept e0_ s) : OutcomeKept e0_ (execShoeFetch errs s) := by
  unfold execShoeFetch
  repeat' with_reducible first
    | assumption | apply kept_shoeFetchOp | apply OutcomeKept.answer

end Sys2Proof.Laws
end

