-- ==== Sys2Proof/Laws/KeptShoes.lean ====
section
/-!
SUPPORT. Sys2Proof/Laws/KeptShoes.lean: what the operations of Machine/Shoes.lean keep (Laws/Kept.lean).
-/

set_option linter.unusedTactic false
set_option linter.unreachableTactic false
set_option linter.unusedVariables false

namespace Sys2Proof.Laws

open Sys2Proof.Machine Sys2Proof.Safety

theorem kept_knShoeCreateBody   : BodyKept (knShoeCreateBody) := by
  intro e0_ s a f p h
  unfold knShoeCreateBody
  repeat' with_reducible first
    | assumption | exact Kept.refl _ | apply Kept.id_of | exact VaultKept.refl _ | exact MemKept.refl _ | exact HostKept.refl _
    | exact VaultKept.upd | exact MemKept.mk id id | exact id | exact (fun w => memWrite_wf w _ _) | exact (fun w => memZero_wf w _ _)
    | exact (fun w => Memory.wf_filter _ w) | apply kept_putShoe | apply kept_sendTensor | apply kept_onAction | exact PlanKept.noop
    | exact PlanKept.staged | exact PlanKept.vector | apply PlanKept.act | apply PlanKept.drain | apply PlanKept.wait
    | apply PlanKept.ended | apply PlanKept.ite | apply RunAll.ite | apply RunAll.pure | exact RunAll.stop | exact RunAll.finish
    | exact RunAll.denied | exact RunAll.absent | exact RunAll.sealed | (refine RunAll.lift (fun _ _ => ?_))
    | (refine RunAll.bind (fun _ => ?_)) | apply Kept.put | (fail_if_no_progress beta_reduce)
    | (refine OptFst.get (by assumption) ?_; apply kept_sendTensor) | (refine OptFst.get1 (by assumption) ?_; apply kept_sendTensor)
    | (refine Kept.foldl ?_ (fun _ _ _ => ?_)) | (refine Kept.foldl_fst ?_ (fun _ _ _ => ?_)) | (refine Kept.foldr ?_ (fun _ _ _ => ?_))
    | split | rw [mk_put] | (refine MemKept.mk ?_ ?_)

theorem kept_undoDrain {e0_ : State} (s : State) (d : Drain) (h_s : Kept e0_ s) : Kept e0_ (undoDrain s d) := by
  unfold undoDrain
  repeat' with_reducible first
    | assumption | exact Kept.refl _ | apply Kept.id_of | exact VaultKept.refl _ | exact MemKept.refl _ | exact HostKept.refl _
    | exact VaultKept.upd | exact MemKept.mk id id | exact id | exact (fun w => memWrite_wf w _ _) | exact (fun w => memZero_wf w _ _)
    | exact (fun w => Memory.wf_filter _ w) | apply kept_modShoe | apply OptKept.getD | apply Kept.put
    | (fail_if_no_progress beta_reduce) | (refine Kept.foldl ?_ (fun _ _ _ => ?_)) | (refine Kept.foldl_fst ?_ (fun _ _ _ => ?_))
    | (refine Kept.foldr ?_ (fun _ _ _ => ?_)) | split | rw [mk_put] | (refine MemKept.mk ?_ ?_)

theorem kept_dropCommand {e0_ : State} (s : State) (f : Flight) (h_s : Kept e0_ s) : Kept e0_ (dropCommand s f) := by
  unfold dropCommand
  repeat' with_reducible first
    | assumption | exact Kept.refl _ | apply Kept.id_of | exact VaultKept.refl _ | exact MemKept.refl _ | exact HostKept.refl _
    | exact VaultKept.upd | exact MemKept.mk id id | exact id | exact (fun w => memWrite_wf w _ _) | exact (fun w => memZero_wf w _ _)
    | exact (fun w => Memory.wf_filter _ w) | apply kept_undoDrain | apply kept_noteKill | apply kept_dropFlight | apply OptKept.getD
    | apply Kept.put | apply Kept.ite | (refine Kept.foldl ?_ (fun _ _ _ => ?_)) | (refine Kept.foldl_fst ?_ (fun _ _ _ => ?_))
    | (refine Kept.foldr ?_ (fun _ _ _ => ?_)) | (fail_if_no_progress beta_reduce)
    | ((try lift_lets -underBinder); intro xx; first | (refine Kept.use (P := Kept e0_ xx) ?_ (fun hx => ?_); (on_goal 2 => clear_value xx); (on_goal 1 => subst xx)) | (refine Kept.use (P := OptKept e0_ xx) ?_ (fun hx => ?_); (on_goal 2 => clear_value xx); (on_goal 1 => subst xx)) | (refine Kept.use (P := Kept e0_ (Prod.fst (α := State) xx)) ?_ (fun hx => ?_); (on_goal 2 => clear_value xx); (on_goal 1 => subst xx)) | (refine Kept.use (P := Kept e0_ (Prod.snd (β := State) xx)) ?_ (fun hx => ?_); (on_goal 2 => clear_value xx); (on_goal 1 => subst xx)) | (refine Kept.use (P := OptFst e0_ xx) ?_ (fun hx => ?_); (on_goal 2 => clear_value xx); (on_goal 1 => subst xx)) | (refine Kept.use (P := ExcKept e0_ xx) ?_ (fun hx => ?_); (on_goal 2 => clear_value xx); (on_goal 1 => subst xx)) | (have yy : _ → _ := xx; clear yy; subst xx) | (have yy : Memories := xx; clear yy; subst xx) | (have yy : Vault := xx; clear yy; subst xx) | (have yy : HostEnv := xx; clear yy; subst xx) | clear_value xx)
    | split | rw [mk_put] | (refine MemKept.mk ?_ ?_)

theorem kept_startDestroy {e0_ : State} (s : State) (n : Nat) (h_s : Kept e0_ s) : Kept e0_ (startDestroy s n).1 := by
  unfold startDestroy
  repeat' with_reducible first
    | assumption | exact Kept.refl _ | apply Kept.id_of | exact VaultKept.refl _ | exact MemKept.refl _ | exact HostKept.refl _
    | exact VaultKept.upd | exact MemKept.mk id id | exact id | exact (fun w => memWrite_wf w _ _) | exact (fun w => memZero_wf w _ _)
    | exact (fun w => Memory.wf_filter _ w) | apply kept_modShoe | apply kept_settle | apply kept_dropCommand | apply OptKept.getD
    | apply Kept.put | (fail_if_no_progress beta_reduce) | (refine Kept.foldl ?_ (fun _ _ _ => ?_))
    | (refine Kept.foldl_fst ?_ (fun _ _ _ => ?_)) | (refine Kept.foldr ?_ (fun _ _ _ => ?_)) | split | rw [mk_put]
    | (refine MemKept.mk ?_ ?_)

theorem kept_knShoeDestroyBody   : BodyKept (knShoeDestroyBody) := by
  intro e0_ s a f p h
  unfold knShoeDestroyBody
  repeat' with_reducible first
    | assumption | exact Kept.refl _ | apply Kept.id_of | apply kept_onAction | apply kept_startDestroy | exact PlanKept.noop
    | exact PlanKept.staged | exact PlanKept.vector | apply PlanKept.act | apply PlanKept.drain | apply PlanKept.wait
    | apply PlanKept.ended | apply PlanKept.ite | apply RunAll.ite | apply RunAll.pure | exact RunAll.stop | exact RunAll.finish
    | exact RunAll.denied | exact RunAll.absent | exact RunAll.sealed | (refine RunAll.lift (fun _ _ => ?_))
    | (refine RunAll.bind (fun _ => ?_)) | (fail_if_no_progress beta_reduce) | split

theorem kept_knShoeSetBody   : BodyKept (knShoeSetBody) := by
  intro e0_ s a f p h
  unfold knShoeSetBody
  repeat' with_reducible first
    | assumption | apply kept_modShoe | apply kept_onAction | (refine RunAll.bind (fun _ => ?_)) | apply RunAll.pure
    | apply PlanKept.act | exact PlanKept.staged | (fail_if_no_progress beta_reduce) | split

theorem kept_copyOut {e0_ : State} (s : State) (a : Actor) (dest len : Nat) (bs : List Byte) (steps : Nat) (h_s : Kept e0_ s) : RunKept e0_ (copyOut s a dest len bs steps) := by
  unfold copyOut
  repeat' with_reducible first
    | assumption | exact Kept.refl _ | apply Kept.id_of | exact PlanKept.noop | exact PlanKept.staged | exact PlanKept.vector
    | apply PlanKept.act | apply PlanKept.drain | apply PlanKept.wait | apply PlanKept.ended | apply PlanKept.ite | apply RunAll.ite
    | apply RunAll.pure | exact RunAll.stop | exact RunAll.finish | exact RunAll.denied | exact RunAll.absent | exact RunAll.sealed
    | (refine RunAll.lift (fun _ _ => ?_)) | (refine RunAll.bind (fun _ => ?_)) | apply OptKept.getD | (fail_if_no_progress beta_reduce)
    | split

theorem kept_knShoeQueryBody   : BodyKept (knShoeQueryBody) := by
  intro e0_ s a f p h
  unfold knShoeQueryBody
  repeat' with_reducible first
    | assumption | apply kept_onAction | apply kept_copyOut | (refine RunAll.bind (fun _ => ?_)) | apply RunAll.pure
    | apply PlanKept.act | exact PlanKept.staged | (fail_if_no_progress beta_reduce) | split

theorem kept_execKnShoeCreate {e0_ : State} (st : Start) (s : State) (h_s : Kept e0_ s) : OutcomeKept e0_ (execKnShoeCreate st s) := by
  unfold execKnShoeCreate
  repeat' with_reducible first
    | assumption | apply kept_startHub | exact kept_knShoeCreateBody | apply kept_knShoeCreateBody
    | (refine BodyKept.use (by apply kept_knShoeCreateBody) ?_) | apply OutcomeKept.answer

theorem kept_execKnShoeDestroy {e0_ : State} (st : Start) (s : State) (h_s : Kept e0_ s) : OutcomeKept e0_ (execKnShoeDestroy st s) := by
  unfold execKnShoeDestroy
  repeat' with_reducible first
    | assumption | apply kept_startHub | exact kept_knShoeDestroyBody | apply kept_knShoeDestroyBody
    | (refine BodyKept.use (by apply kept_knShoeDestroyBody) ?_) | apply OutcomeKept.answer

theorem kept_execKnShoeSet {e0_ : State} (st : Start) (s : State) (h_s : Kept e0_ s) : OutcomeKept e0_ (execKnShoeSet st s) := by
  unfold execKnShoeSet
  repeat' with_reducible first
    | assumption | apply kept_startHub | exact kept_knShoeSetBody | apply kept_knShoeSetBody
    | (refine BodyKept.use (by apply kept_knShoeSetBody) ?_) | apply OutcomeKept.answer

theorem kept_execKnShoeQuery {e0_ : State} (st : Start) (s : State) (h_s : Kept e0_ s) : OutcomeKept e0_ (execKnShoeQuery st s) := by
  unfold execKnShoeQuery
  repeat' with_reducible first
    | assumption | apply kept_startHub | exact kept_knShoeQueryBody | apply kept_knShoeQueryBody
    | (refine BodyKept.use (by apply kept_knShoeQueryBody) ?_) | apply OutcomeKept.answer

theorem kept_sySignalBody   : BodyKept (sySignalBody) := by
  intro e0_ s a f p h
  unfold sySignalBody
  repeat' with_reducible first
    | assumption | exact Kept.refl _ | apply Kept.id_of | exact PlanKept.noop | exact PlanKept.staged | exact PlanKept.vector
    | apply PlanKept.act | apply PlanKept.drain | apply PlanKept.wait | apply PlanKept.ended | apply PlanKept.ite | apply RunAll.ite
    | apply RunAll.pure | exact RunAll.stop | exact RunAll.finish | exact RunAll.denied | exact RunAll.absent | exact RunAll.sealed
    | (refine RunAll.lift (fun _ _ => ?_)) | (refine RunAll.bind (fun _ => ?_)) | (fail_if_no_progress beta_reduce) | split

theorem kept_sySignalOp {e0_ : State} (st : Start) (s : State) (h_s : Kept e0_ s) : Kept e0_ (sySignalOp st s) := by
  unfold sySignalOp
  repeat' with_reducible first
    | assumption | exact Kept.refl _ | apply Kept.id_of | exact VaultKept.refl _ | exact MemKept.refl _ | exact HostKept.refl _
    | exact VaultKept.upd | exact MemKept.mk id id | exact id | exact (fun w => memWrite_wf w _ _) | exact (fun w => memZero_wf w _ _)
    | exact (fun w => Memory.wf_filter _ w) | apply kept_postSignal | apply kept_commitComplete | apply kept_stopCommand
    | apply kept_fatal | apply kept_begin | exact kept_sySignalBody | apply kept_sySignalBody
    | (refine BodyKept.use (by apply kept_sySignalBody) ?_) | apply OptKept.getD | apply Kept.put | (fail_if_no_progress beta_reduce)
    | (refine BegunKept.getOver (by assumption) ?_; apply kept_begin) | (refine BegunKept.getGo (by assumption) ?_; apply kept_begin)
    | (refine Kept.foldl ?_ (fun _ _ _ => ?_)) | (refine Kept.foldl_fst ?_ (fun _ _ _ => ?_)) | (refine Kept.foldr ?_ (fun _ _ _ => ?_))
    | split | rw [mk_put] | (refine MemKept.mk ?_ ?_)

theorem kept_execSySignal {e0_ : State} (st : Start) (s : State) (h_s : Kept e0_ s) : OutcomeKept e0_ (execSySignal st s) := by
  unfold execSySignal
  repeat' with_reducible first
    | assumption | apply kept_sySignalOp | apply OutcomeKept.answer

theorem kept_syWaitBody   : BodyKept (syWaitBody) := by
  intro e0_ s a f p h
  unfold syWaitBody
  repeat' with_reducible first
    | assumption | exact Kept.refl _ | apply Kept.id_of | exact PlanKept.noop | exact PlanKept.staged | exact PlanKept.vector
    | apply PlanKept.act | apply PlanKept.drain | apply PlanKept.wait | apply PlanKept.ended | apply PlanKept.ite | apply RunAll.ite
    | apply RunAll.pure | exact RunAll.stop | exact RunAll.finish | exact RunAll.denied | exact RunAll.absent | exact RunAll.sealed
    | (refine RunAll.lift (fun _ _ => ?_)) | (refine RunAll.bind (fun _ => ?_)) | (fail_if_no_progress beta_reduce) | split

theorem kept_execSyWait {e0_ : State} (st : Start) (s : State) (h_s : Kept e0_ s) : OutcomeKept e0_ (execSyWait st s) := by
  unfold execSyWait
  repeat' with_reducible first
    | assumption | apply kept_startHub | exact kept_syWaitBody | apply kept_syWaitBody
    | (refine BodyKept.use (by apply kept_syWaitBody) ?_) | apply OutcomeKept.answer

theorem kept_syWaitSatisfiedOp {e0_ : State} (cid : Nat) (s : State) (h_s : Kept e0_ s) : Kept e0_ (syWaitSatisfiedOp cid s) := by
  unfold syWaitSatisfiedOp
  repeat' with_reducible first
    | assumption | apply kept_complete | apply kept_commitComplete | (fail_if_no_progress beta_reduce) | split

theorem kept_execSyWaitSatisfied {e0_ : State} (cid : Nat) (s : State) (h_s : Kept e0_ s) : OutcomeKept e0_ (execSyWaitSatisfied cid s) := by
  unfold execSyWaitSatisfied
  repeat' with_reducible first
    | assumption | apply kept_syWaitSatisfiedOp | apply OutcomeKept.answer

theorem kept_syWaitTimeoutOp {e0_ : State} (cid : Nat) (s : State) (h_s : Kept e0_ s) : Kept e0_ (syWaitTimeoutOp cid s) := by
  unfold syWaitTimeoutOp
  repeat' with_reducible first
    | assumption | apply kept_complete | (fail_if_no_progress beta_reduce) | split

theorem kept_execSyWaitTimeout {e0_ : State} (cid : Nat) (s : State) (h_s : Kept e0_ s) : OutcomeKept e0_ (execSyWaitTimeout cid s) := by
  unfold execSyWaitTimeout
  repeat' with_reducible first
    | assumption | apply kept_syWaitTimeoutOp | apply OutcomeKept.answer

end Sys2Proof.Laws
end

