-- ==== Sys2Proof/Laws/KeptVx.lean ====
section
/-!
SUPPORT. Sys2Proof/Laws/KeptVx.lean: what the operations of Machine/Vx.lean keep (Laws/Kept.lean).
-/

set_option linter.unusedTactic false
set_option linter.unreachableTactic false
set_option linter.unusedVariables false

namespace Sys2Proof.Laws

open Sys2Proof.Machine Sys2Proof.Safety

theorem kept_vxRunBody   : BodyKept (vxRunBody) := by
  intro e0_ s a f p h
  unfold vxRunBody
  repeat' with_reducible first
    | assumption | exact Kept.refl _ | apply Kept.id_of | exact PlanKept.noop | exact PlanKept.staged | exact PlanKept.vector
    | apply PlanKept.act | apply PlanKept.drain | apply PlanKept.wait | apply PlanKept.ended | apply PlanKept.ite | apply RunAll.ite
    | apply RunAll.pure | exact RunAll.stop | exact RunAll.finish | exact RunAll.denied | exact RunAll.absent | exact RunAll.sealed
    | (refine RunAll.lift (fun _ _ => ?_)) | (refine RunAll.bind (fun _ => ?_)) | (fail_if_no_progress beta_reduce) | split

theorem kept_execVxRun {e0_ : State} (st : Start) (s : State) (h_s : Kept e0_ s) : OutcomeKept e0_ (execVxRun st s) := by
  unfold execVxRun
  repeat' with_reducible first
    | assumption | apply kept_startEngine | exact kept_vxRunBody | apply kept_vxRunBody
    | (refine BodyKept.use (by apply kept_vxRunBody) ?_) | apply OutcomeKept.answer

theorem kept_endVx {e0_ : State} (s : State) (f : Flight) (x : Vx) (e : Stop) (h_s : Kept e0_ s) : Kept e0_ (endVx s f x e) := by
  unfold endVx
  repeat' with_reducible first
    | assumption | apply kept_stopCommand | (fail_if_no_progress beta_reduce) | split

theorem kept_vxRow {e0_ : State} (op : Nat) (body : State → Actor → VIns → Vx → Run Vx) (st : Start) (s : State) (h_s : Kept e0_ s) : Kept e0_ (vxRow op body st s) := by
  unfold vxRow
  repeat' with_reducible first
    | assumption | exact Kept.refl _ | apply Kept.id_of | exact VaultKept.refl _ | exact MemKept.refl _ | exact HostKept.refl _
    | exact VaultKept.upd | exact MemKept.mk id id | exact id | exact (fun w => memWrite_wf w _ _) | exact (fun w => memZero_wf w _ _)
    | exact (fun w => Memory.wf_filter _ w) | apply kept_applyErrs | apply kept_advance | apply kept_endVx | apply kept_done
    | apply kept_fatal | apply kept_putFlight | apply kept_touchBuffers | apply OptKept.getD | apply Kept.put | apply Kept.ite
    | (refine Kept.foldl ?_ (fun _ _ _ => ?_)) | (refine Kept.foldl_fst ?_ (fun _ _ _ => ?_)) | (refine Kept.foldr ?_ (fun _ _ _ => ?_))
    | (fail_if_no_progress beta_reduce)
    | ((try lift_lets -underBinder); intro xx; first | (refine Kept.use (P := Kept e0_ xx) ?_ (fun hx => ?_); (on_goal 2 => clear_value xx); (on_goal 1 => subst xx)) | (refine Kept.use (P := OptKept e0_ xx) ?_ (fun hx => ?_); (on_goal 2 => clear_value xx); (on_goal 1 => subst xx)) | (refine Kept.use (P := Kept e0_ (Prod.fst (α := State) xx)) ?_ (fun hx => ?_); (on_goal 2 => clear_value xx); (on_goal 1 => subst xx)) | (refine Kept.use (P := Kept e0_ (Prod.snd (β := State) xx)) ?_ (fun hx => ?_); (on_goal 2 => clear_value xx); (on_goal 1 => subst xx)) | (refine Kept.use (P := OptFst e0_ xx) ?_ (fun hx => ?_); (on_goal 2 => clear_value xx); (on_goal 1 => subst xx)) | (refine Kept.use (P := ExcKept e0_ xx) ?_ (fun hx => ?_); (on_goal 2 => clear_value xx); (on_goal 1 => subst xx)) | (have yy : _ → _ := xx; clear yy; subst xx) | (have yy : Memories := xx; clear yy; subst xx) | (have yy : Vault := xx; clear yy; subst xx) | (have yy : HostEnv := xx; clear yy; subst xx) | clear_value xx)
    | split | rw [mk_put] | (refine MemKept.mk ?_ ?_)

theorem kept_vxPlain {e0_ : State} (op : Nat) (body : VIns → Vx → Run Vx) (st : Start) (s : State) (h_s : Kept e0_ s) : OutcomeKept e0_ (vxPlain op body st s) := by
  unfold vxPlain
  repeat' with_reducible first
    | assumption | apply kept_vxRow | apply OutcomeKept.answer

theorem kept_execVxSetvl {e0_ : State} (st : Start) (s : State) (h_s : Kept e0_ s) : OutcomeKept e0_ (execVxSetvl st s) := by
  unfold execVxSetvl
  repeat' with_reducible first
    | assumption | apply kept_vxPlain | apply OutcomeKept.answer

theorem kept_execVxXli {e0_ : State} (st : Start) (s : State) (h_s : Kept e0_ s) : OutcomeKept e0_ (execVxXli st s) := by
  unfold execVxXli
  repeat' with_reducible first
    | assumption | apply kept_vxPlain | apply OutcomeKept.answer

theorem kept_execVxXadd {e0_ : State} (st : Start) (s : State) (h_s : Kept e0_ s) : OutcomeKept e0_ (execVxXadd st s) := by
  unfold execVxXadd
  repeat' with_reducible first
    | assumption | apply kept_vxPlain | apply OutcomeKept.answer

theorem kept_execVxXsub {e0_ : State} (st : Start) (s : State) (h_s : Kept e0_ s) : OutcomeKept e0_ (execVxXsub st s) := by
  unfold execVxXsub
  repeat' with_reducible first
    | assumption | apply kept_vxPlain | apply OutcomeKept.answer

theorem kept_execVxBnz {e0_ : State} (st : Start) (s : State) (h_s : Kept e0_ s) : OutcomeKept e0_ (execVxBnz st s) := by
  unfold execVxBnz
  repeat' with_reducible first
    | assumption | apply kept_vxRow | apply OutcomeKept.answer

theorem kept_execVxLd {e0_ : State} (st : Start) (s : State) (h_s : Kept e0_ s) : OutcomeKept e0_ (execVxLd st s) := by
  unfold execVxLd
  repeat' with_reducible first
    | assumption | apply kept_vxRow | apply OutcomeKept.answer

theorem kept_execVxLdb {e0_ : State} (st : Start) (s : State) (h_s : Kept e0_ s) : OutcomeKept e0_ (execVxLdb st s) := by
  unfold execVxLdb
  repeat' with_reducible first
    | assumption | apply kept_vxRow | apply OutcomeKept.answer

theorem kept_execVxSt {e0_ : State} (st : Start) (s : State) (h_s : Kept e0_ s) : OutcomeKept e0_ (execVxSt st s) := by
  unfold execVxSt
  repeat' with_reducible first
    | assumption | apply kept_vxPlain | apply OutcomeKept.answer

theorem kept_execVxAdd {e0_ : State} (st : Start) (s : State) (h_s : Kept e0_ s) : OutcomeKept e0_ (execVxAdd st s) := by
  unfold execVxAdd
  repeat' with_reducible first
    | assumption | apply kept_vxPlain | apply OutcomeKept.answer

theorem kept_execVxSub {e0_ : State} (st : Start) (s : State) (h_s : Kept e0_ s) : OutcomeKept e0_ (execVxSub st s) := by
  unfold execVxSub
  repeat' with_reducible first
    | assumption | apply kept_vxPlain | apply OutcomeKept.answer

theorem kept_execVxMul {e0_ : State} (st : Start) (s : State) (h_s : Kept e0_ s) : OutcomeKept e0_ (execVxMul st s) := by
  unfold execVxMul
  repeat' with_reducible first
    | assumption | apply kept_vxPlain | apply OutcomeKept.answer

theorem kept_execVxFma {e0_ : State} (st : Start) (s : State) (h_s : Kept e0_ s) : OutcomeKept e0_ (execVxFma st s) := by
  unfold execVxFma
  repeat' with_reducible first
    | assumption | apply kept_vxPlain | apply OutcomeKept.answer

theorem kept_execVxMin {e0_ : State} (st : Start) (s : State) (h_s : Kept e0_ s) : OutcomeKept e0_ (execVxMin st s) := by
  unfold execVxMin
  repeat' with_reducible first
    | assumption | apply kept_vxPlain | apply OutcomeKept.answer

theorem kept_execVxMax {e0_ : State} (st : Start) (s : State) (h_s : Kept e0_ s) : OutcomeKept e0_ (execVxMax st s) := by
  unfold execVxMax
  repeat' with_reducible first
    | assumption | apply kept_vxPlain | apply OutcomeKept.answer

theorem kept_execVxDiv {e0_ : State} (st : Start) (s : State) (h_s : Kept e0_ s) : OutcomeKept e0_ (execVxDiv st s) := by
  unfold execVxDiv
  repeat' with_reducible first
    | assumption | apply kept_vxPlain | apply OutcomeKept.answer

theorem kept_execVxSqrt {e0_ : State} (st : Start) (s : State) (h_s : Kept e0_ s) : OutcomeKept e0_ (execVxSqrt st s) := by
  unfold execVxSqrt
  repeat' with_reducible first
    | assumption | apply kept_vxPlain | apply OutcomeKept.answer

theorem kept_execVxAbs {e0_ : State} (st : Start) (s : State) (h_s : Kept e0_ s) : OutcomeKept e0_ (execVxAbs st s) := by
  unfold execVxAbs
  repeat' with_reducible first
    | assumption | apply kept_vxPlain | apply OutcomeKept.answer

theorem kept_execVxNeg {e0_ : State} (st : Start) (s : State) (h_s : Kept e0_ s) : OutcomeKept e0_ (execVxNeg st s) := by
  unfold execVxNeg
  repeat' with_reducible first
    | assumption | apply kept_vxPlain | apply OutcomeKept.answer

theorem kept_execVxMov {e0_ : State} (st : Start) (s : State) (h_s : Kept e0_ s) : OutcomeKept e0_ (execVxMov st s) := by
  unfold execVxMov
  repeat' with_reducible first
    | assumption | apply kept_vxPlain | apply OutcomeKept.answer

theorem kept_execVxCmplt {e0_ : State} (st : Start) (s : State) (h_s : Kept e0_ s) : OutcomeKept e0_ (execVxCmplt st s) := by
  unfold execVxCmplt
  repeat' with_reducible first
    | assumption | apply kept_vxPlain | apply OutcomeKept.answer

theorem kept_execVxCmple {e0_ : State} (st : Start) (s : State) (h_s : Kept e0_ s) : OutcomeKept e0_ (execVxCmple st s) := by
  unfold execVxCmple
  repeat' with_reducible first
    | assumption | apply kept_vxPlain | apply OutcomeKept.answer

theorem kept_execVxCmpeq {e0_ : State} (st : Start) (s : State) (h_s : Kept e0_ s) : OutcomeKept e0_ (execVxCmpeq st s) := by
  unfold execVxCmpeq
  repeat' with_reducible first
    | assumption | apply kept_vxPlain | apply OutcomeKept.answer

theorem kept_execVxKand {e0_ : State} (st : Start) (s : State) (h_s : Kept e0_ s) : OutcomeKept e0_ (execVxKand st s) := by
  unfold execVxKand
  repeat' with_reducible first
    | assumption | apply kept_vxPlain | apply OutcomeKept.answer

theorem kept_execVxKor {e0_ : State} (st : Start) (s : State) (h_s : Kept e0_ s) : OutcomeKept e0_ (execVxKor st s) := by
  unfold execVxKor
  repeat' with_reducible first
    | assumption | apply kept_vxPlain | apply OutcomeKept.answer

theorem kept_execVxKnot {e0_ : State} (st : Start) (s : State) (h_s : Kept e0_ s) : OutcomeKept e0_ (execVxKnot st s) := by
  unfold execVxKnot
  repeat' with_reducible first
    | assumption | apply kept_vxPlain | apply OutcomeKept.answer

theorem kept_execVxCvt {e0_ : State} (st : Start) (s : State) (h_s : Kept e0_ s) : OutcomeKept e0_ (execVxCvt st s) := by
  unfold execVxCvt
  repeat' with_reducible first
    | assumption | apply kept_vxPlain | apply OutcomeKept.answer

theorem kept_execVxRedsum {e0_ : State} (st : Start) (s : State) (h_s : Kept e0_ s) : OutcomeKept e0_ (execVxRedsum st s) := by
  unfold execVxRedsum
  repeat' with_reducible first
    | assumption | apply kept_vxPlain | apply OutcomeKept.answer

theorem kept_execVxRedmax {e0_ : State} (st : Start) (s : State) (h_s : Kept e0_ s) : OutcomeKept e0_ (execVxRedmax st s) := by
  unfold execVxRedmax
  repeat' with_reducible first
    | assumption | apply kept_vxPlain | apply OutcomeKept.answer

theorem kept_execVxFn {e0_ : State} (st : Start) (s : State) (h_s : Kept e0_ s) : OutcomeKept e0_ (execVxFn st s) := by
  unfold execVxFn
  repeat' with_reducible first
    | assumption | apply kept_vxPlain | apply OutcomeKept.answer

theorem kept_execVxDfn {e0_ : State} (st : Start) (s : State) (h_s : Kept e0_ s) : OutcomeKept e0_ (execVxDfn st s) := by
  unfold execVxDfn
  repeat' with_reducible first
    | assumption | apply kept_vxPlain | apply OutcomeKept.answer

theorem kept_vxEndOp {e0_ : State} (st : Start) (s : State) (h_s : Kept e0_ s) : Kept e0_ (vxEndOp st s) := by
  unfold vxEndOp
  repeat' with_reducible first
    | assumption | exact Kept.refl _ | apply Kept.id_of | exact VaultKept.refl _ | exact MemKept.refl _ | exact HostKept.refl _
    | exact VaultKept.upd | exact MemKept.mk id id | exact id | exact (fun w => memWrite_wf w _ _) | exact (fun w => memZero_wf w _ _)
    | exact (fun w => Memory.wf_filter _ w) | apply kept_applyErrs | apply kept_advance | apply kept_endVx | apply kept_done
    | apply kept_fatal | apply kept_passCommit | apply kept_putFlight | apply kept_touchBuffers | apply OptKept.getD | apply Kept.put
    | apply Kept.ite | (refine Kept.foldl ?_ (fun _ _ _ => ?_)) | (refine Kept.foldl_fst ?_ (fun _ _ _ => ?_))
    | (refine Kept.foldr ?_ (fun _ _ _ => ?_)) | (fail_if_no_progress beta_reduce)
    | ((try lift_lets -underBinder); intro xx; first | (refine Kept.use (P := Kept e0_ xx) ?_ (fun hx => ?_); (on_goal 2 => clear_value xx); (on_goal 1 => subst xx)) | (refine Kept.use (P := OptKept e0_ xx) ?_ (fun hx => ?_); (on_goal 2 => clear_value xx); (on_goal 1 => subst xx)) | (refine Kept.use (P := Kept e0_ (Prod.fst (α := State) xx)) ?_ (fun hx => ?_); (on_goal 2 => clear_value xx); (on_goal 1 => subst xx)) | (refine Kept.use (P := Kept e0_ (Prod.snd (β := State) xx)) ?_ (fun hx => ?_); (on_goal 2 => clear_value xx); (on_goal 1 => subst xx)) | (refine Kept.use (P := OptFst e0_ xx) ?_ (fun hx => ?_); (on_goal 2 => clear_value xx); (on_goal 1 => subst xx)) | (refine Kept.use (P := ExcKept e0_ xx) ?_ (fun hx => ?_); (on_goal 2 => clear_value xx); (on_goal 1 => subst xx)) | (have yy : _ → _ := xx; clear yy; subst xx) | (have yy : Memories := xx; clear yy; subst xx) | (have yy : Vault := xx; clear yy; subst xx) | (have yy : HostEnv := xx; clear yy; subst xx) | clear_value xx)
    | split | rw [mk_put] | (refine MemKept.mk ?_ ?_)

theorem kept_execVxEnd {e0_ : State} (st : Start) (s : State) (h_s : Kept e0_ s) : OutcomeKept e0_ (execVxEnd st s) := by
  unfold execVxEnd
  repeat' with_reducible first
    | assumption | apply kept_vxEndOp | apply OutcomeKept.answer

end Sys2Proof.Laws
end

