-- ==== Sys2Proof/Laws/KeptMovers.lean ====
section
/-!
SUPPORT. Sys2Proof/Laws/KeptMovers.lean: what the operations of Machine/Movers.lean keep (Laws/Kept.lean).
-/

set_option linter.unusedTactic false
set_option linter.unreachableTactic false
set_option linter.unusedVariables false

namespace Sys2Proof.Laws

open Sys2Proof.Machine Sys2Proof.Safety

theorem kept_startMover {e0_ : State} {body : Body} (hb : BodyKept body) (opcode off : Nat) (st : Start) (s : State) (h_s : Kept e0_ s) :
    Kept e0_ (startMover opcode off body st s) := by
  unfold startMover
  repeat' with_reducible first
    | assumption | exact Kept.refl _ | apply Kept.id_of | exact VaultKept.refl _ | exact MemKept.refl _ | exact HostKept.refl _
    | exact VaultKept.upd | exact MemKept.mk id id | exact id | exact (fun w => memWrite_wf w _ _) | exact (fun w => memZero_wf w _ _)
    | exact (fun w => Memory.wf_filter _ w) | exact hb | apply kept_startWith | apply OptKept.getD | apply Kept.put | apply Kept.ite
    | (refine Kept.foldl ?_ (fun _ _ _ => ?_)) | (refine Kept.foldl_fst ?_ (fun _ _ _ => ?_)) | (refine Kept.foldr ?_ (fun _ _ _ => ?_))
    | (fail_if_no_progress beta_reduce)
    | ((try lift_lets -underBinder); intro xx; first | (refine Kept.use (P := Kept e0_ xx) ?_ (fun hx => ?_); (on_goal 2 => clear_value xx); (on_goal 1 => subst xx)) | (refine Kept.use (P := OptKept e0_ xx) ?_ (fun hx => ?_); (on_goal 2 => clear_value xx); (on_goal 1 => subst xx)) | (refine Kept.use (P := Kept e0_ (Prod.fst (α := State) xx)) ?_ (fun hx => ?_); (on_goal 2 => clear_value xx); (on_goal 1 => subst xx)) | (refine Kept.use (P := Kept e0_ (Prod.snd (β := State) xx)) ?_ (fun hx => ?_); (on_goal 2 => clear_value xx); (on_goal 1 => subst xx)) | (refine Kept.use (P := OptFst e0_ xx) ?_ (fun hx => ?_); (on_goal 2 => clear_value xx); (on_goal 1 => subst xx)) | (refine Kept.use (P := ExcKept e0_ xx) ?_ (fun hx => ?_); (on_goal 2 => clear_value xx); (on_goal 1 => subst xx)) | (have yy : _ → _ := xx; clear yy; subst xx) | (have yy : Memories := xx; clear yy; subst xx) | (have yy : Vault := xx; clear yy; subst xx) | (have yy : HostEnv := xx; clear yy; subst xx) | clear_value xx)
    | split | rw [mk_put] | (refine MemKept.mk ?_ ?_)

theorem kept_askPeers {e0_ : State} (s : State) (epoch : Nat) (l : List (Nat × Nat × Nat)) (h : Kept e0_ s) : OptFst e0_ (askPeers s epoch l) := by
  induction l generalizing s with
  | nil => exact OptFst.some h
  | cons x l ih =>
    obtain ⟨q, pa, len⟩ := x
    simp only [askPeers]
    split
    · exact OptFst.none
    · rename_i s1 id h1
      refine OptFst.map fun r hr => ?_
      show Kept e0_ r.1
      exact OptFst.get1 hr (ih s1 (OptFst.get h1 (kept_sendTensor _ _ _ _ _ _ h)))

theorem kept_mvCopyBody   : BodyKept (mvCopyBody) := by
  intro e0_ s a f p h
  unfold mvCopyBody
  repeat' with_reducible first
    | assumption | exact Kept.refl _ | apply Kept.id_of | exact VaultKept.refl _ | exact MemKept.refl _ | exact HostKept.refl _
    | exact VaultKept.upd | exact MemKept.mk id id | exact id | exact (fun w => memWrite_wf w _ _) | exact (fun w => memZero_wf w _ _)
    | exact (fun w => Memory.wf_filter _ w) | apply kept_putFlight | apply kept_askPeers | exact PlanKept.noop | exact PlanKept.staged
    | exact PlanKept.vector | apply PlanKept.act | apply PlanKept.drain | apply PlanKept.wait | apply PlanKept.ended
    | apply PlanKept.ite | apply RunAll.ite | apply RunAll.pure | exact RunAll.stop | exact RunAll.finish | exact RunAll.denied
    | exact RunAll.absent | exact RunAll.sealed | (refine RunAll.lift (fun _ _ => ?_)) | (refine RunAll.bind (fun _ => ?_))
    | apply Kept.put | (fail_if_no_progress beta_reduce) | (refine OptFst.get (by assumption) ?_; apply kept_askPeers)
    | (refine OptFst.get1 (by assumption) ?_; apply kept_askPeers) | (refine Kept.foldl ?_ (fun _ _ _ => ?_))
    | (refine Kept.foldl_fst ?_ (fun _ _ _ => ?_)) | (refine Kept.foldr ?_ (fun _ _ _ => ?_)) | split | rw [mk_put]
    | (refine MemKept.mk ?_ ?_)

theorem kept_execMvCopy {e0_ : State} (st : Start) (s : State) (h_s : Kept e0_ s) : OutcomeKept e0_ (execMvCopy st s) := by
  unfold execMvCopy
  repeat' with_reducible first
    | assumption | apply kept_startMover | exact kept_mvCopyBody | apply kept_mvCopyBody
    | (refine BodyKept.use (by apply kept_mvCopyBody) ?_) | apply OutcomeKept.answer

theorem kept_resumeCopy {e0_ : State} (s : State) (f : Flight) (h_s : Kept e0_ s) : Kept e0_ (resumeCopy s f) := by
  unfold resumeCopy
  repeat' with_reducible first
    | assumption | exact Kept.refl _ | apply Kept.id_of | exact VaultKept.refl _ | exact MemKept.refl _ | exact HostKept.refl _
    | exact VaultKept.upd | exact MemKept.mk id id | exact id | exact (fun w => memWrite_wf w _ _) | exact (fun w => memZero_wf w _ _)
    | exact (fun w => Memory.wf_filter _ w) | apply kept_settleStart | apply kept_resumeBody | apply kept_mvCopyBody
    | apply OptKept.getD | apply Kept.put | apply Kept.ite | (refine Kept.foldl ?_ (fun _ _ _ => ?_))
    | (refine Kept.foldl_fst ?_ (fun _ _ _ => ?_)) | (refine Kept.foldr ?_ (fun _ _ _ => ?_))
    | (exact fun p l hr => RunAll.use (kept_resumeBody kept_mvCopyBody _ _ (by assumption)) hr) | (fail_if_no_progress beta_reduce)
    | ((try lift_lets -underBinder); intro xx; first | (refine Kept.use (P := Kept e0_ xx) ?_ (fun hx => ?_); (on_goal 2 => clear_value xx); (on_goal 1 => subst xx)) | (refine Kept.use (P := OptKept e0_ xx) ?_ (fun hx => ?_); (on_goal 2 => clear_value xx); (on_goal 1 => subst xx)) | (refine Kept.use (P := Kept e0_ (Prod.fst (α := State) xx)) ?_ (fun hx => ?_); (on_goal 2 => clear_value xx); (on_goal 1 => subst xx)) | (refine Kept.use (P := Kept e0_ (Prod.snd (β := State) xx)) ?_ (fun hx => ?_); (on_goal 2 => clear_value xx); (on_goal 1 => subst xx)) | (refine Kept.use (P := OptFst e0_ xx) ?_ (fun hx => ?_); (on_goal 2 => clear_value xx); (on_goal 1 => subst xx)) | (refine Kept.use (P := ExcKept e0_ xx) ?_ (fun hx => ?_); (on_goal 2 => clear_value xx); (on_goal 1 => subst xx)) | (have yy : _ → _ := xx; clear yy; subst xx) | (have yy : Memories := xx; clear yy; subst xx) | (have yy : Vault := xx; clear yy; subst xx) | (have yy : HostEnv := xx; clear yy; subst xx) | clear_value xx)
    | split | rw [mk_put] | (refine MemKept.mk ?_ ?_)

theorem kept_moverStagingGrantedOp {e0_ : State} (st : Start) (s : State) (h_s : Kept e0_ s) : Kept e0_ (moverStagingGrantedOp st s) := by
  unfold moverStagingGrantedOp
  repeat' with_reducible first
    | assumption | exact Kept.refl _ | apply Kept.id_of | exact VaultKept.refl _ | exact MemKept.refl _ | exact HostKept.refl _
    | exact VaultKept.upd | exact MemKept.mk id id | exact id | exact (fun w => memWrite_wf w _ _) | exact (fun w => memZero_wf w _ _)
    | exact (fun w => Memory.wf_filter _ w) | apply kept_advance | apply kept_complete | apply kept_applyErrs | apply kept_resumeCopy
    | apply OptKept.getD | apply Kept.put | apply Kept.ite | (refine Kept.foldl ?_ (fun _ _ _ => ?_))
    | (refine Kept.foldl_fst ?_ (fun _ _ _ => ?_)) | (refine Kept.foldr ?_ (fun _ _ _ => ?_)) | (fail_if_no_progress beta_reduce)
    | ((try lift_lets -underBinder); intro xx; first | (refine Kept.use (P := Kept e0_ xx) ?_ (fun hx => ?_); (on_goal 2 => clear_value xx); (on_goal 1 => subst xx)) | clear_value xx)
    | split | rw [mk_put] | (refine MemKept.mk ?_ ?_)

theorem kept_execMoverStagingGranted {e0_ : State} (st : Start) (s : State) (h_s : Kept e0_ s) : OutcomeKept e0_ (execMoverStagingGranted st s) := by
  unfold execMoverStagingGranted
  repeat' with_reducible first
    | assumption | apply kept_moverStagingGrantedOp | apply OutcomeKept.answer

theorem kept_moverEngineWriteOutOp {e0_ : State} (cid : Nat) (s : State) (h_s : Kept e0_ s) : Kept e0_ (moverEngineWriteOutOp cid s) := by
  unfold moverEngineWriteOutOp
  repeat' with_reducible first
    | assumption | apply kept_putFlight | (fail_if_no_progress beta_reduce) | split

theorem kept_execMoverEngineWriteOut {e0_ : State} (cid : Nat) (s : State) (h_s : Kept e0_ s) : OutcomeKept e0_ (execMoverEngineWriteOut cid s) := by
  unfold execMoverEngineWriteOut
  repeat' with_reducible first
    | assumption | apply kept_moverEngineWriteOutOp | apply OutcomeKept.answer

theorem kept_mvFillBody   : BodyKept (mvFillBody) := by
  intro e0_ s a f p h
  unfold mvFillBody
  repeat' with_reducible first
    | assumption | exact Kept.refl _ | apply Kept.id_of | apply kept_onlyWrites | exact PlanKept.noop | exact PlanKept.staged
    | exact PlanKept.vector | apply PlanKept.act | apply PlanKept.drain | apply PlanKept.wait | apply PlanKept.ended
    | apply PlanKept.ite | apply RunAll.ite | apply RunAll.pure | exact RunAll.stop | exact RunAll.finish | exact RunAll.denied
    | exact RunAll.absent | exact RunAll.sealed | (refine RunAll.lift (fun _ _ => ?_)) | (refine RunAll.bind (fun _ => ?_))
    | (fail_if_no_progress beta_reduce) | split

theorem kept_mvFillOp {e0_ : State} (st : Start) (s : State) (h_s : Kept e0_ s) : Kept e0_ (mvFillOp st s) := by
  unfold mvFillOp
  repeat' with_reducible first
    | assumption | exact Kept.refl _ | apply Kept.id_of | exact VaultKept.refl _ | exact MemKept.refl _ | exact HostKept.refl _
    | exact VaultKept.upd | exact MemKept.mk id id | exact id | exact (fun w => memWrite_wf w _ _) | exact (fun w => memZero_wf w _ _)
    | exact (fun w => Memory.wf_filter _ w) | apply kept_passCommit | apply kept_startMover | exact kept_mvFillBody
    | apply kept_mvFillBody | (refine BodyKept.use (by apply kept_mvFillBody) ?_) | apply OptKept.getD | apply Kept.put | apply Kept.ite
    | (refine Kept.foldl ?_ (fun _ _ _ => ?_)) | (refine Kept.foldl_fst ?_ (fun _ _ _ => ?_)) | (refine Kept.foldr ?_ (fun _ _ _ => ?_))
    | (fail_if_no_progress beta_reduce)
    | ((try lift_lets -underBinder); intro xx; first | (refine Kept.use (P := Kept e0_ xx) ?_ (fun hx => ?_); (on_goal 2 => clear_value xx); (on_goal 1 => subst xx)) | clear_value xx)
    | split | rw [mk_put] | (refine MemKept.mk ?_ ?_)

theorem kept_execMvFill {e0_ : State} (st : Start) (s : State) (h_s : Kept e0_ s) : OutcomeKept e0_ (execMvFill st s) := by
  unfold execMvFill
  repeat' with_reducible first
    | assumption | apply kept_mvFillOp | apply OutcomeKept.answer

theorem kept_knCstoreAssignBody   : BodyKept (knCstoreAssignBody) := by
  intro e0_ s a f p h
  unfold knCstoreAssignBody
  repeat' with_reducible first
    | assumption | exact Kept.refl _ | apply Kept.id_of | exact PlanKept.noop | exact PlanKept.staged | exact PlanKept.vector
    | apply PlanKept.act | apply PlanKept.drain | apply PlanKept.wait | apply PlanKept.ended | apply PlanKept.ite | apply RunAll.ite
    | apply RunAll.pure | exact RunAll.stop | exact RunAll.finish | exact RunAll.denied | exact RunAll.absent | exact RunAll.sealed
    | (refine RunAll.lift (fun _ _ => ?_)) | (refine RunAll.bind (fun _ => ?_)) | (fail_if_no_progress beta_reduce) | split

theorem kept_execKnCstoreAssign {e0_ : State} (st : Start) (s : State) (h_s : Kept e0_ s) : OutcomeKept e0_ (execKnCstoreAssign st s) := by
  unfold execKnCstoreAssign
  repeat' with_reducible first
    | assumption | apply kept_startHub | exact kept_knCstoreAssignBody | apply kept_knCstoreAssignBody
    | (refine BodyKept.use (by apply kept_knCstoreAssignBody) ?_) | apply OutcomeKept.answer

end Sys2Proof.Laws
end

