-- ==== Sys2Proof/Laws/KeptMemory.lean ====
section
/-!
SUPPORT. Sys2Proof/Laws/KeptMemory.lean: what the operations of Machine/Memory.lean keep (Laws/Kept.lean).
-/

set_option linter.unusedTactic false
set_option linter.unreachableTactic false
set_option linter.unusedVariables false

namespace Sys2Proof.Laws

open Sys2Proof.Machine Sys2Proof.Safety

theorem kept_knSpillPoolAddBody   : BodyKept (knSpillPoolAddBody) := by
  intro e0_ s a f p h
  unfold knSpillPoolAddBody
  repeat' with_reducible first
    | assumption | exact Kept.refl _ | apply Kept.id_of | exact VaultKept.refl _ | exact MemKept.refl _ | exact HostKept.refl _
    | exact VaultKept.upd | exact MemKept.mk id id | exact id | exact (fun w => memWrite_wf w _ _) | exact (fun w => memZero_wf w _ _)
    | exact (fun w => Memory.wf_filter _ w) | apply kept_onActionAt | exact PlanKept.noop | exact PlanKept.staged
    | exact PlanKept.vector | apply PlanKept.act | apply PlanKept.drain | apply PlanKept.wait | apply PlanKept.ended
    | apply PlanKept.ite | apply RunAll.ite | apply RunAll.pure | exact RunAll.stop | exact RunAll.finish | exact RunAll.denied
    | exact RunAll.absent | exact RunAll.sealed | (refine RunAll.lift (fun _ _ => ?_)) | (refine RunAll.bind (fun _ => ?_))
    | apply Kept.put | (fail_if_no_progress beta_reduce) | (refine Kept.foldl ?_ (fun _ _ _ => ?_))
    | (refine Kept.foldl_fst ?_ (fun _ _ _ => ?_)) | (refine Kept.foldr ?_ (fun _ _ _ => ?_)) | split | rw [mk_put]
    | (refine MemKept.mk ?_ ?_)

theorem kept_knSpillPoolWithdrawBody   : BodyKept (knSpillPoolWithdrawBody) := by
  intro e0_ s a f p h
  unfold knSpillPoolWithdrawBody
  repeat' with_reducible first
    | assumption | exact Kept.refl _ | apply Kept.id_of | exact VaultKept.refl _ | exact MemKept.refl _ | exact HostKept.refl _
    | exact VaultKept.upd | exact MemKept.mk id id | exact id | exact (fun w => memWrite_wf w _ _) | exact (fun w => memZero_wf w _ _)
    | exact (fun w => Memory.wf_filter _ w) | apply kept_onActionAt | exact PlanKept.noop | exact PlanKept.staged
    | exact PlanKept.vector | apply PlanKept.act | apply PlanKept.drain | apply PlanKept.wait | apply PlanKept.ended
    | apply PlanKept.ite | apply RunAll.ite | apply RunAll.pure | exact RunAll.stop | exact RunAll.finish | exact RunAll.denied
    | exact RunAll.absent | exact RunAll.sealed | (refine RunAll.lift (fun _ _ => ?_)) | (refine RunAll.bind (fun _ => ?_))
    | apply Kept.put | (fail_if_no_progress beta_reduce) | (refine Kept.foldl ?_ (fun _ _ _ => ?_))
    | (refine Kept.foldl_fst ?_ (fun _ _ _ => ?_)) | (refine Kept.foldr ?_ (fun _ _ _ => ?_)) | split | rw [mk_put]
    | (refine MemKept.mk ?_ ?_)

theorem kept_execKnSpillPoolAdd {e0_ : State} (st : Start) (s : State) (h_s : Kept e0_ s) : OutcomeKept e0_ (execKnSpillPoolAdd st s) := by
  unfold execKnSpillPoolAdd
  repeat' with_reducible first
    | assumption | apply kept_startHub | exact kept_knSpillPoolAddBody | apply kept_knSpillPoolAddBody
    | (refine BodyKept.use (by apply kept_knSpillPoolAddBody) ?_) | apply OutcomeKept.answer

theorem kept_execKnSpillPoolWithdraw {e0_ : State} (st : Start) (s : State) (h_s : Kept e0_ s) : OutcomeKept e0_ (execKnSpillPoolWithdraw st s) := by
  unfold execKnSpillPoolWithdraw
  repeat' with_reducible first
    | assumption | apply kept_startHub | exact kept_knSpillPoolWithdrawBody | apply kept_knSpillPoolWithdrawBody
    | (refine BodyKept.use (by apply kept_knSpillPoolWithdrawBody) ?_) | apply OutcomeKept.answer

theorem kept_stackTemperatureOp {e0_ : State} (stack : Nat) (reading : Int) (s : State) (h_s : Kept e0_ s) : Kept e0_ (stackTemperatureOp stack reading s) := by
  unfold stackTemperatureOp
  repeat' with_reducible first
    | assumption | exact Kept.refl _ | apply Kept.id_of | exact VaultKept.refl _ | exact MemKept.refl _ | exact HostKept.refl _
    | exact VaultKept.upd | exact MemKept.mk id id | exact id | exact (fun w => memWrite_wf w _ _) | exact (fun w => memZero_wf w _ _)
    | exact (fun w => Memory.wf_filter _ w) | apply OptKept.getD | apply Kept.put | (fail_if_no_progress beta_reduce)
    | (refine Kept.foldl ?_ (fun _ _ _ => ?_)) | (refine Kept.foldl_fst ?_ (fun _ _ _ => ?_)) | (refine Kept.foldr ?_ (fun _ _ _ => ?_))
    | split | rw [mk_put] | (refine MemKept.mk ?_ ?_)

theorem kept_execStackTemperatureCrossing {e0_ : State} (stack : Nat) (reading : Int) (s : State) (h_s : Kept e0_ s) : OutcomeKept e0_ (execStackTemperatureCrossing stack reading s) := by
  unfold execStackTemperatureCrossing
  repeat' with_reducible first
    | assumption | apply kept_stackTemperatureOp | apply OutcomeKept.answer

theorem kept_putExpander {e0_ : State} (s : State) (k : Nat) (e : Expander) (h_s : Kept e0_ s) : Kept e0_ (putExpander s k e) := by
  unfold putExpander
  repeat' with_reducible first
    | assumption | exact Kept.refl _ | apply Kept.id_of | exact VaultKept.refl _ | exact MemKept.refl _ | exact HostKept.refl _
    | exact VaultKept.upd | exact MemKept.mk id id | exact id | exact (fun w => memWrite_wf w _ _) | exact (fun w => memZero_wf w _ _)
    | exact (fun w => Memory.wf_filter _ w) | apply OptKept.getD | apply Kept.put | (fail_if_no_progress beta_reduce)
    | (refine Kept.foldl ?_ (fun _ _ _ => ?_)) | (refine Kept.foldl_fst ?_ (fun _ _ _ => ?_)) | (refine Kept.foldr ?_ (fun _ _ _ => ?_))
    | split | rw [mk_put] | (refine MemKept.mk ?_ ?_)

theorem kept_losePages {e0_ : State} (s : State) (ks : List Nat) (h_s : Kept e0_ s) : Kept e0_ (losePages s ks) := by
  unfold losePages
  repeat' with_reducible first
    | assumption | exact Kept.refl _ | apply Kept.id_of | exact VaultKept.refl _ | exact MemKept.refl _ | exact HostKept.refl _
    | exact VaultKept.upd | exact MemKept.mk id id | exact id | exact (fun w => memWrite_wf w _ _) | exact (fun w => memZero_wf w _ _)
    | exact (fun w => Memory.wf_filter _ w) | apply kept_putMade | apply kept_setFrame | apply OptKept.getD | apply Kept.put
    | (fail_if_no_progress beta_reduce) | (refine Kept.foldl ?_ (fun _ _ _ => ?_)) | (refine Kept.foldl_fst ?_ (fun _ _ _ => ?_))
    | (refine Kept.foldr ?_ (fun _ _ _ => ?_)) | split | rw [mk_put] | (refine MemKept.mk ?_ ?_)

theorem kept_farDownOp {e0_ : State} (port : Nat) (s : State) (h_s : Kept e0_ s) : Kept e0_ (farDownOp port s) := by
  unfold farDownOp
  repeat' with_reducible first
    | assumption | exact Kept.refl _ | apply Kept.id_of | exact VaultKept.refl _ | exact MemKept.refl _ | exact HostKept.refl _
    | exact VaultKept.upd | exact MemKept.mk id id | exact id | exact (fun w => memWrite_wf w _ _) | exact (fun w => memZero_wf w _ _)
    | exact (fun w => Memory.wf_filter _ w) | apply kept_setPortLive | apply kept_raiseError | apply kept_complete
    | apply kept_putExpander | apply kept_losePages | apply OptKept.getD | apply Kept.put | (fail_if_no_progress beta_reduce)
    | (refine Kept.foldl ?_ (fun _ _ _ => ?_)) | (refine Kept.foldl_fst ?_ (fun _ _ _ => ?_)) | (refine Kept.foldr ?_ (fun _ _ _ => ?_))
    | split | rw [mk_put] | (refine MemKept.mk ?_ ?_)

theorem kept_execFarLinkDown {e0_ : State} (port : Nat) (s : State) (h_s : Kept e0_ s) : OutcomeKept e0_ (execFarLinkDown port s) := by
  unfold execFarLinkDown
  repeat' with_reducible first
    | assumption | exact Kept.refl _ | apply Kept.id_of | apply kept_farDownOp | apply OutcomeKept.answer
    | (refine PrepKept.mk (fun _ _ _ _ _ => ?_) (fun _ _ _ _ _ _ _ => ?_)) | apply OptKept.getD | (fail_if_no_progress beta_reduce)
    | split

theorem kept_farTrainedOp {e0_ : State} (port : Nat) (offers : List FarOffer) (s : State) (h_s : Kept e0_ s) : Kept e0_ (farTrainedOp port offers s) := by
  unfold farTrainedOp
  repeat' with_reducible first
    | assumption | exact Kept.refl _ | apply Kept.id_of | exact VaultKept.refl _ | exact MemKept.refl _ | exact HostKept.refl _
    | exact VaultKept.upd | exact MemKept.mk id id | exact id | exact (fun w => memWrite_wf w _ _) | exact (fun w => memZero_wf w _ _)
    | exact (fun w => Memory.wf_filter _ w) | apply kept_setPortLive | apply kept_putExpander | apply OptKept.getD | apply Kept.put
    | (fail_if_no_progress beta_reduce) | (refine Kept.foldl ?_ (fun _ _ _ => ?_)) | (refine Kept.foldl_fst ?_ (fun _ _ _ => ?_))
    | (refine Kept.foldr ?_ (fun _ _ _ => ?_)) | split | rw [mk_put] | (refine MemKept.mk ?_ ?_)

theorem kept_execFarLinkTrained {e0_ : State} (port : Nat) (offers : List FarOffer) (s : State) (h_s : Kept e0_ s) : OutcomeKept e0_ (execFarLinkTrained port offers s) := by
  unfold execFarLinkTrained
  repeat' with_reducible first
    | assumption | apply kept_farTrainedOp | apply OutcomeKept.answer

theorem kept_nextCopies {e0_ : State} (stack : Nat) (s : State) (l : List Nat) (h : Kept e0_ s) : Kept e0_ (nextCopies stack s l) := by
  induction l generalizing s with
  | nil =>
    unfold nextCopies
    rw [mk_put]
    exact h.put (VaultKept.refl _) ⟨id, id⟩ (HostKept.refl _) (HostKept.refl _)
  | cons c l ih =>
    unfold nextCopies
    have h1 := kept_withdrawBand s (32 * stack + c) h
    dsimp only
    split
    · exact ih _ h1
    · rw [mk_put]
      exact h1.put (VaultKept.refl _) ⟨id, id⟩ (HostKept.refl _) (HostKept.refl _)

theorem kept_channelCopyDoneOp {e0_ : State} (stack : Nat) (s : State) (h_s : Kept e0_ s) : Kept e0_ (channelCopyDoneOp stack s) := by
  unfold channelCopyDoneOp
  repeat' with_reducible first
    | assumption | exact Kept.refl _ | apply Kept.id_of | exact VaultKept.refl _ | exact MemKept.refl _ | exact HostKept.refl _
    | exact VaultKept.upd | exact MemKept.mk id id | exact id | exact (fun w => memWrite_wf w _ _) | exact (fun w => memZero_wf w _ _)
    | exact (fun w => Memory.wf_filter _ w) | apply kept_nextCopies | apply OptKept.getD | apply Kept.put | apply Kept.ite
    | (refine Kept.foldl ?_ (fun _ _ _ => ?_)) | (refine Kept.foldl_fst ?_ (fun _ _ _ => ?_)) | (refine Kept.foldr ?_ (fun _ _ _ => ?_))
    | (fail_if_no_progress beta_reduce)
    | ((try lift_lets -underBinder); intro xx; first | (refine Kept.use (P := Kept e0_ xx) ?_ (fun hx => ?_); (on_goal 2 => clear_value xx); (on_goal 1 => subst xx)) | (refine Kept.use (P := OptKept e0_ xx) ?_ (fun hx => ?_); (on_goal 2 => clear_value xx); (on_goal 1 => subst xx)) | (refine Kept.use (P := Kept e0_ (Prod.fst (α := State) xx)) ?_ (fun hx => ?_); (on_goal 2 => clear_value xx); (on_goal 1 => subst xx)) | (refine Kept.use (P := Kept e0_ (Prod.snd (β := State) xx)) ?_ (fun hx => ?_); (on_goal 2 => clear_value xx); (on_goal 1 => subst xx)) | (refine Kept.use (P := OptFst e0_ xx) ?_ (fun hx => ?_); (on_goal 2 => clear_value xx); (on_goal 1 => subst xx)) | (refine Kept.use (P := ExcKept e0_ xx) ?_ (fun hx => ?_); (on_goal 2 => clear_value xx); (on_goal 1 => subst xx)) | (have yy : _ → _ := xx; clear yy; subst xx) | (have yy : Memories := xx; clear yy; subst xx) | (have yy : Vault := xx; clear yy; subst xx) | (have yy : HostEnv := xx; clear yy; subst xx) | clear_value xx)
    | split | rw [mk_put] | (refine MemKept.mk ?_ ?_)

theorem kept_execChannelCopyDone {e0_ : State} (stack : Nat) (s : State) (h_s : Kept e0_ s) : OutcomeKept e0_ (execChannelCopyDone stack s) := by
  unfold execChannelCopyDone
  repeat' with_reducible first
    | assumption | apply kept_channelCopyDoneOp | apply OutcomeKept.answer

end Sys2Proof.Laws
end

