-- ==== Sys2Proof/Laws/KeptWeights.lean ====
section
/-!
SUPPORT. Sys2Proof/Laws/KeptWeights.lean: what the operations of Machine/Weights.lean keep (Laws/Kept.lean).
-/

set_option linter.unusedTactic false
set_option linter.unreachableTactic false
set_option linter.unusedVariables false

namespace Sys2Proof.Laws

open Sys2Proof.Machine Sys2Proof.Safety

theorem kept_setSlot {e0_ : State} (s : State) (k : Nat) (x : Slot) (h_s : Kept e0_ s) (h_x : slotsWf s.vault.slots → Memory.wf x.payload) :
    Kept e0_ (setSlot s k x) := by
  unfold setSlot
  apply kept_recordWrite
  rw [mk_put]
  exact h_s.put (VaultKept.of_slots fun w => slotsWf_put w (h_x w)) (MemKept.refl _) id id

theorem kept_countWear {e0_ : State} (s : State) (i : Nat) (h_s : Kept e0_ s) : Kept e0_ (countWear s i) := by
  unfold countWear
  repeat' with_reducible first
    | assumption | exact Kept.refl _ | apply Kept.id_of | exact VaultKept.refl _ | exact MemKept.refl _ | exact HostKept.refl _
    | exact VaultKept.upd | exact MemKept.mk id id | exact id | exact (fun w => memWrite_wf w _ _) | exact (fun w => memZero_wf w _ _)
    | exact (fun w => Memory.wf_filter _ w) | apply kept_wearCheck | apply OptKept.getD | apply Kept.put
    | (fail_if_no_progress beta_reduce) | (refine Kept.foldl ?_ (fun _ _ _ => ?_)) | (refine Kept.foldl_fst ?_ (fun _ _ _ => ?_))
    | (refine Kept.foldr ?_ (fun _ _ _ => ?_)) | split | rw [mk_put] | (refine MemKept.mk ?_ ?_)

theorem openedSlot_wf {s : State} {m : List Byte} {n : Nat} {xs : List Nat} {key : Option (List Byte)} {q : Nat} {P : Prop} :
    P → Memory.wf (openedSlot s m n xs key q).payload :=
  fun _ => Memory.wf_nil

theorem kept_knVaultProvOpenBody : BodyKept knVaultProvOpenBody := by
  intro e0_ s a f p h
  unfold knVaultProvOpenBody
  repeat' with_reducible first
    | assumption | exact Kept.refl _ | apply Kept.id_of | exact VaultKept.refl _ | exact MemKept.refl _ | exact HostKept.refl _
    | exact VaultKept.upd | exact MemKept.mk id id | exact id | exact (fun w => memWrite_wf w _ _) | exact (fun w => memZero_wf w _ _)
    | exact (fun w => Memory.wf_filter _ w) | exact openedSlot_wf | apply kept_onAction | apply kept_vaultWritten | apply kept_setSlot | apply kept_countWear
    | exact PlanKept.noop | exact PlanKept.staged | exact PlanKept.vector | apply PlanKept.act | apply PlanKept.drain
    | apply PlanKept.wait | apply PlanKept.ended | apply PlanKept.ite | apply RunAll.ite | apply RunAll.pure | exact RunAll.stop
    | exact RunAll.finish | exact RunAll.denied | exact RunAll.absent | exact RunAll.sealed | (refine RunAll.lift (fun _ _ => ?_))
    | (refine RunAll.bind (fun _ => ?_)) | apply OptKept.getD | apply Kept.put | apply Kept.ite
    | (refine Kept.foldl ?_ (fun _ _ _ => ?_)) | (refine Kept.foldl_fst ?_ (fun _ _ _ => ?_)) | (refine Kept.foldr ?_ (fun _ _ _ => ?_))
    | (fail_if_no_progress beta_reduce)
    | ((try lift_lets -underBinder); intro xx; first | (refine Kept.use (P := Kept e0_ xx) ?_ (fun hx => ?_); (on_goal 2 => clear_value xx); (on_goal 1 => subst xx)) | (refine Kept.use (P := OptKept e0_ xx) ?_ (fun hx => ?_); (on_goal 2 => clear_value xx); (on_goal 1 => subst xx)) | (refine Kept.use (P := Kept e0_ (Prod.fst (α := State) xx)) ?_ (fun hx => ?_); (on_goal 2 => clear_value xx); (on_goal 1 => subst xx)) | (refine Kept.use (P := Kept e0_ (Prod.snd (β := State) xx)) ?_ (fun hx => ?_); (on_goal 2 => clear_value xx); (on_goal 1 => subst xx)) | (refine Kept.use (P := OptFst e0_ xx) ?_ (fun hx => ?_); (on_goal 2 => clear_value xx); (on_goal 1 => subst xx)) | (refine Kept.use (P := ExcKept e0_ xx) ?_ (fun hx => ?_); (on_goal 2 => clear_value xx); (on_goal 1 => subst xx)) | (have yy : _ → _ := xx; clear yy; subst xx) | (have yy : Memories := xx; clear yy; subst xx) | (have yy : Vault := xx; clear yy; subst xx) | (have yy : HostEnv := xx; clear yy; subst xx) | clear_value xx)
    | split | rw [mk_put] | (refine MemKept.mk ?_ ?_)

theorem kept_wearOut {e0_ : State} (s : State) (x : Nat) (h_s : Kept e0_ s) : Kept e0_ (wearOut s x) := by
  unfold wearOut
  repeat' with_reducible first
    | assumption | exact Kept.refl _ | apply Kept.id_of | exact VaultKept.refl _ | exact MemKept.refl _ | exact HostKept.refl _
    | exact VaultKept.upd | exact MemKept.mk id id | exact id | exact (fun w => memWrite_wf w _ _) | exact (fun w => memZero_wf w _ _)
    | exact (fun w => Memory.wf_filter _ w) | apply kept_wearCheck | apply OptKept.getD | apply Kept.put
    | (fail_if_no_progress beta_reduce) | (refine Kept.foldl ?_ (fun _ _ _ => ?_)) | (refine Kept.foldl_fst ?_ (fun _ _ _ => ?_))
    | (refine Kept.foldr ?_ (fun _ _ _ => ?_)) | split | rw [mk_put] | (refine MemKept.mk ?_ ?_)

theorem kept_vaultWritten {e0_ : State} (s : State) (good : Nat × Nat → Bool) (h_s : Kept e0_ s) : Kept e0_ (vaultWritten s good) := by
  unfold vaultWritten
  repeat' with_reducible first
    | assumption | exact Kept.refl _ | apply Kept.id_of | exact VaultKept.refl _ | exact MemKept.refl _ | exact HostKept.refl _
    | exact VaultKept.upd | exact MemKept.mk id id | exact id | exact (fun w => memWrite_wf w _ _) | exact (fun w => memZero_wf w _ _)
    | exact (fun w => Memory.wf_filter _ w) | apply kept_damageWhere | apply OptKept.getD | apply Kept.put | apply Kept.ite
    | (refine Kept.foldl ?_ (fun _ _ _ => ?_)) | (refine Kept.foldl_fst ?_ (fun _ _ _ => ?_)) | (refine Kept.foldr ?_ (fun _ _ _ => ?_))
    | (fail_if_no_progress beta_reduce)
    | ((try lift_lets -underBinder); intro xx; first | (refine Kept.use (P := Kept e0_ xx) ?_ (fun hx => ?_); (on_goal 2 => clear_value xx); (on_goal 1 => subst xx)) | (refine Kept.use (P := OptKept e0_ xx) ?_ (fun hx => ?_); (on_goal 2 => clear_value xx); (on_goal 1 => subst xx)) | (refine Kept.use (P := Kept e0_ (Prod.fst (α := State) xx)) ?_ (fun hx => ?_); (on_goal 2 => clear_value xx); (on_goal 1 => subst xx)) | (refine Kept.use (P := Kept e0_ (Prod.snd (β := State) xx)) ?_ (fun hx => ?_); (on_goal 2 => clear_value xx); (on_goal 1 => subst xx)) | (refine Kept.use (P := OptFst e0_ xx) ?_ (fun hx => ?_); (on_goal 2 => clear_value xx); (on_goal 1 => subst xx)) | (refine Kept.use (P := ExcKept e0_ xx) ?_ (fun hx => ?_); (on_goal 2 => clear_value xx); (on_goal 1 => subst xx)) | (have yy : _ → _ := xx; clear yy; subst xx) | (have yy : Memories := xx; clear yy; subst xx) | (have yy : Vault := xx; clear yy; subst xx) | (have yy : HostEnv := xx; clear yy; subst xx) | clear_value xx)
    | split | rw [mk_put] | (refine MemKept.mk ?_ ?_)

theorem kept_knVaultProvWriteBody (errs : List HwErr) : BodyKept (knVaultProvWriteBody errs) := by
  intro e0_ s a f p h
  unfold knVaultProvWriteBody
  repeat' with_reducible first
    | assumption | exact Kept.refl _ | apply Kept.id_of | exact VaultKept.refl _ | exact MemKept.refl _ | exact HostKept.refl _
    | exact VaultKept.upd | exact MemKept.mk id id | exact id | exact (fun w => memWrite_wf w _ _) | exact (fun w => memZero_wf w _ _)
    | exact (fun w => Memory.wf_filter _ w)
    | (exact VaultKept.of_slots fun w => slotsWf_put w (mem_foldl (slotsWf_get w _) fun _ _ hm => memWrite_wf hm _ _))
    | apply kept_onAction | apply kept_vaultWritten | apply kept_wearOut | exact PlanKept.noop | exact PlanKept.staged | exact PlanKept.vector
    | apply PlanKept.act | apply PlanKept.drain | apply PlanKept.wait | apply PlanKept.ended | apply PlanKept.ite | apply RunAll.ite
    | apply RunAll.pure | exact RunAll.stop | exact RunAll.finish | exact RunAll.denied | exact RunAll.absent | exact RunAll.sealed
    | (refine RunAll.lift (fun _ _ => ?_)) | (refine RunAll.bind (fun _ => ?_)) | apply OptKept.getD | apply Kept.put | apply Kept.ite
    | (refine Kept.foldl ?_ (fun _ _ _ => ?_)) | (refine Kept.foldl_fst ?_ (fun _ _ _ => ?_)) | (refine Kept.foldr ?_ (fun _ _ _ => ?_))
    | (fail_if_no_progress beta_reduce)
    | ((try lift_lets -underBinder); intro xx; first | (refine Kept.use (P := Kept e0_ xx) ?_ (fun hx => ?_); (on_goal 2 => clear_value xx); (on_goal 1 => subst xx)) | (refine Kept.use (P := OptKept e0_ xx) ?_ (fun hx => ?_); (on_goal 2 => clear_value xx); (on_goal 1 => subst xx)) | (refine Kept.use (P := Kept e0_ (Prod.fst (α := State) xx)) ?_ (fun hx => ?_); (on_goal 2 => clear_value xx); (on_goal 1 => subst xx)) | (refine Kept.use (P := Kept e0_ (Prod.snd (β := State) xx)) ?_ (fun hx => ?_); (on_goal 2 => clear_value xx); (on_goal 1 => subst xx)) | (refine Kept.use (P := OptFst e0_ xx) ?_ (fun hx => ?_); (on_goal 2 => clear_value xx); (on_goal 1 => subst xx)) | (refine Kept.use (P := ExcKept e0_ xx) ?_ (fun hx => ?_); (on_goal 2 => clear_value xx); (on_goal 1 => subst xx)) | (have yy : _ → _ := xx; clear yy; subst xx) | (have yy : Memories := xx; clear yy; subst xx) | (have yy : Vault := xx; clear yy; subst xx) | (have yy : HostEnv := xx; clear yy; subst xx) | clear_value xx)
    | split | rw [mk_put] | (refine MemKept.mk ?_ ?_)

theorem kept_knVaultProvCloseBody : BodyKept knVaultProvCloseBody := by
  intro e0_ s a f p h
  unfold knVaultProvCloseBody
  repeat' with_reducible first
    | assumption | exact Kept.refl _ | apply Kept.id_of | exact VaultKept.refl _ | exact MemKept.refl _ | exact HostKept.refl _
    | exact VaultKept.upd | exact MemKept.mk id id | exact id | exact (fun w => memWrite_wf w _ _) | exact (fun w => memZero_wf w _ _)
    | exact (fun w => Memory.wf_filter _ w) | (exact fun w => slotsWf_get w _) | apply kept_onAction | apply kept_vaultWritten | apply kept_setSlot
    | exact PlanKept.noop | exact PlanKept.staged | exact PlanKept.vector | apply PlanKept.act | apply PlanKept.drain
    | apply PlanKept.wait | apply PlanKept.ended | apply PlanKept.ite | apply RunAll.ite | apply RunAll.pure | exact RunAll.stop
    | exact RunAll.finish | exact RunAll.denied | exact RunAll.absent | exact RunAll.sealed | (refine RunAll.lift (fun _ _ => ?_))
    | (refine RunAll.bind (fun _ => ?_)) | apply OptKept.getD | apply Kept.put | apply Kept.ite
    | (refine Kept.foldl ?_ (fun _ _ _ => ?_)) | (refine Kept.foldl_fst ?_ (fun _ _ _ => ?_)) | (refine Kept.foldr ?_ (fun _ _ _ => ?_))
    | (fail_if_no_progress beta_reduce)
    | ((try lift_lets -underBinder); intro xx; first | (refine Kept.use (P := Kept e0_ xx) ?_ (fun hx => ?_); (on_goal 2 => clear_value xx); (on_goal 1 => subst xx)) | (refine Kept.use (P := OptKept e0_ xx) ?_ (fun hx => ?_); (on_goal 2 => clear_value xx); (on_goal 1 => subst xx)) | (refine Kept.use (P := Kept e0_ (Prod.fst (α := State) xx)) ?_ (fun hx => ?_); (on_goal 2 => clear_value xx); (on_goal 1 => subst xx)) | (refine Kept.use (P := Kept e0_ (Prod.snd (β := State) xx)) ?_ (fun hx => ?_); (on_goal 2 => clear_value xx); (on_goal 1 => subst xx)) | (refine Kept.use (P := OptFst e0_ xx) ?_ (fun hx => ?_); (on_goal 2 => clear_value xx); (on_goal 1 => subst xx)) | (refine Kept.use (P := ExcKept e0_ xx) ?_ (fun hx => ?_); (on_goal 2 => clear_value xx); (on_goal 1 => subst xx)) | (have yy : _ → _ := xx; clear yy; subst xx) | (have yy : Memories := xx; clear yy; subst xx) | (have yy : Vault := xx; clear yy; subst xx) | (have yy : HostEnv := xx; clear yy; subst xx) | clear_value xx)
    | split | rw [mk_put] | (refine MemKept.mk ?_ ?_)

theorem kept_freeSlotOf {e0_ : State} (s : State) (k : Nat) (h_s : Kept e0_ s) : Kept e0_ (freeSlotOf s k) := by
  unfold freeSlotOf
  apply kept_recordWrite
  rw [mk_put]
  exact h_s.put (VaultKept.of_slots fun w e he => w e (List.mem_filter.1 he).1) (MemKept.refl _) id id

theorem kept_knVaultProvAbortBody   : BodyKept (knVaultProvAbortBody) := by
  intro e0_ s a f p h
  unfold knVaultProvAbortBody
  repeat' with_reducible first
    | assumption | apply kept_onAction | apply kept_vaultWritten | apply kept_freeSlotOf | (refine RunAll.bind (fun _ => ?_)) | apply RunAll.pure
    | apply PlanKept.act | exact PlanKept.staged | (fail_if_no_progress beta_reduce) | split

theorem kept_knVaultProvFreeBody   : BodyKept (knVaultProvFreeBody) := by
  intro e0_ s a f p h
  unfold knVaultProvFreeBody
  repeat' with_reducible first
    | assumption | apply kept_onAction | apply kept_freeSlotOf | (refine RunAll.bind (fun _ => ?_)) | apply RunAll.pure
    | apply PlanKept.act | exact PlanKept.staged | (fail_if_no_progress beta_reduce) | split

theorem kept_execKnVaultProvOpen {e0_ : State} (st : Start) (s : State) (h_s : Kept e0_ s) : OutcomeKept e0_ (execKnVaultProvOpen st s) := by
  unfold execKnVaultProvOpen
  repeat' with_reducible first
    | assumption | apply kept_startHub | exact kept_knVaultProvOpenBody | apply kept_knVaultProvOpenBody
    | (refine BodyKept.use (by apply kept_knVaultProvOpenBody) ?_) | apply OutcomeKept.answer

theorem kept_execKnVaultProvWrite {e0_ : State} (st : Start) (s : State) (h_s : Kept e0_ s) : OutcomeKept e0_ (execKnVaultProvWrite st s) := by
  unfold execKnVaultProvWrite
  repeat' with_reducible first
    | assumption | apply kept_startHub | exact kept_knVaultProvWriteBody | apply kept_knVaultProvWriteBody
    | (refine BodyKept.use (by apply kept_knVaultProvWriteBody) ?_) | apply OutcomeKept.answer

theorem kept_execKnVaultProvClose {e0_ : State} (st : Start) (s : State) (h_s : Kept e0_ s) : OutcomeKept e0_ (execKnVaultProvClose st s) := by
  unfold execKnVaultProvClose
  repeat' with_reducible first
    | assumption | apply kept_startHub | exact kept_knVaultProvCloseBody | apply kept_knVaultProvCloseBody
    | (refine BodyKept.use (by apply kept_knVaultProvCloseBody) ?_) | apply OutcomeKept.answer

theorem kept_execKnVaultProvAbort {e0_ : State} (st : Start) (s : State) (h_s : Kept e0_ s) : OutcomeKept e0_ (execKnVaultProvAbort st s) := by
  unfold execKnVaultProvAbort
  repeat' with_reducible first
    | assumption | apply kept_startHub | exact kept_knVaultProvAbortBody | apply kept_knVaultProvAbortBody
    | (refine BodyKept.use (by apply kept_knVaultProvAbortBody) ?_) | apply OutcomeKept.answer

theorem kept_execKnVaultProvFree {e0_ : State} (st : Start) (s : State) (h_s : Kept e0_ s) : OutcomeKept e0_ (execKnVaultProvFree st s) := by
  unfold execKnVaultProvFree
  repeat' with_reducible first
    | assumption | apply kept_startHub | exact kept_knVaultProvFreeBody | apply kept_knVaultProvFreeBody
    | (refine BodyKept.use (by apply kept_knVaultProvFreeBody) ?_) | apply OutcomeKept.answer

theorem kept_placeBody (act : Nat)  : BodyKept (placeBody act) := by
  intro e0_ s a f p h
  unfold placeBody
  repeat' with_reducible first
    | assumption | exact Kept.refl _ | apply Kept.id_of | exact VaultKept.refl _ | exact MemKept.refl _ | exact HostKept.refl _
    | exact VaultKept.upd | exact MemKept.mk id id | exact id | exact (fun w => memWrite_wf w _ _) | exact (fun w => memZero_wf w _ _)
    | exact (fun w => Memory.wf_filter _ w) | apply kept_putModel | apply kept_onActionAt | exact PlanKept.noop | exact PlanKept.staged
    | exact PlanKept.vector | apply PlanKept.act | apply PlanKept.drain | apply PlanKept.wait | apply PlanKept.ended
    | apply PlanKept.ite | apply RunAll.ite | apply RunAll.pure | exact RunAll.stop | exact RunAll.finish | exact RunAll.denied
    | exact RunAll.absent | exact RunAll.sealed | (refine RunAll.lift (fun _ _ => ?_)) | (refine RunAll.bind (fun _ => ?_))
    | apply Kept.put | apply Kept.ite | (refine Kept.foldl ?_ (fun _ _ _ => ?_)) | (refine Kept.foldl_fst ?_ (fun _ _ _ => ?_))
    | (refine Kept.foldr ?_ (fun _ _ _ => ?_)) | (fail_if_no_progress beta_reduce)
    | ((try lift_lets -underBinder); intro xx; first | (refine Kept.use (P := Kept e0_ xx) ?_ (fun hx => ?_); (on_goal 2 => clear_value xx); (on_goal 1 => subst xx)) | clear_value xx)
    | split | rw [mk_put] | (refine MemKept.mk ?_ ?_)

theorem kept_knWeightPlaceDropBody   : BodyKept (knWeightPlaceDropBody) := by
  intro e0_ s a f p h
  unfold knWeightPlaceDropBody
  repeat' with_reducible first
    | assumption | exact Kept.refl _ | apply Kept.id_of | exact VaultKept.refl _ | exact MemKept.refl _ | exact HostKept.refl _
    | exact VaultKept.upd | exact MemKept.mk id id | exact id | exact (fun w => memWrite_wf w _ _) | exact (fun w => memZero_wf w _ _)
    | exact (fun w => Memory.wf_filter _ w) | apply kept_putModel | apply kept_onActionAt | exact PlanKept.noop | exact PlanKept.staged
    | exact PlanKept.vector | apply PlanKept.act | apply PlanKept.drain | apply PlanKept.wait | apply PlanKept.ended
    | apply PlanKept.ite | apply RunAll.ite | apply RunAll.pure | exact RunAll.stop | exact RunAll.finish | exact RunAll.denied
    | exact RunAll.absent | exact RunAll.sealed | (refine RunAll.lift (fun _ _ => ?_)) | (refine RunAll.bind (fun _ => ?_))
    | apply Kept.put | apply Kept.ite | (refine Kept.foldl ?_ (fun _ _ _ => ?_)) | (refine Kept.foldl_fst ?_ (fun _ _ _ => ?_))
    | (refine Kept.foldr ?_ (fun _ _ _ => ?_)) | (fail_if_no_progress beta_reduce)
    | ((try lift_lets -underBinder); intro xx; first | (refine Kept.use (P := Kept e0_ xx) ?_ (fun hx => ?_); (on_goal 2 => clear_value xx); (on_goal 1 => subst xx)) | clear_value xx)
    | split | rw [mk_put] | (refine MemKept.mk ?_ ?_)

theorem kept_execKnWeightPlaceSlot {e0_ : State} (st : Start) (s : State) (h_s : Kept e0_ s) : OutcomeKept e0_ (execKnWeightPlaceSlot st s) := by
  unfold execKnWeightPlaceSlot
  repeat' with_reducible first
    | assumption | apply kept_startHub | exact kept_placeBody | apply kept_placeBody
    | (refine BodyKept.use (by apply kept_placeBody) ?_) | apply OutcomeKept.answer

theorem kept_execKnWeightPlaceBuffer {e0_ : State} (st : Start) (s : State) (h_s : Kept e0_ s) : OutcomeKept e0_ (execKnWeightPlaceBuffer st s) := by
  unfold execKnWeightPlaceBuffer
  repeat' with_reducible first
    | assumption | apply kept_startHub | exact kept_placeBody | apply kept_placeBody
    | (refine BodyKept.use (by apply kept_placeBody) ?_) | apply OutcomeKept.answer

theorem kept_execKnWeightPlaceDrop {e0_ : State} (st : Start) (s : State) (h_s : Kept e0_ s) : OutcomeKept e0_ (execKnWeightPlaceDrop st s) := by
  unfold execKnWeightPlaceDrop
  repeat' with_reducible first
    | assumption | apply kept_startHub | exact kept_knWeightPlaceDropBody | apply kept_knWeightPlaceDropBody
    | (refine BodyKept.use (by apply kept_knWeightPlaceDropBody) ?_) | apply OutcomeKept.answer

theorem kept_cutBody (act : Nat) (ok : Model → Bool) (g : Model → Model) : BodyKept (cutBody act ok g) := by
  intro e0_ s a f p h
  unfold cutBody
  repeat' with_reducible first
    | assumption | exact Kept.refl _ | apply Kept.id_of | exact VaultKept.refl _ | exact MemKept.refl _ | exact HostKept.refl _
    | exact VaultKept.upd | exact MemKept.mk id id | exact id | exact (fun w => memWrite_wf w _ _) | exact (fun w => memZero_wf w _ _)
    | exact (fun w => Memory.wf_filter _ w) | apply kept_putModel | apply kept_onActionAt | exact PlanKept.noop | exact PlanKept.staged
    | exact PlanKept.vector | apply PlanKept.act | apply PlanKept.drain | apply PlanKept.wait | apply PlanKept.ended
    | apply PlanKept.ite | apply RunAll.ite | apply RunAll.pure | exact RunAll.stop | exact RunAll.finish | exact RunAll.denied
    | exact RunAll.absent | exact RunAll.sealed | (refine RunAll.lift (fun _ _ => ?_)) | (refine RunAll.bind (fun _ => ?_))
    | apply OptKept.getD | apply Kept.put | apply Kept.ite | (refine Kept.foldl ?_ (fun _ _ _ => ?_))
    | (refine Kept.foldl_fst ?_ (fun _ _ _ => ?_)) | (refine Kept.foldr ?_ (fun _ _ _ => ?_)) | (fail_if_no_progress beta_reduce)
    | ((try lift_lets -underBinder); intro xx; first | (refine Kept.use (P := Kept e0_ xx) ?_ (fun hx => ?_); (on_goal 2 => clear_value xx); (on_goal 1 => subst xx)) | (refine Kept.use (P := OptKept e0_ xx) ?_ (fun hx => ?_); (on_goal 2 => clear_value xx); (on_goal 1 => subst xx)) | (refine Kept.use (P := Kept e0_ (Prod.fst (α := State) xx)) ?_ (fun hx => ?_); (on_goal 2 => clear_value xx); (on_goal 1 => subst xx)) | (refine Kept.use (P := Kept e0_ (Prod.snd (β := State) xx)) ?_ (fun hx => ?_); (on_goal 2 => clear_value xx); (on_goal 1 => subst xx)) | (refine Kept.use (P := OptFst e0_ xx) ?_ (fun hx => ?_); (on_goal 2 => clear_value xx); (on_goal 1 => subst xx)) | (refine Kept.use (P := ExcKept e0_ xx) ?_ (fun hx => ?_); (on_goal 2 => clear_value xx); (on_goal 1 => subst xx)) | (have yy : _ → _ := xx; clear yy; subst xx) | (have yy : Memories := xx; clear yy; subst xx) | (have yy : Vault := xx; clear yy; subst xx) | (have yy : HostEnv := xx; clear yy; subst xx) | clear_value xx)
    | split | rw [mk_put] | (refine MemKept.mk ?_ ?_)

theorem kept_knModelCutBindBody   : BodyKept (knModelCutBindBody) := by
  intro e0_ s a f p h
  unfold knModelCutBindBody
  repeat' with_reducible first
    | assumption | apply kept_putModel | apply kept_onActionAt | (refine RunAll.bind (fun _ => ?_)) | apply RunAll.pure
    | apply PlanKept.act | exact PlanKept.staged | (fail_if_no_progress beta_reduce) | split

theorem kept_knModelCutArmBody   : BodyKept (knModelCutArmBody) := by
  intro e0_ s a f p h
  unfold knModelCutArmBody
  repeat' with_reducible first
    | assumption | exact Kept.refl _ | apply Kept.id_of | exact VaultKept.refl _ | exact MemKept.refl _ | exact HostKept.refl _
    | exact VaultKept.upd | exact MemKept.mk id id | exact id | exact (fun w => memWrite_wf w _ _) | exact (fun w => memZero_wf w _ _)
    | exact (fun w => Memory.wf_filter _ w) | apply kept_tryArrive | apply kept_putModel | apply kept_onActionAt | exact PlanKept.noop
    | exact PlanKept.staged | exact PlanKept.vector | apply PlanKept.act | apply PlanKept.drain | apply PlanKept.wait
    | apply PlanKept.ended | apply PlanKept.ite | apply RunAll.ite | apply RunAll.pure | exact RunAll.stop | exact RunAll.finish
    | exact RunAll.denied | exact RunAll.absent | exact RunAll.sealed | (refine RunAll.lift (fun _ _ => ?_))
    | (refine RunAll.bind (fun _ => ?_)) | apply Kept.put | (fail_if_no_progress beta_reduce) | (refine Kept.foldl ?_ (fun _ _ _ => ?_))
    | (refine Kept.foldl_fst ?_ (fun _ _ _ => ?_)) | (refine Kept.foldr ?_ (fun _ _ _ => ?_)) | split | rw [mk_put]
    | (refine MemKept.mk ?_ ?_)

theorem kept_knModelCutDisarmBody   : BodyKept (knModelCutDisarmBody) := by
  intro e0_ s a f p h
  unfold knModelCutDisarmBody
  repeat' with_reducible first
    | assumption | exact kept_cutBody | apply kept_cutBody | (refine BodyKept.use (by apply kept_cutBody) ?_)
    | (refine RunAll.bind (fun _ => ?_)) | apply RunAll.pure | apply PlanKept.act | exact PlanKept.staged
    | (fail_if_no_progress beta_reduce) | split

theorem kept_knModelCutUnbindBody   : BodyKept (knModelCutUnbindBody) := by
  intro e0_ s a f p h
  unfold knModelCutUnbindBody
  repeat' with_reducible first
    | assumption | exact kept_cutBody | apply kept_cutBody | (refine BodyKept.use (by apply kept_cutBody) ?_)
    | (refine RunAll.bind (fun _ => ?_)) | apply RunAll.pure | apply PlanKept.act | exact PlanKept.staged
    | (fail_if_no_progress beta_reduce) | split

theorem kept_execKnModelCutBind {e0_ : State} (st : Start) (s : State) (h_s : Kept e0_ s) : OutcomeKept e0_ (execKnModelCutBind st s) := by
  unfold execKnModelCutBind
  repeat' with_reducible first
    | assumption | apply kept_startHub | exact kept_knModelCutBindBody | apply kept_knModelCutBindBody
    | (refine BodyKept.use (by apply kept_knModelCutBindBody) ?_) | apply OutcomeKept.answer

theorem kept_execKnModelCutArm {e0_ : State} (st : Start) (s : State) (h_s : Kept e0_ s) : OutcomeKept e0_ (execKnModelCutArm st s) := by
  unfold execKnModelCutArm
  repeat' with_reducible first
    | assumption | apply kept_startHub | exact kept_knModelCutArmBody | apply kept_knModelCutArmBody
    | (refine BodyKept.use (by apply kept_knModelCutArmBody) ?_) | apply OutcomeKept.answer

theorem kept_execKnModelCutDisarm {e0_ : State} (st : Start) (s : State) (h_s : Kept e0_ s) : OutcomeKept e0_ (execKnModelCutDisarm st s) := by
  unfold execKnModelCutDisarm
  repeat' with_reducible first
    | assumption | apply kept_startHub | exact kept_knModelCutDisarmBody | apply kept_knModelCutDisarmBody
    | (refine BodyKept.use (by apply kept_knModelCutDisarmBody) ?_) | apply OutcomeKept.answer

theorem kept_execKnModelCutUnbind {e0_ : State} (st : Start) (s : State) (h_s : Kept e0_ s) : OutcomeKept e0_ (execKnModelCutUnbind st s) := by
  unfold execKnModelCutUnbind
  repeat' with_reducible first
    | assumption | apply kept_startHub | exact kept_knModelCutUnbindBody | apply kept_knModelCutUnbindBody
    | (refine BodyKept.use (by apply kept_knModelCutUnbindBody) ?_) | apply OutcomeKept.answer

theorem kept_releaseRetiring {e0_ : State} (s : State) (model : Nat) (h_s : Kept e0_ s) : Kept e0_ (releaseRetiring s model) := by
  unfold releaseRetiring
  repeat' with_reducible first
    | assumption | exact Kept.refl _ | apply Kept.id_of | exact VaultKept.refl _ | exact MemKept.refl _ | exact HostKept.refl _
    | exact VaultKept.upd | exact MemKept.mk id id | exact id | exact (fun w => memWrite_wf w _ _) | exact (fun w => memZero_wf w _ _)
    | exact (fun w => Memory.wf_filter _ w) | apply kept_raiseEvent | apply kept_putModel | apply OptKept.getD | apply Kept.put
    | apply Kept.ite | (refine Kept.foldl ?_ (fun _ _ _ => ?_)) | (refine Kept.foldl_fst ?_ (fun _ _ _ => ?_))
    | (refine Kept.foldr ?_ (fun _ _ _ => ?_)) | (fail_if_no_progress beta_reduce)
    | ((try lift_lets -underBinder); intro xx; first | (refine Kept.use (P := Kept e0_ xx) ?_ (fun hx => ?_); (on_goal 2 => clear_value xx); (on_goal 1 => subst xx)) | clear_value xx)
    | split | rw [mk_put] | (refine MemKept.mk ?_ ?_)

theorem kept_execRetiringCopyRelease {e0_ : State} (model : Nat) (s : State) (h_s : Kept e0_ s) : OutcomeKept e0_ (execRetiringCopyRelease model s) := by
  unfold execRetiringCopyRelease
  repeat' with_reducible first
    | assumption | exact Kept.refl _ | apply Kept.id_of | apply kept_releaseRetiring | apply OutcomeKept.answer
    | (refine PrepKept.mk (fun _ _ _ _ _ => ?_) (fun _ _ _ _ _ _ _ => ?_)) | apply OptKept.getD | (fail_if_no_progress beta_reduce)
    | split

theorem kept_makeCut {e0_ : State} (epoch : Nat) (s : State) (model : Nat) (h_s : Kept e0_ s) : Kept e0_ (makeCut epoch s model) := by
  unfold makeCut
  repeat' with_reducible first
    | assumption | exact Kept.refl _ | apply Kept.id_of | exact VaultKept.refl _ | exact MemKept.refl _ | exact HostKept.refl _
    | exact VaultKept.upd | exact MemKept.mk id id | exact id | exact (fun w => memWrite_wf w _ _) | exact (fun w => memZero_wf w _ _)
    | exact (fun w => Memory.wf_filter _ w) | apply kept_raiseEvent | apply kept_putModel | apply OptKept.getD | apply Kept.put
    | apply Kept.ite | (refine Kept.foldl ?_ (fun _ _ _ => ?_)) | (refine Kept.foldl_fst ?_ (fun _ _ _ => ?_))
    | (refine Kept.foldr ?_ (fun _ _ _ => ?_)) | (fail_if_no_progress beta_reduce)
    | ((try lift_lets -underBinder); intro xx; first | (refine Kept.use (P := Kept e0_ xx) ?_ (fun hx => ?_); (on_goal 2 => clear_value xx); (on_goal 1 => subst xx)) | clear_value xx)
    | split | rw [mk_put] | (refine MemKept.mk ?_ ?_)

theorem kept_countCutDeal {e0_ : State} (s : State) (model : Nat) (h_s : Kept e0_ s) : Kept e0_ (countCutDeal s model) := by
  unfold countCutDeal
  repeat' with_reducible first
    | assumption | exact Kept.refl _ | apply Kept.id_of | exact VaultKept.refl _ | exact MemKept.refl _ | exact HostKept.refl _
    | exact VaultKept.upd | exact MemKept.mk id id | exact id | exact (fun w => memWrite_wf w _ _) | exact (fun w => memZero_wf w _ _)
    | exact (fun w => Memory.wf_filter _ w) | apply kept_putModel | apply OptKept.getD | apply Kept.put | apply Kept.ite
    | (refine Kept.foldl ?_ (fun _ _ _ => ?_)) | (refine Kept.foldl_fst ?_ (fun _ _ _ => ?_)) | (refine Kept.foldr ?_ (fun _ _ _ => ?_))
    | (fail_if_no_progress beta_reduce)
    | ((try lift_lets -underBinder); intro xx; first | (refine Kept.use (P := Kept e0_ xx) ?_ (fun hx => ?_); (on_goal 2 => clear_value xx); (on_goal 1 => subst xx)) | clear_value xx)
    | split | rw [mk_put] | (refine MemKept.mk ?_ ?_)

theorem kept_loseChunk {e0_ : State} (s : State) (model copy chunk : Nat) (c : Copy) (h_s : Kept e0_ s) : Kept e0_ (loseChunk s model copy chunk c) := by
  unfold loseChunk
  repeat' with_reducible first
    | assumption | apply kept_putModel | (fail_if_no_progress beta_reduce) | split

theorem kept_rerunRepaired {e0_ : State} (s : State) (pa : Nat) (h_s : Kept e0_ s) : Kept e0_ (rerunRepaired s pa) := by
  unfold rerunRepaired
  repeat' with_reducible first
    | assumption | apply kept_setFlights | (fail_if_no_progress beta_reduce) | split

theorem kept_stagedWeightRepairOp {e0_ : State} (pa : Nat) (errs : List HwErr) (s : State) (h_s : Kept e0_ s) : Kept e0_ (stagedWeightRepairOp pa errs s) := by
  unfold stagedWeightRepairOp
  repeat' with_reducible first
    | assumption | exact Kept.refl _ | apply Kept.id_of | exact VaultKept.refl _ | exact MemKept.refl _ | exact HostKept.refl _
    | exact VaultKept.upd | exact MemKept.mk id id | exact id | exact (fun w => memWrite_wf w _ _) | exact (fun w => memZero_wf w _ _)
    | exact (fun w => Memory.wf_filter _ w) | apply kept_raiseError | apply kept_putMem | apply kept_charge | apply kept_applyErrs
    | apply kept_loseChunk | apply kept_rerunRepaired | apply OptKept.getD | apply Kept.put | apply Kept.ite
    | (refine Kept.foldl ?_ (fun _ _ _ => ?_)) | (refine Kept.foldl_fst ?_ (fun _ _ _ => ?_)) | (refine Kept.foldr ?_ (fun _ _ _ => ?_))
    | (refine Kept.fst_of (by assumption) ?_; apply kept_putMem) | (fail_if_no_progress beta_reduce)
    | ((try lift_lets -underBinder); intro xx; first | (refine Kept.use (P := Kept e0_ xx) ?_ (fun hx => ?_); (on_goal 2 => clear_value xx); (on_goal 1 => subst xx)) | clear_value xx)
    | split | rw [mk_put] | (refine MemKept.mk ?_ ?_)

theorem kept_execStagedWeightRepair {e0_ : State} (pa : Nat) (errs : List HwErr) (s : State) (h_s : Kept e0_ s) : OutcomeKept e0_ (execStagedWeightRepair pa errs s) := by
  unfold execStagedWeightRepair
  repeat' with_reducible first
    | assumption | apply kept_stagedWeightRepairOp | apply OutcomeKept.answer

end Sys2Proof.Laws
end

