-- ==== Sys2Proof/Laws/KeptSpaces.lean ====
section
/-!
SUPPORT. Sys2Proof/Laws/KeptSpaces.lean: what the operations of Machine/Spaces.lean keep (Laws/Kept.lean).
-/

set_option linter.unusedTactic false
set_option linter.unreachableTactic false
set_option linter.unusedVariables false

namespace Sys2Proof.Laws

open Sys2Proof.Machine Sys2Proof.Safety

theorem kept_knUnitsGetBody   : BodyKept (knUnitsGetBody) := by
  intro e0_ s a f p h
  unfold knUnitsGetBody
  repeat' with_reducible first
    | assumption | apply kept_copyOut | (refine RunAll.bind (fun _ => ?_)) | apply RunAll.pure | apply PlanKept.act
    | exact PlanKept.staged | (fail_if_no_progress beta_reduce) | split

theorem kept_execKnUnitsGet {e0_ : State} (st : Start) (s : State) (h_s : Kept e0_ s) : OutcomeKept e0_ (execKnUnitsGet st s) := by
  unfold execKnUnitsGet
  repeat' with_reducible first
    | assumption | apply kept_startHub | exact kept_knUnitsGetBody | apply kept_knUnitsGetBody
    | (refine BodyKept.use (by apply kept_knUnitsGetBody) ?_) | apply OutcomeKept.answer

theorem kept_putAsid {e0_ : State} (s : State) (a : Nat) (r : Asid) (h_s : Kept e0_ s) : Kept e0_ (putAsid s a r) := by
  unfold putAsid
  repeat' with_reducible first
    | assumption | exact Kept.refl _ | apply Kept.id_of | exact VaultKept.refl _ | exact MemKept.refl _ | exact HostKept.refl _
    | exact VaultKept.upd | exact MemKept.mk id id | exact id | exact (fun w => memWrite_wf w _ _) | exact (fun w => memZero_wf w _ _)
    | exact (fun w => Memory.wf_filter _ w) | apply OptKept.getD | apply Kept.put | (fail_if_no_progress beta_reduce)
    | (refine Kept.foldl ?_ (fun _ _ _ => ?_)) | (refine Kept.foldl_fst ?_ (fun _ _ _ => ?_)) | (refine Kept.foldr ?_ (fun _ _ _ => ?_))
    | split | rw [mk_put] | (refine MemKept.mk ?_ ?_)

theorem kept_knAsSetCreateBody   : BodyKept (knAsSetCreateBody) := by
  intro e0_ s a f p h
  unfold knAsSetCreateBody
  repeat' with_reducible first
    | assumption | apply kept_onActionAt | apply kept_putAsid | (refine RunAll.bind (fun _ => ?_)) | apply RunAll.pure
    | apply PlanKept.act | exact PlanKept.staged | (fail_if_no_progress beta_reduce) | split

theorem kept_changeAsid {e0_ : State} (s : State) (f : Flight) (a : Nat) (r : Asid) (h_s : Kept e0_ s) : PlanKept e0_ (changeAsid s f a r) := by
  unfold changeAsid
  repeat' with_reducible first
    | assumption | apply kept_invalAsid | apply kept_putAsid | exact PlanKept.noop | exact PlanKept.staged | exact PlanKept.vector
    | apply PlanKept.act | apply PlanKept.drain | apply PlanKept.wait | apply PlanKept.ended | apply PlanKept.ite
    | (fail_if_no_progress beta_reduce) | split

theorem kept_knAsSetSetRootBody   : BodyKept (knAsSetSetRootBody) := by
  intro e0_ s a f p h
  unfold knAsSetSetRootBody
  repeat' with_reducible first
    | assumption | apply kept_onActionAt | apply kept_changeAsid | (refine RunAll.bind (fun _ => ?_)) | apply RunAll.pure
    | apply PlanKept.act | exact PlanKept.staged | (fail_if_no_progress beta_reduce) | split

theorem kept_knAsSetSetPasidBody   : BodyKept (knAsSetSetPasidBody) := by
  intro e0_ s a f p h
  unfold knAsSetSetPasidBody
  repeat' with_reducible first
    | assumption | apply kept_onActionAt | apply kept_changeAsid | (refine RunAll.bind (fun _ => ?_)) | apply RunAll.pure
    | apply PlanKept.act | exact PlanKept.staged | (fail_if_no_progress beta_reduce) | split

theorem kept_failKitty {e0_ : State} (s : State) (a : Nat) (h_s : Kept e0_ s) : Kept e0_ (failKitty s a) := by
  unfold failKitty
  repeat' with_reducible first
    | assumption | exact Kept.refl _ | apply Kept.id_of | exact VaultKept.refl _ | exact MemKept.refl _ | exact HostKept.refl _
    | exact VaultKept.upd | exact MemKept.mk id id | exact id | exact (fun w => memWrite_wf w _ _) | exact (fun w => memZero_wf w _ _)
    | exact (fun w => Memory.wf_filter _ w) | apply kept_complete | apply OptKept.getD | apply Kept.put
    | (fail_if_no_progress beta_reduce) | (refine Kept.foldl ?_ (fun _ _ _ => ?_)) | (refine Kept.foldl_fst ?_ (fun _ _ _ => ?_))
    | (refine Kept.foldr ?_ (fun _ _ _ => ?_)) | split | rw [mk_put] | (refine MemKept.mk ?_ ?_)

theorem kept_knAsSetDestroyBody   : BodyKept (knAsSetDestroyBody) := by
  intro e0_ s a f p h
  unfold knAsSetDestroyBody
  repeat' with_reducible first
    | assumption | exact Kept.refl _ | apply Kept.id_of | apply kept_onActionAt | apply kept_putAsid | apply kept_failKitty
    | exact PlanKept.noop | exact PlanKept.staged | exact PlanKept.vector | apply PlanKept.act | apply PlanKept.drain
    | apply PlanKept.wait | apply PlanKept.ended | apply PlanKept.ite | apply RunAll.ite | apply RunAll.pure | exact RunAll.stop
    | exact RunAll.finish | exact RunAll.denied | exact RunAll.absent | exact RunAll.sealed | (refine RunAll.lift (fun _ _ => ?_))
    | (refine RunAll.bind (fun _ => ?_)) | (fail_if_no_progress beta_reduce) | split

theorem kept_execKnAsSetCreate {e0_ : State} (st : Start) (s : State) (h_s : Kept e0_ s) : OutcomeKept e0_ (execKnAsSetCreate st s) := by
  unfold execKnAsSetCreate
  repeat' with_reducible first
    | assumption | apply kept_startHub | exact kept_knAsSetCreateBody | apply kept_knAsSetCreateBody
    | (refine BodyKept.use (by apply kept_knAsSetCreateBody) ?_) | apply OutcomeKept.answer

theorem kept_execKnAsSetSetRoot {e0_ : State} (st : Start) (s : State) (h_s : Kept e0_ s) : OutcomeKept e0_ (execKnAsSetSetRoot st s) := by
  unfold execKnAsSetSetRoot
  repeat' with_reducible first
    | assumption | apply kept_startHub | exact kept_knAsSetSetRootBody | apply kept_knAsSetSetRootBody
    | (refine BodyKept.use (by apply kept_knAsSetSetRootBody) ?_) | apply OutcomeKept.answer

theorem kept_execKnAsSetSetPasid {e0_ : State} (st : Start) (s : State) (h_s : Kept e0_ s) : OutcomeKept e0_ (execKnAsSetSetPasid st s) := by
  unfold execKnAsSetSetPasid
  repeat' with_reducible first
    | assumption | apply kept_startHub | exact kept_knAsSetSetPasidBody | apply kept_knAsSetSetPasidBody
    | (refine BodyKept.use (by apply kept_knAsSetSetPasidBody) ?_) | apply OutcomeKept.answer

theorem kept_execKnAsSetDestroy {e0_ : State} (st : Start) (s : State) (h_s : Kept e0_ s) : OutcomeKept e0_ (execKnAsSetDestroy st s) := by
  unfold execKnAsSetDestroy
  repeat' with_reducible first
    | assumption | apply kept_startHub | exact kept_knAsSetDestroyBody | apply kept_knAsSetDestroyBody
    | (refine BodyKept.use (by apply kept_knAsSetDestroyBody) ?_) | apply OutcomeKept.answer

theorem kept_knTlbInvalRangeBody   : BodyKept (knTlbInvalRangeBody) := by
  intro e0_ s a f p h
  unfold knTlbInvalRangeBody
  repeat' with_reducible first
    | assumption | exact Kept.refl _ | apply Kept.id_of | apply kept_invalWhere | apply kept_onAction | exact PlanKept.noop
    | exact PlanKept.staged | exact PlanKept.vector | apply PlanKept.act | apply PlanKept.drain | apply PlanKept.wait
    | apply PlanKept.ended | apply PlanKept.ite | apply RunAll.ite | apply RunAll.pure | exact RunAll.stop | exact RunAll.finish
    | exact RunAll.denied | exact RunAll.absent | exact RunAll.sealed | (refine RunAll.lift (fun _ _ => ?_))
    | (refine RunAll.bind (fun _ => ?_)) | (fail_if_no_progress beta_reduce) | split

theorem kept_knTlbInvalAsidBody   : BodyKept (knTlbInvalAsidBody) := by
  intro e0_ s a f p h
  unfold knTlbInvalAsidBody
  repeat' with_reducible first
    | assumption | exact Kept.refl _ | apply Kept.id_of | apply kept_invalAsid | apply kept_onAction | exact PlanKept.noop
    | exact PlanKept.staged | exact PlanKept.vector | apply PlanKept.act | apply PlanKept.drain | apply PlanKept.wait
    | apply PlanKept.ended | apply PlanKept.ite | apply RunAll.ite | apply RunAll.pure | exact RunAll.stop | exact RunAll.finish
    | exact RunAll.denied | exact RunAll.absent | exact RunAll.sealed | (refine RunAll.lift (fun _ _ => ?_))
    | (refine RunAll.bind (fun _ => ?_)) | (fail_if_no_progress beta_reduce) | split

theorem kept_knTlbInvalAllBody   : BodyKept (knTlbInvalAllBody) := by
  intro e0_ s a f p h
  unfold knTlbInvalAllBody
  repeat' with_reducible first
    | assumption | exact Kept.refl _ | apply Kept.id_of | apply kept_invalWhere | apply kept_onAction | exact PlanKept.noop
    | exact PlanKept.staged | exact PlanKept.vector | apply PlanKept.act | apply PlanKept.drain | apply PlanKept.wait
    | apply PlanKept.ended | apply PlanKept.ite | apply RunAll.ite | apply RunAll.pure | exact RunAll.stop | exact RunAll.finish
    | exact RunAll.denied | exact RunAll.absent | exact RunAll.sealed | (refine RunAll.lift (fun _ _ => ?_))
    | (refine RunAll.bind (fun _ => ?_)) | (fail_if_no_progress beta_reduce) | split

theorem kept_knTlbPinBody   : BodyKept (knTlbPinBody) := by
  intro e0_ s a f p h
  unfold knTlbPinBody
  repeat' with_reducible first
    | assumption | exact Kept.refl _ | apply Kept.id_of | exact VaultKept.refl _ | exact MemKept.refl _ | exact HostKept.refl _
    | exact VaultKept.upd | exact MemKept.mk id id | exact id | exact (fun w => memWrite_wf w _ _) | exact (fun w => memZero_wf w _ _)
    | exact (fun w => Memory.wf_filter _ w) | apply kept_onAction | exact PlanKept.noop | exact PlanKept.staged | exact PlanKept.vector
    | apply PlanKept.act | apply PlanKept.drain | apply PlanKept.wait | apply PlanKept.ended | apply PlanKept.ite | apply RunAll.ite
    | apply RunAll.pure | exact RunAll.stop | exact RunAll.finish | exact RunAll.denied | exact RunAll.absent | exact RunAll.sealed
    | (refine RunAll.lift (fun _ _ => ?_)) | (refine RunAll.bind (fun _ => ?_)) | apply Kept.put | (fail_if_no_progress beta_reduce)
    | (refine Kept.foldl ?_ (fun _ _ _ => ?_)) | (refine Kept.foldl_fst ?_ (fun _ _ _ => ?_)) | (refine Kept.foldr ?_ (fun _ _ _ => ?_))
    | split | rw [mk_put] | (refine MemKept.mk ?_ ?_)

theorem kept_knTlbUnpinBody   : BodyKept (knTlbUnpinBody) := by
  intro e0_ s a f p h
  unfold knTlbUnpinBody
  repeat' with_reducible first
    | assumption | exact Kept.refl _ | apply Kept.id_of | exact VaultKept.refl _ | exact MemKept.refl _ | exact HostKept.refl _
    | exact VaultKept.upd | exact MemKept.mk id id | exact id | exact (fun w => memWrite_wf w _ _) | exact (fun w => memZero_wf w _ _)
    | exact (fun w => Memory.wf_filter _ w) | apply kept_onAction | exact PlanKept.noop | exact PlanKept.staged | exact PlanKept.vector
    | apply PlanKept.act | apply PlanKept.drain | apply PlanKept.wait | apply PlanKept.ended | apply PlanKept.ite | apply RunAll.ite
    | apply RunAll.pure | exact RunAll.stop | exact RunAll.finish | exact RunAll.denied | exact RunAll.absent | exact RunAll.sealed
    | (refine RunAll.lift (fun _ _ => ?_)) | (refine RunAll.bind (fun _ => ?_)) | apply Kept.put | (fail_if_no_progress beta_reduce)
    | (refine Kept.foldl ?_ (fun _ _ _ => ?_)) | (refine Kept.foldl_fst ?_ (fun _ _ _ => ?_)) | (refine Kept.foldr ?_ (fun _ _ _ => ?_))
    | split | rw [mk_put] | (refine MemKept.mk ?_ ?_)

theorem kept_execKnTlbInvalRange {e0_ : State} (st : Start) (s : State) (h_s : Kept e0_ s) : OutcomeKept e0_ (execKnTlbInvalRange st s) := by
  unfold execKnTlbInvalRange
  repeat' with_reducible first
    | assumption | apply kept_startHub | exact kept_knTlbInvalRangeBody | apply kept_knTlbInvalRangeBody
    | (refine BodyKept.use (by apply kept_knTlbInvalRangeBody) ?_) | apply OutcomeKept.answer

theorem kept_execKnTlbInvalAsid {e0_ : State} (st : Start) (s : State) (h_s : Kept e0_ s) : OutcomeKept e0_ (execKnTlbInvalAsid st s) := by
  unfold execKnTlbInvalAsid
  repeat' with_reducible first
    | assumption | apply kept_startHub | exact kept_knTlbInvalAsidBody | apply kept_knTlbInvalAsidBody
    | (refine BodyKept.use (by apply kept_knTlbInvalAsidBody) ?_) | apply OutcomeKept.answer

theorem kept_execKnTlbInvalAll {e0_ : State} (st : Start) (s : State) (h_s : Kept e0_ s) : OutcomeKept e0_ (execKnTlbInvalAll st s) := by
  unfold execKnTlbInvalAll
  repeat' with_reducible first
    | assumption | apply kept_startHub | exact kept_knTlbInvalAllBody | apply kept_knTlbInvalAllBody
    | (refine BodyKept.use (by apply kept_knTlbInvalAllBody) ?_) | apply OutcomeKept.answer

theorem kept_execKnTlbPin {e0_ : State} (st : Start) (s : State) (h_s : Kept e0_ s) : OutcomeKept e0_ (execKnTlbPin st s) := by
  unfold execKnTlbPin
  repeat' with_reducible first
    | assumption | apply kept_startHub | exact kept_knTlbPinBody | apply kept_knTlbPinBody
    | (refine BodyKept.use (by apply kept_knTlbPinBody) ?_) | apply OutcomeKept.answer

theorem kept_execKnTlbUnpin {e0_ : State} (st : Start) (s : State) (h_s : Kept e0_ s) : OutcomeKept e0_ (execKnTlbUnpin st s) := by
  unfold execKnTlbUnpin
  repeat' with_reducible first
    | assumption | apply kept_startHub | exact kept_knTlbUnpinBody | apply kept_knTlbUnpinBody
    | (refine BodyKept.use (by apply kept_knTlbUnpinBody) ?_) | apply OutcomeKept.answer

theorem kept_fillBuffers {e0_ : State} (s : State) (p : Place) (die : Nat) (leaf : Leaf) (nodes : List NonLeaf) (h_s : Kept e0_ s) : Kept e0_ (fillBuffers s p die leaf nodes) := by
  unfold fillBuffers
  repeat' with_reducible first
    | assumption | exact Kept.refl _ | apply Kept.id_of | exact VaultKept.refl _ | exact MemKept.refl _ | exact HostKept.refl _
    | exact VaultKept.upd | exact MemKept.mk id id | exact id | exact (fun w => memWrite_wf w _ _) | exact (fun w => memZero_wf w _ _)
    | exact (fun w => Memory.wf_filter _ w) | apply kept_putLevel1 | apply kept_putLevel2 | apply OptKept.getD | apply Kept.put
    | apply Kept.ite | (refine Kept.foldl ?_ (fun _ _ _ => ?_)) | (refine Kept.foldl_fst ?_ (fun _ _ _ => ?_))
    | (refine Kept.foldr ?_ (fun _ _ _ => ?_)) | (fail_if_no_progress beta_reduce)
    | ((try lift_lets -underBinder); intro xx; first | (refine Kept.use (P := Kept e0_ xx) ?_ (fun hx => ?_); (on_goal 2 => clear_value xx); (on_goal 1 => subst xx)) | (refine Kept.use (P := OptKept e0_ xx) ?_ (fun hx => ?_); (on_goal 2 => clear_value xx); (on_goal 1 => subst xx)) | (refine Kept.use (P := Kept e0_ (Prod.fst (α := State) xx)) ?_ (fun hx => ?_); (on_goal 2 => clear_value xx); (on_goal 1 => subst xx)) | (refine Kept.use (P := Kept e0_ (Prod.snd (β := State) xx)) ?_ (fun hx => ?_); (on_goal 2 => clear_value xx); (on_goal 1 => subst xx)) | (refine Kept.use (P := OptFst e0_ xx) ?_ (fun hx => ?_); (on_goal 2 => clear_value xx); (on_goal 1 => subst xx)) | (refine Kept.use (P := ExcKept e0_ xx) ?_ (fun hx => ?_); (on_goal 2 => clear_value xx); (on_goal 1 => subst xx)) | (have yy : _ → _ := xx; clear yy; subst xx) | (have yy : Memories := xx; clear yy; subst xx) | (have yy : Vault := xx; clear yy; subst xx) | (have yy : HostEnv := xx; clear yy; subst xx) | clear_value xx)
    | split | rw [mk_put] | (refine MemKept.mk ?_ ?_)

theorem kept_translationWalkOp {e0_ : State} (cid va : Nat) (write : Bool) (errs : List HwErr) (s : State) (h_s : Kept e0_ s) : Kept e0_ (translationWalkOp cid va write errs s) := by
  unfold translationWalkOp
  repeat' with_reducible first
    | assumption | exact Kept.refl _ | apply Kept.id_of | exact VaultKept.refl _ | exact MemKept.refl _ | exact HostKept.refl _
    | exact VaultKept.upd | exact MemKept.mk id id | exact id | exact (fun w => memWrite_wf w _ _) | exact (fun w => memZero_wf w _ _)
    | exact (fun w => Memory.wf_filter _ w) | apply kept_complete | apply kept_faultCommand | apply kept_stopCommand | apply kept_fatal
    | apply kept_applyErrs | apply kept_fillBuffers | apply OptKept.getD | apply Kept.put | apply Kept.ite
    | (refine Kept.foldl ?_ (fun _ _ _ => ?_)) | (refine Kept.foldl_fst ?_ (fun _ _ _ => ?_)) | (refine Kept.foldr ?_ (fun _ _ _ => ?_))
    | (fail_if_no_progress beta_reduce)
    | ((try lift_lets -underBinder); intro xx; first | (refine Kept.use (P := Kept e0_ xx) ?_ (fun hx => ?_); (on_goal 2 => clear_value xx); (on_goal 1 => subst xx)) | clear_value xx)
    | split | rw [mk_put] | (refine MemKept.mk ?_ ?_)

theorem kept_execTranslationWalk {e0_ : State} (cid va : Nat) (write : Bool) (errs : List HwErr) (s : State) (h_s : Kept e0_ s) : OutcomeKept e0_ (execTranslationWalk cid va write errs s) := by
  unfold execTranslationWalk
  repeat' with_reducible first
    | assumption | apply kept_translationWalkOp | apply OutcomeKept.answer

theorem kept_execKittyStepsExpiry {e0_ : State} (s : State) (h_s : Kept e0_ s) : OutcomeKept e0_ (execKittyStepsExpiry s) := by
  unfold execKittyStepsExpiry
  repeat' with_reducible first
    | assumption | exact Kept.refl _ | apply Kept.id_of | apply kept_kittyCause | apply OutcomeKept.answer
    | (refine PrepKept.mk (fun _ _ _ _ _ => ?_) (fun _ _ _ _ _ _ _ => ?_)) | apply OptKept.getD | (fail_if_no_progress beta_reduce)
    | split

end Sys2Proof.Laws
end

