-- ==== Sys2Proof/Laws/KeptDealer.lean ====
section
/-!
SUPPORT. Sys2Proof/Laws/KeptDealer.lean: what the operations of Machine/Dealer.lean keep (Laws/Kept.lean).
-/

set_option linter.unusedTactic false
set_option linter.unreachableTactic false
set_option linter.unusedVariables false

namespace Sys2Proof.Laws

open Sys2Proof.Machine Sys2Proof.Safety

theorem kept_sheetPut {e0_ : State} (s : State) (pa : Nat) (bs : List Byte) (h_s : Kept e0_ s) : Kept e0_ (sheetPut s pa bs) := by
  unfold sheetPut
  repeat' with_reducible first
    | assumption | apply kept_putMem | (fail_if_no_progress beta_reduce) | split

theorem kept_writeSheet {e0_ : State} (s : State) (d : Deal) (final : Bool) (closed : Stamp) (h_s : Kept e0_ s) : Kept e0_ (writeSheet s d final closed) := by
  unfold writeSheet
  repeat' with_reducible first
    | assumption | apply kept_sheetPut | (fail_if_no_progress beta_reduce) | split

theorem kept_dealSlot {e0_ : State} (seq : Nat) (s : State) (t : DealSlot) (h_s : Kept e0_ s) : Kept e0_ (dealSlot seq s t) := by
  unfold dealSlot
  repeat' with_reducible first
    | assumption | exact Kept.refl _ | apply Kept.id_of | exact VaultKept.refl _ | exact MemKept.refl _ | exact HostKept.refl _
    | exact VaultKept.upd | exact MemKept.mk id id | exact id | exact (fun w => memWrite_wf w _ _) | exact (fun w => memZero_wf w _ _)
    | exact (fun w => Memory.wf_filter _ w) | apply kept_modCtx | apply kept_putSpec | apply OptKept.getD | apply Kept.put
    | apply Kept.ite | (refine Kept.foldl ?_ (fun _ _ _ => ?_)) | (refine Kept.foldl_fst ?_ (fun _ _ _ => ?_))
    | (refine Kept.foldr ?_ (fun _ _ _ => ?_)) | (fail_if_no_progress beta_reduce)
    | ((try lift_lets -underBinder); intro xx; first | (refine Kept.use (P := Kept e0_ xx) ?_ (fun hx => ?_); (on_goal 2 => clear_value xx); (on_goal 1 => subst xx)) | clear_value xx)
    | split | rw [mk_put] | (refine MemKept.mk ?_ ?_)

theorem kept_writeReport {e0_ : State} (s : State) (t : DealSlot) (h_s : Kept e0_ s) : Kept e0_ (writeReport s t) := by
  unfold writeReport
  repeat' with_reducible first
    | assumption | exact Kept.refl _ | apply Kept.id_of | exact VaultKept.refl _ | exact MemKept.refl _ | exact HostKept.refl _
    | exact VaultKept.upd | exact MemKept.mk id id | exact id | exact (fun w => memWrite_wf w _ _) | exact (fun w => memZero_wf w _ _)
    | exact (fun w => Memory.wf_filter _ w) | apply kept_writeRuns | (refine Kept.fst_of (by assumption) ?_; apply kept_writeRuns)
    | apply OptKept.getD | apply Kept.put | apply Kept.ite | (refine Kept.foldl ?_ (fun _ _ _ => ?_))
    | (refine Kept.foldl_fst ?_ (fun _ _ _ => ?_)) | (refine Kept.foldr ?_ (fun _ _ _ => ?_)) | (fail_if_no_progress beta_reduce)
    | ((try lift_lets -underBinder); intro xx; first | (refine Kept.use (P := Kept e0_ xx) ?_ (fun hx => ?_); (on_goal 2 => clear_value xx); (on_goal 1 => subst xx)) | (refine Kept.use (P := OptKept e0_ xx) ?_ (fun hx => ?_); (on_goal 2 => clear_value xx); (on_goal 1 => subst xx)) | (refine Kept.use (P := Kept e0_ (Prod.fst (α := State) xx)) ?_ (fun hx => ?_); (on_goal 2 => clear_value xx); (on_goal 1 => subst xx)) | (refine Kept.use (P := Kept e0_ (Prod.snd (β := State) xx)) ?_ (fun hx => ?_); (on_goal 2 => clear_value xx); (on_goal 1 => subst xx)) | (refine Kept.use (P := OptFst e0_ xx) ?_ (fun hx => ?_); (on_goal 2 => clear_value xx); (on_goal 1 => subst xx)) | (refine Kept.use (P := ExcKept e0_ xx) ?_ (fun hx => ?_); (on_goal 2 => clear_value xx); (on_goal 1 => subst xx)) | (have yy : _ → _ := xx; clear yy; subst xx) | (have yy : Memories := xx; clear yy; subst xx) | (have yy : Vault := xx; clear yy; subst xx) | (have yy : HostEnv := xx; clear yy; subst xx) | clear_value xx)
    | split | rw [mk_put] | (refine MemKept.mk ?_ ?_)

theorem kept_slowAlert {e0_ : State} (s : State) (d : Deal) (h_s : Kept e0_ s) : Kept e0_ (slowAlert s d) := by
  unfold slowAlert
  repeat' with_reducible first
    | assumption | exact Kept.refl _ | apply Kept.id_of | exact VaultKept.refl _ | exact MemKept.refl _ | exact HostKept.refl _
    | exact VaultKept.upd | exact MemKept.mk id id | exact id | exact (fun w => memWrite_wf w _ _) | exact (fun w => memZero_wf w _ _)
    | exact (fun w => Memory.wf_filter _ w) | apply kept_raiseEvent | apply OptKept.getD | apply Kept.put | apply Kept.ite
    | (refine Kept.foldl ?_ (fun _ _ _ => ?_)) | (refine Kept.foldl_fst ?_ (fun _ _ _ => ?_)) | (refine Kept.foldr ?_ (fun _ _ _ => ?_))
    | (fail_if_no_progress beta_reduce)
    | ((try lift_lets -underBinder); intro xx; first | (refine Kept.use (P := Kept e0_ xx) ?_ (fun hx => ?_); (on_goal 2 => clear_value xx); (on_goal 1 => subst xx)) | clear_value xx)
    | split | rw [mk_put] | (refine MemKept.mk ?_ ?_)

theorem kept_pressure {e0_ : State} (s : State) (d : Deal) (h_s : Kept e0_ s) : Kept e0_ (pressure s d) := by
  unfold pressure
  repeat' with_reducible first
    | assumption | exact Kept.refl _ | apply Kept.id_of | exact VaultKept.refl _ | exact MemKept.refl _ | exact HostKept.refl _
    | exact VaultKept.upd | exact MemKept.mk id id | exact id | exact (fun w => memWrite_wf w _ _) | exact (fun w => memZero_wf w _ _)
    | exact (fun w => Memory.wf_filter _ w) | apply kept_raiseEvent | apply OptKept.getD | apply Kept.put
    | (fail_if_no_progress beta_reduce) | (refine Kept.foldl ?_ (fun _ _ _ => ?_)) | (refine Kept.foldl_fst ?_ (fun _ _ _ => ?_))
    | (refine Kept.foldr ?_ (fun _ _ _ => ?_)) | split | rw [mk_put] | (refine MemKept.mk ?_ ?_)

theorem kept_expireOpen {e0_ : State} (seq : Nat) (s : State) (c : Nat) (h_s : Kept e0_ s) : Kept e0_ (expireOpen seq s c) := by
  unfold expireOpen
  repeat' with_reducible first
    | assumption | exact Kept.refl _ | apply Kept.id_of | exact VaultKept.refl _ | exact MemKept.refl _ | exact HostKept.refl _
    | exact VaultKept.upd | exact MemKept.mk id id | exact id | exact (fun w => memWrite_wf w _ _) | exact (fun w => memZero_wf w _ _)
    | exact (fun w => Memory.wf_filter _ w) | apply kept_discardOpen | apply OptKept.getD | apply Kept.put | apply Kept.ite
    | (refine Kept.foldl ?_ (fun _ _ _ => ?_)) | (refine Kept.foldl_fst ?_ (fun _ _ _ => ?_)) | (refine Kept.foldr ?_ (fun _ _ _ => ?_))
    | (fail_if_no_progress beta_reduce)
    | ((try lift_lets -underBinder); intro xx; first | (refine Kept.use (P := Kept e0_ xx) ?_ (fun hx => ?_); (on_goal 2 => clear_value xx); (on_goal 1 => subst xx)) | clear_value xx)
    | split | rw [mk_put] | (refine MemKept.mk ?_ ?_)

theorem kept_releaseBoards {e0_ : State} (s : State) (seq : Nat) (h_s : Kept e0_ s) : Kept e0_ (releaseBoards s seq) := by
  unfold releaseBoards
  repeat' with_reducible first
    | assumption | exact Kept.refl _ | apply Kept.id_of | exact VaultKept.refl _ | exact MemKept.refl _ | exact HostKept.refl _
    | exact VaultKept.upd | exact MemKept.mk id id | exact id | exact (fun w => memWrite_wf w _ _) | exact (fun w => memZero_wf w _ _)
    | exact (fun w => Memory.wf_filter _ w) | apply OptKept.getD | apply Kept.put | (fail_if_no_progress beta_reduce)
    | (refine Kept.foldl ?_ (fun _ _ _ => ?_)) | (refine Kept.foldl_fst ?_ (fun _ _ _ => ?_)) | (refine Kept.foldr ?_ (fun _ _ _ => ?_))
    | split | rw [mk_put] | (refine MemKept.mk ?_ ?_)

theorem kept_goneSettle {e0_ : State} (s : State) (f : Flight) (h_s : Kept e0_ s) : Kept e0_ (goneSettle s f) := by
  unfold goneSettle
  repeat' with_reducible first
    | assumption | apply kept_complete | (fail_if_no_progress beta_reduce) | split

theorem kept_closeDeal {e0_ : State} (s : State) (h_s : Kept e0_ s) : Kept e0_ (closeDeal s) := by
  unfold closeDeal
  repeat' with_reducible first
    | assumption | exact Kept.refl _ | apply Kept.id_of | exact VaultKept.refl _ | exact MemKept.refl _ | exact HostKept.refl _
    | exact VaultKept.upd | exact MemKept.mk id id | exact id | exact (fun w => memWrite_wf w _ _) | exact (fun w => memZero_wf w _ _)
    | exact (fun w => Memory.wf_filter _ w) | apply kept_settle | apply kept_writeSheet | apply kept_writeReport | apply kept_slowAlert
    | apply kept_pressure | apply kept_expireOpen | apply kept_releaseBoards | apply kept_goneSettle | apply OptKept.getD
    | apply Kept.put | (fail_if_no_progress beta_reduce) | (refine Kept.foldl ?_ (fun _ _ _ => ?_))
    | (refine Kept.foldl_fst ?_ (fun _ _ _ => ?_)) | (refine Kept.foldr ?_ (fun _ _ _ => ?_)) | split | rw [mk_put]
    | (refine MemKept.mk ?_ ?_)

theorem kept_applyRetirements {e0_ : State} (s : State) (h_s : Kept e0_ s) : Kept e0_ (applyRetirements s) := by
  unfold applyRetirements
  repeat' with_reducible first
    | assumption | exact Kept.refl _ | apply Kept.id_of | exact VaultKept.refl _ | exact MemKept.refl _ | exact HostKept.refl _
    | exact VaultKept.upd | exact MemKept.mk id id | exact id | exact (fun w => memWrite_wf w _ _) | exact (fun w => memZero_wf w _ _)
    | exact (fun w => Memory.wf_filter _ w) | apply kept_retireEffective | apply OptKept.getD | apply Kept.put
    | (fail_if_no_progress beta_reduce) | (refine Kept.foldl ?_ (fun _ _ _ => ?_)) | (refine Kept.foldl_fst ?_ (fun _ _ _ => ?_))
    | (refine Kept.foldr ?_ (fun _ _ _ => ?_)) | split | rw [mk_put] | (refine MemKept.mk ?_ ?_)

theorem kept_endHolds {e0_ : State} (s : State) (h_s : Kept e0_ s) : Kept e0_ (endHolds s) := by
  unfold endHolds
  repeat' with_reducible first
    | assumption | exact Kept.refl _ | apply Kept.id_of | exact VaultKept.refl _ | exact MemKept.refl _ | exact HostKept.refl _
    | exact VaultKept.upd | exact MemKept.mk id id | exact id | exact (fun w => memWrite_wf w _ _) | exact (fun w => memZero_wf w _ _)
    | exact (fun w => Memory.wf_filter _ w) | apply kept_modCtx | apply OptKept.getD | apply Kept.put
    | (fail_if_no_progress beta_reduce) | (refine Kept.foldl ?_ (fun _ _ _ => ?_)) | (refine Kept.foldl_fst ?_ (fun _ _ _ => ?_))
    | (refine Kept.foldr ?_ (fun _ _ _ => ?_)) | split | rw [mk_put] | (refine MemKept.mk ?_ ?_)

theorem kept_applyConfig {e0_ : State} (s : State) (h_s : Kept e0_ s) : Kept e0_ (applyConfig s) := by
  unfold applyConfig
  repeat' with_reducible first
    | assumption | exact Kept.refl _ | apply Kept.id_of | exact VaultKept.refl _ | exact MemKept.refl _ | exact HostKept.refl _
    | exact VaultKept.upd | exact MemKept.mk id id | exact id | exact (fun w => memWrite_wf w _ _) | exact (fun w => memZero_wf w _ _)
    | exact (fun w => Memory.wf_filter _ w) | apply kept_sheetPut | apply OptKept.getD | apply Kept.put
    | (fail_if_no_progress beta_reduce) | (refine Kept.foldl ?_ (fun _ _ _ => ?_)) | (refine Kept.foldl_fst ?_ (fun _ _ _ => ?_))
    | (refine Kept.foldr ?_ (fun _ _ _ => ?_)) | split | rw [mk_put] | (refine MemKept.mk ?_ ?_)

theorem kept_openNext {e0_ : State} (s : State) (epoch : Nat) (f : Forming) (h_s : Kept e0_ s) : Kept e0_ (openNext s epoch f) := by
  unfold openNext
  repeat' with_reducible first
    | assumption | exact Kept.refl _ | apply Kept.id_of | exact VaultKept.refl _ | exact MemKept.refl _ | exact HostKept.refl _
    | exact VaultKept.upd | exact MemKept.mk id id | exact id | exact (fun w => memWrite_wf w _ _) | exact (fun w => memZero_wf w _ _)
    | exact (fun w => Memory.wf_filter _ w) | apply kept_countCutDeal | apply kept_sheetPut | apply kept_writeSheet
    | apply kept_dealSlot | apply OptKept.getD | apply Kept.put | (fail_if_no_progress beta_reduce)
    | (refine Kept.foldl ?_ (fun _ _ _ => ?_)) | (refine Kept.foldl_fst ?_ (fun _ _ _ => ?_)) | (refine Kept.foldr ?_ (fun _ _ _ => ?_))
    | split | rw [mk_put] | (refine MemKept.mk ?_ ?_)

theorem kept_bringAll {e0_ : State} (fore : List Nat) (s : State) (c : Nat) (h_s : Kept e0_ s) : Kept e0_ (bringAll fore s c) := by
  unfold bringAll
  repeat' with_reducible first
    | assumption | exact Kept.refl _ | apply Kept.id_of | exact VaultKept.refl _ | exact MemKept.refl _ | exact HostKept.refl _
    | exact VaultKept.upd | exact MemKept.mk id id | exact id | exact (fun w => memWrite_wf w _ _) | exact (fun w => memZero_wf w _ _)
    | exact (fun w => Memory.wf_filter _ w) | apply kept_bringBack | apply OptKept.getD | apply Kept.put
    | (fail_if_no_progress beta_reduce) | (refine Kept.fst_of (by assumption) ?_; apply kept_bringBack)
    | (refine Kept.foldl ?_ (fun _ _ _ => ?_)) | (refine Kept.foldl_fst ?_ (fun _ _ _ => ?_)) | (refine Kept.foldr ?_ (fun _ _ _ => ?_))
    | split | rw [mk_put] | (refine MemKept.mk ?_ ?_)

theorem kept_forecast {e0_ : State} (s : State) (h_s : Kept e0_ s) : Kept e0_ (forecast s) := by
  unfold forecast
  repeat' with_reducible first
    | assumption | exact Kept.refl _ | apply Kept.id_of | exact VaultKept.refl _ | exact MemKept.refl _ | exact HostKept.refl _
    | exact VaultKept.upd | exact MemKept.mk id id | exact id | exact (fun w => memWrite_wf w _ _) | exact (fun w => memZero_wf w _ _)
    | exact (fun w => Memory.wf_filter _ w) | apply kept_bringAll | apply OptKept.getD | apply Kept.put
    | (fail_if_no_progress beta_reduce) | (refine Kept.foldl ?_ (fun _ _ _ => ?_)) | (refine Kept.foldl_fst ?_ (fun _ _ _ => ?_))
    | (refine Kept.foldr ?_ (fun _ _ _ => ?_)) | split | rw [mk_put] | (refine MemKept.mk ?_ ?_)

theorem kept_boundary {e0_ : State} (s : State) (advanced : Bool) (h_s : Kept e0_ s) : Kept e0_ (boundary s advanced) := by
  unfold boundary
  repeat' with_reducible first
    | assumption | exact Kept.refl _ | apply Kept.id_of | exact VaultKept.refl _ | exact MemKept.refl _ | exact HostKept.refl _
    | exact VaultKept.upd | exact MemKept.mk id id | exact id | exact (fun w => memWrite_wf w _ _) | exact (fun w => memZero_wf w _ _)
    | exact (fun w => Memory.wf_filter _ w) | apply kept_advance | apply kept_settle | apply kept_makeCut | apply kept_closeDeal
    | apply kept_applyRetirements | apply kept_endHolds | apply kept_applyConfig | apply kept_openNext | apply kept_forecast
    | apply OptKept.getD | apply Kept.put | apply Kept.ite | (refine Kept.foldl ?_ (fun _ _ _ => ?_))
    | (refine Kept.foldl_fst ?_ (fun _ _ _ => ?_)) | (refine Kept.foldr ?_ (fun _ _ _ => ?_)) | (fail_if_no_progress beta_reduce)
    | ((try lift_lets -underBinder); intro xx; first | (refine Kept.use (P := Kept e0_ xx) ?_ (fun hx => ?_); (on_goal 2 => clear_value xx); (on_goal 1 => subst xx)) | clear_value xx)
    | split | rw [mk_put] | (refine MemKept.mk ?_ ?_)

theorem kept_dealBoundaryOp {e0_ : State} (errs : List HwErr) (s : State) (h_s : Kept e0_ s) : Kept e0_ (dealBoundaryOp errs s) := by
  unfold dealBoundaryOp
  repeat' with_reducible first
    | assumption | exact Kept.refl _ | apply Kept.id_of | exact VaultKept.refl _ | exact MemKept.refl _ | exact HostKept.refl _
    | exact VaultKept.upd | exact MemKept.mk id id | exact id | exact (fun w => memWrite_wf w _ _) | exact (fun w => memZero_wf w _ _)
    | exact (fun w => Memory.wf_filter _ w) | apply kept_applyErrs | apply kept_boundary | apply OptKept.getD | apply Kept.put
    | apply Kept.ite | (refine Kept.foldl ?_ (fun _ _ _ => ?_)) | (refine Kept.foldl_fst ?_ (fun _ _ _ => ?_))
    | (refine Kept.foldr ?_ (fun _ _ _ => ?_)) | (fail_if_no_progress beta_reduce)
    | ((try lift_lets -underBinder); intro xx; first | (refine Kept.use (P := Kept e0_ xx) ?_ (fun hx => ?_); (on_goal 2 => clear_value xx); (on_goal 1 => subst xx)) | clear_value xx)
    | split | rw [mk_put] | (refine MemKept.mk ?_ ?_)

theorem kept_dealOpenOp {e0_ : State} (errs : List HwErr) (s : State) (h_s : Kept e0_ s) : Kept e0_ (dealOpenOp errs s) := by
  unfold dealOpenOp
  repeat' with_reducible first
    | assumption | exact Kept.refl _ | apply Kept.id_of | exact VaultKept.refl _ | exact MemKept.refl _ | exact HostKept.refl _
    | exact VaultKept.upd | exact MemKept.mk id id | exact id | exact (fun w => memWrite_wf w _ _) | exact (fun w => memZero_wf w _ _)
    | exact (fun w => Memory.wf_filter _ w) | apply kept_applyErrs | apply kept_boundary | apply OptKept.getD | apply Kept.put
    | apply Kept.ite | (refine Kept.foldl ?_ (fun _ _ _ => ?_)) | (refine Kept.foldl_fst ?_ (fun _ _ _ => ?_))
    | (refine Kept.foldr ?_ (fun _ _ _ => ?_)) | (fail_if_no_progress beta_reduce)
    | ((try lift_lets -underBinder); intro xx; first | (refine Kept.use (P := Kept e0_ xx) ?_ (fun hx => ?_); (on_goal 2 => clear_value xx); (on_goal 1 => subst xx)) | clear_value xx)
    | split | rw [mk_put] | (refine MemKept.mk ?_ ?_)

theorem kept_execDealBoundary {e0_ : State} (errs : List HwErr) (s : State) (h_s : Kept e0_ s) : OutcomeKept e0_ (execDealBoundary errs s) := by
  unfold execDealBoundary
  repeat' with_reducible first
    | assumption | apply kept_dealBoundaryOp | apply OutcomeKept.answer

theorem kept_execDealOpen {e0_ : State} (errs : List HwErr) (s : State) (h_s : Kept e0_ s) : OutcomeKept e0_ (execDealOpen errs s) := by
  unfold execDealOpen
  repeat' with_reducible first
    | assumption | apply kept_dealOpenOp | apply OutcomeKept.answer

theorem kept_knDealerSetConfigBody   : BodyKept (knDealerSetConfigBody) := by
  intro e0_ s a f p h
  unfold knDealerSetConfigBody
  repeat' with_reducible first
    | assumption | exact Kept.refl _ | apply Kept.id_of | exact VaultKept.refl _ | exact MemKept.refl _ | exact HostKept.refl _
    | exact VaultKept.upd | exact MemKept.mk id id | exact id | exact (fun w => memWrite_wf w _ _) | exact (fun w => memZero_wf w _ _)
    | exact (fun w => Memory.wf_filter _ w) | apply kept_onAction | apply kept_slowAlert | exact PlanKept.noop | exact PlanKept.staged
    | exact PlanKept.vector | apply PlanKept.act | apply PlanKept.drain | apply PlanKept.wait | apply PlanKept.ended
    | apply PlanKept.ite | apply RunAll.ite | apply RunAll.pure | exact RunAll.stop | exact RunAll.finish | exact RunAll.denied
    | exact RunAll.absent | exact RunAll.sealed | (refine RunAll.lift (fun _ _ => ?_)) | (refine RunAll.bind (fun _ => ?_))
    | apply Kept.put | (fail_if_no_progress beta_reduce) | (refine Kept.foldl ?_ (fun _ _ _ => ?_))
    | (refine Kept.foldl_fst ?_ (fun _ _ _ => ?_)) | (refine Kept.foldr ?_ (fun _ _ _ => ?_)) | split | rw [mk_put]
    | (refine MemKept.mk ?_ ?_)

theorem kept_knDealerSetAnteBody   : BodyKept (knDealerSetAnteBody) := by
  intro e0_ s a f p h
  unfold knDealerSetAnteBody
  repeat' with_reducible first
    | assumption | exact Kept.refl _ | apply Kept.id_of | exact VaultKept.refl _ | exact MemKept.refl _ | exact HostKept.refl _
    | exact VaultKept.upd | exact MemKept.mk id id | exact id | exact (fun w => memWrite_wf w _ _) | exact (fun w => memZero_wf w _ _)
    | exact (fun w => Memory.wf_filter _ w) | apply kept_resizeAnte | apply kept_onAction | exact PlanKept.noop | exact PlanKept.staged
    | exact PlanKept.vector | apply PlanKept.act | apply PlanKept.drain | apply PlanKept.wait | apply PlanKept.ended
    | apply PlanKept.ite | apply RunAll.ite | apply RunAll.pure | exact RunAll.stop | exact RunAll.finish | exact RunAll.denied
    | exact RunAll.absent | exact RunAll.sealed | (refine RunAll.lift (fun _ _ => ?_)) | (refine RunAll.bind (fun _ => ?_))
    | apply Kept.put | (fail_if_no_progress beta_reduce) | (refine Kept.foldl ?_ (fun _ _ _ => ?_))
    | (refine Kept.foldl_fst ?_ (fun _ _ _ => ?_)) | (refine Kept.foldr ?_ (fun _ _ _ => ?_)) | split | rw [mk_put]
    | (refine MemKept.mk ?_ ?_)

theorem kept_onServe {e0_ : State} (p : List Byte) (mine : Nat) (act : Run Plan) (h : RunKept e0_ act) : RunKept e0_ (onServe p mine act) := by
  unfold onServe
  repeat' with_reducible first
    | assumption | exact Kept.refl _ | apply Kept.id_of | exact VaultKept.refl _ | exact MemKept.refl _ | exact HostKept.refl _
    | exact VaultKept.upd | exact MemKept.mk id id | exact id | exact (fun w => memWrite_wf w _ _) | exact (fun w => memZero_wf w _ _)
    | exact (fun w => Memory.wf_filter _ w) | exact h | apply kept_onAction | exact PlanKept.noop | exact PlanKept.staged
    | exact PlanKept.vector | apply PlanKept.act | apply PlanKept.drain | apply PlanKept.wait | apply PlanKept.ended
    | apply PlanKept.ite | apply RunAll.ite | apply RunAll.pure | exact RunAll.stop | exact RunAll.finish | exact RunAll.denied
    | exact RunAll.absent | exact RunAll.sealed | (refine RunAll.lift (fun _ _ => ?_)) | (refine RunAll.bind (fun _ => ?_))
    | apply OptKept.getD | apply Kept.put | apply Kept.ite | (refine Kept.foldl ?_ (fun _ _ _ => ?_))
    | (refine Kept.foldl_fst ?_ (fun _ _ _ => ?_)) | (refine Kept.foldr ?_ (fun _ _ _ => ?_)) | (fail_if_no_progress beta_reduce)
    | ((try lift_lets -underBinder); intro xx; first | (refine Kept.use (P := Kept e0_ xx) ?_ (fun hx => ?_); (on_goal 2 => clear_value xx); (on_goal 1 => subst xx)) | (refine Kept.use (P := OptKept e0_ xx) ?_ (fun hx => ?_); (on_goal 2 => clear_value xx); (on_goal 1 => subst xx)) | (refine Kept.use (P := Kept e0_ (Prod.fst (α := State) xx)) ?_ (fun hx => ?_); (on_goal 2 => clear_value xx); (on_goal 1 => subst xx)) | (refine Kept.use (P := Kept e0_ (Prod.snd (β := State) xx)) ?_ (fun hx => ?_); (on_goal 2 => clear_value xx); (on_goal 1 => subst xx)) | (refine Kept.use (P := OptFst e0_ xx) ?_ (fun hx => ?_); (on_goal 2 => clear_value xx); (on_goal 1 => subst xx)) | (refine Kept.use (P := ExcKept e0_ xx) ?_ (fun hx => ?_); (on_goal 2 => clear_value xx); (on_goal 1 => subst xx)) | (have yy : _ → _ := xx; clear yy; subst xx) | (have yy : Memories := xx; clear yy; subst xx) | (have yy : Vault := xx; clear yy; subst xx) | (have yy : HostEnv := xx; clear yy; subst xx) | clear_value xx)
    | split | rw [mk_put] | (refine MemKept.mk ?_ ?_)

theorem kept_knDealerSetServeBindBody   : BodyKept (knDealerSetServeBindBody) := by
  intro e0_ s a f p h
  unfold knDealerSetServeBindBody
  repeat' with_reducible first
    | assumption | exact Kept.refl _ | apply Kept.id_of | exact VaultKept.refl _ | exact MemKept.refl _ | exact HostKept.refl _
    | exact VaultKept.upd | exact MemKept.mk id id | exact id | exact (fun w => memWrite_wf w _ _) | exact (fun w => memZero_wf w _ _)
    | exact (fun w => Memory.wf_filter _ w) | apply kept_sheetPut | apply kept_onServe | exact PlanKept.noop | exact PlanKept.staged
    | exact PlanKept.vector | apply PlanKept.act | apply PlanKept.drain | apply PlanKept.wait | apply PlanKept.ended
    | apply PlanKept.ite | apply RunAll.ite | apply RunAll.pure | exact RunAll.stop | exact RunAll.finish | exact RunAll.denied
    | exact RunAll.absent | exact RunAll.sealed | (refine RunAll.lift (fun _ _ => ?_)) | (refine RunAll.bind (fun _ => ?_))
    | apply Kept.put | (fail_if_no_progress beta_reduce) | (refine Kept.foldl ?_ (fun _ _ _ => ?_))
    | (refine Kept.foldl_fst ?_ (fun _ _ _ => ?_)) | (refine Kept.foldr ?_ (fun _ _ _ => ?_)) | split | rw [mk_put]
    | (refine MemKept.mk ?_ ?_)

theorem kept_knDealerSetServeUnbindBody   : BodyKept (knDealerSetServeUnbindBody) := by
  intro e0_ s a f p h
  unfold knDealerSetServeUnbindBody
  repeat' with_reducible first
    | assumption | exact Kept.refl _ | apply Kept.id_of | exact VaultKept.refl _ | exact MemKept.refl _ | exact HostKept.refl _
    | exact VaultKept.upd | exact MemKept.mk id id | exact id | exact (fun w => memWrite_wf w _ _) | exact (fun w => memZero_wf w _ _)
    | exact (fun w => Memory.wf_filter _ w) | apply kept_onServe | exact PlanKept.noop | exact PlanKept.staged | exact PlanKept.vector
    | apply PlanKept.act | apply PlanKept.drain | apply PlanKept.wait | apply PlanKept.ended | apply PlanKept.ite | apply RunAll.ite
    | apply RunAll.pure | exact RunAll.stop | exact RunAll.finish | exact RunAll.denied | exact RunAll.absent | exact RunAll.sealed
    | (refine RunAll.lift (fun _ _ => ?_)) | (refine RunAll.bind (fun _ => ?_)) | apply Kept.put | (fail_if_no_progress beta_reduce)
    | (refine Kept.foldl ?_ (fun _ _ _ => ?_)) | (refine Kept.foldl_fst ?_ (fun _ _ _ => ?_)) | (refine Kept.foldr ?_ (fun _ _ _ => ?_))
    | split | rw [mk_put] | (refine MemKept.mk ?_ ?_)

theorem kept_applyRequest {e0_ : State} (s : State) (e : List Byte) (h_s : Kept e0_ s) : Kept e0_ (applyRequest s e) := by
  unfold applyRequest
  repeat' with_reducible first
    | assumption | exact Kept.refl _ | apply Kept.id_of | exact VaultKept.refl _ | exact MemKept.refl _ | exact HostKept.refl _
    | exact VaultKept.upd | exact MemKept.mk id id | exact id | exact (fun w => memWrite_wf w _ _) | exact (fun w => memZero_wf w _ _)
    | exact (fun w => Memory.wf_filter _ w) | apply OptKept.getD | apply Kept.put | (fail_if_no_progress beta_reduce)
    | (refine Kept.foldl ?_ (fun _ _ _ => ?_)) | (refine Kept.foldl_fst ?_ (fun _ _ _ => ?_)) | (refine Kept.foldr ?_ (fun _ _ _ => ?_))
    | split | rw [mk_put] | (refine MemKept.mk ?_ ?_)

theorem kept_knDealerSetRequestBody   : BodyKept (knDealerSetRequestBody) := by
  intro e0_ s a f p h
  unfold knDealerSetRequestBody
  repeat' with_reducible first
    | assumption | exact Kept.refl _ | apply Kept.id_of | exact VaultKept.refl _ | exact MemKept.refl _ | exact HostKept.refl _
    | exact VaultKept.upd | exact MemKept.mk id id | exact id | exact (fun w => memWrite_wf w _ _) | exact (fun w => memZero_wf w _ _)
    | exact (fun w => Memory.wf_filter _ w) | apply kept_onAction | apply kept_applyRequest | exact PlanKept.noop
    | exact PlanKept.staged | exact PlanKept.vector | apply PlanKept.act | apply PlanKept.drain | apply PlanKept.wait
    | apply PlanKept.ended | apply PlanKept.ite | apply RunAll.ite | apply RunAll.pure | exact RunAll.stop | exact RunAll.finish
    | exact RunAll.denied | exact RunAll.absent | exact RunAll.sealed | (refine RunAll.lift (fun _ _ => ?_))
    | (refine RunAll.bind (fun _ => ?_)) | apply Kept.put | (fail_if_no_progress beta_reduce) | (refine Kept.foldl ?_ (fun _ _ _ => ?_))
    | (refine Kept.foldl_fst ?_ (fun _ _ _ => ?_)) | (refine Kept.foldr ?_ (fun _ _ _ => ?_)) | split | rw [mk_put]
    | (refine MemKept.mk ?_ ?_)

theorem kept_knDealerSetAdvanceBody   : BodyKept (knDealerSetAdvanceBody) := by
  intro e0_ s a f p h
  unfold knDealerSetAdvanceBody
  repeat' with_reducible first
    | assumption | apply kept_onAction | apply kept_boundary | (refine RunAll.bind (fun _ => ?_)) | apply RunAll.pure
    | apply PlanKept.act | exact PlanKept.staged | (fail_if_no_progress beta_reduce) | split

theorem kept_execKnDealerSetConfig {e0_ : State} (st : Start) (s : State) (h_s : Kept e0_ s) : OutcomeKept e0_ (execKnDealerSetConfig st s) := by
  unfold execKnDealerSetConfig
  repeat' with_reducible first
    | assumption | apply kept_startHub | exact kept_knDealerSetConfigBody | apply kept_knDealerSetConfigBody
    | (refine BodyKept.use (by apply kept_knDealerSetConfigBody) ?_) | apply OutcomeKept.answer

theorem kept_execKnDealerSetAnte {e0_ : State} (st : Start) (s : State) (h_s : Kept e0_ s) : OutcomeKept e0_ (execKnDealerSetAnte st s) := by
  unfold execKnDealerSetAnte
  repeat' with_reducible first
    | assumption | apply kept_startHub | exact kept_knDealerSetAnteBody | apply kept_knDealerSetAnteBody
    | (refine BodyKept.use (by apply kept_knDealerSetAnteBody) ?_) | apply OutcomeKept.answer

theorem kept_execKnDealerSetServeBind {e0_ : State} (st : Start) (s : State) (h_s : Kept e0_ s) : OutcomeKept e0_ (execKnDealerSetServeBind st s) := by
  unfold execKnDealerSetServeBind
  repeat' with_reducible first
    | assumption | apply kept_startHub | exact kept_knDealerSetServeBindBody | apply kept_knDealerSetServeBindBody
    | (refine BodyKept.use (by apply kept_knDealerSetServeBindBody) ?_) | apply OutcomeKept.answer

theorem kept_execKnDealerSetServeUnbind {e0_ : State} (st : Start) (s : State) (h_s : Kept e0_ s) : OutcomeKept e0_ (execKnDealerSetServeUnbind st s) := by
  unfold execKnDealerSetServeUnbind
  repeat' with_reducible first
    | assumption | apply kept_startHub | exact kept_knDealerSetServeUnbindBody | apply kept_knDealerSetServeUnbindBody
    | (refine BodyKept.use (by apply kept_knDealerSetServeUnbindBody) ?_) | apply OutcomeKept.answer

theorem kept_execKnDealerSetRequest {e0_ : State} (st : Start) (s : State) (h_s : Kept e0_ s) : OutcomeKept e0_ (execKnDealerSetRequest st s) := by
  unfold execKnDealerSetRequest
  repeat' with_reducible first
    | assumption | apply kept_startHub | exact kept_knDealerSetRequestBody | apply kept_knDealerSetRequestBody
    | (refine BodyKept.use (by apply kept_knDealerSetRequestBody) ?_) | apply OutcomeKept.answer

theorem kept_execKnDealerSetAdvance {e0_ : State} (st : Start) (s : State) (h_s : Kept e0_ s) : OutcomeKept e0_ (execKnDealerSetAdvance st s) := by
  unfold execKnDealerSetAdvance
  repeat' with_reducible first
    | assumption | apply kept_startHub | exact kept_knDealerSetAdvanceBody | apply kept_knDealerSetAdvanceBody
    | (refine BodyKept.use (by apply kept_knDealerSetAdvanceBody) ?_) | apply OutcomeKept.answer

end Sys2Proof.Laws
end

