-- ==== Sys2Proof/Laws/KeptContext.lean ====
section
/-!
SUPPORT. Sys2Proof/Laws/KeptContext.lean: what the operations of Machine/Context.lean keep (Laws/Kept.lean).
-/

set_option linter.unusedTactic false
set_option linter.unreachableTactic false
set_option linter.unusedVariables false

namespace Sys2Proof.Laws

open Sys2Proof.Machine Sys2Proof.Safety

theorem kept_ctxRow {e0_ : State} (s : State) (p : List Byte) (act : Nat) (act' : Run Plan) (h : RunKept e0_ act') : RunKept e0_ (ctxRow s p act act') := by
  unfold ctxRow
  repeat' with_reducible first
    | assumption | exact Kept.refl _ | apply Kept.id_of | exact VaultKept.refl _ | exact MemKept.refl _ | exact HostKept.refl _
    | exact VaultKept.upd | exact MemKept.mk id id | exact id | exact (fun w => memWrite_wf w _ _) | exact (fun w => memZero_wf w _ _)
    | exact (fun w => Memory.wf_filter _ w) | exact h | apply kept_onAction | exact PlanKept.noop | exact PlanKept.staged
    | exact PlanKept.vector | apply PlanKept.act | apply PlanKept.drain | apply PlanKept.wait | apply PlanKept.ended
    | apply PlanKept.ite | apply RunAll.ite | apply RunAll.pure | exact RunAll.stop | exact RunAll.finish | exact RunAll.denied
    | exact RunAll.absent | exact RunAll.sealed | (refine RunAll.lift (fun _ _ => ?_)) | (refine RunAll.bind (fun _ => ?_))
    | apply OptKept.getD | apply Kept.put | apply Kept.ite | (refine Kept.foldl ?_ (fun _ _ _ => ?_))
    | (refine Kept.foldl_fst ?_ (fun _ _ _ => ?_)) | (refine Kept.foldr ?_ (fun _ _ _ => ?_)) | (fail_if_no_progress beta_reduce)
    | ((try lift_lets -underBinder); intro xx; first | (refine Kept.use (P := Kept e0_ xx) ?_ (fun hx => ?_); (on_goal 2 => clear_value xx); (on_goal 1 => subst xx)) | (refine Kept.use (P := OptKept e0_ xx) ?_ (fun hx => ?_); (on_goal 2 => clear_value xx); (on_goal 1 => subst xx)) | (refine Kept.use (P := Kept e0_ (Prod.fst (α := State) xx)) ?_ (fun hx => ?_); (on_goal 2 => clear_value xx); (on_goal 1 => subst xx)) | (refine Kept.use (P := Kept e0_ (Prod.snd (β := State) xx)) ?_ (fun hx => ?_); (on_goal 2 => clear_value xx); (on_goal 1 => subst xx)) | (refine Kept.use (P := OptFst e0_ xx) ?_ (fun hx => ?_); (on_goal 2 => clear_value xx); (on_goal 1 => subst xx)) | (refine Kept.use (P := ExcKept e0_ xx) ?_ (fun hx => ?_); (on_goal 2 => clear_value xx); (on_goal 1 => subst xx)) | (have yy : _ → _ := xx; clear yy; subst xx) | (have yy : Memories := xx; clear yy; subst xx) | (have yy : Vault := xx; clear yy; subst xx) | (have yy : HostEnv := xx; clear yy; subst xx) | clear_value xx)
    | split | rw [mk_put] | (refine MemKept.mk ?_ ?_)

theorem kept_setupKv {e0_ : State} (s : State) (area pool count pages : Nat) (h_s : Kept e0_ s) : Kept e0_ (setupKv s area pool count pages) := by
  unfold setupKv
  repeat' with_reducible first
    | assumption | exact Kept.refl _ | apply Kept.id_of | exact VaultKept.refl _ | exact MemKept.refl _ | exact HostKept.refl _
    | exact VaultKept.upd | exact MemKept.mk id id | exact id | exact (fun w => memWrite_wf w _ _) | exact (fun w => memZero_wf w _ _)
    | exact (fun w => Memory.wf_filter _ w) | apply kept_afterWrite | apply kept_zeroMem | apply OptKept.getD | apply Kept.put
    | (fail_if_no_progress beta_reduce) | (refine Kept.foldl ?_ (fun _ _ _ => ?_)) | (refine Kept.foldl_fst ?_ (fun _ _ _ => ?_))
    | (refine Kept.foldr ?_ (fun _ _ _ => ?_)) | split | rw [mk_put] | (refine MemKept.mk ?_ ?_)

theorem kept_knContextSetupBody   : BodyKept (knContextSetupBody) := by
  intro e0_ s a f p h
  unfold knContextSetupBody
  repeat' with_reducible first
    | assumption | apply kept_ctxRow | apply kept_setupKv | (refine RunAll.bind (fun _ => ?_)) | apply RunAll.pure | apply PlanKept.act
    | exact PlanKept.staged | (fail_if_no_progress beta_reduce) | split

theorem kept_knContextModelBody   : BodyKept (knContextModelBody) := by
  intro e0_ s a f p h
  unfold knContextModelBody
  repeat' with_reducible first
    | assumption | exact Kept.refl _ | apply Kept.id_of | exact VaultKept.refl _ | exact MemKept.refl _ | exact HostKept.refl _
    | exact VaultKept.upd | exact MemKept.mk id id | exact id | exact (fun w => memWrite_wf w _ _) | exact (fun w => memZero_wf w _ _)
    | exact (fun w => Memory.wf_filter _ w) | apply kept_putMem | apply kept_ctxRow | exact PlanKept.noop | exact PlanKept.staged
    | exact PlanKept.vector | apply PlanKept.act | apply PlanKept.drain | apply PlanKept.wait | apply PlanKept.ended
    | apply PlanKept.ite | apply RunAll.ite | apply RunAll.pure | exact RunAll.stop | exact RunAll.finish | exact RunAll.denied
    | exact RunAll.absent | exact RunAll.sealed | (refine RunAll.lift (fun _ _ => ?_)) | (refine RunAll.bind (fun _ => ?_))
    | apply Kept.put | (fail_if_no_progress beta_reduce) | (refine Kept.fst_of (by assumption) ?_; apply kept_putMem)
    | (refine Kept.foldl ?_ (fun _ _ _ => ?_)) | (refine Kept.foldl_fst ?_ (fun _ _ _ => ?_)) | (refine Kept.foldr ?_ (fun _ _ _ => ?_))
    | split | rw [mk_put] | (refine MemKept.mk ?_ ?_)

theorem kept_knContextRegisterBody   : BodyKept (knContextRegisterBody) := by
  intro e0_ s a f p h
  unfold knContextRegisterBody
  repeat' with_reducible first
    | assumption | exact Kept.refl _ | apply Kept.id_of | exact VaultKept.refl _ | exact MemKept.refl _ | exact HostKept.refl _
    | exact VaultKept.upd | exact MemKept.mk id id | exact id | exact (fun w => memWrite_wf w _ _) | exact (fun w => memZero_wf w _ _)
    | exact (fun w => Memory.wf_filter _ w) | apply kept_putCtx | apply kept_zeroMem | apply kept_allocPage | apply kept_ctxRow | exact PlanKept.noop
    | exact PlanKept.staged | exact PlanKept.vector | apply PlanKept.act | apply PlanKept.drain | apply PlanKept.wait
    | apply PlanKept.ended | apply PlanKept.ite | apply RunAll.ite | apply RunAll.pure | exact RunAll.stop | exact RunAll.finish
    | exact RunAll.denied | exact RunAll.absent | exact RunAll.sealed | (refine RunAll.lift (fun _ _ => ?_))
    | (refine RunAll.bind (fun _ => ?_)) | apply Kept.put | (fail_if_no_progress beta_reduce)
    | (refine OptFst.get (by assumption) ?_; apply kept_allocPage) | (refine OptFst.get1 (by assumption) ?_; apply kept_allocPage)
    | (refine Kept.foldl ?_ (fun _ _ _ => ?_)) | (refine Kept.foldl_fst ?_ (fun _ _ _ => ?_)) | (refine Kept.foldr ?_ (fun _ _ _ => ?_))
    | split | rw [mk_put] | (refine MemKept.mk ?_ ?_)

theorem kept_knContextReleaseBody   : BodyKept (knContextReleaseBody) := by
  intro e0_ s a f p h
  unfold knContextReleaseBody
  repeat' with_reducible first
    | assumption | exact Kept.refl _ | apply Kept.id_of | apply kept_modCtx | apply kept_discardOpen | apply kept_ctxRow
    | exact PlanKept.noop | exact PlanKept.staged | exact PlanKept.vector | apply PlanKept.act | apply PlanKept.drain
    | apply PlanKept.wait | apply PlanKept.ended | apply PlanKept.ite | apply RunAll.ite | apply RunAll.pure | exact RunAll.stop
    | exact RunAll.finish | exact RunAll.denied | exact RunAll.absent | exact RunAll.sealed | (refine RunAll.lift (fun _ _ => ?_))
    | (refine RunAll.bind (fun _ => ?_)) | (fail_if_no_progress beta_reduce) | split

theorem kept_knContextTrimBody   : BodyKept (knContextTrimBody) := by
  intro e0_ s a f p h
  unfold knContextTrimBody
  repeat' with_reducible first
    | assumption | exact Kept.refl _ | apply Kept.id_of | apply kept_discardOpen | apply kept_ctxRow | exact PlanKept.noop
    | exact PlanKept.staged | exact PlanKept.vector | apply PlanKept.act | apply PlanKept.drain | apply PlanKept.wait
    | apply PlanKept.ended | apply PlanKept.ite | apply RunAll.ite | apply RunAll.pure | exact RunAll.stop | exact RunAll.finish
    | exact RunAll.denied | exact RunAll.absent | exact RunAll.sealed | (refine RunAll.lift (fun _ _ => ?_))
    | (refine RunAll.bind (fun _ => ?_)) | (fail_if_no_progress beta_reduce) | split

theorem kept_knContextGrantBody   : BodyKept (knContextGrantBody) := by
  intro e0_ s a f p h
  unfold knContextGrantBody
  repeat' with_reducible first
    | assumption | exact Kept.refl _ | apply Kept.id_of | exact VaultKept.refl _ | exact MemKept.refl _ | exact HostKept.refl _
    | exact VaultKept.upd | exact MemKept.mk id id | exact id | exact (fun w => memWrite_wf w _ _) | exact (fun w => memZero_wf w _ _)
    | exact (fun w => Memory.wf_filter _ w) | apply kept_ctxRow | exact PlanKept.noop | exact PlanKept.staged | exact PlanKept.vector
    | apply PlanKept.act | apply PlanKept.drain | apply PlanKept.wait | apply PlanKept.ended | apply PlanKept.ite | apply RunAll.ite
    | apply RunAll.pure | exact RunAll.stop | exact RunAll.finish | exact RunAll.denied | exact RunAll.absent | exact RunAll.sealed
    | (refine RunAll.lift (fun _ _ => ?_)) | (refine RunAll.bind (fun _ => ?_)) | apply Kept.put | (fail_if_no_progress beta_reduce)
    | (refine Kept.foldl ?_ (fun _ _ _ => ?_)) | (refine Kept.foldl_fst ?_ (fun _ _ _ => ?_)) | (refine Kept.foldr ?_ (fun _ _ _ => ?_))
    | split | rw [mk_put] | (refine MemKept.mk ?_ ?_)

theorem kept_knContextRingBody   : BodyKept (knContextRingBody) := by
  intro e0_ s a f p h
  unfold knContextRingBody
  repeat' with_reducible first
    | assumption | exact Kept.refl _ | apply Kept.id_of | exact VaultKept.refl _ | exact MemKept.refl _ | exact HostKept.refl _
    | exact VaultKept.upd | exact MemKept.mk id id | exact id | exact (fun w => memWrite_wf w _ _) | exact (fun w => memZero_wf w _ _)
    | exact (fun w => Memory.wf_filter _ w) | apply kept_ctxRow | exact PlanKept.noop | exact PlanKept.staged | exact PlanKept.vector
    | apply PlanKept.act | apply PlanKept.drain | apply PlanKept.wait | apply PlanKept.ended | apply PlanKept.ite | apply RunAll.ite
    | apply RunAll.pure | exact RunAll.stop | exact RunAll.finish | exact RunAll.denied | exact RunAll.absent | exact RunAll.sealed
    | (refine RunAll.lift (fun _ _ => ?_)) | (refine RunAll.bind (fun _ => ?_)) | apply Kept.put | (fail_if_no_progress beta_reduce)
    | (refine Kept.foldl ?_ (fun _ _ _ => ?_)) | (refine Kept.foldl_fst ?_ (fun _ _ _ => ?_)) | (refine Kept.foldr ?_ (fun _ _ _ => ?_))
    | split | rw [mk_put] | (refine MemKept.mk ?_ ?_)

theorem kept_knContextQueryBody   : BodyKept (knContextQueryBody) := by
  intro e0_ s a f p h
  unfold knContextQueryBody
  repeat' with_reducible first
    | assumption | apply kept_copyOut | apply kept_ctxRow | (refine RunAll.bind (fun _ => ?_)) | apply RunAll.pure | apply PlanKept.act
    | exact PlanKept.staged | (fail_if_no_progress beta_reduce) | split

theorem kept_execKnContextSetup {e0_ : State} (st : Start) (s : State) (h_s : Kept e0_ s) : OutcomeKept e0_ (execKnContextSetup st s) := by
  unfold execKnContextSetup
  repeat' with_reducible first
    | assumption | apply kept_startHub | exact kept_knContextSetupBody | apply kept_knContextSetupBody
    | (refine BodyKept.use (by apply kept_knContextSetupBody) ?_) | apply OutcomeKept.answer

theorem kept_execKnContextModel {e0_ : State} (st : Start) (s : State) (h_s : Kept e0_ s) : OutcomeKept e0_ (execKnContextModel st s) := by
  unfold execKnContextModel
  repeat' with_reducible first
    | assumption | apply kept_startHub | exact kept_knContextModelBody | apply kept_knContextModelBody
    | (refine BodyKept.use (by apply kept_knContextModelBody) ?_) | apply OutcomeKept.answer

theorem kept_execKnContextRegister {e0_ : State} (st : Start) (s : State) (h_s : Kept e0_ s) : OutcomeKept e0_ (execKnContextRegister st s) := by
  unfold execKnContextRegister
  repeat' with_reducible first
    | assumption | apply kept_startHub | exact kept_knContextRegisterBody | apply kept_knContextRegisterBody
    | (refine BodyKept.use (by apply kept_knContextRegisterBody) ?_) | apply OutcomeKept.answer

theorem kept_execKnContextRelease {e0_ : State} (st : Start) (s : State) (h_s : Kept e0_ s) : OutcomeKept e0_ (execKnContextRelease st s) := by
  unfold execKnContextRelease
  repeat' with_reducible first
    | assumption | apply kept_startHub | exact kept_knContextReleaseBody | apply kept_knContextReleaseBody
    | (refine BodyKept.use (by apply kept_knContextReleaseBody) ?_) | apply OutcomeKept.answer

theorem kept_execKnContextTrim {e0_ : State} (st : Start) (s : State) (h_s : Kept e0_ s) : OutcomeKept e0_ (execKnContextTrim st s) := by
  unfold execKnContextTrim
  repeat' with_reducible first
    | assumption | apply kept_startHub | exact kept_knContextTrimBody | apply kept_knContextTrimBody
    | (refine BodyKept.use (by apply kept_knContextTrimBody) ?_) | apply OutcomeKept.answer

theorem kept_execKnContextGrant {e0_ : State} (st : Start) (s : State) (h_s : Kept e0_ s) : OutcomeKept e0_ (execKnContextGrant st s) := by
  unfold execKnContextGrant
  repeat' with_reducible first
    | assumption | apply kept_startHub | exact kept_knContextGrantBody | apply kept_knContextGrantBody
    | (refine BodyKept.use (by apply kept_knContextGrantBody) ?_) | apply OutcomeKept.answer

theorem kept_execKnContextRing {e0_ : State} (st : Start) (s : State) (h_s : Kept e0_ s) : OutcomeKept e0_ (execKnContextRing st s) := by
  unfold execKnContextRing
  repeat' with_reducible first
    | assumption | apply kept_startHub | exact kept_knContextRingBody | apply kept_knContextRingBody
    | (refine BodyKept.use (by apply kept_knContextRingBody) ?_) | apply OutcomeKept.answer

theorem kept_execKnContextQuery {e0_ : State} (st : Start) (s : State) (h_s : Kept e0_ s) : OutcomeKept e0_ (execKnContextQuery st s) := by
  unfold execKnContextQuery
  repeat' with_reducible first
    | assumption | apply kept_startHub | exact kept_knContextQueryBody | apply kept_knContextQueryBody
    | (refine BodyKept.use (by apply kept_knContextQueryBody) ?_) | apply OutcomeKept.answer

end Sys2Proof.Laws
end

