-- ==== Sys2Proof/Laws/KeptAttend.lean ====
section
/-!
SUPPORT. Sys2Proof/Laws/KeptAttend.lean: what the operations of Machine/Attend.lean keep (Laws/Kept.lean).
-/

set_option linter.unusedTactic false
set_option linter.unreachableTactic false
set_option linter.unusedVariables false

namespace Sys2Proof.Laws

open Sys2Proof.Machine Sys2Proof.Safety

theorem kept_prepEntries {e0_ : State} (j : AtJob) (bar : Nat → Nat × Nat) (step : State → AtEntry → State × Except Stop RowFail) (s : State) (h : Kept e0_ s)
    (hs : ∀ t x, Kept e0_ t → Kept e0_ (step t x).1) : Kept e0_ (prepEntries j bar step s).1 := by
  unfold prepEntries
  refine Kept.foldl_fst h fun t e ht => ?_
  have h1 := hs t.1 e ht
  split
  · exact ht
  · split
    · exact ht
    · split
      · exact ht
      · split
        · rename_i s1 q hq; exact Kept.fst_of hq h1
        · rename_i s1 hq; exact Kept.fst_of hq h1
        · rename_i s1 st q hq; exact Kept.fst_of hq h1

theorem kept_eachUntil {e0_ : State} {α : Type} (step : State → α → State × Except Stop RowFail) (l : List α) (s : State) (h : Kept e0_ s)
    (hs : ∀ t x, Kept e0_ t → Kept e0_ (step t x).1) : Kept e0_ (eachUntil step l s).1 := by
  induction l generalizing s with
  | nil => exact h
  | cons x l ih =>
    simp only [eachUntil]
    have h1 := hs s x h
    split
    · rename_i s1 hq
      exact ih s1 (Kept.fst_of hq h1)
    · exact h1

theorem kept_finishMarks {e0_ : State} (s : State) (f : Flight) (named : List (Nat × (Nat × Nat))) (go : List (Nat × Nat) → Run Plan)
    (h_s : Kept e0_ s) (hgo : ∀ m, RunKept e0_ (go m)) : RunKept e0_ (finishMarks s f named go) := by
  unfold finishMarks
  repeat' with_reducible first
    | assumption | exact Kept.refl _ | apply Kept.id_of | exact VaultKept.refl _ | exact MemKept.refl _ | exact HostKept.refl _
    | exact VaultKept.upd | exact MemKept.mk id id | exact id | exact (fun w => memWrite_wf w _ _) | exact (fun w => memZero_wf w _ _)
    | exact (fun w => Memory.wf_filter _ w) | (exact hgo _) | apply kept_chargeMarks | exact PlanKept.noop | exact PlanKept.staged
    | exact PlanKept.vector | apply PlanKept.act | apply PlanKept.drain | apply PlanKept.wait | apply PlanKept.ended
    | apply PlanKept.ite | apply RunAll.ite | apply RunAll.pure | exact RunAll.stop | exact RunAll.finish | exact RunAll.denied
    | exact RunAll.absent | exact RunAll.sealed | (refine RunAll.lift (fun _ _ => ?_)) | (refine RunAll.bind (fun _ => ?_))
    | apply OptKept.getD | apply Kept.put | apply Kept.ite | (refine Kept.foldl ?_ (fun _ _ _ => ?_))
    | (refine Kept.foldl_fst ?_ (fun _ _ _ => ?_)) | (refine Kept.foldr ?_ (fun _ _ _ => ?_)) | (fail_if_no_progress beta_reduce)
    | ((try lift_lets -underBinder); intro xx; first | (refine Kept.use (P := Kept e0_ xx) ?_ (fun hx => ?_); (on_goal 2 => clear_value xx); (on_goal 1 => subst xx)) | (refine Kept.use (P := OptKept e0_ xx) ?_ (fun hx => ?_); (on_goal 2 => clear_value xx); (on_goal 1 => subst xx)) | (refine Kept.use (P := Kept e0_ (Prod.fst (α := State) xx)) ?_ (fun hx => ?_); (on_goal 2 => clear_value xx); (on_goal 1 => subst xx)) | (refine Kept.use (P := Kept e0_ (Prod.snd (β := State) xx)) ?_ (fun hx => ?_); (on_goal 2 => clear_value xx); (on_goal 1 => subst xx)) | (refine Kept.use (P := OptFst e0_ xx) ?_ (fun hx => ?_); (on_goal 2 => clear_value xx); (on_goal 1 => subst xx)) | (refine Kept.use (P := ExcKept e0_ xx) ?_ (fun hx => ?_); (on_goal 2 => clear_value xx); (on_goal 1 => subst xx)) | (have yy : _ → _ := xx; clear yy; subst xx) | (have yy : Memories := xx; clear yy; subst xx) | (have yy : Vault := xx; clear yy; subst xx) | (have yy : HostEnv := xx; clear yy; subst xx) | clear_value xx)
    | split | rw [mk_put] | (refine MemKept.mk ?_ ?_)

theorem kept_appendPages {e0_ : State} (f : Flight) (j : AtJob) (s : State) (e : AtEntry) (h_s : Kept e0_ s) : Kept e0_ (appendPages f j s e).1 := by
  unfold appendPages
  repeat' with_reducible first
    | assumption | apply kept_needMade | apply kept_needOpen | (refine kept_eachUntil _ _ _ ?_ (fun _ _ _ => ?_))
    | (fail_if_no_progress beta_reduce) | split

theorem kept_appendPrep {e0_ : State} (s : State) (f : Flight) (j : AtJob) (h_s : Kept e0_ s) : Kept e0_ (appendPrep s f j).1 := by
  unfold appendPrep
  repeat' with_reducible first
    | assumption | (refine kept_prepEntries _ _ _ _ ?_ (fun _ _ _ => ?_)) | apply kept_appendPages | (fail_if_no_progress beta_reduce)
    | split

theorem kept_appendBody {e0_ : State} (s : State) (a : Actor) (f : Flight) (j : AtJob) (ms : Marks) (h_s : Kept e0_ s) : RunKept e0_ (appendBody s a f j ms) := by
  unfold appendBody
  repeat' with_reducible first
    | assumption | (refine kept_finishMarks _ _ _ _ ?_ (fun _ => ?_)) | (refine RunAll.bind (fun _ => ?_)) | apply RunAll.pure
    | apply PlanKept.act | exact PlanKept.staged | (fail_if_no_progress beta_reduce) | split

theorem kept_execAtAppend {e0_ : State} (st : Start) (s : State) (h_s : Kept e0_ s) : OutcomeKept e0_ (execAtAppend st s) := by
  unfold execAtAppend
  repeat' with_reducible first
    | assumption | exact Kept.refl _ | apply Kept.id_of | apply kept_startPrep | apply kept_appendPrep | apply kept_appendBody
    | apply OutcomeKept.answer | (refine PrepKept.mk (fun _ _ _ _ _ => ?_) (fun _ _ _ _ _ _ _ => ?_)) | apply OptKept.getD
    | (fail_if_no_progress beta_reduce) | split

theorem kept_bringRows {e0_ : State} (f : Flight) (c layer lo n : Nat) (s : State) (h_s : Kept e0_ s) : Kept e0_ (bringRows f c layer lo n s).1 := by
  unfold bringRows
  repeat' with_reducible first
    | assumption | exact Kept.refl _ | apply Kept.id_of | exact VaultKept.refl _ | exact MemKept.refl _ | exact HostKept.refl _
    | exact VaultKept.upd | exact MemKept.mk id id | exact id | exact (fun w => memWrite_wf w _ _) | exact (fun w => memZero_wf w _ _)
    | exact (fun w => Memory.wf_filter _ w) | apply kept_bringBack | (refine Kept.fst_of (by assumption) ?_; apply kept_bringBack)
    | apply kept_forecast | apply kept_touchLists | apply kept_touchPage | apply OptKept.getD | apply Kept.put | apply Kept.ite
    | (refine Kept.foldl ?_ (fun _ _ _ => ?_)) | (refine Kept.foldl_fst ?_ (fun _ _ _ => ?_)) | (refine Kept.foldr ?_ (fun _ _ _ => ?_))
    | (refine kept_eachUntil _ _ _ ?_ (fun _ _ _ => ?_))
    | (refine Kept.fst_of (by assumption) ?_; refine kept_eachUntil _ _ _ ?_ (fun _ _ _ => ?_)) | (fail_if_no_progress beta_reduce)
    | ((try lift_lets -underBinder); intro xx; first | (refine Kept.use (P := Kept e0_ xx) ?_ (fun hx => ?_); (on_goal 2 => clear_value xx); (on_goal 1 => subst xx)) | (refine Kept.use (P := OptKept e0_ xx) ?_ (fun hx => ?_); (on_goal 2 => clear_value xx); (on_goal 1 => subst xx)) | (refine Kept.use (P := Kept e0_ (Prod.fst (α := State) xx)) ?_ (fun hx => ?_); (on_goal 2 => clear_value xx); (on_goal 1 => subst xx)) | (refine Kept.use (P := Kept e0_ (Prod.snd (β := State) xx)) ?_ (fun hx => ?_); (on_goal 2 => clear_value xx); (on_goal 1 => subst xx)) | (refine Kept.use (P := OptFst e0_ xx) ?_ (fun hx => ?_); (on_goal 2 => clear_value xx); (on_goal 1 => subst xx)) | (refine Kept.use (P := ExcKept e0_ xx) ?_ (fun hx => ?_); (on_goal 2 => clear_value xx); (on_goal 1 => subst xx)) | (have yy : _ → _ := xx; clear yy; subst xx) | (have yy : Memories := xx; clear yy; subst xx) | (have yy : Vault := xx; clear yy; subst xx) | (have yy : HostEnv := xx; clear yy; subst xx) | clear_value xx)
    | split | rw [mk_put] | (refine MemKept.mk ?_ ?_)

theorem kept_touchOpenRows {e0_ : State} (deal c layer lo n : Nat) (s : State) (h_s : Kept e0_ s) : Kept e0_ (touchOpenRows deal c layer lo n s) := by
  unfold touchOpenRows
  repeat' with_reducible first
    | assumption | exact Kept.refl _ | apply Kept.id_of | exact VaultKept.refl _ | exact MemKept.refl _ | exact HostKept.refl _
    | exact VaultKept.upd | exact MemKept.mk id id | exact id | exact (fun w => memWrite_wf w _ _) | exact (fun w => memZero_wf w _ _)
    | exact (fun w => Memory.wf_filter _ w) | apply kept_touchPage | apply OptKept.getD | apply Kept.put | apply Kept.ite
    | (refine Kept.foldl ?_ (fun _ _ _ => ?_)) | (refine Kept.foldl_fst ?_ (fun _ _ _ => ?_)) | (refine Kept.foldr ?_ (fun _ _ _ => ?_))
    | (fail_if_no_progress beta_reduce)
    | ((try lift_lets -underBinder); intro xx; first | (refine Kept.use (P := Kept e0_ xx) ?_ (fun hx => ?_); (on_goal 2 => clear_value xx); (on_goal 1 => subst xx)) | (refine Kept.use (P := OptKept e0_ xx) ?_ (fun hx => ?_); (on_goal 2 => clear_value xx); (on_goal 1 => subst xx)) | (refine Kept.use (P := Kept e0_ (Prod.fst (α := State) xx)) ?_ (fun hx => ?_); (on_goal 2 => clear_value xx); (on_goal 1 => subst xx)) | (refine Kept.use (P := Kept e0_ (Prod.snd (β := State) xx)) ?_ (fun hx => ?_); (on_goal 2 => clear_value xx); (on_goal 1 => subst xx)) | (refine Kept.use (P := OptFst e0_ xx) ?_ (fun hx => ?_); (on_goal 2 => clear_value xx); (on_goal 1 => subst xx)) | (refine Kept.use (P := ExcKept e0_ xx) ?_ (fun hx => ?_); (on_goal 2 => clear_value xx); (on_goal 1 => subst xx)) | (have yy : _ → _ := xx; clear yy; subst xx) | (have yy : Memories := xx; clear yy; subst xx) | (have yy : Vault := xx; clear yy; subst xx) | (have yy : HostEnv := xx; clear yy; subst xx) | clear_value xx)
    | split | rw [mk_put] | (refine MemKept.mk ?_ ?_)

theorem kept_touchOpen {e0_ : State} (f : Flight) (c layer lo n : Nat) (s : State) (h_s : Kept e0_ s) : Kept e0_ (touchOpen f c layer lo n s) := by
  unfold touchOpen
  repeat' with_reducible first
    | assumption | exact Kept.refl _ | apply Kept.id_of | exact VaultKept.refl _ | exact MemKept.refl _ | exact HostKept.refl _
    | exact VaultKept.upd | exact MemKept.mk id id | exact id | exact (fun w => memWrite_wf w _ _) | exact (fun w => memZero_wf w _ _)
    | exact (fun w => Memory.wf_filter _ w) | apply kept_touchOpenRows | apply OptKept.getD | apply Kept.put | apply Kept.ite
    | (refine Kept.foldl ?_ (fun _ _ _ => ?_)) | (refine Kept.foldl_fst ?_ (fun _ _ _ => ?_)) | (refine Kept.foldr ?_ (fun _ _ _ => ?_))
    | (fail_if_no_progress beta_reduce)
    | ((try lift_lets -underBinder); intro xx; first | (refine Kept.use (P := Kept e0_ xx) ?_ (fun hx => ?_); (on_goal 2 => clear_value xx); (on_goal 1 => subst xx)) | (refine Kept.use (P := OptKept e0_ xx) ?_ (fun hx => ?_); (on_goal 2 => clear_value xx); (on_goal 1 => subst xx)) | (refine Kept.use (P := Kept e0_ (Prod.fst (α := State) xx)) ?_ (fun hx => ?_); (on_goal 2 => clear_value xx); (on_goal 1 => subst xx)) | (refine Kept.use (P := Kept e0_ (Prod.snd (β := State) xx)) ?_ (fun hx => ?_); (on_goal 2 => clear_value xx); (on_goal 1 => subst xx)) | (refine Kept.use (P := OptFst e0_ xx) ?_ (fun hx => ?_); (on_goal 2 => clear_value xx); (on_goal 1 => subst xx)) | (refine Kept.use (P := ExcKept e0_ xx) ?_ (fun hx => ?_); (on_goal 2 => clear_value xx); (on_goal 1 => subst xx)) | (have yy : _ → _ := xx; clear yy; subst xx) | (have yy : Memories := xx; clear yy; subst xx) | (have yy : Vault := xx; clear yy; subst xx) | (have yy : HostEnv := xx; clear yy; subst xx) | clear_value xx)
    | split | rw [mk_put] | (refine MemKept.mk ?_ ?_)

theorem kept_attendPages {e0_ : State} (op : Nat) (f : Flight) (j : AtJob) (s : State) (e : AtEntry) (h_s : Kept e0_ s) : Kept e0_ (attendPages op f j s e).1 := by
  unfold attendPages
  repeat' with_reducible first
    | assumption | exact Kept.refl _ | apply Kept.id_of | exact VaultKept.refl _ | exact MemKept.refl _ | exact HostKept.refl _
    | exact VaultKept.upd | exact MemKept.mk id id | exact id | exact (fun w => memWrite_wf w _ _) | exact (fun w => memZero_wf w _ _)
    | exact (fun w => Memory.wf_filter _ w) | apply kept_bringRows | apply kept_touchOpen | apply OptKept.getD | apply Kept.put
    | (fail_if_no_progress beta_reduce) | (refine Kept.fst_of (by assumption) ?_; apply kept_bringRows)
    | (refine Kept.foldl ?_ (fun _ _ _ => ?_)) | (refine Kept.foldl_fst ?_ (fun _ _ _ => ?_)) | (refine Kept.foldr ?_ (fun _ _ _ => ?_))
    | split | rw [mk_put] | (refine MemKept.mk ?_ ?_)

theorem kept_attendPrep {e0_ : State} (op : Nat) (s : State) (f : Flight) (j : AtJob) (h_s : Kept e0_ s) : Kept e0_ (attendPrep op s f j).1 := by
  unfold attendPrep
  repeat' with_reducible first
    | assumption | (refine kept_prepEntries _ _ _ _ ?_ (fun _ _ _ => ?_)) | apply kept_attendPages | (fail_if_no_progress beta_reduce)
    | split

theorem kept_attendBody {e0_ : State} (s : State) (a : Actor) (f : Flight) (j : AtJob) (ms : Marks) (h_s : Kept e0_ s) : RunKept e0_ (attendBody s a f j ms) := by
  unfold attendBody
  repeat' with_reducible first
    | assumption | (refine kept_finishMarks _ _ _ _ ?_ (fun _ => ?_)) | (refine RunAll.bind (fun _ => ?_)) | apply RunAll.pure
    | apply PlanKept.act | exact PlanKept.staged | (fail_if_no_progress beta_reduce) | split

theorem kept_execAtAttend {e0_ : State} (st : Start) (s : State) (h_s : Kept e0_ s) : OutcomeKept e0_ (execAtAttend st s) := by
  unfold execAtAttend
  repeat' with_reducible first
    | assumption | exact Kept.refl _ | apply Kept.id_of | apply kept_startPrep | apply kept_attendPrep | apply kept_attendBody
    | apply OutcomeKept.answer | (refine PrepKept.mk (fun _ _ _ _ _ => ?_) (fun _ _ _ _ _ _ _ => ?_)) | apply OptKept.getD
    | (fail_if_no_progress beta_reduce) | split

theorem kept_ringBody {e0_ : State} (s : State) (a : Actor) (f : Flight) (j : AtJob) (ms : Marks) (h_s : Kept e0_ s) : RunKept e0_ (ringBody s a f j ms) := by
  unfold ringBody
  repeat' with_reducible first
    | assumption | (refine kept_finishMarks _ _ _ _ ?_ (fun _ => ?_)) | (refine RunAll.bind (fun _ => ?_)) | apply RunAll.pure
    | apply PlanKept.act | exact PlanKept.staged | (fail_if_no_progress beta_reduce) | split

theorem kept_execAtRing {e0_ : State} (st : Start) (s : State) (h_s : Kept e0_ s) : OutcomeKept e0_ (execAtRing st s) := by
  unfold execAtRing
  repeat' with_reducible first
    | assumption | exact Kept.refl _ | apply Kept.id_of | apply kept_startPrep | apply kept_attendPrep | apply kept_ringBody
    | apply OutcomeKept.answer | (refine PrepKept.mk (fun _ _ _ _ _ => ?_) (fun _ _ _ _ _ _ _ => ?_)) | apply OptKept.getD
    | (fail_if_no_progress beta_reduce) | split

theorem kept_combinePrep {e0_ : State} (s : State) (f : Flight) (j : AtJob) (h_s : Kept e0_ s) : Kept e0_ (combinePrep s f j).1 := by
  unfold combinePrep
  repeat' with_reducible first
    | assumption | (refine kept_prepEntries _ _ _ _ ?_ (fun _ _ _ => ?_)) | (fail_if_no_progress beta_reduce) | split

theorem kept_combineBody {e0_ : State} (s : State) (a : Actor) (f : Flight) (j : AtJob) (ms : Marks) (h_s : Kept e0_ s) : RunKept e0_ (combineBody s a f j ms) := by
  unfold combineBody
  repeat' with_reducible first
    | assumption | (refine kept_finishMarks _ _ _ _ ?_ (fun _ => ?_)) | (refine RunAll.bind (fun _ => ?_)) | apply RunAll.pure
    | apply PlanKept.act | exact PlanKept.staged | (fail_if_no_progress beta_reduce) | split

theorem kept_execAtCombine {e0_ : State} (st : Start) (s : State) (h_s : Kept e0_ s) : OutcomeKept e0_ (execAtCombine st s) := by
  unfold execAtCombine
  repeat' with_reducible first
    | assumption | exact Kept.refl _ | apply Kept.id_of | apply kept_startPrep | apply kept_combinePrep | apply kept_combineBody
    | apply OutcomeKept.answer | (refine PrepKept.mk (fun _ _ _ _ _ => ?_) (fun _ _ _ _ _ _ _ => ?_)) | apply OptKept.getD
    | (fail_if_no_progress beta_reduce) | split

theorem kept_advanceCtx {e0_ : State} (s : State) (e : AtEntry) (h_s : Kept e0_ s) : Kept e0_ (advanceCtx s e) := by
  unfold advanceCtx
  repeat' with_reducible first
    | assumption | apply kept_modCtx | apply kept_discardOpen | (fail_if_no_progress beta_reduce) | split

theorem kept_advanceBody {e0_ : State} (s : State) (a : Actor) (f : Flight) (j : AtJob) (ms : Marks) (h_s : Kept e0_ s) : RunKept e0_ (advanceBody s a f j ms) := by
  unfold advanceBody
  repeat' with_reducible first
    | assumption | exact Kept.refl _ | apply Kept.id_of | exact VaultKept.refl _ | exact MemKept.refl _ | exact HostKept.refl _
    | exact VaultKept.upd | exact MemKept.mk id id | exact id | exact (fun w => memWrite_wf w _ _) | exact (fun w => memZero_wf w _ _)
    | exact (fun w => Memory.wf_filter _ w) | apply kept_chargeMarks | (refine kept_finishMarks _ _ _ _ ?_ (fun _ => ?_))
    | apply kept_advanceCtx | exact PlanKept.noop | exact PlanKept.staged | exact PlanKept.vector | apply PlanKept.act
    | apply PlanKept.drain | apply PlanKept.wait | apply PlanKept.ended | apply PlanKept.ite | apply RunAll.ite | apply RunAll.pure
    | exact RunAll.stop | exact RunAll.finish | exact RunAll.denied | exact RunAll.absent | exact RunAll.sealed
    | (refine RunAll.lift (fun _ _ => ?_)) | (refine RunAll.bind (fun _ => ?_)) | apply OptKept.getD | apply Kept.put
    | (fail_if_no_progress beta_reduce) | (refine Kept.foldl ?_ (fun _ _ _ => ?_)) | (refine Kept.foldl_fst ?_ (fun _ _ _ => ?_))
    | (refine Kept.foldr ?_ (fun _ _ _ => ?_)) | split | rw [mk_put] | (refine MemKept.mk ?_ ?_)

theorem kept_execAtAdvance {e0_ : State} (st : Start) (s : State) (h_s : Kept e0_ s) : OutcomeKept e0_ (execAtAdvance st s) := by
  unfold execAtAdvance
  repeat' with_reducible first
    | assumption | exact Kept.refl _ | apply Kept.id_of | apply kept_startPrep | apply kept_combinePrep | apply kept_advanceBody
    | apply OutcomeKept.answer | (refine PrepKept.mk (fun _ _ _ _ _ => ?_) (fun _ _ _ _ _ _ _ => ?_)) | apply OptKept.getD
    | (fail_if_no_progress beta_reduce) | split

theorem kept_sendPrep {e0_ : State} (s : State) (f : Flight) (j : SendJob) (h_s : Kept e0_ s) : Kept e0_ (sendPrep s f j).1 := by
  unfold sendPrep
  repeat' with_reducible first
    | assumption | exact Kept.refl _ | apply Kept.id_of | exact VaultKept.refl _ | exact MemKept.refl _ | exact HostKept.refl _
    | exact VaultKept.upd | exact MemKept.mk id id | exact id | exact (fun w => memWrite_wf w _ _) | exact (fun w => memZero_wf w _ _)
    | exact (fun w => Memory.wf_filter _ w) | apply kept_bringRows | apply OptKept.getD | apply Kept.put
    | (fail_if_no_progress beta_reduce) | (refine Kept.fst_of (by assumption) ?_; apply kept_bringRows)
    | (refine Kept.foldl ?_ (fun _ _ _ => ?_)) | (refine Kept.foldl_fst ?_ (fun _ _ _ => ?_)) | (refine Kept.foldr ?_ (fun _ _ _ => ?_))
    | split | rw [mk_put] | (refine MemKept.mk ?_ ?_)

theorem kept_sendLogical {e0_ : State} (s : State) (p kind epoch addr : Nat) (payload : List Byte) (h_s : Kept e0_ s) : OptFst e0_ (sendLogical s p kind epoch addr payload) := by
  unfold sendLogical
  repeat' with_reducible first
    | assumption | apply kept_sendNew | exact OptFst.none | apply OptFst.some | apply OptFst.ite | (refine OptFst.map (fun _ _ => ?_))
    | (fail_if_no_progress beta_reduce) | split

theorem kept_blockBytes {e0_ : State} (s : State) (j : SendJob) (epoch : Nat) (h_s : Kept e0_ s) :
    RunAll (fun r => Kept e0_ r.1) (blockBytes s j epoch) := by
  unfold blockBytes
  repeat' with_reducible first
    | assumption | exact Kept.refl _ | apply Kept.id_of | exact VaultKept.refl _ | exact MemKept.refl _ | exact HostKept.refl _
    | exact VaultKept.upd | exact MemKept.mk id id | exact id | exact (fun w => memWrite_wf w _ _) | exact (fun w => memZero_wf w _ _)
    | exact (fun w => Memory.wf_filter _ w) | apply kept_enterTicket | apply kept_sendLogical | exact PlanKept.noop
    | exact PlanKept.staged | exact PlanKept.vector | apply PlanKept.act | apply PlanKept.drain | apply PlanKept.wait
    | apply PlanKept.ended | apply PlanKept.ite | apply RunAll.ite | apply RunAll.pure | exact RunAll.stop | exact RunAll.finish
    | exact RunAll.denied | exact RunAll.absent | exact RunAll.sealed | (refine RunAll.lift (fun _ _ => ?_))
    | (refine RunAll.bind (fun _ => ?_)) | apply OptKept.getD | apply Kept.put | apply Kept.ite
    | (refine Kept.foldl ?_ (fun _ _ _ => ?_)) | (refine Kept.foldl_fst ?_ (fun _ _ _ => ?_)) | (refine Kept.foldr ?_ (fun _ _ _ => ?_))
    | (refine OptFst.get (by assumption) ?_; apply kept_sendLogical) | (refine OptFst.get1 (by assumption) ?_; apply kept_sendLogical)
    | (fail_if_no_progress beta_reduce)
    | ((try lift_lets -underBinder); intro xx; first | (refine Kept.use (P := Kept e0_ xx) ?_ (fun hx => ?_); (on_goal 2 => clear_value xx); (on_goal 1 => subst xx)) | (refine Kept.use (P := OptKept e0_ xx) ?_ (fun hx => ?_); (on_goal 2 => clear_value xx); (on_goal 1 => subst xx)) | (refine Kept.use (P := Kept e0_ (Prod.fst (α := State) xx)) ?_ (fun hx => ?_); (on_goal 2 => clear_value xx); (on_goal 1 => subst xx)) | (refine Kept.use (P := Kept e0_ (Prod.snd (β := State) xx)) ?_ (fun hx => ?_); (on_goal 2 => clear_value xx); (on_goal 1 => subst xx)) | (refine Kept.use (P := OptFst e0_ xx) ?_ (fun hx => ?_); (on_goal 2 => clear_value xx); (on_goal 1 => subst xx)) | (refine Kept.use (P := ExcKept e0_ xx) ?_ (fun hx => ?_); (on_goal 2 => clear_value xx); (on_goal 1 => subst xx)) | (have yy : _ → _ := xx; clear yy; subst xx) | (have yy : Memories := xx; clear yy; subst xx) | (have yy : Vault := xx; clear yy; subst xx) | (have yy : HostEnv := xx; clear yy; subst xx) | clear_value xx)
    | split | rw [mk_put] | (refine MemKept.mk ?_ ?_)

theorem kept_sendBody {e0_ : State} (s : State) (a : Actor) (f : Flight) (j : SendJob) (u : Unit) (h_s : Kept e0_ s) : RunKept e0_ (sendBody s a f j u) := by
  unfold sendBody
  repeat' with_reducible first
    | assumption | exact Kept.refl _ | apply Kept.id_of | exact VaultKept.refl _ | exact MemKept.refl _ | exact HostKept.refl _
    | exact VaultKept.upd | exact MemKept.mk id id | exact id | exact (fun w => memWrite_wf w _ _) | exact (fun w => memZero_wf w _ _)
    | exact (fun w => Memory.wf_filter _ w) | (refine RunAll.bindWith (kept_blockBytes _ _ _ (by assumption)) (fun _ _ => ?_))
    | apply kept_enterTicket | apply kept_sendLogical | exact PlanKept.noop | exact PlanKept.staged | exact PlanKept.vector
    | apply PlanKept.act | apply PlanKept.drain | apply PlanKept.wait | apply PlanKept.ended | apply PlanKept.ite | apply RunAll.ite
    | apply RunAll.pure | exact RunAll.stop | exact RunAll.finish | exact RunAll.denied | exact RunAll.absent | exact RunAll.sealed
    | (refine RunAll.lift (fun _ _ => ?_)) | (refine RunAll.bind (fun _ => ?_)) | apply OptKept.getD | apply Kept.put | apply Kept.ite
    | (refine Kept.foldl ?_ (fun _ _ _ => ?_)) | (refine Kept.foldl_fst ?_ (fun _ _ _ => ?_)) | (refine Kept.foldr ?_ (fun _ _ _ => ?_))
    | (refine OptFst.get (by assumption) ?_; apply kept_sendLogical) | (refine OptFst.get1 (by assumption) ?_; apply kept_sendLogical)
    | (fail_if_no_progress beta_reduce)
    | ((try lift_lets -underBinder); intro xx; first | (refine Kept.use (P := Kept e0_ xx) ?_ (fun hx => ?_); (on_goal 2 => clear_value xx); (on_goal 1 => subst xx)) | (refine Kept.use (P := OptKept e0_ xx) ?_ (fun hx => ?_); (on_goal 2 => clear_value xx); (on_goal 1 => subst xx)) | (refine Kept.use (P := Kept e0_ (Prod.fst (α := State) xx)) ?_ (fun hx => ?_); (on_goal 2 => clear_value xx); (on_goal 1 => subst xx)) | (refine Kept.use (P := Kept e0_ (Prod.snd (β := State) xx)) ?_ (fun hx => ?_); (on_goal 2 => clear_value xx); (on_goal 1 => subst xx)) | (refine Kept.use (P := OptFst e0_ xx) ?_ (fun hx => ?_); (on_goal 2 => clear_value xx); (on_goal 1 => subst xx)) | (refine Kept.use (P := ExcKept e0_ xx) ?_ (fun hx => ?_); (on_goal 2 => clear_value xx); (on_goal 1 => subst xx)) | (have yy : _ → _ := xx; clear yy; subst xx) | (have yy : Memories := xx; clear yy; subst xx) | (have yy : Vault := xx; clear yy; subst xx) | (have yy : HostEnv := xx; clear yy; subst xx) | clear_value xx)
    | split | rw [mk_put] | (refine MemKept.mk ?_ ?_)

theorem kept_execAtRingSend {e0_ : State} (st : Start) (s : State) (h_s : Kept e0_ s) : OutcomeKept e0_ (execAtRingSend st s) := by
  unfold execAtRingSend
  repeat' with_reducible first
    | assumption | exact Kept.refl _ | apply Kept.id_of | apply kept_startPrep | apply kept_sendPrep | apply kept_sendBody
    | apply OutcomeKept.answer | (refine PrepKept.mk (fun _ _ _ _ _ => ?_) (fun _ _ _ _ _ _ _ => ?_)) | apply OptKept.getD
    | (fail_if_no_progress beta_reduce) | split

end Sys2Proof.Laws
end

