-- ==== Sys2Proof/Laws/KeptSpec.lean ====
section
/-!
SUPPORT. Sys2Proof/Laws/KeptSpec.lean: what the operations of Machine/Spec.lean keep (Laws/Kept.lean).
-/

set_option linter.unusedTactic false
set_option linter.unreachableTactic false
set_option linter.unusedVariables false

namespace Sys2Proof.Laws

open Sys2Proof.Machine Sys2Proof.Safety

theorem kept_reopen {e0_ : State} (deal : Nat) (s : State) (e : SpEntry) (h_s : Kept e0_ s) : Kept e0_ (reopen deal s e) := by
  unfold reopen
  repeat' with_reducible first
    | assumption | apply kept_putSpec | apply kept_discardOpen | (fail_if_no_progress beta_reduce) | split

theorem kept_openPrep {e0_ : State} (s : State) (f : Flight) (j : SpJob) (h_s : Kept e0_ s) : Kept e0_ (openPrep s f j).1 := by
  unfold openPrep
  repeat' with_reducible first
    | assumption | (fail_if_no_progress beta_reduce) | split

theorem kept_openBody {e0_ : State} (s : State) (a : Actor) (f : Flight) (j : SpJob) (ms : Marks) (h_s : Kept e0_ s) : RunKept e0_ (openBody s a f j ms) := by
  unfold openBody
  repeat' with_reducible first
    | assumption | exact Kept.refl _ | apply Kept.id_of | exact VaultKept.refl _ | exact MemKept.refl _ | exact HostKept.refl _
    | exact VaultKept.upd | exact MemKept.mk id id | exact id | exact (fun w => memWrite_wf w _ _) | exact (fun w => memZero_wf w _ _)
    | exact (fun w => Memory.wf_filter _ w) | apply kept_chargeMarks | (refine kept_finishMarks _ _ _ _ ?_ (fun _ => ?_))
    | apply kept_reopen | exact PlanKept.noop | exact PlanKept.staged | exact PlanKept.vector | apply PlanKept.act
    | apply PlanKept.drain | apply PlanKept.wait | apply PlanKept.ended | apply PlanKept.ite | apply RunAll.ite | apply RunAll.pure
    | exact RunAll.stop | exact RunAll.finish | exact RunAll.denied | exact RunAll.absent | exact RunAll.sealed
    | (refine RunAll.lift (fun _ _ => ?_)) | (refine RunAll.bind (fun _ => ?_)) | apply OptKept.getD | apply Kept.put
    | (fail_if_no_progress beta_reduce) | (refine Kept.foldl ?_ (fun _ _ _ => ?_)) | (refine Kept.foldl_fst ?_ (fun _ _ _ => ?_))
    | (refine Kept.foldr ?_ (fun _ _ _ => ?_)) | split | rw [mk_put] | (refine MemKept.mk ?_ ?_)

theorem kept_execSpOpen {e0_ : State} (st : Start) (s : State) (h_s : Kept e0_ s) : OutcomeKept e0_ (execSpOpen st s) := by
  unfold execSpOpen
  repeat' with_reducible first
    | assumption | exact Kept.refl _ | apply Kept.id_of | apply kept_startPrep | apply kept_openPrep | apply kept_openBody
    | apply OutcomeKept.answer | (refine PrepKept.mk (fun _ _ _ _ _ => ?_) (fun _ _ _ _ _ _ _ => ?_)) | apply OptKept.getD
    | (fail_if_no_progress beta_reduce) | split

theorem kept_verifyPages {e0_ : State} (f : Flight) (s : State) (e : SpEntry) (h_s : Kept e0_ s) : Kept e0_ (verifyPages f s e).1 := by
  unfold verifyPages
  repeat' with_reducible first
    | assumption | exact Kept.refl _ | apply Kept.id_of | exact VaultKept.refl _ | exact MemKept.refl _ | exact HostKept.refl _
    | exact VaultKept.upd | exact MemKept.mk id id | exact id | exact (fun w => memWrite_wf w _ _) | exact (fun w => memZero_wf w _ _)
    | exact (fun w => Memory.wf_filter _ w) | apply kept_touchOpenRows | apply kept_needMade
    | (refine Kept.fst_of (by assumption) ?_; apply kept_needMade) | apply OptKept.getD | apply Kept.put | apply Kept.ite
    | (refine Kept.foldl ?_ (fun _ _ _ => ?_)) | (refine Kept.foldl_fst ?_ (fun _ _ _ => ?_)) | (refine Kept.foldr ?_ (fun _ _ _ => ?_))
    | (refine kept_eachUntil _ _ _ ?_ (fun _ _ _ => ?_))
    | (refine Kept.fst_of (by assumption) ?_; refine kept_eachUntil _ _ _ ?_ (fun _ _ _ => ?_)) | (fail_if_no_progress beta_reduce)
    | ((try lift_lets -underBinder); intro xx; first | (refine Kept.use (P := Kept e0_ xx) ?_ (fun hx => ?_); (on_goal 2 => clear_value xx); (on_goal 1 => subst xx)) | (refine Kept.use (P := OptKept e0_ xx) ?_ (fun hx => ?_); (on_goal 2 => clear_value xx); (on_goal 1 => subst xx)) | (refine Kept.use (P := Kept e0_ (Prod.fst (α := State) xx)) ?_ (fun hx => ?_); (on_goal 2 => clear_value xx); (on_goal 1 => subst xx)) | (refine Kept.use (P := Kept e0_ (Prod.snd (β := State) xx)) ?_ (fun hx => ?_); (on_goal 2 => clear_value xx); (on_goal 1 => subst xx)) | (refine Kept.use (P := OptFst e0_ xx) ?_ (fun hx => ?_); (on_goal 2 => clear_value xx); (on_goal 1 => subst xx)) | (refine Kept.use (P := ExcKept e0_ xx) ?_ (fun hx => ?_); (on_goal 2 => clear_value xx); (on_goal 1 => subst xx)) | (have yy : _ → _ := xx; clear yy; subst xx) | (have yy : Memories := xx; clear yy; subst xx) | (have yy : Vault := xx; clear yy; subst xx) | (have yy : HostEnv := xx; clear yy; subst xx) | clear_value xx)
    | split | rw [mk_put] | (refine MemKept.mk ?_ ?_)

theorem kept_verifyPrep {e0_ : State} (s : State) (f : Flight) (j : SpJob) (h_s : Kept e0_ s) : Kept e0_ (verifyPrep s f j).1 := by
  unfold verifyPrep
  repeat' with_reducible first
    | assumption | exact Kept.refl _ | apply Kept.id_of | exact VaultKept.refl _ | exact MemKept.refl _ | exact HostKept.refl _
    | exact VaultKept.upd | exact MemKept.mk id id | exact id | exact (fun w => memWrite_wf w _ _) | exact (fun w => memZero_wf w _ _)
    | exact (fun w => Memory.wf_filter _ w) | apply kept_verifyPages | apply OptKept.getD | apply Kept.put | apply Kept.ite
    | (refine Kept.foldl ?_ (fun _ _ _ => ?_)) | (refine Kept.foldl_fst ?_ (fun _ _ _ => ?_)) | (refine Kept.foldr ?_ (fun _ _ _ => ?_))
    | (refine Kept.fst_of (by assumption) ?_; apply kept_verifyPages) | (fail_if_no_progress beta_reduce)
    | ((try lift_lets -underBinder); intro xx; first | (refine Kept.use (P := Kept e0_ xx) ?_ (fun hx => ?_); (on_goal 2 => clear_value xx); (on_goal 1 => subst xx)) | clear_value xx)
    | split | rw [mk_put] | (refine MemKept.mk ?_ ?_)

theorem kept_verifyBody {e0_ : State} (s : State) (a : Actor) (f : Flight) (j : SpJob) (ms : Marks) (h_s : Kept e0_ s) : RunKept e0_ (verifyBody s a f j ms) := by
  unfold verifyBody
  repeat' with_reducible first
    | assumption | (refine kept_finishMarks _ _ _ _ ?_ (fun _ => ?_)) | (refine RunAll.bind (fun _ => ?_)) | apply RunAll.pure
    | apply PlanKept.act | exact PlanKept.staged | (fail_if_no_progress beta_reduce) | split

theorem kept_execSpVerify {e0_ : State} (st : Start) (s : State) (h_s : Kept e0_ s) : OutcomeKept e0_ (execSpVerify st s) := by
  unfold execSpVerify
  repeat' with_reducible first
    | assumption | exact Kept.refl _ | apply Kept.id_of | apply kept_startPrep | apply kept_verifyPrep | apply kept_verifyBody
    | apply OutcomeKept.answer | (refine PrepKept.mk (fun _ _ _ _ _ => ?_) (fun _ _ _ _ _ _ _ => ?_)) | apply OptKept.getD
    | (fail_if_no_progress beta_reduce) | split

end Sys2Proof.Laws
end

