-- ==== Sys2Proof/Laws/KeptExperts.lean ====
section
/-!
SUPPORT. Sys2Proof/Laws/KeptExperts.lean: what the operations of Machine/Experts.lean keep (Laws/Kept.lean).
-/

set_option linter.unusedTactic false
set_option linter.unreachableTactic false
set_option linter.unusedVariables false

namespace Sys2Proof.Laws

open Sys2Proof.Machine Sys2Proof.Safety

theorem kept_routeBody {e0_ : State} (s : State) (a : Actor) (f : Flight) (x : RouteJob) (ms : Marks) (h_s : Kept e0_ s) : RunKept e0_ (routeBody s a f x ms) := by
  unfold routeBody
  repeat' with_reducible first
    | assumption | (refine kept_finishMarks _ _ _ _ ?_ (fun _ => ?_)) | (refine RunAll.bind (fun _ => ?_)) | apply RunAll.pure
    | apply PlanKept.act | exact PlanKept.staged | (fail_if_no_progress beta_reduce) | split

theorem kept_execExRoute {e0_ : State} (st : Start) (s : State) (h_s : Kept e0_ s) : OutcomeKept e0_ (execExRoute st s) := by
  unfold execExRoute
  repeat' with_reducible first
    | assumption | exact Kept.refl _ | apply Kept.id_of | apply kept_startPrep | apply kept_routeBody | apply OutcomeKept.answer
    | (refine PrepKept.mk (fun _ _ _ _ _ => ?_) (fun _ _ _ _ _ _ _ => ?_)) | apply OptKept.getD | (fail_if_no_progress beta_reduce)
    | split

theorem kept_settlePrep {e0_ : State} (s : State) (f : Flight) (j : ExJob) (h_s : Kept e0_ s) : Kept e0_ (settlePrep s f j).1 := by
  unfold settlePrep
  repeat' with_reducible first
    | assumption | apply kept_putBoard | (fail_if_no_progress beta_reduce) | split

theorem kept_settleReport {e0_ : State} (s : State) (a : Actor) (f : Flight) (j : ExJob) (ms0 : Marks) (nb : Option (Nat × Board)) (h_s : Kept e0_ s) : RunKept e0_ (settleReport s a f j ms0 nb) := by
  unfold settleReport
  repeat' with_reducible first
    | assumption | exact Kept.refl _ | apply Kept.id_of | apply kept_settle | (refine kept_finishMarks _ _ _ _ ?_ (fun _ => ?_))
    | exact PlanKept.noop | exact PlanKept.staged | exact PlanKept.vector | apply PlanKept.act | apply PlanKept.drain
    | apply PlanKept.wait | apply PlanKept.ended | apply PlanKept.ite | apply RunAll.ite | apply RunAll.pure | exact RunAll.stop
    | exact RunAll.finish | exact RunAll.denied | exact RunAll.absent | exact RunAll.sealed | (refine RunAll.lift (fun _ _ => ?_))
    | (refine RunAll.bind (fun _ => ?_)) | apply OptKept.getD | (fail_if_no_progress beta_reduce) | split

theorem kept_settleBody {e0_ : State} (s : State) (a : Actor) (f : Flight) (j : ExJob) (ms : Marks) (h_s : Kept e0_ s) : RunKept e0_ (settleBody s a f j ms) := by
  unfold settleBody
  repeat' with_reducible first
    | assumption | exact Kept.refl _ | apply Kept.id_of | apply kept_settleReport | exact PlanKept.noop | exact PlanKept.staged
    | exact PlanKept.vector | apply PlanKept.act | apply PlanKept.drain | apply PlanKept.wait | apply PlanKept.ended
    | apply PlanKept.ite | apply RunAll.ite | apply RunAll.pure | exact RunAll.stop | exact RunAll.finish | exact RunAll.denied
    | exact RunAll.absent | exact RunAll.sealed | (refine RunAll.lift (fun _ _ => ?_)) | (refine RunAll.bind (fun _ => ?_))
    | apply OptKept.getD | (fail_if_no_progress beta_reduce) | split

theorem kept_execExSettle {e0_ : State} (st : Start) (s : State) (h_s : Kept e0_ s) : OutcomeKept e0_ (execExSettle st s) := by
  unfold execExSettle
  repeat' with_reducible first
    | assumption | exact Kept.refl _ | apply Kept.id_of | apply kept_startPrep | apply kept_settlePrep | apply kept_settleBody
    | apply OutcomeKept.answer | (refine PrepKept.mk (fun _ _ _ _ _ => ?_) (fun _ _ _ _ _ _ _ => ?_)) | apply OptKept.getD
    | (fail_if_no_progress beta_reduce) | split

theorem kept_resumeSettle {e0_ : State} (n : Nat) (s : State) (f : Flight) (h_s : Kept e0_ s) : Kept e0_ (resumeSettle n s f) := by
  unfold resumeSettle
  repeat' with_reducible first
    | assumption | exact Kept.refl _ | apply Kept.id_of | exact VaultKept.refl _ | exact MemKept.refl _ | exact HostKept.refl _
    | exact VaultKept.upd | exact MemKept.mk id id | exact id | exact (fun w => memWrite_wf w _ _) | exact (fun w => memZero_wf w _ _)
    | exact (fun w => Memory.wf_filter _ w)
    | (exact fun p l hr => RunAll.use (RunAll.bindWith (kept_settleReport _ _ _ _ _ _ (by assumption)) (fun _ hp => RunAll.bind fun _ => RunAll.pure hp)) hr)
    | apply kept_settleStart | apply kept_settleReport | apply OptKept.getD | apply Kept.put | apply Kept.ite
    | (refine Kept.foldl ?_ (fun _ _ _ => ?_)) | (refine Kept.foldl_fst ?_ (fun _ _ _ => ?_)) | (refine Kept.foldr ?_ (fun _ _ _ => ?_))
    | (fail_if_no_progress beta_reduce)
    | ((try lift_lets -underBinder); intro xx; first | (refine Kept.use (P := Kept e0_ xx) ?_ (fun hx => ?_); (on_goal 2 => clear_value xx); (on_goal 1 => subst xx)) | (refine Kept.use (P := OptKept e0_ xx) ?_ (fun hx => ?_); (on_goal 2 => clear_value xx); (on_goal 1 => subst xx)) | (refine Kept.use (P := Kept e0_ (Prod.fst (α := State) xx)) ?_ (fun hx => ?_); (on_goal 2 => clear_value xx); (on_goal 1 => subst xx)) | (refine Kept.use (P := Kept e0_ (Prod.snd (β := State) xx)) ?_ (fun hx => ?_); (on_goal 2 => clear_value xx); (on_goal 1 => subst xx)) | (refine Kept.use (P := OptFst e0_ xx) ?_ (fun hx => ?_); (on_goal 2 => clear_value xx); (on_goal 1 => subst xx)) | (refine Kept.use (P := ExcKept e0_ xx) ?_ (fun hx => ?_); (on_goal 2 => clear_value xx); (on_goal 1 => subst xx)) | (have yy : _ → _ := xx; clear yy; subst xx) | (have yy : Memories := xx; clear yy; subst xx) | (have yy : Vault := xx; clear yy; subst xx) | (have yy : HostEnv := xx; clear yy; subst xx) | clear_value xx)
    | split | rw [mk_put] | (refine MemKept.mk ?_ ?_)

theorem kept_boardResolvedOp {e0_ : State} (n : Nat) (s : State) (h_s : Kept e0_ s) : Kept e0_ (boardResolvedOp n s) := by
  unfold boardResolvedOp
  repeat' with_reducible first
    | assumption | exact Kept.refl _ | apply Kept.id_of | exact VaultKept.refl _ | exact MemKept.refl _ | exact HostKept.refl _
    | exact VaultKept.upd | exact MemKept.mk id id | exact id | exact (fun w => memWrite_wf w _ _) | exact (fun w => memZero_wf w _ _)
    | exact (fun w => Memory.wf_filter _ w) | apply kept_putBoard | apply kept_resumeSettle | apply OptKept.getD | apply Kept.put
    | (fail_if_no_progress beta_reduce) | (refine Kept.foldl ?_ (fun _ _ _ => ?_)) | (refine Kept.foldl_fst ?_ (fun _ _ _ => ?_))
    | (refine Kept.foldr ?_ (fun _ _ _ => ?_)) | split | rw [mk_put] | (refine MemKept.mk ?_ ?_)

theorem kept_execRoutingBoardResolved {e0_ : State} (board : Nat) (s : State) (h_s : Kept e0_ s) : OutcomeKept e0_ (execRoutingBoardResolved board s) := by
  unfold execRoutingBoardResolved
  repeat' with_reducible first
    | assumption | apply kept_boardResolvedOp | apply OutcomeKept.answer

theorem kept_exGatherBody   : BodyKept (exGatherBody) := by
  intro e0_ s a f p h
  unfold exGatherBody
  repeat' with_reducible first
    | assumption | exact Kept.refl _ | apply Kept.id_of | apply kept_onlyWrites | exact PlanKept.noop | exact PlanKept.staged
    | exact PlanKept.vector | apply PlanKept.act | apply PlanKept.drain | apply PlanKept.wait | apply PlanKept.ended
    | apply PlanKept.ite | apply RunAll.ite | apply RunAll.pure | exact RunAll.stop | exact RunAll.finish | exact RunAll.denied
    | exact RunAll.absent | exact RunAll.sealed | (refine RunAll.lift (fun _ _ => ?_)) | (refine RunAll.bind (fun _ => ?_))
    | (fail_if_no_progress beta_reduce) | split

theorem kept_execExGather {e0_ : State} (st : Start) (s : State) (h_s : Kept e0_ s) : OutcomeKept e0_ (execExGather st s) := by
  unfold execExGather
  repeat' with_reducible first
    | assumption | apply kept_startEngine | exact kept_exGatherBody | apply kept_exGatherBody
    | (refine BodyKept.use (by apply kept_exGatherBody) ?_) | apply OutcomeKept.answer

theorem kept_exCombineBody {e0_ : State} (s : State) (a : Actor) (f : Flight) (j : ExJob) (ms : Marks) (h_s : Kept e0_ s) : RunKept e0_ (exCombineBody s a f j ms) := by
  unfold exCombineBody
  repeat' with_reducible first
    | assumption | (refine kept_finishMarks _ _ _ _ ?_ (fun _ => ?_)) | (refine RunAll.bind (fun _ => ?_)) | apply RunAll.pure
    | apply PlanKept.act | exact PlanKept.staged | (fail_if_no_progress beta_reduce) | split

theorem kept_execExCombine {e0_ : State} (st : Start) (s : State) (h_s : Kept e0_ s) : OutcomeKept e0_ (execExCombine st s) := by
  unfold execExCombine
  repeat' with_reducible first
    | assumption | exact Kept.refl _ | apply Kept.id_of | apply kept_startPrep | apply kept_exCombineBody | apply OutcomeKept.answer
    | (refine PrepKept.mk (fun _ _ _ _ _ => ?_) (fun _ _ _ _ _ _ _ => ?_)) | apply OptKept.getD | (fail_if_no_progress beta_reduce)
    | split

end Sys2Proof.Laws
end

