-- ==== Sys2Proof/Laws/KeptBackward.lean ====
section
/-!
SUPPORT. Sys2Proof/Laws/KeptBackward.lean: what the operations of Machine/Backward.lean keep (Laws/Kept.lean).
-/

set_option linter.unusedTactic false
set_option linter.unreachableTactic false
set_option linter.unusedVariables false

namespace Sys2Proof.Laws

open Sys2Proof.Machine Sys2Proof.Safety

theorem kept_createAdapter {e0_ : State} (s : State) (a : Nat) (r : Adapter) (h_s : Kept e0_ s) : Kept e0_ (createAdapter s a r) := by
  unfold createAdapter
  repeat' with_reducible first
    | assumption | exact Kept.refl _ | apply Kept.id_of | exact VaultKept.refl _ | exact MemKept.refl _ | exact HostKept.refl _
    | exact VaultKept.upd | exact MemKept.mk id id | exact id | exact (fun w => memWrite_wf w _ _) | exact (fun w => memZero_wf w _ _)
    | exact (fun w => Memory.wf_filter _ w) | apply kept_afterWrite | apply kept_zeroMem | apply OptKept.getD | apply Kept.put
    | (fail_if_no_progress beta_reduce) | (refine Kept.foldl ?_ (fun _ _ _ => ?_)) | (refine Kept.foldl_fst ?_ (fun _ _ _ => ?_))
    | (refine Kept.foldr ?_ (fun _ _ _ => ?_)) | split | rw [mk_put] | (refine MemKept.mk ?_ ?_)

theorem kept_bwAdapterCreateBody   : BodyKept (bwAdapterCreateBody) := by
  intro e0_ s a f p h
  unfold bwAdapterCreateBody
  repeat' with_reducible first
    | assumption | apply kept_onAction | apply kept_createAdapter | (refine RunAll.bind (fun _ => ?_)) | apply RunAll.pure
    | apply PlanKept.act | exact PlanKept.staged | (fail_if_no_progress beta_reduce) | split

theorem kept_bwAdapterDestroyBody   : BodyKept (bwAdapterDestroyBody) := by
  intro e0_ s a f p h
  unfold bwAdapterDestroyBody
  repeat' with_reducible first
    | assumption | exact Kept.refl _ | apply Kept.id_of | exact VaultKept.refl _ | exact MemKept.refl _ | exact HostKept.refl _
    | exact VaultKept.upd | exact MemKept.mk id id | exact id | exact (fun w => memWrite_wf w _ _) | exact (fun w => memZero_wf w _ _)
    | exact (fun w => Memory.wf_filter _ w) | apply kept_onAction | exact PlanKept.noop | exact PlanKept.staged | exact PlanKept.vector
    | apply PlanKept.act | apply PlanKept.drain | apply PlanKept.wait | apply PlanKept.ended | apply PlanKept.ite | apply RunAll.ite
    | apply RunAll.pure | exact RunAll.stop | exact RunAll.finish | exact RunAll.denied | exact RunAll.absent | exact RunAll.sealed
    | (refine RunAll.lift (fun _ _ => ?_)) | (refine RunAll.bind (fun _ => ?_)) | apply Kept.put | (fail_if_no_progress beta_reduce)
    | (refine Kept.foldl ?_ (fun _ _ _ => ?_)) | (refine Kept.foldl_fst ?_ (fun _ _ _ => ?_)) | (refine Kept.foldr ?_ (fun _ _ _ => ?_))
    | split | rw [mk_put] | (refine MemKept.mk ?_ ?_)

theorem kept_bwAdapterQueryBody   : BodyKept (bwAdapterQueryBody) := by
  intro e0_ s a f p h
  unfold bwAdapterQueryBody
  repeat' with_reducible first
    | assumption | apply kept_onAction | apply kept_countGrad | (refine RunAll.bind (fun _ => ?_)) | apply RunAll.pure
    | apply PlanKept.act | exact PlanKept.staged | (fail_if_no_progress beta_reduce) | split

theorem kept_execBwAdapterCreate {e0_ : State} (st : Start) (s : State) (h_s : Kept e0_ s) : OutcomeKept e0_ (execBwAdapterCreate st s) := by
  unfold execBwAdapterCreate
  repeat' with_reducible first
    | assumption | apply kept_startHub | exact kept_bwAdapterCreateBody | apply kept_bwAdapterCreateBody
    | (refine BodyKept.use (by apply kept_bwAdapterCreateBody) ?_) | apply OutcomeKept.answer

theorem kept_execBwAdapterDestroy {e0_ : State} (st : Start) (s : State) (h_s : Kept e0_ s) : OutcomeKept e0_ (execBwAdapterDestroy st s) := by
  unfold execBwAdapterDestroy
  repeat' with_reducible first
    | assumption | apply kept_startHub | exact kept_bwAdapterDestroyBody | apply kept_bwAdapterDestroyBody
    | (refine BodyKept.use (by apply kept_bwAdapterDestroyBody) ?_) | apply OutcomeKept.answer

theorem kept_execBwAdapterQuery {e0_ : State} (st : Start) (s : State) (h_s : Kept e0_ s) : OutcomeKept e0_ (execBwAdapterQuery st s) := by
  unfold execBwAdapterQuery
  repeat' with_reducible first
    | assumption | apply kept_startHub | exact kept_bwAdapterQueryBody | apply kept_bwAdapterQueryBody
    | (refine BodyKept.use (by apply kept_bwAdapterQueryBody) ?_) | apply OutcomeKept.answer

theorem kept_emptyGrad {e0_ : State} (s : State) (j : BwJob) (h_s : Kept e0_ s) : PlanKept e0_ (emptyGrad s j) := by
  unfold emptyGrad
  repeat' with_reducible first
    | assumption | apply kept_countGrad | exact PlanKept.noop | exact PlanKept.staged | exact PlanKept.vector | apply PlanKept.act
    | apply PlanKept.drain | apply PlanKept.wait | apply PlanKept.ended | apply PlanKept.ite | (fail_if_no_progress beta_reduce) | split

theorem kept_stagedGrad {e0_ : State} (j : BwJob) (out : List SWrite × FlagWord) (steps : Nat)  : PlanKept e0_ (stagedGrad j out steps) := by
  unfold stagedGrad
  repeat' with_reducible first
    | assumption | exact PlanKept.noop | exact PlanKept.staged | exact PlanKept.vector | apply PlanKept.act | apply PlanKept.drain
    | apply PlanKept.wait | apply PlanKept.ended | apply PlanKept.ite | (fail_if_no_progress beta_reduce) | split

theorem kept_bwMulBody   : BodyKept (bwMulBody) := by
  intro e0_ s a f p h
  unfold bwMulBody
  repeat' with_reducible first
    | assumption | apply kept_emptyGrad | apply kept_stagedGrad | (refine RunAll.bind (fun _ => ?_)) | apply RunAll.pure
    | apply PlanKept.act | exact PlanKept.staged | (fail_if_no_progress beta_reduce) | split

theorem kept_execBwMul {e0_ : State} (st : Start) (s : State) (h_s : Kept e0_ s) : OutcomeKept e0_ (execBwMul st s) := by
  unfold execBwMul
  repeat' with_reducible first
    | assumption | apply kept_startEngine | exact kept_bwMulBody | apply kept_bwMulBody
    | (refine BodyKept.use (by apply kept_bwMulBody) ?_) | apply OutcomeKept.answer

theorem kept_bwNormBody   : BodyKept (bwNormBody) := by
  intro e0_ s a f p h
  unfold bwNormBody
  repeat' with_reducible first
    | assumption | apply kept_emptyGrad | apply kept_stagedGrad | (refine RunAll.bind (fun _ => ?_)) | apply RunAll.pure
    | apply PlanKept.act | exact PlanKept.staged | (fail_if_no_progress beta_reduce) | split

theorem kept_execBwNorm {e0_ : State} (st : Start) (s : State) (h_s : Kept e0_ s) : OutcomeKept e0_ (execBwNorm st s) := by
  unfold execBwNorm
  repeat' with_reducible first
    | assumption | apply kept_startEngine | exact kept_bwNormBody | apply kept_bwNormBody
    | (refine BodyKept.use (by apply kept_bwNormBody) ?_) | apply OutcomeKept.answer

theorem kept_bwSoftmaxBody   : BodyKept (bwSoftmaxBody) := by
  intro e0_ s a f p h
  unfold bwSoftmaxBody
  repeat' with_reducible first
    | assumption | apply kept_emptyGrad | apply kept_stagedGrad | (refine RunAll.bind (fun _ => ?_)) | apply RunAll.pure
    | apply PlanKept.act | exact PlanKept.staged | (fail_if_no_progress beta_reduce) | split

theorem kept_execBwSoftmax {e0_ : State} (st : Start) (s : State) (h_s : Kept e0_ s) : OutcomeKept e0_ (execBwSoftmax st s) := by
  unfold execBwSoftmax
  repeat' with_reducible first
    | assumption | apply kept_startEngine | exact kept_bwSoftmaxBody | apply kept_bwSoftmaxBody
    | (refine BodyKept.use (by apply kept_bwSoftmaxBody) ?_) | apply OutcomeKept.answer

end Sys2Proof.Laws
end

