-- ==== Sys2Proof/Laws/KeptBoot.lean ====
section
/-!
SUPPORT. Sys2Proof/Laws/KeptBoot.lean: what the operations of Machine/Boot.lean keep (Laws/Kept.lean).
-/

set_option linter.unusedTactic false
set_option linter.unreachableTactic false
set_option linter.unusedVariables false

namespace Sys2Proof.Laws

open Sys2Proof.Machine Sys2Proof.Safety

theorem kept_unsetKitty {e0_ : State} (s : State) (h_s : Kept e0_ s) : Kept e0_ (unsetKitty s) := by
  unfold unsetKitty
  repeat' with_reducible first
    | assumption | exact Kept.refl _ | apply Kept.id_of | exact VaultKept.refl _ | exact MemKept.refl _ | exact HostKept.refl _
    | exact VaultKept.upd | exact MemKept.mk id id | exact id | exact (fun w => memWrite_wf w _ _) | exact (fun w => memZero_wf w _ _)
    | exact (fun w => Memory.wf_filter _ w) | apply OptKept.getD | apply Kept.put | (fail_if_no_progress beta_reduce)
    | (refine Kept.foldl ?_ (fun _ _ _ => ?_)) | (refine Kept.foldl_fst ?_ (fun _ _ _ => ?_)) | (refine Kept.foldr ?_ (fun _ _ _ => ?_))
    | split | rw [mk_put] | (refine MemKept.mk ?_ ?_)

theorem kept_moveOwner {e0_ : State} (s : State) (o : Option Nat) (h_s : Kept e0_ s) : Kept e0_ (moveOwner s o) := by
  unfold moveOwner
  repeat' with_reducible first
    | assumption | exact Kept.refl _ | apply Kept.id_of | exact VaultKept.refl _ | exact MemKept.refl _ | exact HostKept.refl _
    | exact VaultKept.upd | exact MemKept.mk id id | exact id | exact (fun w => memWrite_wf w _ _) | exact (fun w => memZero_wf w _ _)
    | exact (fun w => Memory.wf_filter _ w) | apply kept_unsetKitty | apply OptKept.getD | apply Kept.put
    | (fail_if_no_progress beta_reduce) | (refine Kept.foldl ?_ (fun _ _ _ => ?_)) | (refine Kept.foldl_fst ?_ (fun _ _ _ => ?_))
    | (refine Kept.foldr ?_ (fun _ _ _ => ?_)) | split | rw [mk_put] | (refine MemKept.mk ?_ ?_)

theorem kept_turnOff {e0_ : State} (s : State) (h_s : Kept e0_ s) : Kept e0_ (turnOff s) := by
  unfold turnOff
  repeat' with_reducible first
    | assumption | exact Kept.refl _ | apply Kept.id_of | exact VaultKept.refl _ | exact MemKept.refl _ | exact HostKept.refl _
    | exact VaultKept.upd | exact MemKept.mk id id | exact id | exact (fun w => memWrite_wf w _ _) | exact (fun w => memZero_wf w _ _)
    | exact (fun w => Memory.wf_filter _ w) | apply kept_stopWriteOuts | apply kept_rebuilt | apply OptKept.getD | apply Kept.put
    | (fail_if_no_progress beta_reduce) | (refine Kept.foldl ?_ (fun _ _ _ => ?_)) | (refine Kept.foldl_fst ?_ (fun _ _ _ => ?_))
    | (refine Kept.foldr ?_ (fun _ _ _ => ?_)) | split | rw [mk_put] | (refine MemKept.mk ?_ ?_)

theorem kept_portReset {e0_ : State} (s : State) (port : Nat) (h_s : Kept e0_ s) : Kept e0_ (portReset s port) := by
  unfold portReset
  repeat' with_reducible first
    | assumption | apply kept_setPortLive | apply kept_setMbox | apply kept_moveOwner | (fail_if_no_progress beta_reduce) | split

theorem kept_failStart {e0_ : State} (s : State) (cause detail : Nat) (h_s : Kept e0_ s) : Kept e0_ (failStart s cause detail) := by
  unfold failStart
  repeat' with_reducible first
    | assumption | exact Kept.refl _ | apply Kept.id_of | exact VaultKept.refl _ | exact MemKept.refl _ | exact HostKept.refl _
    | exact VaultKept.upd | exact MemKept.mk id id | exact id | exact (fun w => memWrite_wf w _ _) | exact (fun w => memZero_wf w _ _)
    | exact (fun w => Memory.wf_filter _ w) | apply kept_raiseAlert | apply OptKept.getD | apply Kept.put
    | (fail_if_no_progress beta_reduce) | (refine Kept.foldl ?_ (fun _ _ _ => ?_)) | (refine Kept.foldl_fst ?_ (fun _ _ _ => ?_))
    | (refine Kept.foldr ?_ (fun _ _ _ => ?_)) | split | rw [mk_put] | (refine MemKept.mk ?_ ?_)

theorem kept_setPeg {e0_ : State} (s : State) (row value : Nat) (h_s : Kept e0_ s) : Kept e0_ (setPeg s row value) := by
  unfold setPeg
  apply kept_wearCheck
  rw [mk_put]
  refine h_s.put ⟨id, ?_, fun _ h => h, Nat.le_refl _⟩ (MemKept.refl _) id id
  dsimp only
  split <;> exact ⟨by first | exact Nat.le_refl _ | exact Nat.le_max_left _ _, by first | exact Nat.le_refl _ | exact Nat.le_max_left _ _,
    by first | exact Nat.le_refl _ | exact Nat.le_max_left _ _, by first | exact Nat.le_refl _ | exact Nat.le_max_left _ _⟩

theorem le_foldl_max {α : Type} (g : α → Nat) (l : List α) (n : Nat) : n ≤ l.foldl (fun m p => max m (g p)) n := by
  induction l generalizing n with
  | nil => exact Nat.le_refl _
  | cons x l ih => exact Nat.le_trans (Nat.le_max_left _ _) (ih _)

theorem kept_readPegs {e0_ : State} (s : State) (h_s : Kept e0_ s) : Kept e0_ (readPegs s) := by
  unfold readPegs
  rw [mk_put]
  exact h_s.put ⟨id, ⟨le_foldl_max _ _ _, le_foldl_max _ _ _, le_foldl_max _ _ _, le_foldl_max _ _ _⟩, fun _ h => h, Nat.le_refl _⟩
    (MemKept.refl _) (HostKept.refl _) (HostKept.refl _)

theorem kept_unwrapKeys {e0_ : State} (s : State) (h_s : Kept e0_ s) : Kept e0_ (unwrapKeys s) := by
  unfold unwrapKeys
  rw [mk_put]
  refine h_s.put (VaultKept.of_slots fun w e he => ?_) (MemKept.refl _) (HostKept.refl _) (HostKept.refl _)
  obtain ⟨x, hx, rfl⟩ := List.mem_map.1 he
  exact w x hx

theorem kept_putBank {e0_ : State} (s : State) (i : Nat) (b : Bank) (h_s : Kept e0_ s) : Kept e0_ (putBank s i b) := by
  unfold putBank
  repeat' with_reducible first
    | assumption | exact Kept.refl _ | apply Kept.id_of | exact VaultKept.refl _ | exact MemKept.refl _ | exact HostKept.refl _
    | exact VaultKept.upd | exact MemKept.mk id id | exact id | exact (fun w => memWrite_wf w _ _) | exact (fun w => memZero_wf w _ _)
    | exact (fun w => Memory.wf_filter _ w) | apply OptKept.getD | apply Kept.put | (fail_if_no_progress beta_reduce)
    | (refine Kept.foldl ?_ (fun _ _ _ => ?_)) | (refine Kept.foldl_fst ?_ (fun _ _ _ => ?_)) | (refine Kept.foldr ?_ (fun _ _ _ => ?_))
    | split | rw [mk_put] | (refine MemKept.mk ?_ ?_)

theorem kept_chooseBank {e0_ : State} (s : State) (bad : BitVec 2) (h_s : Kept e0_ s) : ExcKept e0_ (chooseBank s bad) := by
  have run : ∀ (t : State) (i last : Nat) (fb : Bool), Kept e0_ t → Kept e0_ { t with boot := { t.boot with running := i, lastStart := last, fallback := fb } } := by
    intro t i last fb ht
    rw [mk_put]
    exact ht.put (VaultKept.refl _) (MemKept.refl _) id id
  have active : ∀ (t : State) (last : Nat) (fb : Bool) (failed : Nat), Kept e0_ t → ExcKept e0_ (match bankIn t .active with
      | some i => if bankStarts t bad i then .ok { t with boot := { t.boot with running := i, lastStart := last, fallback := fb } } else .error (failed ||| 2 ^ i)
      | none => .error failed : Except Nat State) := by
    intro t last fb failed ht
    split
    · split
      · exact ExcKept.ok (run _ _ _ _ ht)
      · exact ExcKept.error
    · exact ExcKept.error
  unfold chooseBank
  dsimp only
  split
  · exact active _ _ _ _ h_s
  · split
    · exact ExcKept.ok (run _ _ _ _ (kept_putBank _ _ _ (kept_putBank _ _ _ h_s)))
    · exact active _ _ _ _ (kept_putBank _ _ _ h_s)

theorem kept_applyToken {e0_ : State} (s : State) (h_s : Kept e0_ s) : Kept e0_ (applyToken s) := by
  unfold applyToken
  repeat' with_reducible first
    | assumption | exact Kept.refl _ | apply Kept.id_of | exact VaultKept.refl _ | exact MemKept.refl _ | exact HostKept.refl _
    | exact VaultKept.upd | exact MemKept.mk id id | exact id | exact (fun w => memWrite_wf w _ _) | exact (fun w => memZero_wf w _ _)
    | exact (fun w => Memory.wf_filter _ w) | (exact VaultKept.of_slots fun _ _ he => absurd he List.not_mem_nil)
    | apply kept_recordWrite | apply kept_setPeg | apply OptKept.getD | apply Kept.put | apply Kept.ite
    | (refine Kept.foldl ?_ (fun _ _ _ => ?_)) | (refine Kept.foldl_fst ?_ (fun _ _ _ => ?_)) | (refine Kept.foldr ?_ (fun _ _ _ => ?_))
    | (fail_if_no_progress beta_reduce)
    | ((try lift_lets -underBinder); intro xx; first | (refine Kept.use (P := Kept e0_ xx) ?_ (fun hx => ?_); (on_goal 2 => clear_value xx); (on_goal 1 => subst xx)) | (refine Kept.use (P := OptKept e0_ xx) ?_ (fun hx => ?_); (on_goal 2 => clear_value xx); (on_goal 1 => subst xx)) | (refine Kept.use (P := Kept e0_ (Prod.fst (α := State) xx)) ?_ (fun hx => ?_); (on_goal 2 => clear_value xx); (on_goal 1 => subst xx)) | (refine Kept.use (P := Kept e0_ (Prod.snd (β := State) xx)) ?_ (fun hx => ?_); (on_goal 2 => clear_value xx); (on_goal 1 => subst xx)) | (refine Kept.use (P := OptFst e0_ xx) ?_ (fun hx => ?_); (on_goal 2 => clear_value xx); (on_goal 1 => subst xx)) | (refine Kept.use (P := ExcKept e0_ xx) ?_ (fun hx => ?_); (on_goal 2 => clear_value xx); (on_goal 1 => subst xx)) | (have yy : _ → _ := xx; clear yy; subst xx) | (have yy : Memories := xx; clear yy; subst xx) | (have yy : Vault := xx; clear yy; subst xx) | (have yy : HostEnv := xx; clear yy; subst xx) | clear_value xx)
    | split | rw [mk_put] | (refine MemKept.mk ?_ ?_)

theorem kept_applyTransfer {e0_ : State} (s : State) (h_s : Kept e0_ s) : Kept e0_ (applyTransfer s) := by
  unfold applyTransfer
  repeat' with_reducible first
    | assumption | exact Kept.refl _ | apply Kept.id_of | exact VaultKept.refl _ | exact MemKept.refl _ | exact HostKept.refl _
    | exact VaultKept.upd | exact MemKept.mk id id | exact id | exact (fun w => memWrite_wf w _ _) | exact (fun w => memZero_wf w _ _)
    | exact (fun w => Memory.wf_filter _ w) | apply kept_recordWrite | apply kept_setPeg | apply OptKept.getD | apply Kept.put
    | (fail_if_no_progress beta_reduce) | (refine Kept.foldl ?_ (fun _ _ _ => ?_)) | (refine Kept.foldl_fst ?_ (fun _ _ _ => ?_))
    | (refine Kept.foldr ?_ (fun _ _ _ => ?_)) | split | rw [mk_put] | (refine MemKept.mk ?_ ?_)

theorem kept_freeWriting {e0_ : State} (s : State) (h_s : Kept e0_ s) : Kept e0_ (freeWriting s) := by
  unfold freeWriting
  repeat' with_reducible first
    | assumption | exact Kept.refl _ | apply Kept.id_of | exact VaultKept.refl _ | exact MemKept.refl _ | exact HostKept.refl _
    | exact VaultKept.upd | exact MemKept.mk id id | exact id | exact (fun w => memWrite_wf w _ _) | exact (fun w => memZero_wf w _ _)
    | exact (fun w => Memory.wf_filter _ w) | apply kept_freeSlotOf | apply OptKept.getD | apply Kept.put
    | (fail_if_no_progress beta_reduce) | (refine Kept.foldl ?_ (fun _ _ _ => ?_)) | (refine Kept.foldl_fst ?_ (fun _ _ _ => ?_))
    | (refine Kept.foldr ?_ (fun _ _ _ => ?_)) | split | rw [mk_put] | (refine MemKept.mk ?_ ?_)

theorem kept_failUnit {e0_ : State} (s : State) (u : Nat × Nat) (h_s : Kept e0_ s) : Kept e0_ (failUnit s u) := by
  unfold failUnit
  repeat' with_reducible first
    | assumption | exact Kept.refl _ | apply Kept.id_of | exact VaultKept.refl _ | exact MemKept.refl _ | exact HostKept.refl _
    | exact VaultKept.upd | exact MemKept.mk id id | exact id | exact (fun w => memWrite_wf w _ _) | exact (fun w => memZero_wf w _ _)
    | exact (fun w => Memory.wf_filter _ w) | apply kept_recordRetired | apply kept_withdrawBand | apply OptKept.getD | apply Kept.put
    | (fail_if_no_progress beta_reduce) | (refine Kept.foldl ?_ (fun _ _ _ => ?_)) | (refine Kept.foldl_fst ?_ (fun _ _ _ => ?_))
    | (refine Kept.foldr ?_ (fun _ _ _ => ?_)) | split | rw [mk_put] | (refine MemKept.mk ?_ ?_)

theorem kept_mapFar {e0_ : State} (trained : BitVec 2) (acc : State × Nat) (o : FarOffer) (h_acc : Kept e0_ acc.1) : Kept e0_ (mapFar trained acc o).1 := by
  unfold mapFar
  repeat' with_reducible first
    | assumption | exact Kept.refl _ | apply Kept.id_of | exact VaultKept.refl _ | exact MemKept.refl _ | exact HostKept.refl _
    | exact VaultKept.upd | exact MemKept.mk id id | exact id | exact (fun w => memWrite_wf w _ _) | exact (fun w => memZero_wf w _ _)
    | exact (fun w => Memory.wf_filter _ w) | apply kept_putExpander | apply OptKept.getD | apply Kept.put | apply Kept.ite
    | (refine Kept.foldl ?_ (fun _ _ _ => ?_)) | (refine Kept.foldl_fst ?_ (fun _ _ _ => ?_)) | (refine Kept.foldr ?_ (fun _ _ _ => ?_))
    | (fail_if_no_progress beta_reduce)
    | ((try lift_lets -underBinder); intro xx; first | (refine Kept.use (P := Kept e0_ xx) ?_ (fun hx => ?_); (on_goal 2 => clear_value xx); (on_goal 1 => subst xx)) | (have yy : _ → _ := xx; clear yy; subst xx) | (have yy : Memories := xx; clear yy; subst xx) | (have yy : Vault := xx; clear yy; subst xx) | (have yy : HostEnv := xx; clear yy; subst xx) | clear_value xx)
    | split | rw [mk_put] | (refine MemKept.mk ?_ ?_)

theorem kept_portsUp {e0_ : State} (s : State) (base : Nat) (ports : List Nat) (h_s : Kept e0_ s) : Kept e0_ (portsUp s base ports) := by
  unfold portsUp
  repeat' with_reducible first
    | assumption | exact Kept.refl _ | apply Kept.id_of | exact VaultKept.refl _ | exact MemKept.refl _ | exact HostKept.refl _
    | exact VaultKept.upd | exact MemKept.mk id id | exact id | exact (fun w => memWrite_wf w _ _) | exact (fun w => memZero_wf w _ _)
    | exact (fun w => Memory.wf_filter _ w) | apply kept_setPortLive | apply OptKept.getD | apply Kept.put
    | (fail_if_no_progress beta_reduce) | (refine Kept.foldl ?_ (fun _ _ _ => ?_)) | (refine Kept.foldl_fst ?_ (fun _ _ _ => ?_))
    | (refine Kept.foldr ?_ (fun _ _ _ => ?_)) | split | rw [mk_put] | (refine MemKept.mk ?_ ?_)

theorem kept_stepFive {e0_ : State} (s : State) (rp : StepReport) (h_s : Kept e0_ s) : Kept e0_ (stepFive s rp) := by
  unfold stepFive
  repeat' with_reducible first
    | assumption | exact Kept.refl _ | apply Kept.id_of | exact VaultKept.refl _ | exact MemKept.refl _ | exact HostKept.refl _
    | exact VaultKept.upd | exact MemKept.mk id id | exact id | exact (fun w => memWrite_wf w _ _) | exact (fun w => memZero_wf w _ _)
    | exact (fun w => Memory.wf_filter _ w) | apply kept_send | apply kept_failUnit | apply kept_mapFar | apply kept_portsUp
    | apply OptKept.getD | apply Kept.put | (fail_if_no_progress beta_reduce)
    | (refine Kept.fst_of (by assumption) ?_; apply kept_mapFar) | (refine Kept.foldl ?_ (fun _ _ _ => ?_))
    | (refine Kept.foldl_fst ?_ (fun _ _ _ => ?_)) | (refine Kept.foldr ?_ (fun _ _ _ => ?_)) | split | rw [mk_put]
    | (refine MemKept.mk ?_ ?_)

theorem kept_stepSix {e0_ : State} (s : State) (h_s : Kept e0_ s) : Kept e0_ (stepSix s) := by
  unfold stepSix
  repeat' with_reducible first
    | assumption | exact Kept.refl _ | apply Kept.id_of | exact VaultKept.refl _ | exact MemKept.refl _ | exact HostKept.refl _
    | exact VaultKept.upd | exact MemKept.mk id id | exact id | exact (fun w => memWrite_wf w _ _) | exact (fun w => memZero_wf w _ _)
    | exact (fun w => Memory.wf_filter _ w) | (exact VaultKept.mk id (PegsRise.refl _) (fun _ h => h) (Nat.le_add_right _ _))
    | apply kept_failStart | apply OptKept.getD | apply Kept.put | apply Kept.ite | (refine Kept.foldl ?_ (fun _ _ _ => ?_))
    | (refine Kept.foldl_fst ?_ (fun _ _ _ => ?_)) | (refine Kept.foldr ?_ (fun _ _ _ => ?_)) | (fail_if_no_progress beta_reduce)
    | ((try lift_lets -underBinder); intro xx; first | (refine Kept.use (P := Kept e0_ xx) ?_ (fun hx => ?_); (on_goal 2 => clear_value xx); (on_goal 1 => subst xx)) | (refine Kept.use (P := OptKept e0_ xx) ?_ (fun hx => ?_); (on_goal 2 => clear_value xx); (on_goal 1 => subst xx)) | (refine Kept.use (P := Kept e0_ (Prod.fst (α := State) xx)) ?_ (fun hx => ?_); (on_goal 2 => clear_value xx); (on_goal 1 => subst xx)) | (refine Kept.use (P := Kept e0_ (Prod.snd (β := State) xx)) ?_ (fun hx => ?_); (on_goal 2 => clear_value xx); (on_goal 1 => subst xx)) | (refine Kept.use (P := OptFst e0_ xx) ?_ (fun hx => ?_); (on_goal 2 => clear_value xx); (on_goal 1 => subst xx)) | (refine Kept.use (P := ExcKept e0_ xx) ?_ (fun hx => ?_); (on_goal 2 => clear_value xx); (on_goal 1 => subst xx)) | (have yy : _ → _ := xx; clear yy; subst xx) | (have yy : Memories := xx; clear yy; subst xx) | (have yy : Vault := xx; clear yy; subst xx) | (have yy : HostEnv := xx; clear yy; subst xx) | clear_value xx)
    | split | rw [mk_put] | (refine MemKept.mk ?_ ?_)

theorem kept_startStepEndOp {e0_ : State} (rp : StepReport) (s : State) (h_s : Kept e0_ s) : Kept e0_ (startStepEndOp rp s) := by
  have next : ∀ t : State, Kept e0_ t → Kept e0_ { t with boot := { t.boot with step := s.boot.step + 1 } } := by
    intro t ht
    rw [mk_put]
    exact ht.put (VaultKept.refl _) (MemKept.refl _) id id
  have hb : Kept e0_ { s with boot := { s.boot with atStart := s.vault.stopRec } } := by
    rw [mk_put]
    exact h_s.put (VaultKept.refl _) (MemKept.refl _) id id
  unfold startStepEndOp
  dsimp only
  split
  · exact h_s
  · split
    · exact kept_failStart _ _ _ h_s
    · split
      · exact next _ (kept_portsUp _ _ _ h_s)
      · split
        · rename_i t ht
          exact next _ (ExcKept.get ht (kept_chooseBank _ _ (kept_readPegs _ hb)))
        · exact kept_failStart _ _ _ (kept_readPegs _ hb)
      · have h1 : Kept e0_ (if s.vault.pegs.securityVersion < (runningBank s).sv then setPeg s 0 (runningBank s).sv else s) := by
          split
          · exact kept_setPeg _ _ _ h_s
          · exact h_s
        have h2 := kept_unwrapKeys _ (kept_freeWriting _ (kept_applyTransfer _ (kept_applyToken _ h1)))
        rw [mk_put]
        exact h2.put (VaultKept.refl _) (MemKept.refl _) id id
      · exact next _ (Kept.foldl h_s fun t x ht => kept_failUnit _ _ ht)
      · exact next _ (kept_stepFive _ _ h_s)
      · exact kept_stepSix _ h_s
      · exact h_s

theorem kept_execStartStepEnd {e0_ : State} (rp : StepReport) (s : State) (h_s : Kept e0_ s) : OutcomeKept e0_ (execStartStepEnd rp s) := by
  unfold execStartStepEnd
  repeat' with_reducible first
    | assumption | apply kept_startStepEndOp | apply OutcomeKept.answer

theorem kept_execPowerOn {e0_ : State} (s : State) (h_s : Kept e0_ s) : OutcomeKept e0_ (execPowerOn s) := by
  unfold execPowerOn
  repeat' with_reducible first
    | assumption | exact Kept.refl _ | apply Kept.id_of | exact VaultKept.refl _ | exact MemKept.refl _ | exact HostKept.refl _
    | exact VaultKept.upd | exact MemKept.mk id id | exact id | exact (fun w => memWrite_wf w _ _) | exact (fun w => memZero_wf w _ _)
    | exact (fun w => Memory.wf_filter _ w) | apply kept_fullStart | apply OutcomeKept.answer
    | (refine PrepKept.mk (fun _ _ _ _ _ => ?_) (fun _ _ _ _ _ _ _ => ?_)) | apply OptKept.getD | apply Kept.put
    | (fail_if_no_progress beta_reduce) | (refine Kept.foldl ?_ (fun _ _ _ => ?_)) | (refine Kept.foldl_fst ?_ (fun _ _ _ => ?_))
    | (refine Kept.foldr ?_ (fun _ _ _ => ?_)) | split | rw [mk_put] | (refine MemKept.mk ?_ ?_)

theorem kept_execResetNAssert {e0_ : State} (s : State) (h_s : Kept e0_ s) : OutcomeKept e0_ (execResetNAssert s) := by
  unfold execResetNAssert
  repeat' with_reducible first
    | assumption | exact Kept.refl _ | apply Kept.id_of | exact VaultKept.refl _ | exact MemKept.refl _ | exact HostKept.refl _
    | exact VaultKept.upd | exact MemKept.mk id id | exact id | exact (fun w => memWrite_wf w _ _) | exact (fun w => memZero_wf w _ _)
    | exact (fun w => Memory.wf_filter _ w) | apply kept_fullStart | apply OutcomeKept.answer
    | (refine PrepKept.mk (fun _ _ _ _ _ => ?_) (fun _ _ _ _ _ _ _ => ?_)) | apply OptKept.getD | apply Kept.put
    | (fail_if_no_progress beta_reduce) | (refine Kept.foldl ?_ (fun _ _ _ => ?_)) | (refine Kept.foldl_fst ?_ (fun _ _ _ => ?_))
    | (refine Kept.foldr ?_ (fun _ _ _ => ?_)) | split | rw [mk_put] | (refine MemKept.mk ?_ ?_)

theorem kept_execResetNRelease {e0_ : State} (s : State) (h_s : Kept e0_ s) : OutcomeKept e0_ (execResetNRelease s) := by
  unfold execResetNRelease
  repeat' with_reducible first
    | assumption | exact Kept.refl _ | apply Kept.id_of | exact VaultKept.refl _ | exact MemKept.refl _ | exact HostKept.refl _
    | exact VaultKept.upd | exact MemKept.mk id id | exact id | exact (fun w => memWrite_wf w _ _) | exact (fun w => memZero_wf w _ _)
    | exact (fun w => Memory.wf_filter _ w) | apply kept_fullStart | apply OutcomeKept.answer
    | (refine PrepKept.mk (fun _ _ _ _ _ => ?_) (fun _ _ _ _ _ _ _ => ?_)) | apply OptKept.getD | apply Kept.put
    | (fail_if_no_progress beta_reduce) | (refine Kept.foldl ?_ (fun _ _ _ => ?_)) | (refine Kept.foldl_fst ?_ (fun _ _ _ => ?_))
    | (refine Kept.foldr ?_ (fun _ _ _ => ?_)) | split | rw [mk_put] | (refine MemKept.mk ?_ ?_)

theorem kept_fundamentalResetOp {e0_ : State} (port : Nat) (s : State) (h_s : Kept e0_ s) : Kept e0_ (fundamentalResetOp port s) := by
  unfold fundamentalResetOp
  repeat' with_reducible first
    | assumption | apply kept_fullStart | apply kept_portReset | (fail_if_no_progress beta_reduce) | split

theorem kept_execPcieFundamentalReset {e0_ : State} (port : Nat) (s : State) (h_s : Kept e0_ s) : OutcomeKept e0_ (execPcieFundamentalReset port s) := by
  unfold execPcieFundamentalReset
  repeat' with_reducible first
    | assumption | apply kept_fundamentalResetOp | apply OutcomeKept.answer

theorem kept_portResetOp {e0_ : State} (port : Nat) (s : State) (h_s : Kept e0_ s) : Kept e0_ (portResetOp port s) := by
  unfold portResetOp
  repeat' with_reducible first
    | assumption | apply kept_portReset | (fail_if_no_progress beta_reduce) | split

theorem kept_execPcieHotReset {e0_ : State} (port : Nat) (s : State) (h_s : Kept e0_ s) : OutcomeKept e0_ (execPcieHotReset port s) := by
  unfold execPcieHotReset
  repeat' with_reducible first
    | assumption | apply kept_portResetOp | apply OutcomeKept.answer

theorem kept_execFunctionLevelReset {e0_ : State} (port : Nat) (s : State) (h_s : Kept e0_ s) : OutcomeKept e0_ (execFunctionLevelReset port s) := by
  unfold execFunctionLevelReset
  repeat' with_reducible first
    | assumption | apply kept_portResetOp | apply OutcomeKept.answer

theorem kept_execInputDropout {e0_ : State} (s : State) (h_s : Kept e0_ s) : OutcomeKept e0_ (execInputDropout s) := by
  unfold execInputDropout
  repeat' with_reducible first
    | assumption | exact Kept.refl _ | apply Kept.id_of | apply kept_turnOff | apply OutcomeKept.answer
    | (refine PrepKept.mk (fun _ _ _ _ _ => ?_) (fun _ _ _ _ _ _ _ => ?_)) | apply OptKept.getD | (fail_if_no_progress beta_reduce)
    | split

theorem kept_execRideThrough {e0_ : State} (s : State) (h_s : Kept e0_ s) : OutcomeKept e0_ (execRideThrough s) := by
  unfold execRideThrough
  repeat' with_reducible first
    | assumption | exact Kept.refl _ | apply Kept.id_of | exact VaultKept.refl _ | exact MemKept.refl _ | exact HostKept.refl _
    | exact VaultKept.upd | exact MemKept.mk id id | exact id | exact (fun w => memWrite_wf w _ _) | exact (fun w => memZero_wf w _ _)
    | exact (fun w => Memory.wf_filter _ w) | apply kept_failStart | apply OutcomeKept.answer
    | (refine PrepKept.mk (fun _ _ _ _ _ => ?_) (fun _ _ _ _ _ _ _ => ?_)) | apply OptKept.getD | apply Kept.put
    | (fail_if_no_progress beta_reduce) | (refine Kept.foldl ?_ (fun _ _ _ => ?_)) | (refine Kept.foldl_fst ?_ (fun _ _ _ => ?_))
    | (refine Kept.foldr ?_ (fun _ _ _ => ?_)) | split | rw [mk_put] | (refine MemKept.mk ?_ ?_)

theorem kept_execRideThroughExpiry {e0_ : State} (s : State) (h_s : Kept e0_ s) : OutcomeKept e0_ (execRideThroughExpiry s) := by
  unfold execRideThroughExpiry
  repeat' with_reducible first
    | assumption | exact Kept.refl _ | apply Kept.id_of | apply kept_turnOff | apply OutcomeKept.answer
    | (refine PrepKept.mk (fun _ _ _ _ _ => ?_) (fun _ _ _ _ _ _ _ => ?_)) | apply OptKept.getD | (fail_if_no_progress beta_reduce)
    | split

theorem kept_execInputReturn {e0_ : State} (s : State) (h_s : Kept e0_ s) : OutcomeKept e0_ (execInputReturn s) := by
  unfold execInputReturn
  repeat' with_reducible first
    | assumption | exact Kept.refl _ | apply Kept.id_of | exact VaultKept.refl _ | exact MemKept.refl _ | exact HostKept.refl _
    | exact VaultKept.upd | exact MemKept.mk id id | exact id | exact (fun w => memWrite_wf w _ _) | exact (fun w => memZero_wf w _ _)
    | exact (fun w => Memory.wf_filter _ w) | apply OutcomeKept.answer
    | (refine PrepKept.mk (fun _ _ _ _ _ => ?_) (fun _ _ _ _ _ _ _ => ?_)) | apply OptKept.getD | apply Kept.put
    | (fail_if_no_progress beta_reduce) | (refine Kept.foldl ?_ (fun _ _ _ => ?_)) | (refine Kept.foldl_fst ?_ (fun _ _ _ => ?_))
    | (refine Kept.foldr ?_ (fun _ _ _ => ?_)) | split | rw [mk_put] | (refine MemKept.mk ?_ ?_)

theorem kept_converterTripOp {e0_ : State} (rail : Nat) (s : State) (h_s : Kept e0_ s) : Kept e0_ (converterTripOp rail s) := by
  unfold converterTripOp
  repeat' with_reducible first
    | assumption | exact Kept.refl _ | apply Kept.id_of | exact VaultKept.refl _ | exact MemKept.refl _ | exact HostKept.refl _
    | exact VaultKept.upd | exact MemKept.mk id id | exact id | exact (fun w => memWrite_wf w _ _) | exact (fun w => memZero_wf w _ _)
    | exact (fun w => Memory.wf_filter _ w) | apply kept_fatalWith | apply kept_turnOff | apply OptKept.getD | apply Kept.put
    | (fail_if_no_progress beta_reduce) | (refine Kept.foldl ?_ (fun _ _ _ => ?_)) | (refine Kept.foldl_fst ?_ (fun _ _ _ => ?_))
    | (refine Kept.foldr ?_ (fun _ _ _ => ?_)) | split | rw [mk_put] | (refine MemKept.mk ?_ ?_)

theorem kept_execConverterTrip {e0_ : State} (rail : Nat) (s : State) (h_s : Kept e0_ s) : OutcomeKept e0_ (execConverterTrip rail s) := by
  unfold execConverterTrip
  repeat' with_reducible first
    | assumption | apply kept_converterTripOp | apply OutcomeKept.answer

theorem kept_osfpPlugInsertOp {e0_ : State} (port watts : Nat) (s : State) (h_s : Kept e0_ s) : Kept e0_ (osfpPlugInsertOp port watts s) := by
  unfold osfpPlugInsertOp
  repeat' with_reducible first
    | assumption | exact Kept.refl _ | apply Kept.id_of | exact VaultKept.refl _ | exact MemKept.refl _ | exact HostKept.refl _
    | exact VaultKept.upd | exact MemKept.mk id id | exact id | exact (fun w => memWrite_wf w _ _) | exact (fun w => memZero_wf w _ _)
    | exact (fun w => Memory.wf_filter _ w) | apply kept_setPortLive | apply OptKept.getD | apply Kept.put | apply Kept.ite
    | (refine Kept.foldl ?_ (fun _ _ _ => ?_)) | (refine Kept.foldl_fst ?_ (fun _ _ _ => ?_)) | (refine Kept.foldr ?_ (fun _ _ _ => ?_))
    | (fail_if_no_progress beta_reduce)
    | ((try lift_lets -underBinder); intro xx; first | (refine Kept.use (P := Kept e0_ xx) ?_ (fun hx => ?_); (on_goal 2 => clear_value xx); (on_goal 1 => subst xx)) | clear_value xx)
    | split | rw [mk_put] | (refine MemKept.mk ?_ ?_)

theorem kept_execOsfpPlugInsert {e0_ : State} (port watts : Nat) (s : State) (h_s : Kept e0_ s) : OutcomeKept e0_ (execOsfpPlugInsert port watts s) := by
  unfold execOsfpPlugInsert
  repeat' with_reducible first
    | assumption | apply kept_osfpPlugInsertOp | apply OutcomeKept.answer

theorem kept_execHostLinkDown {e0_ : State} (port : Nat) (s : State) (h_s : Kept e0_ s) : OutcomeKept e0_ (execHostLinkDown port s) := by
  unfold execHostLinkDown
  repeat' with_reducible first
    | assumption | exact Kept.refl _ | apply Kept.id_of | apply kept_setPortLive | apply OutcomeKept.answer
    | (refine PrepKept.mk (fun _ _ _ _ _ => ?_) (fun _ _ _ _ _ _ _ => ?_)) | apply OptKept.getD | (fail_if_no_progress beta_reduce)
    | split

theorem kept_execHostLinkUp {e0_ : State} (port : Nat) (s : State) (h_s : Kept e0_ s) : OutcomeKept e0_ (execHostLinkUp port s) := by
  unfold execHostLinkUp
  repeat' with_reducible first
    | assumption | exact Kept.refl _ | apply Kept.id_of | apply kept_setPortLive | apply OutcomeKept.answer
    | (refine PrepKept.mk (fun _ _ _ _ _ => ?_) (fun _ _ _ _ _ _ _ => ?_)) | apply OptKept.getD | (fail_if_no_progress beta_reduce)
    | split

theorem kept_ptmExchangeOp {e0_ : State} (s : State) (h_s : Kept e0_ s) : Kept e0_ (ptmExchangeOp s) := by
  unfold ptmExchangeOp
  repeat' with_reducible first
    | assumption | exact Kept.refl _ | apply Kept.id_of | exact VaultKept.refl _ | exact MemKept.refl _ | exact HostKept.refl _
    | exact VaultKept.upd | exact MemKept.mk id id | exact id | exact (fun w => memWrite_wf w _ _) | exact (fun w => memZero_wf w _ _)
    | exact (fun w => Memory.wf_filter _ w) | apply kept_send | apply OptKept.getD | apply Kept.put | (fail_if_no_progress beta_reduce)
    | (refine Kept.foldl ?_ (fun _ _ _ => ?_)) | (refine Kept.foldl_fst ?_ (fun _ _ _ => ?_)) | (refine Kept.foldr ?_ (fun _ _ _ => ?_))
    | split | rw [mk_put] | (refine MemKept.mk ?_ ?_)

theorem kept_execPtmExchange {e0_ : State} (s : State) (h_s : Kept e0_ s) : OutcomeKept e0_ (execPtmExchange s) := by
  unfold execPtmExchange
  repeat' with_reducible first
    | assumption | apply kept_ptmExchangeOp | apply OutcomeKept.answer

theorem kept_ptmResponseOp {e0_ : State} (port time : Nat) (good : Bool) (s : State) (h_s : Kept e0_ s) : Kept e0_ (ptmResponseOp port time good s) := by
  unfold ptmResponseOp
  repeat' with_reducible first
    | assumption | exact Kept.refl _ | apply Kept.id_of | exact VaultKept.refl _ | exact MemKept.refl _ | exact HostKept.refl _
    | exact VaultKept.upd | exact MemKept.mk id id | exact id | exact (fun w => memWrite_wf w _ _) | exact (fun w => memZero_wf w _ _)
    | exact (fun w => Memory.wf_filter _ w) | apply OptKept.getD | apply Kept.put | (fail_if_no_progress beta_reduce)
    | (refine Kept.foldl ?_ (fun _ _ _ => ?_)) | (refine Kept.foldl_fst ?_ (fun _ _ _ => ?_)) | (refine Kept.foldr ?_ (fun _ _ _ => ?_))
    | split | rw [mk_put] | (refine MemKept.mk ?_ ?_)

theorem kept_execPtmResponse {e0_ : State} (port time : Nat) (good : Bool) (s : State) (h_s : Kept e0_ s) : OutcomeKept e0_ (execPtmResponse port time good s) := by
  unfold execPtmResponse
  repeat' with_reducible first
    | assumption | apply kept_ptmResponseOp | apply OutcomeKept.answer

theorem kept_ptmEnableOp {e0_ : State} (port : Nat) (on : Bool) (s : State) (h_s : Kept e0_ s) : Kept e0_ (ptmEnableOp port on s) := by
  unfold ptmEnableOp
  repeat' with_reducible first
    | assumption | exact Kept.refl _ | apply Kept.id_of | exact VaultKept.refl _ | exact MemKept.refl _ | exact HostKept.refl _
    | exact VaultKept.upd | exact MemKept.mk id id | exact id | exact (fun w => memWrite_wf w _ _) | exact (fun w => memZero_wf w _ _)
    | exact (fun w => Memory.wf_filter _ w) | apply OptKept.getD | apply Kept.put | apply Kept.ite
    | (refine Kept.foldl ?_ (fun _ _ _ => ?_)) | (refine Kept.foldl_fst ?_ (fun _ _ _ => ?_)) | (refine Kept.foldr ?_ (fun _ _ _ => ?_))
    | (fail_if_no_progress beta_reduce)
    | ((try lift_lets -underBinder); intro xx; first | (refine Kept.use (P := Kept e0_ xx) ?_ (fun hx => ?_); (on_goal 2 => clear_value xx); (on_goal 1 => subst xx)) | (refine Kept.use (P := OptKept e0_ xx) ?_ (fun hx => ?_); (on_goal 2 => clear_value xx); (on_goal 1 => subst xx)) | (refine Kept.use (P := Kept e0_ (Prod.fst (α := State) xx)) ?_ (fun hx => ?_); (on_goal 2 => clear_value xx); (on_goal 1 => subst xx)) | (refine Kept.use (P := Kept e0_ (Prod.snd (β := State) xx)) ?_ (fun hx => ?_); (on_goal 2 => clear_value xx); (on_goal 1 => subst xx)) | (refine Kept.use (P := OptFst e0_ xx) ?_ (fun hx => ?_); (on_goal 2 => clear_value xx); (on_goal 1 => subst xx)) | (refine Kept.use (P := ExcKept e0_ xx) ?_ (fun hx => ?_); (on_goal 2 => clear_value xx); (on_goal 1 => subst xx)) | (have yy : _ → _ := xx; clear yy; subst xx) | (have yy : Memories := xx; clear yy; subst xx) | (have yy : Vault := xx; clear yy; subst xx) | (have yy : HostEnv := xx; clear yy; subst xx) | clear_value xx)
    | split | rw [mk_put] | (refine MemKept.mk ?_ ?_)

theorem kept_execPtmEnable {e0_ : State} (port : Nat) (on : Bool) (s : State) (h_s : Kept e0_ s) : OutcomeKept e0_ (execPtmEnable port on s) := by
  unfold execPtmEnable
  repeat' with_reducible first
    | assumption | exact Kept.refl _ | apply Kept.id_of | exact VaultKept.refl _ | exact MemKept.refl _ | exact HostKept.refl _
    | exact VaultKept.upd | exact MemKept.mk id id | exact id | exact (fun w => memWrite_wf w _ _) | exact (fun w => memZero_wf w _ _)
    | exact (fun w => Memory.wf_filter _ w) | apply kept_ptmEnableOp | apply OutcomeKept.answer | apply OptKept.getD | apply Kept.put
    | apply Kept.ite | (refine Kept.foldl ?_ (fun _ _ _ => ?_)) | (refine Kept.foldl_fst ?_ (fun _ _ _ => ?_))
    | (refine Kept.foldr ?_ (fun _ _ _ => ?_)) | (fail_if_no_progress beta_reduce)
    | ((try lift_lets -underBinder); intro xx; first | (refine Kept.use (P := Kept e0_ xx) ?_ (fun hx => ?_); (on_goal 2 => clear_value xx); (on_goal 1 => subst xx)) | (refine Kept.use (P := OptKept e0_ xx) ?_ (fun hx => ?_); (on_goal 2 => clear_value xx); (on_goal 1 => subst xx)) | (refine Kept.use (P := Kept e0_ (Prod.fst (α := State) xx)) ?_ (fun hx => ?_); (on_goal 2 => clear_value xx); (on_goal 1 => subst xx)) | (refine Kept.use (P := Kept e0_ (Prod.snd (β := State) xx)) ?_ (fun hx => ?_); (on_goal 2 => clear_value xx); (on_goal 1 => subst xx)) | (refine Kept.use (P := OptFst e0_ xx) ?_ (fun hx => ?_); (on_goal 2 => clear_value xx); (on_goal 1 => subst xx)) | (refine Kept.use (P := ExcKept e0_ xx) ?_ (fun hx => ?_); (on_goal 2 => clear_value xx); (on_goal 1 => subst xx)) | (have yy : _ → _ := xx; clear yy; subst xx) | (have yy : Memories := xx; clear yy; subst xx) | (have yy : Vault := xx; clear yy; subst xx) | (have yy : HostEnv := xx; clear yy; subst xx) | clear_value xx)
    | split | rw [mk_put] | (refine MemKept.mk ?_ ?_)

end Sys2Proof.Laws
end

