-- ==== Sys2Proof/Laws/KeptKeys.lean ====
section
/-!
SUPPORT. Sys2Proof/Laws/KeptKeys.lean: what the operations of Machine/Keys.lean keep (Laws/Kept.lean).
-/

set_option linter.unusedTactic false
set_option linter.unreachableTactic false
set_option linter.unusedVariables false

namespace Sys2Proof.Laws

open Sys2Proof.Machine Sys2Proof.Safety

theorem kept_putSlot {e0_ : State} (s : State) (k : Nat) (x : KeySlot) (h_s : Kept e0_ s) : Kept e0_ (putSlot s k x) := by
  unfold putSlot
  repeat' with_reducible first
    | assumption | exact Kept.refl _ | apply Kept.id_of | exact VaultKept.refl _ | exact MemKept.refl _ | exact HostKept.refl _
    | exact VaultKept.upd | exact MemKept.mk id id | exact id | exact (fun w => memWrite_wf w _ _) | exact (fun w => memZero_wf w _ _)
    | exact (fun w => Memory.wf_filter _ w) | apply OptKept.getD | apply Kept.put | (fail_if_no_progress beta_reduce)
    | (refine Kept.foldl ?_ (fun _ _ _ => ?_)) | (refine Kept.foldl_fst ?_ (fun _ _ _ => ?_)) | (refine Kept.foldr ?_ (fun _ _ _ => ?_))
    | split | rw [mk_put] | (refine MemKept.mk ?_ ?_)

theorem kept_knKeyBindReserveBody   : BodyKept (knKeyBindReserveBody) := by
  intro e0_ s a f p h
  unfold knKeyBindReserveBody
  repeat' with_reducible first
    | assumption | apply kept_onAction | apply kept_putSlot | (refine RunAll.bind (fun _ => ?_)) | apply RunAll.pure
    | apply PlanKept.act | exact PlanKept.staged | (fail_if_no_progress beta_reduce) | split

theorem kept_knKeyBindLinkBody   : BodyKept (knKeyBindLinkBody) := by
  intro e0_ s a f p h
  unfold knKeyBindLinkBody
  repeat' with_reducible first
    | assumption | exact Kept.refl _ | apply Kept.id_of | apply kept_onAction | apply kept_putSlot | exact PlanKept.noop
    | exact PlanKept.staged | exact PlanKept.vector | apply PlanKept.act | apply PlanKept.drain | apply PlanKept.wait
    | apply PlanKept.ended | apply PlanKept.ite | apply RunAll.ite | apply RunAll.pure | exact RunAll.stop | exact RunAll.finish
    | exact RunAll.denied | exact RunAll.absent | exact RunAll.sealed | (refine RunAll.lift (fun _ _ => ?_))
    | (refine RunAll.bind (fun _ => ?_)) | (fail_if_no_progress beta_reduce) | split

theorem kept_knKeyBindDestroyBody   : BodyKept (knKeyBindDestroyBody) := by
  intro e0_ s a f p h
  unfold knKeyBindDestroyBody
  repeat' with_reducible first
    | assumption | exact Kept.refl _ | apply Kept.id_of | apply kept_onAction | apply kept_putSlot | exact PlanKept.noop
    | exact PlanKept.staged | exact PlanKept.vector | apply PlanKept.act | apply PlanKept.drain | apply PlanKept.wait
    | apply PlanKept.ended | apply PlanKept.ite | apply RunAll.ite | apply RunAll.pure | exact RunAll.stop | exact RunAll.finish
    | exact RunAll.denied | exact RunAll.absent | exact RunAll.sealed | (refine RunAll.lift (fun _ _ => ?_))
    | (refine RunAll.bind (fun _ => ?_)) | (fail_if_no_progress beta_reduce) | split

theorem kept_knKeyBindQueryBody   : BodyKept (knKeyBindQueryBody) := by
  intro e0_ s a f p h
  unfold knKeyBindQueryBody
  repeat' with_reducible first
    | assumption | apply kept_onAction | (refine RunAll.bind (fun _ => ?_)) | apply RunAll.pure | apply PlanKept.act
    | exact PlanKept.staged | (fail_if_no_progress beta_reduce) | split

theorem kept_execKnKeyBindReserve {e0_ : State} (st : Start) (s : State) (h_s : Kept e0_ s) : OutcomeKept e0_ (execKnKeyBindReserve st s) := by
  unfold execKnKeyBindReserve
  repeat' with_reducible first
    | assumption | apply kept_startHub | exact kept_knKeyBindReserveBody | apply kept_knKeyBindReserveBody
    | (refine BodyKept.use (by apply kept_knKeyBindReserveBody) ?_) | apply OutcomeKept.answer

theorem kept_execKnKeyBindLink {e0_ : State} (st : Start) (s : State) (h_s : Kept e0_ s) : OutcomeKept e0_ (execKnKeyBindLink st s) := by
  unfold execKnKeyBindLink
  repeat' with_reducible first
    | assumption | apply kept_startHub | exact kept_knKeyBindLinkBody | apply kept_knKeyBindLinkBody
    | (refine BodyKept.use (by apply kept_knKeyBindLinkBody) ?_) | apply OutcomeKept.answer

theorem kept_execKnKeyBindDestroy {e0_ : State} (st : Start) (s : State) (h_s : Kept e0_ s) : OutcomeKept e0_ (execKnKeyBindDestroy st s) := by
  unfold execKnKeyBindDestroy
  repeat' with_reducible first
    | assumption | apply kept_startHub | exact kept_knKeyBindDestroyBody | apply kept_knKeyBindDestroyBody
    | (refine BodyKept.use (by apply kept_knKeyBindDestroyBody) ?_) | apply OutcomeKept.answer

theorem kept_execKnKeyBindQuery {e0_ : State} (st : Start) (s : State) (h_s : Kept e0_ s) : OutcomeKept e0_ (execKnKeyBindQuery st s) := by
  unfold execKnKeyBindQuery
  repeat' with_reducible first
    | assumption | apply kept_startHub | exact kept_knKeyBindQueryBody | apply kept_knKeyBindQueryBody
    | (refine BodyKept.use (by apply kept_knKeyBindQueryBody) ?_) | apply OutcomeKept.answer

theorem kept_hssRegainOp {e0_ : State} (s : State) (h_s : Kept e0_ s) : Kept e0_ (hssRegainOp s) := by
  unfold hssRegainOp
  repeat' with_reducible first
    | assumption | exact Kept.refl _ | apply Kept.id_of | exact VaultKept.refl _ | exact MemKept.refl _ | exact HostKept.refl _
    | exact VaultKept.upd | exact MemKept.mk id id | exact id | exact (fun w => memWrite_wf w _ _) | exact (fun w => memZero_wf w _ _)
    | exact (fun w => Memory.wf_filter _ w) | apply OptKept.getD | apply Kept.put | (fail_if_no_progress beta_reduce)
    | (refine Kept.foldl ?_ (fun _ _ _ => ?_)) | (refine Kept.foldl_fst ?_ (fun _ _ _ => ?_)) | (refine Kept.foldr ?_ (fun _ _ _ => ?_))
    | split | rw [mk_put] | (refine MemKept.mk ?_ ?_)

theorem kept_execHssBudgetRegain {e0_ : State} (s : State) (h_s : Kept e0_ s) : OutcomeKept e0_ (execHssBudgetRegain s) := by
  unfold execHssBudgetRegain
  repeat' with_reducible first
    | assumption | apply kept_hssRegainOp | apply OutcomeKept.answer

theorem kept_drawLeaf {e0_ : State} (s : State) (h_s : Kept e0_ s) : OptSnd e0_ (drawLeaf s) := by
  have spend : ∀ (t : State) (q n : Nat), Kept e0_ t → Kept e0_ { t with keys := { t.keys with hssBudget := t.keys.hssBudget - 1, hssLeaf := some (q, n + 1) } } := by
    intro t q n ht
    rw [mk_put]
    exact ht.put (VaultKept.refl _) (MemKept.refl _) id id
  unfold drawLeaf
  dsimp only
  split
  · exact OptSnd.none
  · split
    · split
      · exact OptSnd.some (spend _ _ _ h_s)
      · split
        · exact OptSnd.none
        · exact OptSnd.some (spend _ _ _ (kept_setPeg _ _ _ h_s))
    · split
      · exact OptSnd.none
      · exact OptSnd.some (spend _ _ _ (kept_setPeg _ _ _ h_s))

theorem kept_drawRandom {e0_ : State} (s : State) (len : Nat) (h_s : Kept e0_ s) : Kept e0_ (drawRandom s len).2 := by
  unfold drawRandom
  repeat' with_reducible first
    | assumption | apply kept_drawFresh | (fail_if_no_progress beta_reduce) | split

theorem kept_signDik {e0_ : State} (s : State) (msg : List Byte) (h_s : Kept e0_ s) : Kept e0_ (signDik s msg).2 := by
  unfold signDik
  repeat' with_reducible first
    | assumption | apply kept_drawRandom | (fail_if_no_progress beta_reduce) | split

theorem kept_signedReport {e0_ : State} (s : State) (nonce : List Byte) (dual : Bool) (ses : Option Session) (h_s : Kept e0_ s) :
    Kept e0_ (signedReport s nonce dual ses).2 := by
  have h1 : OptSnd e0_ (if dual = true then drawLeaf s else none) := OptSnd.ite (kept_drawLeaf s h_s) OptSnd.none
  unfold signedReport
  repeat' with_reducible first
    | assumption | exact Kept.refl _ | apply Kept.id_of | exact VaultKept.refl _ | exact MemKept.refl _ | exact HostKept.refl _
    | exact VaultKept.upd | exact MemKept.mk id id | exact id | exact (fun w => memWrite_wf w _ _) | exact (fun w => memZero_wf w _ _)
    | exact (fun w => Memory.wf_filter _ w) | (refine OptSnd.get (by assumption) ?_) | apply kept_drawLeaf | apply kept_signDik
    | apply OptKept.getD | apply Kept.put | apply Kept.ite | (refine Kept.foldl ?_ (fun _ _ _ => ?_))
    | (refine Kept.foldl_fst ?_ (fun _ _ _ => ?_)) | (refine Kept.foldr ?_ (fun _ _ _ => ?_))
    | (refine OptSnd.get (by assumption) ?_; apply kept_drawLeaf) | (refine Kept.snd_of (by assumption) ?_; apply kept_signDik)
    | (fail_if_no_progress beta_reduce)
    | ((try lift_lets -underBinder); intro xx; first | (refine Kept.use (P := Kept e0_ xx) ?_ (fun hx => ?_); (on_goal 2 => clear_value xx); (on_goal 1 => subst xx)) | (refine Kept.use (P := OptKept e0_ xx) ?_ (fun hx => ?_); (on_goal 2 => clear_value xx); (on_goal 1 => subst xx)) | (refine Kept.use (P := Kept e0_ (Prod.fst (α := State) xx)) ?_ (fun hx => ?_); (on_goal 2 => clear_value xx); (on_goal 1 => subst xx)) | (refine Kept.use (P := Kept e0_ (Prod.snd (β := State) xx)) ?_ (fun hx => ?_); (on_goal 2 => clear_value xx); (on_goal 1 => subst xx)) | (refine Kept.use (P := OptFst e0_ xx) ?_ (fun hx => ?_); (on_goal 2 => clear_value xx); (on_goal 1 => subst xx)) | (refine Kept.use (P := ExcKept e0_ xx) ?_ (fun hx => ?_); (on_goal 2 => clear_value xx); (on_goal 1 => subst xx)) | (have yy : _ → _ := xx; clear yy; subst xx) | (have yy : Memories := xx; clear yy; subst xx) | (have yy : Vault := xx; clear yy; subst xx) | (have yy : HostEnv := xx; clear yy; subst xx) | clear_value xx)
    | split | rw [mk_put] | (refine MemKept.mk ?_ ?_)

end Sys2Proof.Laws
end

