-- ==== Sys2Proof/Laws/KeptSpdm.lean ====
section
/-!
SUPPORT. Sys2Proof/Laws/KeptSpdm.lean: what the operations of Machine/Spdm.lean keep (Laws/Kept.lean).
-/

set_option linter.unusedTactic false
set_option linter.unreachableTactic false
set_option linter.unusedVariables false

namespace Sys2Proof.Laws

open Sys2Proof.Machine Sys2Proof.Safety

theorem kept_spdmOp {e0_ : State} (code : Nat) (act : State → Mbox → List Byte → State × Mbox × List Byte)
    (ha : ∀ s m b, Kept e0_ s → Kept e0_ (act s m b).1) (port : Nat) (body : List Byte) (s : State) (h_s : Kept e0_ s) : Kept e0_ (spdmOp code act port body s) := by
  unfold spdmOp
  have h1 := ha s (mboxOf s port) body h_s
  repeat' with_reducible first
    | assumption | exact Kept.refl _ | apply Kept.id_of | exact VaultKept.refl _ | exact MemKept.refl _ | exact HostKept.refl _
    | exact VaultKept.upd | exact MemKept.mk id id | exact id | exact (fun w => memWrite_wf w _ _) | exact (fun w => memZero_wf w _ _)
    | exact (fun w => Memory.wf_filter _ w) | apply kept_setMbox | apply kept_send | apply OptKept.getD | apply Kept.put
    | apply Kept.ite | (refine Kept.foldl ?_ (fun _ _ _ => ?_)) | (refine Kept.foldl_fst ?_ (fun _ _ _ => ?_))
    | (refine Kept.foldr ?_ (fun _ _ _ => ?_)) | (fail_if_no_progress beta_reduce)
    | ((try lift_lets -underBinder); intro xx; first | (refine Kept.use (P := Kept e0_ xx) ?_ (fun hx => ?_); (on_goal 2 => clear_value xx); (on_goal 1 => subst xx)) | (refine Kept.use (P := OptKept e0_ xx) ?_ (fun hx => ?_); (on_goal 2 => clear_value xx); (on_goal 1 => subst xx)) | (refine Kept.use (P := Kept e0_ (Prod.fst (α := State) xx)) ?_ (fun hx => ?_); (on_goal 2 => clear_value xx); (on_goal 1 => subst xx)) | (refine Kept.use (P := Kept e0_ (Prod.snd (β := State) xx)) ?_ (fun hx => ?_); (on_goal 2 => clear_value xx); (on_goal 1 => subst xx)) | (refine Kept.use (P := OptFst e0_ xx) ?_ (fun hx => ?_); (on_goal 2 => clear_value xx); (on_goal 1 => subst xx)) | (refine Kept.use (P := ExcKept e0_ xx) ?_ (fun hx => ?_); (on_goal 2 => clear_value xx); (on_goal 1 => subst xx)) | (have yy : _ → _ := xx; clear yy; subst xx) | (have yy : Memories := xx; clear yy; subst xx) | (have yy : Vault := xx; clear yy; subst xx) | (have yy : HostEnv := xx; clear yy; subst xx) | clear_value xx)
    | split | rw [mk_put] | (refine MemKept.mk ?_ ?_)

theorem kept_spdmNeed {e0_ : State} (ok : Mbox → Bool) (act : State → Mbox → List Byte → State × Mbox × List Byte)
    (ha : ∀ s m b, Kept e0_ s → Kept e0_ (act s m b).1) (s : State) (m : Mbox) (body : List Byte) (h_s : Kept e0_ s) : Kept e0_ (spdmNeed ok act s m body).1 := by
  unfold spdmNeed
  repeat' with_reducible first
    | assumption | exact Kept.refl _ | apply Kept.id_of | exact VaultKept.refl _ | exact MemKept.refl _ | exact HostKept.refl _
    | exact VaultKept.upd | exact MemKept.mk id id | exact id | exact (fun w => memWrite_wf w _ _) | exact (fun w => memZero_wf w _ _)
    | exact (fun w => Memory.wf_filter _ w) | (apply ha) | apply OptKept.getD | apply Kept.put | apply Kept.ite
    | (refine Kept.foldl ?_ (fun _ _ _ => ?_)) | (refine Kept.foldl_fst ?_ (fun _ _ _ => ?_)) | (refine Kept.foldr ?_ (fun _ _ _ => ?_))
    | (fail_if_no_progress beta_reduce)
    | ((try lift_lets -underBinder); intro xx; first | (refine Kept.use (P := Kept e0_ xx) ?_ (fun hx => ?_); (on_goal 2 => clear_value xx); (on_goal 1 => subst xx)) | (refine Kept.use (P := OptKept e0_ xx) ?_ (fun hx => ?_); (on_goal 2 => clear_value xx); (on_goal 1 => subst xx)) | (refine Kept.use (P := Kept e0_ (Prod.fst (α := State) xx)) ?_ (fun hx => ?_); (on_goal 2 => clear_value xx); (on_goal 1 => subst xx)) | (refine Kept.use (P := Kept e0_ (Prod.snd (β := State) xx)) ?_ (fun hx => ?_); (on_goal 2 => clear_value xx); (on_goal 1 => subst xx)) | (refine Kept.use (P := OptFst e0_ xx) ?_ (fun hx => ?_); (on_goal 2 => clear_value xx); (on_goal 1 => subst xx)) | (refine Kept.use (P := ExcKept e0_ xx) ?_ (fun hx => ?_); (on_goal 2 => clear_value xx); (on_goal 1 => subst xx)) | (have yy : _ → _ := xx; clear yy; subst xx) | (have yy : Memories := xx; clear yy; subst xx) | (have yy : Vault := xx; clear yy; subst xx) | (have yy : HostEnv := xx; clear yy; subst xx) | clear_value xx)
    | split | rw [mk_put] | (refine MemKept.mk ?_ ?_)

theorem kept_versionAct {e0_ : State} (s : State) (m : Mbox) (body : List Byte) (h_s : Kept e0_ s) : Kept e0_ (versionAct s m body).1 := by
  unfold versionAct
  repeat' with_reducible first
    | assumption | (fail_if_no_progress beta_reduce) | split

theorem kept_capabilitiesAct {e0_ : State} (s : State) (m : Mbox) (body : List Byte) (h_s : Kept e0_ s) : Kept e0_ (capabilitiesAct s m body).1 := by
  unfold capabilitiesAct
  repeat' with_reducible first
    | assumption | exact Kept.refl _ | apply Kept.id_of | exact VaultKept.refl _ | exact MemKept.refl _ | exact HostKept.refl _
    | exact VaultKept.upd | exact MemKept.mk id id | exact id | exact (fun w => memWrite_wf w _ _) | exact (fun w => memZero_wf w _ _)
    | exact (fun w => Memory.wf_filter _ w) | apply OptKept.getD | apply Kept.put | apply Kept.ite
    | (refine Kept.foldl ?_ (fun _ _ _ => ?_)) | (refine Kept.foldl_fst ?_ (fun _ _ _ => ?_)) | (refine Kept.foldr ?_ (fun _ _ _ => ?_))
    | (fail_if_no_progress beta_reduce)
    | ((try lift_lets -underBinder); intro xx; first | (refine Kept.use (P := Kept e0_ xx) ?_ (fun hx => ?_); (on_goal 2 => clear_value xx); (on_goal 1 => subst xx)) | clear_value xx)
    | split | rw [mk_put] | (refine MemKept.mk ?_ ?_)

theorem kept_algorithmsAct {e0_ : State} (s : State) (m : Mbox) (body : List Byte) (h_s : Kept e0_ s) : Kept e0_ (algorithmsAct s m body).1 := by
  unfold algorithmsAct
  repeat' with_reducible first
    | assumption | (fail_if_no_progress beta_reduce) | split

theorem kept_digestsAct {e0_ : State} (s : State) (m : Mbox) (body : List Byte) (h_s : Kept e0_ s) : Kept e0_ (digestsAct s m body).1 := by
  unfold digestsAct
  repeat' with_reducible first
    | assumption | (fail_if_no_progress beta_reduce) | split

theorem kept_certificateAct {e0_ : State} (s : State) (m : Mbox) (body : List Byte) (h_s : Kept e0_ s) : Kept e0_ (certificateAct s m body).1 := by
  unfold certificateAct
  repeat' with_reducible first
    | assumption | exact Kept.refl _ | apply Kept.id_of | exact VaultKept.refl _ | exact MemKept.refl _ | exact HostKept.refl _
    | exact VaultKept.upd | exact MemKept.mk id id | exact id | exact (fun w => memWrite_wf w _ _) | exact (fun w => memZero_wf w _ _)
    | exact (fun w => Memory.wf_filter _ w) | apply OptKept.getD | apply Kept.put | apply Kept.ite
    | (refine Kept.foldl ?_ (fun _ _ _ => ?_)) | (refine Kept.foldl_fst ?_ (fun _ _ _ => ?_)) | (refine Kept.foldr ?_ (fun _ _ _ => ?_))
    | (fail_if_no_progress beta_reduce)
    | ((try lift_lets -underBinder); intro xx; first | (refine Kept.use (P := Kept e0_ xx) ?_ (fun hx => ?_); (on_goal 2 => clear_value xx); (on_goal 1 => subst xx)) | clear_value xx)
    | split | rw [mk_put] | (refine MemKept.mk ?_ ?_)

theorem kept_challengeAct {e0_ : State} (s : State) (m : Mbox) (body : List Byte) (h_s : Kept e0_ s) : Kept e0_ (challengeAct s m body).1 := by
  unfold challengeAct
  repeat' with_reducible first
    | assumption | exact Kept.refl _ | apply Kept.id_of | exact VaultKept.refl _ | exact MemKept.refl _ | exact HostKept.refl _
    | exact VaultKept.upd | exact MemKept.mk id id | exact id | exact (fun w => memWrite_wf w _ _) | exact (fun w => memZero_wf w _ _)
    | exact (fun w => Memory.wf_filter _ w) | apply kept_drawRandom | apply kept_signDik | apply OptKept.getD | apply Kept.put
    | apply Kept.ite | (refine Kept.foldl ?_ (fun _ _ _ => ?_)) | (refine Kept.foldl_fst ?_ (fun _ _ _ => ?_))
    | (refine Kept.foldr ?_ (fun _ _ _ => ?_)) | (refine Kept.snd_of (by assumption) ?_; apply kept_drawRandom)
    | (refine Kept.snd_of (by assumption) ?_; apply kept_signDik) | (fail_if_no_progress beta_reduce)
    | ((try lift_lets -underBinder); intro xx; first | (refine Kept.use (P := Kept e0_ xx) ?_ (fun hx => ?_); (on_goal 2 => clear_value xx); (on_goal 1 => subst xx)) | clear_value xx)
    | split | rw [mk_put] | (refine MemKept.mk ?_ ?_)

theorem kept_measurementsAct {e0_ : State} (s : State) (m : Mbox) (body : List Byte) (h_s : Kept e0_ s) : Kept e0_ (measurementsAct s m body).1 := by
  unfold measurementsAct
  repeat' with_reducible first
    | assumption | exact Kept.refl _ | apply Kept.id_of | exact VaultKept.refl _ | exact MemKept.refl _ | exact HostKept.refl _
    | exact VaultKept.upd | exact MemKept.mk id id | exact id | exact (fun w => memWrite_wf w _ _) | exact (fun w => memZero_wf w _ _)
    | exact (fun w => Memory.wf_filter _ w) | apply kept_drawRandom | apply kept_signDik | apply OptKept.getD | apply Kept.put
    | apply Kept.ite | (refine Kept.foldl ?_ (fun _ _ _ => ?_)) | (refine Kept.foldl_fst ?_ (fun _ _ _ => ?_))
    | (refine Kept.foldr ?_ (fun _ _ _ => ?_)) | (refine Kept.snd_of (by assumption) ?_; apply kept_drawRandom)
    | (refine Kept.snd_of (by assumption) ?_; apply kept_signDik) | (fail_if_no_progress beta_reduce)
    | ((try lift_lets -underBinder); intro xx; first | (refine Kept.use (P := Kept e0_ xx) ?_ (fun hx => ?_); (on_goal 2 => clear_value xx); (on_goal 1 => subst xx)) | clear_value xx)
    | split | rw [mk_put] | (refine MemKept.mk ?_ ?_)

theorem kept_execGetVersion {e0_ : State} (port : Nat) (body : List Byte) (s : State) (h_s : Kept e0_ s) : OutcomeKept e0_ (execGetVersion port body s) := by
  unfold execGetVersion
  repeat' with_reducible first
    | assumption | (refine kept_spdmOp _ _ (fun _ _ _ _ => ?_) _ _ _ ?_) | apply kept_versionAct | apply OutcomeKept.answer

theorem kept_execGetCapabilities {e0_ : State} (port : Nat) (body : List Byte) (s : State) (h_s : Kept e0_ s) : OutcomeKept e0_ (execGetCapabilities port body s) := by
  unfold execGetCapabilities
  repeat' with_reducible first
    | assumption | (refine kept_spdmOp _ _ (fun _ _ _ _ => ?_) _ _ _ ?_) | (refine kept_spdmNeed _ _ (fun _ _ _ _ => ?_) _ _ _ ?_)
    | apply kept_capabilitiesAct | apply OutcomeKept.answer

theorem kept_execNegotiateAlgorithms {e0_ : State} (port : Nat) (body : List Byte) (s : State) (h_s : Kept e0_ s) : OutcomeKept e0_ (execNegotiateAlgorithms port body s) := by
  unfold execNegotiateAlgorithms
  repeat' with_reducible first
    | assumption | (refine kept_spdmOp _ _ (fun _ _ _ _ => ?_) _ _ _ ?_) | (refine kept_spdmNeed _ _ (fun _ _ _ _ => ?_) _ _ _ ?_)
    | apply kept_algorithmsAct | apply OutcomeKept.answer

theorem kept_execGetDigests {e0_ : State} (port : Nat) (body : List Byte) (s : State) (h_s : Kept e0_ s) : OutcomeKept e0_ (execGetDigests port body s) := by
  unfold execGetDigests
  repeat' with_reducible first
    | assumption | (refine kept_spdmOp _ _ (fun _ _ _ _ => ?_) _ _ _ ?_) | (refine kept_spdmNeed _ _ (fun _ _ _ _ => ?_) _ _ _ ?_)
    | apply kept_digestsAct | apply OutcomeKept.answer

theorem kept_execGetCertificate {e0_ : State} (port : Nat) (body : List Byte) (s : State) (h_s : Kept e0_ s) : OutcomeKept e0_ (execGetCertificate port body s) := by
  unfold execGetCertificate
  repeat' with_reducible first
    | assumption | (refine kept_spdmOp _ _ (fun _ _ _ _ => ?_) _ _ _ ?_) | (refine kept_spdmNeed _ _ (fun _ _ _ _ => ?_) _ _ _ ?_)
    | apply kept_certificateAct | apply OutcomeKept.answer

theorem kept_execChallenge {e0_ : State} (port : Nat) (body : List Byte) (s : State) (h_s : Kept e0_ s) : OutcomeKept e0_ (execChallenge port body s) := by
  unfold execChallenge
  repeat' with_reducible first
    | assumption | (refine kept_spdmOp _ _ (fun _ _ _ _ => ?_) _ _ _ ?_) | (refine kept_spdmNeed _ _ (fun _ _ _ _ => ?_) _ _ _ ?_)
    | apply kept_challengeAct | apply OutcomeKept.answer

theorem kept_execGetMeasurements {e0_ : State} (port : Nat) (body : List Byte) (s : State) (h_s : Kept e0_ s) : OutcomeKept e0_ (execGetMeasurements port body s) := by
  unfold execGetMeasurements
  repeat' with_reducible first
    | assumption | (refine kept_spdmOp _ _ (fun _ _ _ _ => ?_) _ _ _ ?_) | (refine kept_spdmNeed _ _ (fun _ _ _ _ => ?_) _ _ _ ?_)
    | apply kept_measurementsAct | apply OutcomeKept.answer

end Sys2Proof.Laws
end

