-- ==== Sys2Proof/Laws/KeptMailbox.lean ====
section
/-!
SUPPORT. Sys2Proof/Laws/KeptMailbox.lean: what the operations of Machine/Mailbox.lean keep (Laws/Kept.lean).
-/

set_option linter.unusedTactic false
set_option linter.unreachableTactic false
set_option linter.unusedVariables false

namespace Sys2Proof.Laws

open Sys2Proof.Machine Sys2Proof.Safety

theorem kept_helloRun {e0_ : State} (s : State) (port : Nat) (p : List Byte) (h_s : Kept e0_ s) : DoneKept e0_ (helloRun s port p) := by
  unfold helloRun
  repeat' with_reducible first
    | assumption | apply kept_setMbox | apply kept_moveOwner | apply kept_done | apply kept_refuse | exact DoneKept.none
    | apply DoneKept.some | apply DoneKept.ite | (fail_if_no_progress beta_reduce) | split

theorem kept_helloSpec   : SpecKept (helloSpec) := by
  intro e0_ s port p h
  unfold helloSpec
  repeat' with_reducible first
    | assumption | apply kept_helloRun | exact DoneKept.none | apply DoneKept.some | apply DoneKept.ite
    | (fail_if_no_progress beta_reduce) | split

theorem kept_nonceRun {e0_ : State} (s : State) (port : Nat) (u2_ : List Byte) (h_s : Kept e0_ s) : DoneKept e0_ (nonceRun s port u2_) := by
  unfold nonceRun
  repeat' with_reducible first
    | assumption | apply kept_setMbox | apply kept_drawRandom | apply kept_done | exact DoneKept.none | apply DoneKept.some
    | apply DoneKept.ite | (fail_if_no_progress beta_reduce) | split

theorem kept_nonceSpec   : SpecKept (nonceSpec) := by
  intro e0_ s port p h
  unfold nonceSpec
  repeat' with_reducible first
    | assumption | apply kept_nonceRun | exact DoneKept.none | apply DoneKept.some | apply DoneKept.ite
    | (fail_if_no_progress beta_reduce) | split

theorem kept_useNonce {e0_ : State} (s : State) (port : Nat) (h_s : Kept e0_ s) : Kept e0_ (useNonce s port) := by
  unfold useNonce
  repeat' with_reducible first
    | assumption | apply kept_setMbox | (fail_if_no_progress beta_reduce) | split

theorem kept_claimRun {e0_ : State} (s : State) (port : Nat) (p : List Byte) (h_s : Kept e0_ s) : DoneKept e0_ (claimRun s port p) := by
  unfold claimRun
  repeat' with_reducible first
    | assumption | exact Kept.refl _ | apply Kept.id_of | exact VaultKept.refl _ | exact MemKept.refl _ | exact HostKept.refl _
    | exact VaultKept.upd | exact MemKept.mk id id | exact id | exact (fun w => memWrite_wf w _ _) | exact (fun w => memZero_wf w _ _)
    | exact (fun w => Memory.wf_filter _ w) | apply kept_recordWrite | apply kept_moveOwner | apply kept_setPeg | apply kept_done
    | apply kept_refuse | apply kept_refuseState | apply kept_useNonce | exact DoneKept.none | apply DoneKept.some | apply DoneKept.ite
    | apply OptKept.getD | apply Kept.put | (fail_if_no_progress beta_reduce) | (refine Kept.foldl ?_ (fun _ _ _ => ?_))
    | (refine Kept.foldl_fst ?_ (fun _ _ _ => ?_)) | (refine Kept.foldr ?_ (fun _ _ _ => ?_)) | split | rw [mk_put]
    | (refine MemKept.mk ?_ ?_)

theorem kept_claimSpec   : SpecKept (claimSpec) := by
  intro e0_ s port p h
  unfold claimSpec
  repeat' with_reducible first
    | assumption | apply kept_claimRun | exact DoneKept.none | apply DoneKept.some | apply DoneKept.ite
    | (fail_if_no_progress beta_reduce) | split

theorem kept_takeRun {e0_ : State} (s : State) (port : Nat) (p : List Byte) (h_s : Kept e0_ s) : DoneKept e0_ (takeRun s port p) := by
  unfold takeRun
  repeat' with_reducible first
    | assumption | apply kept_moveOwner | apply kept_done | apply kept_refuse | apply kept_refuseState | apply kept_useNonce
    | exact DoneKept.none | apply DoneKept.some | apply DoneKept.ite | (fail_if_no_progress beta_reduce) | split

theorem kept_takeSpec   : SpecKept (takeSpec) := by
  intro e0_ s port p h
  unfold takeSpec
  repeat' with_reducible first
    | assumption | apply kept_takeRun | exact DoneKept.none | apply DoneKept.some | apply DoneKept.ite
    | (fail_if_no_progress beta_reduce) | split

theorem kept_transferRun {e0_ : State} (s : State) (u1_ : Nat) (p : List Byte) (h_s : Kept e0_ s) : DoneKept e0_ (transferRun s u1_ p) := by
  unfold transferRun
  repeat' with_reducible first
    | assumption | exact Kept.refl _ | apply Kept.id_of | exact VaultKept.refl _ | exact MemKept.refl _ | exact HostKept.refl _
    | exact VaultKept.upd | exact MemKept.mk id id | exact id | exact (fun w => memWrite_wf w _ _) | exact (fun w => memZero_wf w _ _)
    | exact (fun w => Memory.wf_filter _ w) | apply kept_recordWrite | apply kept_done | apply kept_refuse | exact DoneKept.none
    | apply DoneKept.some | apply DoneKept.ite | apply OptKept.getD | apply Kept.put | (fail_if_no_progress beta_reduce)
    | (refine Kept.foldl ?_ (fun _ _ _ => ?_)) | (refine Kept.foldl_fst ?_ (fun _ _ _ => ?_)) | (refine Kept.foldr ?_ (fun _ _ _ => ?_))
    | split | rw [mk_put] | (refine MemKept.mk ?_ ?_)

theorem kept_transferSpec   : SpecKept (transferSpec) := by
  intro e0_ s port p h
  unfold transferSpec
  repeat' with_reducible first
    | assumption | apply kept_transferRun | exact DoneKept.none | apply DoneKept.some | apply DoneKept.ite
    | (fail_if_no_progress beta_reduce) | split

theorem kept_modeRun {e0_ : State} (s : State) (u1_ : Nat) (p : List Byte) (h_s : Kept e0_ s) : DoneKept e0_ (modeRun s u1_ p) := by
  unfold modeRun
  repeat' with_reducible first
    | assumption | exact Kept.refl _ | apply Kept.id_of | exact VaultKept.refl _ | exact MemKept.refl _ | exact HostKept.refl _
    | exact VaultKept.upd | exact MemKept.mk id id | exact id | exact (fun w => memWrite_wf w _ _) | exact (fun w => memZero_wf w _ _)
    | exact (fun w => Memory.wf_filter _ w) | apply kept_recordWrite | apply kept_done | apply kept_refuseState | exact DoneKept.none
    | apply DoneKept.some | apply DoneKept.ite | apply OptKept.getD | apply Kept.put | (fail_if_no_progress beta_reduce)
    | (refine Kept.foldl ?_ (fun _ _ _ => ?_)) | (refine Kept.foldl_fst ?_ (fun _ _ _ => ?_)) | (refine Kept.foldr ?_ (fun _ _ _ => ?_))
    | split | rw [mk_put] | (refine MemKept.mk ?_ ?_)

theorem kept_modeSpec   : SpecKept (modeSpec) := by
  intro e0_ s port p h
  unfold modeSpec
  repeat' with_reducible first
    | assumption | apply kept_modeRun | exact DoneKept.none | apply DoneKept.some | apply DoneKept.ite
    | (fail_if_no_progress beta_reduce) | split

theorem kept_certRun {e0_ : State} (s : State) (u1_ : Nat) (p : List Byte) (h_s : Kept e0_ s) : DoneKept e0_ (certRun s u1_ p) := by
  unfold certRun
  repeat' with_reducible first
    | assumption | apply kept_done | apply kept_refuse | exact DoneKept.none | apply DoneKept.some | apply DoneKept.ite
    | (fail_if_no_progress beta_reduce) | split

theorem kept_certSpec   : SpecKept (certSpec) := by
  intro e0_ s port p h
  unfold certSpec
  repeat' with_reducible first
    | assumption | apply kept_certRun | exact DoneKept.none | apply DoneKept.some | apply DoneKept.ite
    | (fail_if_no_progress beta_reduce) | split

theorem kept_attestRun {e0_ : State} (s : State) (u1_ : Nat) (p : List Byte) (h_s : Kept e0_ s) : DoneKept e0_ (attestRun s u1_ p) := by
  unfold attestRun
  repeat' with_reducible first
    | assumption | apply kept_signedReport | apply kept_done | exact DoneKept.none | apply DoneKept.some | apply DoneKept.ite
    | (fail_if_no_progress beta_reduce) | split

theorem kept_attestSpec   : SpecKept (attestSpec) := by
  intro e0_ s port p h
  unfold attestSpec
  repeat' with_reducible first
    | assumption | apply kept_attestRun | exact DoneKept.none | apply DoneKept.some | apply DoneKept.ite
    | (fail_if_no_progress beta_reduce) | split

theorem kept_sessionRun {e0_ : State} (s : State) (u1_ : Nat) (p : List Byte) (h_s : Kept e0_ s) : DoneKept e0_ (sessionRun s u1_ p) := by
  unfold sessionRun
  repeat' with_reducible first
    | assumption | exact Kept.refl _ | apply Kept.id_of | exact VaultKept.refl _ | exact MemKept.refl _ | exact HostKept.refl _
    | exact VaultKept.upd | exact MemKept.mk id id | exact id | exact (fun w => memWrite_wf w _ _) | exact (fun w => memZero_wf w _ _)
    | exact (fun w => Memory.wf_filter _ w) | apply kept_putSlot | apply kept_drawRandom | apply kept_signedReport | apply kept_done
    | apply kept_refuse | apply kept_refuseState | exact DoneKept.none | apply DoneKept.some | apply DoneKept.ite | apply OptKept.getD
    | apply Kept.put | apply Kept.ite | (refine Kept.foldl ?_ (fun _ _ _ => ?_)) | (refine Kept.foldl_fst ?_ (fun _ _ _ => ?_))
    | (refine Kept.foldr ?_ (fun _ _ _ => ?_)) | (refine Kept.snd_of (by assumption) ?_; apply kept_drawRandom)
    | (refine Kept.snd_of (by assumption) ?_; apply kept_signedReport) | (fail_if_no_progress beta_reduce)
    | ((try lift_lets -underBinder); intro xx; first | (refine Kept.use (P := Kept e0_ xx) ?_ (fun hx => ?_); (on_goal 2 => clear_value xx); (on_goal 1 => subst xx)) | clear_value xx)
    | split | rw [mk_put] | (refine MemKept.mk ?_ ?_)

theorem kept_sessionSpec   : SpecKept (sessionSpec) := by
  intro e0_ s port p h
  unfold sessionSpec
  repeat' with_reducible first
    | assumption | apply kept_sessionRun | exact DoneKept.none | apply DoneKept.some | apply DoneKept.ite
    | (fail_if_no_progress beta_reduce) | split

theorem kept_unitsSpec   : SpecKept (unitsSpec) := by
  intro e0_ s port p h
  unfold unitsSpec
  repeat' with_reducible first
    | assumption | apply kept_done | exact DoneKept.none | apply DoneKept.some | apply DoneKept.ite | (fail_if_no_progress beta_reduce)
    | split

theorem kept_retireAckRun {e0_ : State} (s : State) (u1_ : Nat) (p : List Byte) (h_s : Kept e0_ s) : DoneKept e0_ (retireAckRun s u1_ p) := by
  unfold retireAckRun
  repeat' with_reducible first
    | assumption | exact Kept.refl _ | apply Kept.id_of | exact VaultKept.refl _ | exact MemKept.refl _ | exact HostKept.refl _
    | exact VaultKept.upd | exact MemKept.mk id id | exact id | exact (fun w => memWrite_wf w _ _) | exact (fun w => memZero_wf w _ _)
    | exact (fun w => Memory.wf_filter _ w) | apply kept_done | apply kept_refuseState | exact DoneKept.none | apply DoneKept.some
    | apply DoneKept.ite | apply OptKept.getD | apply Kept.put | (fail_if_no_progress beta_reduce)
    | (refine Kept.foldl ?_ (fun _ _ _ => ?_)) | (refine Kept.foldl_fst ?_ (fun _ _ _ => ?_)) | (refine Kept.foldr ?_ (fun _ _ _ => ?_))
    | split | rw [mk_put] | (refine MemKept.mk ?_ ?_)

theorem kept_retireAckSpec   : SpecKept (retireAckSpec) := by
  intro e0_ s port p h
  unfold retireAckSpec
  repeat' with_reducible first
    | assumption | apply kept_retireAckRun | exact DoneKept.none | apply DoneKept.some | apply DoneKept.ite
    | (fail_if_no_progress beta_reduce) | split

theorem kept_previousStop {e0_ : State} (s : State) (h_s : Kept e0_ s) : Kept e0_ (previousStop s) := by
  unfold previousStop
  repeat' with_reducible first
    | assumption | exact Kept.refl _ | apply Kept.id_of | exact VaultKept.refl _ | exact MemKept.refl _ | exact HostKept.refl _
    | exact VaultKept.upd | exact MemKept.mk id id | exact id | exact (fun w => memWrite_wf w _ _) | exact (fun w => memZero_wf w _ _)
    | exact (fun w => Memory.wf_filter _ w) | apply kept_raiseEvent | apply OptKept.getD | apply Kept.put
    | (fail_if_no_progress beta_reduce) | (refine Kept.foldl ?_ (fun _ _ _ => ?_)) | (refine Kept.foldl_fst ?_ (fun _ _ _ => ?_))
    | (refine Kept.foldr ?_ (fun _ _ _ => ?_)) | split | rw [mk_put] | (refine MemKept.mk ?_ ?_)

theorem kept_startEvents {e0_ : State} (s : State) (h_s : Kept e0_ s) : Kept e0_ (startEvents s) := by
  unfold startEvents
  repeat' with_reducible first
    | assumption | exact Kept.refl _ | apply Kept.id_of | exact VaultKept.refl _ | exact MemKept.refl _ | exact HostKept.refl _
    | exact VaultKept.upd | exact MemKept.mk id id | exact id | exact (fun w => memWrite_wf w _ _) | exact (fun w => memZero_wf w _ _)
    | exact (fun w => Memory.wf_filter _ w) | apply kept_raiseEvent | apply kept_previousStop | apply OptKept.getD | apply Kept.put
    | (fail_if_no_progress beta_reduce) | (refine Kept.foldl ?_ (fun _ _ _ => ?_)) | (refine Kept.foldl_fst ?_ (fun _ _ _ => ?_))
    | (refine Kept.foldr ?_ (fun _ _ _ => ?_)) | split | rw [mk_put] | (refine MemKept.mk ?_ ?_)

theorem kept_eventConfigRun {e0_ : State} (s : State) (port : Nat) (p : List Byte) (h_s : Kept e0_ s) : DoneKept e0_ (eventConfigRun s port p) := by
  unfold eventConfigRun
  repeat' with_reducible first
    | assumption | apply kept_setMbox | apply kept_done | apply kept_startEvents | exact DoneKept.none | apply DoneKept.some
    | apply DoneKept.ite | (fail_if_no_progress beta_reduce) | split

theorem kept_eventConfigSpec   : SpecKept (eventConfigSpec) := by
  intro e0_ s port p h
  unfold eventConfigSpec
  repeat' with_reducible first
    | assumption | apply kept_eventConfigRun | exact DoneKept.none | apply DoneKept.some | apply DoneKept.ite
    | (fail_if_no_progress beta_reduce) | split

theorem kept_shoeInitBase {e0_ : State} (s : State) (p : List Byte) (h_s : Kept e0_ s) : Kept e0_ (shoeInitBase s p) := by
  unfold shoeInitBase
  repeat' with_reducible first
    | assumption | exact Kept.refl _ | apply Kept.id_of | exact VaultKept.refl _ | exact MemKept.refl _ | exact HostKept.refl _
    | exact VaultKept.upd | exact MemKept.mk id id | exact id | exact (fun w => memWrite_wf w _ _) | exact (fun w => memZero_wf w _ _)
    | exact (fun w => Memory.wf_filter _ w) | apply kept_zeroMem | apply kept_putAsid | apply OptKept.getD | apply Kept.put
    | apply Kept.ite | (refine Kept.foldl ?_ (fun _ _ _ => ?_)) | (refine Kept.foldl_fst ?_ (fun _ _ _ => ?_))
    | (refine Kept.foldr ?_ (fun _ _ _ => ?_)) | (fail_if_no_progress beta_reduce)
    | ((try lift_lets -underBinder); intro xx; first | (refine Kept.use (P := Kept e0_ xx) ?_ (fun hx => ?_); (on_goal 2 => clear_value xx); (on_goal 1 => subst xx)) | (refine Kept.use (P := OptKept e0_ xx) ?_ (fun hx => ?_); (on_goal 2 => clear_value xx); (on_goal 1 => subst xx)) | (refine Kept.use (P := Kept e0_ (Prod.fst (α := State) xx)) ?_ (fun hx => ?_); (on_goal 2 => clear_value xx); (on_goal 1 => subst xx)) | (refine Kept.use (P := Kept e0_ (Prod.snd (β := State) xx)) ?_ (fun hx => ?_); (on_goal 2 => clear_value xx); (on_goal 1 => subst xx)) | (refine Kept.use (P := OptFst e0_ xx) ?_ (fun hx => ?_); (on_goal 2 => clear_value xx); (on_goal 1 => subst xx)) | (refine Kept.use (P := ExcKept e0_ xx) ?_ (fun hx => ?_); (on_goal 2 => clear_value xx); (on_goal 1 => subst xx)) | (have yy : _ → _ := xx; clear yy; subst xx) | (have yy : Memories := xx; clear yy; subst xx) | (have yy : Vault := xx; clear yy; subst xx) | (have yy : HostEnv := xx; clear yy; subst xx) | clear_value xx)
    | split | rw [mk_put] | (refine MemKept.mk ?_ ?_)

theorem kept_shoeInitRun {e0_ : State} (s : State) (n1_ : Nat) (p : List Byte) (h_s : Kept e0_ s) : DoneKept e0_ (shoeInitRun s n1_ p) := by
  unfold shoeInitRun
  repeat' with_reducible first
    | assumption | exact Kept.refl _ | apply Kept.id_of | exact VaultKept.refl _ | exact MemKept.refl _ | exact HostKept.refl _
    | exact VaultKept.upd | exact MemKept.mk id id | exact id | exact (fun w => memWrite_wf w _ _) | exact (fun w => memZero_wf w _ _)
    | exact (fun w => Memory.wf_filter _ w) | apply kept_refuseState | apply kept_refuse | apply kept_shoeInitBase | apply kept_done
    | apply kept_putShoe | apply kept_sendTensor | (refine OptFst.get (by assumption) ?_; apply kept_sendTensor)
    | (refine OptFst.get1 (by assumption) ?_; apply kept_sendTensor) | exact DoneKept.none | apply DoneKept.some | apply DoneKept.ite
    | apply kept_done | apply kept_refuse | apply kept_refuseState | apply OptKept.getD | apply Kept.put | apply Kept.ite
    | (refine Kept.foldl ?_ (fun _ _ _ => ?_)) | (refine Kept.foldl_fst ?_ (fun _ _ _ => ?_)) | (refine Kept.foldr ?_ (fun _ _ _ => ?_))
    | (fail_if_no_progress beta_reduce)
    | ((try lift_lets -underBinder); intro xx; first | (refine Kept.use (P := Kept e0_ xx) ?_ (fun hx => ?_); (on_goal 2 => clear_value xx); (on_goal 1 => subst xx)) | (refine Kept.use (P := OptKept e0_ xx) ?_ (fun hx => ?_); (on_goal 2 => clear_value xx); (on_goal 1 => subst xx)) | (refine Kept.use (P := Kept e0_ (Prod.fst (α := State) xx)) ?_ (fun hx => ?_); (on_goal 2 => clear_value xx); (on_goal 1 => subst xx)) | (refine Kept.use (P := Kept e0_ (Prod.snd (β := State) xx)) ?_ (fun hx => ?_); (on_goal 2 => clear_value xx); (on_goal 1 => subst xx)) | (refine Kept.use (P := OptFst e0_ xx) ?_ (fun hx => ?_); (on_goal 2 => clear_value xx); (on_goal 1 => subst xx)) | (refine Kept.use (P := ExcKept e0_ xx) ?_ (fun hx => ?_); (on_goal 2 => clear_value xx); (on_goal 1 => subst xx)) | (have yy : _ → _ := xx; clear yy; subst xx) | (have yy : Memories := xx; clear yy; subst xx) | (have yy : Vault := xx; clear yy; subst xx) | (have yy : HostEnv := xx; clear yy; subst xx) | clear_value xx)
    | split | rw [mk_put] | (refine MemKept.mk ?_ ?_)

theorem kept_takeInit {e0_ : State} (s : State) (id : Nat) (bs : List Byte) (h_s : Kept e0_ s) : Kept e0_ (takeInit s id bs) := by
  unfold takeInit
  repeat' with_reducible first
    | assumption | exact Kept.refl _ | apply Kept.id_of | exact VaultKept.refl _ | exact MemKept.refl _ | exact HostKept.refl _
    | exact VaultKept.upd | exact MemKept.mk id id | exact id | exact (fun w => memWrite_wf w _ _) | exact (fun w => memZero_wf w _ _)
    | exact (fun w => Memory.wf_filter _ w) | apply kept_putShoe | apply kept_shoeInitBase | apply kept_endRequest
    | apply OptKept.getD | apply Kept.put | apply Kept.ite | (refine Kept.foldl ?_ (fun _ _ _ => ?_))
    | (refine Kept.foldl_fst ?_ (fun _ _ _ => ?_)) | (refine Kept.foldr ?_ (fun _ _ _ => ?_)) | (fail_if_no_progress beta_reduce)
    | ((try lift_lets -underBinder); intro xx; first | (refine Kept.use (P := Kept e0_ xx) ?_ (fun hx => ?_); (on_goal 2 => clear_value xx); (on_goal 1 => subst xx)) | (refine Kept.use (P := OptKept e0_ xx) ?_ (fun hx => ?_); (on_goal 2 => clear_value xx); (on_goal 1 => subst xx)) | (refine Kept.use (P := Kept e0_ (Prod.fst (α := State) xx)) ?_ (fun hx => ?_); (on_goal 2 => clear_value xx); (on_goal 1 => subst xx)) | (refine Kept.use (P := Kept e0_ (Prod.snd (β := State) xx)) ?_ (fun hx => ?_); (on_goal 2 => clear_value xx); (on_goal 1 => subst xx)) | (refine Kept.use (P := OptFst e0_ xx) ?_ (fun hx => ?_); (on_goal 2 => clear_value xx); (on_goal 1 => subst xx)) | (refine Kept.use (P := ExcKept e0_ xx) ?_ (fun hx => ?_); (on_goal 2 => clear_value xx); (on_goal 1 => subst xx)) | (have yy : _ → _ := xx; clear yy; subst xx) | (have yy : Memories := xx; clear yy; subst xx) | (have yy : Vault := xx; clear yy; subst xx) | (have yy : HostEnv := xx; clear yy; subst xx) | clear_value xx)
    | split | rw [mk_put] | (refine MemKept.mk ?_ ?_)

theorem kept_shoeInitSpec   : SpecKept (shoeInitSpec) := by
  intro e0_ s port p h
  unfold shoeInitSpec
  repeat' with_reducible first
    | assumption | apply kept_shoeInitRun | exact DoneKept.none | apply DoneKept.some | apply DoneKept.ite
    | (fail_if_no_progress beta_reduce) | split

theorem kept_kittyConfigRun {e0_ : State} (s : State) (u1_ : Nat) (p : List Byte) (h_s : Kept e0_ s) : DoneKept e0_ (kittyConfigRun s u1_ p) := by
  unfold kittyConfigRun
  repeat' with_reducible first
    | assumption | exact Kept.refl _ | apply Kept.id_of | exact VaultKept.refl _ | exact MemKept.refl _ | exact HostKept.refl _
    | exact VaultKept.upd | exact MemKept.mk id id | exact id | exact (fun w => memWrite_wf w _ _) | exact (fun w => memZero_wf w _ _)
    | exact (fun w => Memory.wf_filter _ w) | apply kept_deliverBatch | apply kept_kittyCause | apply kept_done | exact DoneKept.none
    | apply DoneKept.some | apply DoneKept.ite | apply OptKept.getD | apply Kept.put | (fail_if_no_progress beta_reduce)
    | (refine Kept.foldl ?_ (fun _ _ _ => ?_)) | (refine Kept.foldl_fst ?_ (fun _ _ _ => ?_)) | (refine Kept.foldr ?_ (fun _ _ _ => ?_))
    | split | rw [mk_put] | (refine MemKept.mk ?_ ?_)

theorem kept_kittyConfigSpec   : SpecKept (kittyConfigSpec) := by
  intro e0_ s port p h
  unfold kittyConfigSpec
  repeat' with_reducible first
    | assumption | apply kept_kittyConfigRun | exact DoneKept.none | apply DoneKept.some | apply DoneKept.ite
    | (fail_if_no_progress beta_reduce) | split

theorem kept_kittyCollectRun {e0_ : State} (s : State) (u1_ : Nat) (u2_ : List Byte) (h_s : Kept e0_ s) : DoneKept e0_ (kittyCollectRun s u1_ u2_) := by
  unfold kittyCollectRun
  repeat' with_reducible first
    | assumption | apply kept_kittyCause | apply kept_done | exact DoneKept.none | apply DoneKept.some | apply DoneKept.ite
    | (fail_if_no_progress beta_reduce) | split

theorem kept_kittyCollectSpec   : SpecKept (kittyCollectSpec) := by
  intro e0_ s port p h
  unfold kittyCollectSpec
  repeat' with_reducible first
    | assumption | apply kept_kittyCollectRun | exact DoneKept.none | apply DoneKept.some | apply DoneKept.ite
    | (fail_if_no_progress beta_reduce) | split

theorem kept_releaseOne {e0_ : State} (b : Batch) (fail : Nat) (s : State) (f : Flight) (h_s : Kept e0_ s) : Kept e0_ (releaseOne b fail s f) := by
  unfold releaseOne
  repeat' with_reducible first
    | assumption | apply kept_putFlight | apply kept_complete | (fail_if_no_progress beta_reduce) | split

theorem kept_kittyReleaseRun {e0_ : State} (s : State) (n1_ : Nat) (p : List Byte) (h_s : Kept e0_ s) : DoneKept e0_ (kittyReleaseRun s n1_ p) := by
  unfold kittyReleaseRun
  repeat' with_reducible first
    | assumption | exact Kept.refl _ | apply Kept.id_of | exact VaultKept.refl _ | exact MemKept.refl _ | exact HostKept.refl _
    | exact VaultKept.upd | exact MemKept.mk id id | exact id | exact (fun w => memWrite_wf w _ _) | exact (fun w => memZero_wf w _ _)
    | exact (fun w => Memory.wf_filter _ w) | apply kept_refuseState | apply kept_releaseOne | apply kept_done | apply kept_settle
    | apply kept_closeBatch | apply kept_noteDue | exact DoneKept.none | apply DoneKept.some | apply DoneKept.ite | apply kept_done
    | apply kept_refuse | apply kept_refuseState | apply OptKept.getD | apply Kept.put | apply Kept.ite
    | (refine Kept.foldl ?_ (fun _ _ _ => ?_)) | (refine Kept.foldl_fst ?_ (fun _ _ _ => ?_)) | (refine Kept.foldr ?_ (fun _ _ _ => ?_))
    | (fail_if_no_progress beta_reduce)
    | ((try lift_lets -underBinder); intro xx; first | (refine Kept.use (P := Kept e0_ xx) ?_ (fun hx => ?_); (on_goal 2 => clear_value xx); (on_goal 1 => subst xx)) | (refine Kept.use (P := OptKept e0_ xx) ?_ (fun hx => ?_); (on_goal 2 => clear_value xx); (on_goal 1 => subst xx)) | (refine Kept.use (P := Kept e0_ (Prod.fst (α := State) xx)) ?_ (fun hx => ?_); (on_goal 2 => clear_value xx); (on_goal 1 => subst xx)) | (refine Kept.use (P := Kept e0_ (Prod.snd (β := State) xx)) ?_ (fun hx => ?_); (on_goal 2 => clear_value xx); (on_goal 1 => subst xx)) | (refine Kept.use (P := OptFst e0_ xx) ?_ (fun hx => ?_); (on_goal 2 => clear_value xx); (on_goal 1 => subst xx)) | (refine Kept.use (P := ExcKept e0_ xx) ?_ (fun hx => ?_); (on_goal 2 => clear_value xx); (on_goal 1 => subst xx)) | (have yy : _ → _ := xx; clear yy; subst xx) | (have yy : Memories := xx; clear yy; subst xx) | (have yy : Vault := xx; clear yy; subst xx) | (have yy : HostEnv := xx; clear yy; subst xx) | clear_value xx)
    | split | rw [mk_put] | (refine MemKept.mk ?_ ?_)

theorem kept_kittyReleaseSpec   : SpecKept (kittyReleaseSpec) := by
  intro e0_ s port p h
  unfold kittyReleaseSpec
  repeat' with_reducible first
    | assumption | apply kept_kittyReleaseRun | exact DoneKept.none | apply DoneKept.some | apply DoneKept.ite
    | (fail_if_no_progress beta_reduce) | split

theorem kept_farListSpec   : SpecKept (farListSpec) := by
  intro e0_ s port p h
  unfold farListSpec
  repeat' with_reducible first
    | assumption | apply kept_done | exact DoneKept.none | apply DoneKept.some | apply DoneKept.ite | (fail_if_no_progress beta_reduce)
    | split

theorem kept_farMapRun {e0_ : State} (s : State) (u1_ : Nat) (p : List Byte) (h_s : Kept e0_ s) : DoneKept e0_ (farMapRun s u1_ p) := by
  unfold farMapRun
  repeat' with_reducible first
    | assumption | exact Kept.refl _ | apply Kept.id_of | exact VaultKept.refl _ | exact MemKept.refl _ | exact HostKept.refl _
    | exact VaultKept.upd | exact MemKept.mk id id | exact id | exact (fun w => memWrite_wf w _ _) | exact (fun w => memZero_wf w _ _)
    | exact (fun w => Memory.wf_filter _ w) | apply kept_zeroMem | apply kept_putExpander | apply kept_done | apply kept_refuseState
    | exact DoneKept.none | apply DoneKept.some | apply DoneKept.ite | apply OptKept.getD | apply Kept.put
    | (fail_if_no_progress beta_reduce) | (refine Kept.foldl ?_ (fun _ _ _ => ?_)) | (refine Kept.foldl_fst ?_ (fun _ _ _ => ?_))
    | (refine Kept.foldr ?_ (fun _ _ _ => ?_)) | split | rw [mk_put] | (refine MemKept.mk ?_ ?_)

theorem kept_farMapSpec   : SpecKept (farMapSpec) := by
  intro e0_ s port p h
  unfold farMapSpec
  repeat' with_reducible first
    | assumption | apply kept_farMapRun | exact DoneKept.none | apply DoneKept.some | apply DoneKept.ite
    | (fail_if_no_progress beta_reduce) | split

theorem kept_vaultListRun {e0_ : State} (s : State) (u1_ : Nat) (p : List Byte) (h_s : Kept e0_ s) : DoneKept e0_ (vaultListRun s u1_ p) := by
  unfold vaultListRun
  repeat' with_reducible first
    | assumption | apply kept_done | apply kept_refuse | exact DoneKept.none | apply DoneKept.some | apply DoneKept.ite
    | (fail_if_no_progress beta_reduce) | split

theorem kept_vaultListSpec   : SpecKept (vaultListSpec) := by
  intro e0_ s port p h
  unfold vaultListSpec
  repeat' with_reducible first
    | assumption | apply kept_vaultListRun | exact DoneKept.none | apply DoneKept.some | apply DoneKept.ite
    | (fail_if_no_progress beta_reduce) | split

theorem kept_ptmConfigSpec   : SpecKept (ptmConfigSpec) := by
  intro e0_ s port p h
  unfold ptmConfigSpec
  repeat' with_reducible first
    | assumption | exact Kept.refl _ | apply Kept.id_of | exact VaultKept.refl _ | exact MemKept.refl _ | exact HostKept.refl _
    | exact VaultKept.upd | exact MemKept.mk id id | exact id | exact (fun w => memWrite_wf w _ _) | exact (fun w => memZero_wf w _ _)
    | exact (fun w => Memory.wf_filter _ w) | apply kept_done | exact DoneKept.none | apply DoneKept.some | apply DoneKept.ite
    | apply Kept.put | (fail_if_no_progress beta_reduce) | (refine Kept.foldl ?_ (fun _ _ _ => ?_))
    | (refine Kept.foldl_fst ?_ (fun _ _ _ => ?_)) | (refine Kept.foldr ?_ (fun _ _ _ => ?_)) | split | rw [mk_put]
    | (refine MemKept.mk ?_ ?_)

theorem kept_stageImage {e0_ : State} (s : State) (image : List Byte) (bytes : Nat) (h_s : Kept e0_ s) : DoneKept e0_ (stageImage s image bytes) := by
  unfold stageImage
  repeat' with_reducible first
    | assumption | apply kept_wearCheck | apply kept_putBank | apply kept_done | apply kept_refuse | exact DoneKept.none
    | apply DoneKept.some | apply DoneKept.ite | (fail_if_no_progress beta_reduce) | split

theorem kept_fwStageRun {e0_ : State} (s : State) (port : Nat) (p : List Byte) (h_s : Kept e0_ s) : DoneKept e0_ (fwStageRun s port p) := by
  unfold fwStageRun
  repeat' with_reducible first
    | assumption | apply kept_refuse | apply kept_stageImage | exact DoneKept.none | apply DoneKept.some | apply DoneKept.ite
    | (fail_if_no_progress beta_reduce) | split

theorem kept_fwStageSpec   : SpecKept (fwStageSpec) := by
  intro e0_ s port p h
  unfold fwStageSpec
  repeat' with_reducible first
    | assumption | apply kept_fwStageRun | exact DoneKept.none | apply DoneKept.some | apply DoneKept.ite
    | (fail_if_no_progress beta_reduce) | split

theorem kept_fwStatusSpec   : SpecKept (fwStatusSpec) := by
  intro e0_ s port p h
  unfold fwStatusSpec
  repeat' with_reducible first
    | assumption | apply kept_done | exact DoneKept.none | apply DoneKept.some | apply DoneKept.ite | (fail_if_no_progress beta_reduce)
    | split

theorem kept_fwDiscardRun {e0_ : State} (s : State) (u1_ : Nat) (u2_ : List Byte) (h_s : Kept e0_ s) : DoneKept e0_ (fwDiscardRun s u1_ u2_) := by
  unfold fwDiscardRun
  repeat' with_reducible first
    | assumption | apply kept_putBank | apply kept_done | apply kept_refuseState | exact DoneKept.none | apply DoneKept.some
    | apply DoneKept.ite | (fail_if_no_progress beta_reduce) | split

theorem kept_fwDiscardSpec   : SpecKept (fwDiscardSpec) := by
  intro e0_ s port p h
  unfold fwDiscardSpec
  repeat' with_reducible first
    | assumption | apply kept_fwDiscardRun | exact DoneKept.none | apply DoneKept.some | apply DoneKept.ite
    | (fail_if_no_progress beta_reduce) | split

theorem kept_resetSpec   : SpecKept (resetSpec) := by
  intro e0_ s port p h
  unfold resetSpec
  repeat' with_reducible first
    | assumption | exact DoneKept.none | apply DoneKept.some | apply DoneKept.ite | (fail_if_no_progress beta_reduce) | split

theorem kept_debugChallengeRun {e0_ : State} (s : State) (u1_ : Nat) (u2_ : List Byte) (h_s : Kept e0_ s) : DoneKept e0_ (debugChallengeRun s u1_ u2_) := by
  unfold debugChallengeRun
  repeat' with_reducible first
    | assumption | exact Kept.refl _ | apply Kept.id_of | exact VaultKept.refl _ | exact MemKept.refl _ | exact HostKept.refl _
    | exact VaultKept.upd | exact MemKept.mk id id | exact id | exact (fun w => memWrite_wf w _ _) | exact (fun w => memZero_wf w _ _)
    | exact (fun w => Memory.wf_filter _ w) | apply kept_drawRandom | apply kept_done | exact DoneKept.none | apply DoneKept.some
    | apply DoneKept.ite | apply OptKept.getD | apply Kept.put | (fail_if_no_progress beta_reduce)
    | (refine Kept.snd_of (by assumption) ?_; apply kept_drawRandom) | (refine Kept.foldl ?_ (fun _ _ _ => ?_))
    | (refine Kept.foldl_fst ?_ (fun _ _ _ => ?_)) | (refine Kept.foldr ?_ (fun _ _ _ => ?_)) | split | rw [mk_put]
    | (refine MemKept.mk ?_ ?_)

theorem kept_debugChallengeSpec   : SpecKept (debugChallengeSpec) := by
  intro e0_ s port p h
  unfold debugChallengeSpec
  repeat' with_reducible first
    | assumption | apply kept_debugChallengeRun | exact DoneKept.none | apply DoneKept.some | apply DoneKept.ite
    | (fail_if_no_progress beta_reduce) | split

theorem kept_debugUnlockRun {e0_ : State} (s : State) (u1_ : Nat) (p : List Byte) (h_s : Kept e0_ s) : DoneKept e0_ (debugUnlockRun s u1_ p) := by
  unfold debugUnlockRun
  repeat' with_reducible first
    | assumption | exact Kept.refl _ | apply Kept.id_of | exact VaultKept.refl _ | exact MemKept.refl _ | exact HostKept.refl _
    | exact VaultKept.upd | exact MemKept.mk id id | exact id | exact (fun w => memWrite_wf w _ _) | exact (fun w => memZero_wf w _ _)
    | exact (fun w => Memory.wf_filter _ w) | apply kept_done | apply kept_refuse | apply kept_refuseState | exact DoneKept.none
    | apply DoneKept.some | apply DoneKept.ite | apply OptKept.getD | apply Kept.put | (fail_if_no_progress beta_reduce)
    | (refine Kept.foldl ?_ (fun _ _ _ => ?_)) | (refine Kept.foldl_fst ?_ (fun _ _ _ => ?_)) | (refine Kept.foldr ?_ (fun _ _ _ => ?_))
    | split | rw [mk_put] | (refine MemKept.mk ?_ ?_)

theorem kept_debugUnlockSpec   : SpecKept (debugUnlockSpec) := by
  intro e0_ s port p h
  unfold debugUnlockSpec
  repeat' with_reducible first
    | assumption | apply kept_debugUnlockRun | exact DoneKept.none | apply DoneKept.some | apply DoneKept.ite
    | (fail_if_no_progress beta_reduce) | split

theorem kept_peekRun {e0_ : State} (s : State) (u1_ : Nat) (p : List Byte) (h_s : Kept e0_ s) : DoneKept e0_ (peekRun s u1_ p) := by
  unfold peekRun
  repeat' with_reducible first
    | assumption | apply kept_drawFresh | apply kept_done | apply kept_refuse | apply kept_refuseState | exact DoneKept.none
    | apply DoneKept.some | apply DoneKept.ite | (fail_if_no_progress beta_reduce) | split

theorem kept_peekSpec   : SpecKept (peekSpec) := by
  intro e0_ s port p h
  unfold peekSpec
  repeat' with_reducible first
    | assumption | apply kept_peekRun | exact DoneKept.none | apply DoneKept.some | apply DoneKept.ite
    | (fail_if_no_progress beta_reduce) | split

theorem kept_pokeRun {e0_ : State} (s : State) (u1_ : Nat) (p : List Byte) (h_s : Kept e0_ s) : DoneKept e0_ (pokeRun s u1_ p) := by
  unfold pokeRun
  repeat' with_reducible first
    | assumption | apply kept_putMem | apply kept_done | apply kept_refuse | apply kept_refuseState | exact DoneKept.none
    | apply DoneKept.some | apply DoneKept.ite | (fail_if_no_progress beta_reduce) | split

theorem kept_pokeSpec   : SpecKept (pokeSpec) := by
  intro e0_ s port p h
  unfold pokeSpec
  repeat' with_reducible first
    | assumption | apply kept_pokeRun | exact DoneKept.none | apply DoneKept.some | apply DoneKept.ite
    | (fail_if_no_progress beta_reduce) | split

theorem kept_execMbHello {e0_ : State} (rq : MbReq) (s : State) (h_s : Kept e0_ s) : OutcomeKept e0_ (execMbHello rq s) := by
  unfold execMbHello
  repeat' with_reducible first
    | assumption | apply kept_mbOp | exact kept_helloSpec | apply kept_helloSpec | apply OutcomeKept.answer

theorem kept_execMbNonce {e0_ : State} (rq : MbReq) (s : State) (h_s : Kept e0_ s) : OutcomeKept e0_ (execMbNonce rq s) := by
  unfold execMbNonce
  repeat' with_reducible first
    | assumption | apply kept_mbOp | exact kept_nonceSpec | apply kept_nonceSpec | apply OutcomeKept.answer

theorem kept_execMbOwnerClaim {e0_ : State} (rq : MbReq) (s : State) (h_s : Kept e0_ s) : OutcomeKept e0_ (execMbOwnerClaim rq s) := by
  unfold execMbOwnerClaim
  repeat' with_reducible first
    | assumption | apply kept_mbOp | exact kept_claimSpec | apply kept_claimSpec | apply OutcomeKept.answer

theorem kept_execMbOwnerTake {e0_ : State} (rq : MbReq) (s : State) (h_s : Kept e0_ s) : OutcomeKept e0_ (execMbOwnerTake rq s) := by
  unfold execMbOwnerTake
  repeat' with_reducible first
    | assumption | apply kept_mbOp | exact kept_takeSpec | apply kept_takeSpec | apply OutcomeKept.answer

theorem kept_execMbOwnerTransfer {e0_ : State} (rq : MbReq) (s : State) (h_s : Kept e0_ s) : OutcomeKept e0_ (execMbOwnerTransfer rq s) := by
  unfold execMbOwnerTransfer
  repeat' with_reducible first
    | assumption | apply kept_mbOp | exact kept_transferSpec | apply kept_transferSpec | apply OutcomeKept.answer

theorem kept_execMbOwnerMode {e0_ : State} (rq : MbReq) (s : State) (h_s : Kept e0_ s) : OutcomeKept e0_ (execMbOwnerMode rq s) := by
  unfold execMbOwnerMode
  repeat' with_reducible first
    | assumption | apply kept_mbOp | exact kept_modeSpec | apply kept_modeSpec | apply OutcomeKept.answer

theorem kept_execMbCertGet {e0_ : State} (rq : MbReq) (s : State) (h_s : Kept e0_ s) : OutcomeKept e0_ (execMbCertGet rq s) := by
  unfold execMbCertGet
  repeat' with_reducible first
    | assumption | apply kept_mbOp | exact kept_certSpec | apply kept_certSpec | apply OutcomeKept.answer

theorem kept_execMbAttest {e0_ : State} (rq : MbReq) (s : State) (h_s : Kept e0_ s) : OutcomeKept e0_ (execMbAttest rq s) := by
  unfold execMbAttest
  repeat' with_reducible first
    | assumption | apply kept_mbOp | exact kept_attestSpec | apply kept_attestSpec | apply OutcomeKept.answer

theorem kept_execMbAttestSession {e0_ : State} (rq : MbReq) (s : State) (h_s : Kept e0_ s) : OutcomeKept e0_ (execMbAttestSession rq s) := by
  unfold execMbAttestSession
  repeat' with_reducible first
    | assumption | apply kept_mbOp | exact kept_sessionSpec | apply kept_sessionSpec | apply OutcomeKept.answer

theorem kept_execMbUnitsGet {e0_ : State} (rq : MbReq) (s : State) (h_s : Kept e0_ s) : OutcomeKept e0_ (execMbUnitsGet rq s) := by
  unfold execMbUnitsGet
  repeat' with_reducible first
    | assumption | apply kept_mbOp | exact kept_unitsSpec | apply kept_unitsSpec | apply OutcomeKept.answer

theorem kept_execMbRetireAck {e0_ : State} (rq : MbReq) (s : State) (h_s : Kept e0_ s) : OutcomeKept e0_ (execMbRetireAck rq s) := by
  unfold execMbRetireAck
  repeat' with_reducible first
    | assumption | apply kept_mbOp | exact kept_retireAckSpec | apply kept_retireAckSpec | apply OutcomeKept.answer

theorem kept_execMbEventConfig {e0_ : State} (rq : MbReq) (s : State) (h_s : Kept e0_ s) : OutcomeKept e0_ (execMbEventConfig rq s) := by
  unfold execMbEventConfig
  repeat' with_reducible first
    | assumption | apply kept_mbOp | exact kept_eventConfigSpec | apply kept_eventConfigSpec | apply OutcomeKept.answer

theorem kept_execMbShoeInit {e0_ : State} (rq : MbReq) (s : State) (h_s : Kept e0_ s) : OutcomeKept e0_ (execMbShoeInit rq s) := by
  unfold execMbShoeInit
  repeat' with_reducible first
    | assumption | apply kept_mbOp | exact kept_shoeInitSpec | apply kept_shoeInitSpec | apply OutcomeKept.answer

theorem kept_execMbKittyConfig {e0_ : State} (rq : MbReq) (s : State) (h_s : Kept e0_ s) : OutcomeKept e0_ (execMbKittyConfig rq s) := by
  unfold execMbKittyConfig
  repeat' with_reducible first
    | assumption | apply kept_mbOp | exact kept_kittyConfigSpec | apply kept_kittyConfigSpec | apply OutcomeKept.answer

theorem kept_execMbKittyCollect {e0_ : State} (rq : MbReq) (s : State) (h_s : Kept e0_ s) : OutcomeKept e0_ (execMbKittyCollect rq s) := by
  unfold execMbKittyCollect
  repeat' with_reducible first
    | assumption | apply kept_mbOp | exact kept_kittyCollectSpec | apply kept_kittyCollectSpec | apply OutcomeKept.answer

theorem kept_execMbKittyRelease {e0_ : State} (rq : MbReq) (s : State) (h_s : Kept e0_ s) : OutcomeKept e0_ (execMbKittyRelease rq s) := by
  unfold execMbKittyRelease
  repeat' with_reducible first
    | assumption | apply kept_mbOp | exact kept_kittyReleaseSpec | apply kept_kittyReleaseSpec | apply OutcomeKept.answer

theorem kept_execMbFarList {e0_ : State} (rq : MbReq) (s : State) (h_s : Kept e0_ s) : OutcomeKept e0_ (execMbFarList rq s) := by
  unfold execMbFarList
  repeat' with_reducible first
    | assumption | apply kept_mbOp | exact kept_farListSpec | apply kept_farListSpec | apply OutcomeKept.answer

theorem kept_execMbFarMap {e0_ : State} (rq : MbReq) (s : State) (h_s : Kept e0_ s) : OutcomeKept e0_ (execMbFarMap rq s) := by
  unfold execMbFarMap
  repeat' with_reducible first
    | assumption | apply kept_mbOp | exact kept_farMapSpec | apply kept_farMapSpec | apply OutcomeKept.answer

theorem kept_execMbVaultList {e0_ : State} (rq : MbReq) (s : State) (h_s : Kept e0_ s) : OutcomeKept e0_ (execMbVaultList rq s) := by
  unfold execMbVaultList
  repeat' with_reducible first
    | assumption | apply kept_mbOp | exact kept_vaultListSpec | apply kept_vaultListSpec | apply OutcomeKept.answer

theorem kept_execMbPtmConfig {e0_ : State} (rq : MbReq) (s : State) (h_s : Kept e0_ s) : OutcomeKept e0_ (execMbPtmConfig rq s) := by
  unfold execMbPtmConfig
  repeat' with_reducible first
    | assumption | apply kept_mbOp | exact kept_ptmConfigSpec | apply kept_ptmConfigSpec | apply OutcomeKept.answer

theorem kept_execMbFwStage {e0_ : State} (rq : MbReq) (s : State) (h_s : Kept e0_ s) : OutcomeKept e0_ (execMbFwStage rq s) := by
  unfold execMbFwStage
  repeat' with_reducible first
    | assumption | apply kept_mbOp | exact kept_fwStageSpec | apply kept_fwStageSpec | apply OutcomeKept.answer

theorem kept_execMbFwStatus {e0_ : State} (rq : MbReq) (s : State) (h_s : Kept e0_ s) : OutcomeKept e0_ (execMbFwStatus rq s) := by
  unfold execMbFwStatus
  repeat' with_reducible first
    | assumption | apply kept_mbOp | exact kept_fwStatusSpec | apply kept_fwStatusSpec | apply OutcomeKept.answer

theorem kept_execMbFwDiscard {e0_ : State} (rq : MbReq) (s : State) (h_s : Kept e0_ s) : OutcomeKept e0_ (execMbFwDiscard rq s) := by
  unfold execMbFwDiscard
  repeat' with_reducible first
    | assumption | apply kept_mbOp | exact kept_fwDiscardSpec | apply kept_fwDiscardSpec | apply OutcomeKept.answer

theorem kept_execMbReset {e0_ : State} (rq : MbReq) (s : State) (h_s : Kept e0_ s) : OutcomeKept e0_ (execMbReset rq s) := by
  unfold execMbReset
  repeat' with_reducible first
    | assumption | apply kept_mbOp | exact kept_resetSpec | apply kept_resetSpec | apply OutcomeKept.answer

theorem kept_execMbDebugChallenge {e0_ : State} (rq : MbReq) (s : State) (h_s : Kept e0_ s) : OutcomeKept e0_ (execMbDebugChallenge rq s) := by
  unfold execMbDebugChallenge
  repeat' with_reducible first
    | assumption | apply kept_mbOp | exact kept_debugChallengeSpec | apply kept_debugChallengeSpec | apply OutcomeKept.answer

theorem kept_execMbDebugUnlock {e0_ : State} (rq : MbReq) (s : State) (h_s : Kept e0_ s) : OutcomeKept e0_ (execMbDebugUnlock rq s) := by
  unfold execMbDebugUnlock
  repeat' with_reducible first
    | assumption | apply kept_mbOp | exact kept_debugUnlockSpec | apply kept_debugUnlockSpec | apply OutcomeKept.answer

theorem kept_execMbDebugPeek {e0_ : State} (rq : MbReq) (s : State) (h_s : Kept e0_ s) : OutcomeKept e0_ (execMbDebugPeek rq s) := by
  unfold execMbDebugPeek
  repeat' with_reducible first
    | assumption | apply kept_mbOp | exact kept_peekSpec | apply kept_peekSpec | apply OutcomeKept.answer

theorem kept_execMbDebugPoke {e0_ : State} (rq : MbReq) (s : State) (h_s : Kept e0_ s) : OutcomeKept e0_ (execMbDebugPoke rq s) := by
  unfold execMbDebugPoke
  repeat' with_reducible first
    | assumption | apply kept_mbOp | exact kept_pokeSpec | apply kept_pokeSpec | apply OutcomeKept.answer

theorem kept_registerWriteOp {e0_ : State} (port offset value : Nat) (s : State) (h_s : Kept e0_ s) : Kept e0_ (registerWriteOp port offset value s) := by
  unfold registerWriteOp
  repeat' with_reducible first
    | assumption | apply kept_setMbox | apply kept_done | (fail_if_no_progress beta_reduce) | split

theorem kept_execRegisterWrite {e0_ : State} (port offset value : Nat) (s : State) (h_s : Kept e0_ s) : OutcomeKept e0_ (execRegisterWrite port offset value s) := by
  unfold execRegisterWrite
  repeat' with_reducible first
    | assumption | apply kept_registerWriteOp | apply OutcomeKept.answer

end Sys2Proof.Laws
end

