-- ==== Sys2Proof/Laws/KeptNet.lean ====
section
/-!
SUPPORT. Sys2Proof/Laws/KeptNet.lean: what the operations of Machine/Net.lean keep (Laws/Kept.lean).
-/

set_option linter.unusedTactic false
set_option linter.unreachableTactic false
set_option linter.unusedVariables false

namespace Sys2Proof.Laws

open Sys2Proof.Machine Sys2Proof.Safety

theorem kept_setNetPort {e0_ : State} (s : State) (p : Nat) (x : NetPort) (h_s : Kept e0_ s) : Kept e0_ (setNetPort s p x) := by
  unfold setNetPort
  repeat' with_reducible first
    | assumption | exact Kept.refl _ | apply Kept.id_of | exact VaultKept.refl _ | exact MemKept.refl _ | exact HostKept.refl _
    | exact VaultKept.upd | exact MemKept.mk id id | exact id | exact (fun w => memWrite_wf w _ _) | exact (fun w => memZero_wf w _ _)
    | exact (fun w => Memory.wf_filter _ w) | apply OptKept.getD | apply Kept.put | (fail_if_no_progress beta_reduce)
    | (refine Kept.foldl ?_ (fun _ _ _ => ?_)) | (refine Kept.foldl_fst ?_ (fun _ _ _ => ?_)) | (refine Kept.foldr ?_ (fun _ _ _ => ?_))
    | split | rw [mk_put] | (refine MemKept.mk ?_ ?_)

theorem kept_putQp {e0_ : State} (s : State) (n : Nat) (q : Qp) (h_s : Kept e0_ s) : Kept e0_ (putQp s n q) := by
  unfold putQp
  repeat' with_reducible first
    | assumption | exact Kept.refl _ | apply Kept.id_of | exact VaultKept.refl _ | exact MemKept.refl _ | exact HostKept.refl _
    | exact VaultKept.upd | exact MemKept.mk id id | exact id | exact (fun w => memWrite_wf w _ _) | exact (fun w => memZero_wf w _ _)
    | exact (fun w => Memory.wf_filter _ w) | apply OptKept.getD | apply Kept.put | (fail_if_no_progress beta_reduce)
    | (refine Kept.foldl ?_ (fun _ _ _ => ?_)) | (refine Kept.foldl_fst ?_ (fun _ _ _ => ?_)) | (refine Kept.foldr ?_ (fun _ _ _ => ?_))
    | split | rw [mk_put] | (refine MemKept.mk ?_ ?_)

theorem kept_netPut {e0_ : State} (s : State) (places : List (Loc × Nat × Nat)) (bs : List Byte) (h_s : Kept e0_ s) : Kept e0_ (netPut s places bs) := by
  unfold netPut
  repeat' with_reducible first
    | assumption | exact Kept.refl _ | apply Kept.id_of | exact VaultKept.refl _ | exact MemKept.refl _ | exact HostKept.refl _
    | exact VaultKept.upd | exact MemKept.mk id id | exact id | exact (fun w => memWrite_wf w _ _) | exact (fun w => memZero_wf w _ _)
    | exact (fun w => Memory.wf_filter _ w) | apply kept_hostPut | apply kept_putMem | apply OptKept.getD | apply Kept.put
    | (fail_if_no_progress beta_reduce) | (refine Kept.fst_of (by assumption) ?_; apply kept_putMem)
    | (refine Kept.foldl ?_ (fun _ _ _ => ?_)) | (refine Kept.foldl_fst ?_ (fun _ _ _ => ?_)) | (refine Kept.foldr ?_ (fun _ _ _ => ?_))
    | split | rw [mk_put] | (refine MemKept.mk ?_ ?_)

theorem kept_netStopped {e0_ : State} (s : State) (e : Stop) (k : Nat → Nat → State) (h_s : Kept e0_ s) (hk : ∀ a b, Kept e0_ (k a b)) :
    OptKept e0_ (netStopped s e k) := by
  unfold netStopped
  repeat' with_reducible first
    | assumption | exact Kept.refl _ | apply Kept.id_of | exact VaultKept.refl _ | exact MemKept.refl _ | exact HostKept.refl _
    | exact VaultKept.upd | exact MemKept.mk id id | exact id | exact (fun w => memWrite_wf w _ _) | exact (fun w => memZero_wf w _ _)
    | exact (fun w => Memory.wf_filter _ w) | (exact hk _ _) | apply kept_fatal | exact OptKept.none | apply OptKept.some
    | apply OptKept.ite | (refine OptKept.map (fun _ _ => ?_)) | (refine OptKept.findSome (fun _ => ?_)) | apply OptKept.getD
    | apply Kept.put | apply Kept.ite | (refine Kept.foldl ?_ (fun _ _ _ => ?_)) | (refine Kept.foldl_fst ?_ (fun _ _ _ => ?_))
    | (refine Kept.foldr ?_ (fun _ _ _ => ?_)) | (fail_if_no_progress beta_reduce)
    | ((try lift_lets -underBinder); intro xx; first | (refine Kept.use (P := Kept e0_ xx) ?_ (fun hx => ?_); (on_goal 2 => clear_value xx); (on_goal 1 => subst xx)) | (refine Kept.use (P := OptKept e0_ xx) ?_ (fun hx => ?_); (on_goal 2 => clear_value xx); (on_goal 1 => subst xx)) | (refine Kept.use (P := Kept e0_ (Prod.fst (α := State) xx)) ?_ (fun hx => ?_); (on_goal 2 => clear_value xx); (on_goal 1 => subst xx)) | (refine Kept.use (P := Kept e0_ (Prod.snd (β := State) xx)) ?_ (fun hx => ?_); (on_goal 2 => clear_value xx); (on_goal 1 => subst xx)) | (refine Kept.use (P := OptFst e0_ xx) ?_ (fun hx => ?_); (on_goal 2 => clear_value xx); (on_goal 1 => subst xx)) | (refine Kept.use (P := ExcKept e0_ xx) ?_ (fun hx => ?_); (on_goal 2 => clear_value xx); (on_goal 1 => subst xx)) | (have yy : _ → _ := xx; clear yy; subst xx) | (have yy : Memories := xx; clear yy; subst xx) | (have yy : Vault := xx; clear yy; subst xx) | (have yy : HostEnv := xx; clear yy; subst xx) | clear_value xx)
    | split | rw [mk_put] | (refine MemKept.mk ?_ ?_)

theorem kept_netStop {e0_ : State} (s : State) (e : Stop) (k : Nat → Nat → State) (h_s : Kept e0_ s) (hk : ∀ a b, Kept e0_ (k a b)) :
    Kept e0_ (netStop s e k) := OptKept.getD (kept_netStopped s e k h_s hk) h_s

theorem kept_awakeView {e0_ : State} (s : State) (h_s : Kept e0_ s) : Kept e0_ (awakeView s) := by
  unfold awakeView
  repeat' with_reducible first
    | assumption | exact Kept.refl _ | apply Kept.id_of | exact VaultKept.refl _ | exact MemKept.refl _ | exact HostKept.refl _
    | exact VaultKept.upd | exact MemKept.mk id id | exact id | exact (fun w => memWrite_wf w _ _) | exact (fun w => memZero_wf w _ _)
    | exact (fun w => Memory.wf_filter _ w) | apply OptKept.getD | apply Kept.put | apply Kept.ite
    | (refine Kept.foldl ?_ (fun _ _ _ => ?_)) | (refine Kept.foldl_fst ?_ (fun _ _ _ => ?_)) | (refine Kept.foldr ?_ (fun _ _ _ => ?_))
    | (fail_if_no_progress beta_reduce)
    | ((try lift_lets -underBinder); intro xx; first | (refine Kept.use (P := Kept e0_ xx) ?_ (fun hx => ?_); (on_goal 2 => clear_value xx); (on_goal 1 => subst xx)) | (refine Kept.use (P := OptKept e0_ xx) ?_ (fun hx => ?_); (on_goal 2 => clear_value xx); (on_goal 1 => subst xx)) | (refine Kept.use (P := Kept e0_ (Prod.fst (α := State) xx)) ?_ (fun hx => ?_); (on_goal 2 => clear_value xx); (on_goal 1 => subst xx)) | (refine Kept.use (P := Kept e0_ (Prod.snd (β := State) xx)) ?_ (fun hx => ?_); (on_goal 2 => clear_value xx); (on_goal 1 => subst xx)) | (refine Kept.use (P := OptFst e0_ xx) ?_ (fun hx => ?_); (on_goal 2 => clear_value xx); (on_goal 1 => subst xx)) | (refine Kept.use (P := ExcKept e0_ xx) ?_ (fun hx => ?_); (on_goal 2 => clear_value xx); (on_goal 1 => subst xx)) | (have yy : _ → _ := xx; clear yy; subst xx) | (have yy : Memories := xx; clear yy; subst xx) | (have yy : Vault := xx; clear yy; subst xx) | (have yy : HostEnv := xx; clear yy; subst xx) | clear_value xx)
    | split | rw [mk_put] | (refine MemKept.mk ?_ ?_)

theorem kept_netPost {e0_ : State} (s : State) (asid va : Nat) (bs : List Byte) (h_s : Kept e0_ s) : Kept e0_ (netPost s asid va bs) := by
  unfold netPost
  repeat' with_reducible first
    | assumption | apply kept_netPut | apply kept_awakeView | (fail_if_no_progress beta_reduce) | split

theorem kept_endEntry {e0_ : State} (s : State) (n : Nat) (q : Qp) (entry : List Byte) (status moved detail : Nat) (h_s : Kept e0_ s) : Kept e0_ (endEntry s n q entry status moved detail) := by
  unfold endEntry
  repeat' with_reducible first
    | assumption | exact Kept.refl _ | apply Kept.id_of | exact VaultKept.refl _ | exact MemKept.refl _ | exact HostKept.refl _
    | exact VaultKept.upd | exact MemKept.mk id id | exact id | exact (fun w => memWrite_wf w _ _) | exact (fun w => memZero_wf w _ _)
    | exact (fun w => Memory.wf_filter _ w) | apply kept_putQp | apply kept_netPost | apply OptKept.getD | apply Kept.put
    | apply Kept.ite | (refine Kept.foldl ?_ (fun _ _ _ => ?_)) | (refine Kept.foldl_fst ?_ (fun _ _ _ => ?_))
    | (refine Kept.foldr ?_ (fun _ _ _ => ?_)) | (fail_if_no_progress beta_reduce)
    | ((try lift_lets -underBinder); intro xx; first | (refine Kept.use (P := Kept e0_ xx) ?_ (fun hx => ?_); (on_goal 2 => clear_value xx); (on_goal 1 => subst xx)) | clear_value xx)
    | split | rw [mk_put] | (refine MemKept.mk ?_ ?_)

theorem kept_sendEntry {e0_ : State} (s : State) (n : Nat) (q : Qp) (b : List Byte) (h_s : Kept e0_ s) : Kept e0_ (sendEntry s n q b) := by
  unfold sendEntry
  repeat' with_reducible first
    | assumption | exact Kept.refl _ | apply Kept.id_of | exact VaultKept.refl _ | exact MemKept.refl _ | exact HostKept.refl _
    | exact VaultKept.upd | exact MemKept.mk id id | exact id | exact (fun w => memWrite_wf w _ _) | exact (fun w => memZero_wf w _ _)
    | exact (fun w => Memory.wf_filter _ w) | apply kept_send | apply kept_putQp | (refine kept_netStop _ _ _ ?_ (fun _ _ => ?_))
    | apply kept_endEntry | apply OptKept.getD | apply Kept.put | apply Kept.ite | (refine Kept.foldl ?_ (fun _ _ _ => ?_))
    | (refine Kept.foldl_fst ?_ (fun _ _ _ => ?_)) | (refine Kept.foldr ?_ (fun _ _ _ => ?_)) | (fail_if_no_progress beta_reduce)
    | ((try lift_lets -underBinder); intro xx; first | (refine Kept.use (P := Kept e0_ xx) ?_ (fun hx => ?_); (on_goal 2 => clear_value xx); (on_goal 1 => subst xx)) | clear_value xx)
    | split | rw [mk_put] | (refine MemKept.mk ?_ ?_)

theorem kept_sendOp {e0_ : State} (op n : Nat) (s : State) (h_s : Kept e0_ s) : Kept e0_ (sendOp op n s) := by
  unfold sendOp
  repeat' with_reducible first
    | assumption | exact Kept.refl _ | apply Kept.id_of | exact VaultKept.refl _ | exact MemKept.refl _ | exact HostKept.refl _
    | exact VaultKept.upd | exact MemKept.mk id id | exact id | exact (fun w => memWrite_wf w _ _) | exact (fun w => memZero_wf w _ _)
    | exact (fun w => Memory.wf_filter _ w) | (refine kept_netStop _ _ _ ?_ (fun _ _ => ?_)) | apply kept_endEntry
    | apply kept_sendEntry | apply OptKept.getD | apply Kept.put | apply Kept.ite | (refine Kept.foldl ?_ (fun _ _ _ => ?_))
    | (refine Kept.foldl_fst ?_ (fun _ _ _ => ?_)) | (refine Kept.foldr ?_ (fun _ _ _ => ?_)) | (fail_if_no_progress beta_reduce)
    | ((try lift_lets -underBinder); intro xx; first | (refine Kept.use (P := Kept e0_ xx) ?_ (fun hx => ?_); (on_goal 2 => clear_value xx); (on_goal 1 => subst xx)) | clear_value xx)
    | split | rw [mk_put] | (refine MemKept.mk ?_ ?_)

theorem kept_execRdmaWrite {e0_ : State} (qp : Nat) (s : State) (h_s : Kept e0_ s) : OutcomeKept e0_ (execRdmaWrite qp s) := by
  unfold execRdmaWrite
  repeat' with_reducible first
    | assumption | apply kept_sendOp | apply OutcomeKept.answer

theorem kept_execRdmaWriteWithImmediate {e0_ : State} (qp : Nat) (s : State) (h_s : Kept e0_ s) : OutcomeKept e0_ (execRdmaWriteWithImmediate qp s) := by
  unfold execRdmaWriteWithImmediate
  repeat' with_reducible first
    | assumption | apply kept_sendOp | apply OutcomeKept.answer

theorem kept_execRdmaRead {e0_ : State} (qp : Nat) (s : State) (h_s : Kept e0_ s) : OutcomeKept e0_ (execRdmaRead qp s) := by
  unfold execRdmaRead
  repeat' with_reducible first
    | assumption | apply kept_sendOp | apply OutcomeKept.answer

theorem kept_rdmaResponseOp {e0_ : State} (n : Nat) (ans : RdmaAnswer) (s : State) (h_s : Kept e0_ s) : Kept e0_ (rdmaResponseOp n ans s) := by
  unfold rdmaResponseOp
  repeat' with_reducible first
    | assumption | exact Kept.refl _ | apply Kept.id_of | exact VaultKept.refl _ | exact MemKept.refl _ | exact HostKept.refl _
    | exact VaultKept.upd | exact MemKept.mk id id | exact id | exact (fun w => memWrite_wf w _ _) | exact (fun w => memZero_wf w _ _)
    | exact (fun w => Memory.wf_filter _ w) | apply kept_netPut | (refine kept_netStop _ _ _ ?_ (fun _ _ => ?_)) | apply kept_endEntry
    | apply OptKept.getD | apply Kept.put | apply Kept.ite | (refine Kept.foldl ?_ (fun _ _ _ => ?_))
    | (refine Kept.foldl_fst ?_ (fun _ _ _ => ?_)) | (refine Kept.foldr ?_ (fun _ _ _ => ?_)) | (fail_if_no_progress beta_reduce)
    | ((try lift_lets -underBinder); intro xx; first | (refine Kept.use (P := Kept e0_ xx) ?_ (fun hx => ?_); (on_goal 2 => clear_value xx); (on_goal 1 => subst xx)) | clear_value xx)
    | split | rw [mk_put] | (refine MemKept.mk ?_ ?_)

theorem kept_execRdmaResponse {e0_ : State} (qp : Nat) (ans : RdmaAnswer) (s : State) (h_s : Kept e0_ s) : OutcomeKept e0_ (execRdmaResponse qp ans s) := by
  unfold execRdmaResponse
  repeat' with_reducible first
    | assumption | apply kept_rdmaResponseOp | apply OutcomeKept.answer

theorem kept_rdmaRetryExpiryOp {e0_ : State} (n : Nat) (s : State) (h_s : Kept e0_ s) : Kept e0_ (rdmaRetryExpiryOp n s) := by
  unfold rdmaRetryExpiryOp
  repeat' with_reducible first
    | assumption | apply kept_endEntry | (fail_if_no_progress beta_reduce) | split

theorem kept_execRdmaRetryExpiry {e0_ : State} (qp : Nat) (s : State) (h_s : Kept e0_ s) : OutcomeKept e0_ (execRdmaRetryExpiry qp s) := by
  unfold execRdmaRetryExpiry
  repeat' with_reducible first
    | assumption | apply kept_rdmaRetryExpiryOp | apply OutcomeKept.answer

theorem kept_failEntries {e0_ : State} (n k : Nat) (s : State) (h : Kept e0_ s) : Kept e0_ (failEntries n k s) := by
  induction k generalizing s with
  | zero => exact h
  | succ k ih =>
    simp only [failEntries]
    split
    · exact h
    · exact ih _ (kept_endEntry _ _ _ _ _ _ _ h)

theorem kept_failQueue {e0_ : State} (s : State) (n : Nat) (h_s : Kept e0_ s) : Kept e0_ (failQueue s n) := by
  unfold failQueue
  repeat' with_reducible first
    | assumption | apply kept_putQp | apply kept_awakeView | apply kept_failEntries | (fail_if_no_progress beta_reduce) | split

theorem kept_netDown {e0_ : State} (s : State) (port : Nat) (h_s : Kept e0_ s) : Kept e0_ (netDown s port) := by
  unfold netDown
  repeat' with_reducible first
    | assumption | exact Kept.refl _ | apply Kept.id_of | exact VaultKept.refl _ | exact MemKept.refl _ | exact HostKept.refl _
    | exact VaultKept.upd | exact MemKept.mk id id | exact id | exact (fun w => memWrite_wf w _ _) | exact (fun w => memZero_wf w _ _)
    | exact (fun w => Memory.wf_filter _ w) | apply kept_setPortLive | apply kept_failQueue | apply OptKept.getD | apply Kept.put
    | (fail_if_no_progress beta_reduce) | (refine Kept.foldl ?_ (fun _ _ _ => ?_)) | (refine Kept.foldl_fst ?_ (fun _ _ _ => ?_))
    | (refine Kept.foldr ?_ (fun _ _ _ => ?_)) | split | rw [mk_put] | (refine MemKept.mk ?_ ?_)

theorem kept_execEthernetLinkLost {e0_ : State} (port : Nat) (s : State) (h_s : Kept e0_ s) : OutcomeKept e0_ (execEthernetLinkLost port s) := by
  unfold execEthernetLinkLost
  repeat' with_reducible first
    | assumption | exact Kept.refl _ | apply Kept.id_of | apply kept_netDown | apply OutcomeKept.answer
    | (refine PrepKept.mk (fun _ _ _ _ _ => ?_) (fun _ _ _ _ _ _ _ => ?_)) | apply OptKept.getD | (fail_if_no_progress beta_reduce)
    | split

theorem kept_ethernetUpOp {e0_ : State} (port : Nat) (s : State) (h_s : Kept e0_ s) : Kept e0_ (ethernetUpOp port s) := by
  unfold ethernetUpOp
  repeat' with_reducible first
    | assumption | apply kept_setPortLive | apply kept_setNetPort | (fail_if_no_progress beta_reduce) | split

theorem kept_execEthernetLinkUp {e0_ : State} (port : Nat) (s : State) (h_s : Kept e0_ s) : OutcomeKept e0_ (execEthernetLinkUp port s) := by
  unfold execEthernetLinkUp
  repeat' with_reducible first
    | assumption | apply kept_ethernetUpOp | apply OutcomeKept.answer

theorem kept_requestOp {e0_ : State} (p : RdmaReq) (serve : State → Qp → Option State) (s : State) (h_s : Kept e0_ s)
    (hs : ∀ t q, Kept e0_ t → OptKept e0_ (serve t q)) : Kept e0_ (requestOp p serve s) := by
  unfold requestOp
  split
  · exact h_s
  · rename_i q hq
    have h1 := hs s q h_s
    split
    · exact h_s
    · split
      · exact h_s
      · rename_i t ht
        have h2 := OptKept.get ht h1
        split
        · exact kept_send _ _ h2
        · exact h2

theorem kept_replyTo {e0_ : State} (s : State) (p : RdmaReq) (ok : Bool) (data : List Byte) (h_s : Kept e0_ s) : Kept e0_ (replyTo s p ok data) := by
  unfold replyTo
  repeat' with_reducible first
    | assumption | apply kept_send | (fail_if_no_progress beta_reduce) | split

theorem kept_serveRdmaWrite {e0_ : State} (p : RdmaReq) (done : State → Qp → State) (s : State) (q : Qp) (h_s : Kept e0_ s)
    (hd : ∀ t q, Kept e0_ t → Kept e0_ (done t q)) : OptKept e0_ (serveRdmaWrite p done s q) := by
  unfold serveRdmaWrite
  repeat' with_reducible first
    | assumption | exact Kept.refl _ | apply Kept.id_of | exact VaultKept.refl _ | exact MemKept.refl _ | exact HostKept.refl _
    | exact VaultKept.upd | exact MemKept.mk id id | exact id | exact (fun w => memWrite_wf w _ _) | exact (fun w => memZero_wf w _ _)
    | exact (fun w => Memory.wf_filter _ w) | (apply hd) | apply kept_done | apply kept_netPut
    | (refine kept_netStopped _ _ _ ?_ (fun _ _ => ?_)) | apply kept_replyTo | exact OptKept.none | apply OptKept.some
    | apply OptKept.ite | (refine OptKept.map (fun _ _ => ?_)) | (refine OptKept.findSome (fun _ => ?_)) | apply OptKept.getD
    | apply Kept.put | apply Kept.ite | (refine Kept.foldl ?_ (fun _ _ _ => ?_)) | (refine Kept.foldl_fst ?_ (fun _ _ _ => ?_))
    | (refine Kept.foldr ?_ (fun _ _ _ => ?_)) | (refine OptKept.get (by assumption) ?_; apply kept_netStopped)
    | (fail_if_no_progress beta_reduce)
    | ((try lift_lets -underBinder); intro xx; first | (refine Kept.use (P := Kept e0_ xx) ?_ (fun hx => ?_); (on_goal 2 => clear_value xx); (on_goal 1 => subst xx)) | (refine Kept.use (P := OptKept e0_ xx) ?_ (fun hx => ?_); (on_goal 2 => clear_value xx); (on_goal 1 => subst xx)) | (refine Kept.use (P := Kept e0_ (Prod.fst (α := State) xx)) ?_ (fun hx => ?_); (on_goal 2 => clear_value xx); (on_goal 1 => subst xx)) | (refine Kept.use (P := Kept e0_ (Prod.snd (β := State) xx)) ?_ (fun hx => ?_); (on_goal 2 => clear_value xx); (on_goal 1 => subst xx)) | (refine Kept.use (P := OptFst e0_ xx) ?_ (fun hx => ?_); (on_goal 2 => clear_value xx); (on_goal 1 => subst xx)) | (refine Kept.use (P := ExcKept e0_ xx) ?_ (fun hx => ?_); (on_goal 2 => clear_value xx); (on_goal 1 => subst xx)) | (have yy : _ → _ := xx; clear yy; subst xx) | (have yy : Memories := xx; clear yy; subst xx) | (have yy : Vault := xx; clear yy; subst xx) | (have yy : HostEnv := xx; clear yy; subst xx) | clear_value xx)
    | split | rw [mk_put] | (refine MemKept.mk ?_ ?_)

theorem kept_execIncomingRdmaWrite {e0_ : State} (p : RdmaReq) (s : State) (h_s : Kept e0_ s) : OutcomeKept e0_ (execIncomingRdmaWrite p s) := by
  unfold execIncomingRdmaWrite
  repeat' with_reducible first
    | assumption | (refine kept_requestOp _ _ _ ?_ (fun _ _ _ => ?_)) | (refine kept_serveRdmaWrite _ _ _ _ ?_ (fun _ _ _ => ?_))
    | apply OutcomeKept.answer

theorem kept_postImmediate {e0_ : State} (p : RdmaReq) (s : State) (q : Qp) (h_s : Kept e0_ s) : Kept e0_ (postImmediate p s q) := by
  unfold postImmediate
  repeat' with_reducible first
    | assumption | exact Kept.refl _ | apply Kept.id_of | exact VaultKept.refl _ | exact MemKept.refl _ | exact HostKept.refl _
    | exact VaultKept.upd | exact MemKept.mk id id | exact id | exact (fun w => memWrite_wf w _ _) | exact (fun w => memZero_wf w _ _)
    | exact (fun w => Memory.wf_filter _ w) | apply kept_netPost | apply kept_awakeView | apply kept_ringTails | apply OptKept.getD
    | apply Kept.put | apply Kept.ite | (refine Kept.foldl ?_ (fun _ _ _ => ?_)) | (refine Kept.foldl_fst ?_ (fun _ _ _ => ?_))
    | (refine Kept.foldr ?_ (fun _ _ _ => ?_)) | (fail_if_no_progress beta_reduce)
    | ((try lift_lets -underBinder); intro xx; first | (refine Kept.use (P := Kept e0_ xx) ?_ (fun hx => ?_); (on_goal 2 => clear_value xx); (on_goal 1 => subst xx)) | (refine Kept.use (P := OptKept e0_ xx) ?_ (fun hx => ?_); (on_goal 2 => clear_value xx); (on_goal 1 => subst xx)) | (refine Kept.use (P := Kept e0_ (Prod.fst (α := State) xx)) ?_ (fun hx => ?_); (on_goal 2 => clear_value xx); (on_goal 1 => subst xx)) | (refine Kept.use (P := Kept e0_ (Prod.snd (β := State) xx)) ?_ (fun hx => ?_); (on_goal 2 => clear_value xx); (on_goal 1 => subst xx)) | (refine Kept.use (P := OptFst e0_ xx) ?_ (fun hx => ?_); (on_goal 2 => clear_value xx); (on_goal 1 => subst xx)) | (refine Kept.use (P := ExcKept e0_ xx) ?_ (fun hx => ?_); (on_goal 2 => clear_value xx); (on_goal 1 => subst xx)) | (have yy : _ → _ := xx; clear yy; subst xx) | (have yy : Memories := xx; clear yy; subst xx) | (have yy : Vault := xx; clear yy; subst xx) | (have yy : HostEnv := xx; clear yy; subst xx) | clear_value xx)
    | split | rw [mk_put] | (refine MemKept.mk ?_ ?_)

theorem kept_execIncomingWriteWithImmediate {e0_ : State} (p : RdmaReq) (s : State) (h_s : Kept e0_ s) : OutcomeKept e0_ (execIncomingWriteWithImmediate p s) := by
  unfold execIncomingWriteWithImmediate
  repeat' with_reducible first
    | assumption | (refine kept_requestOp _ _ _ ?_ (fun _ _ _ => ?_)) | (refine kept_serveRdmaWrite _ _ _ _ ?_ (fun _ _ _ => ?_))
    | apply kept_postImmediate | apply OutcomeKept.answer

theorem kept_serveRdmaRead {e0_ : State} (p : RdmaReq) (s : State) (_q : Qp) (h_s : Kept e0_ s) : OptKept e0_ (serveRdmaRead p s _q) := by
  unfold serveRdmaRead
  repeat' with_reducible first
    | assumption | (refine kept_netStopped _ _ _ ?_ (fun _ _ => ?_)) | apply kept_replyTo | exact OptKept.none | apply OptKept.some
    | apply OptKept.ite | (refine OptKept.map (fun _ _ => ?_)) | (refine OptKept.findSome (fun _ => ?_))
    | (fail_if_no_progress beta_reduce) | split

theorem kept_execIncomingRdmaRead {e0_ : State} (p : RdmaReq) (s : State) (h_s : Kept e0_ s) : OutcomeKept e0_ (execIncomingRdmaRead p s) := by
  unfold execIncomingRdmaRead
  repeat' with_reducible first
    | assumption | (refine kept_requestOp _ _ _ ?_ (fun _ _ _ => ?_)) | apply kept_serveRdmaRead | apply OutcomeKept.answer

theorem kept_execCongestionNotification {e0_ : State} (qp : Nat) (s : State) (h_s : Kept e0_ s) : OutcomeKept e0_ (execCongestionNotification qp s) := by
  unfold execCongestionNotification
  repeat' with_reducible first
    | assumption | exact Kept.refl _ | apply Kept.id_of | apply kept_putQp | apply OutcomeKept.answer
    | (refine PrepKept.mk (fun _ _ _ _ _ => ?_) (fun _ _ _ _ _ _ _ => ?_)) | apply OptKept.getD | (fail_if_no_progress beta_reduce)
    | split

theorem kept_execPriorityFlowControl {e0_ : State} (port : Nat) (classes : BitVec 8) (pause : Bool) (s : State) (h_s : Kept e0_ s) : OutcomeKept e0_ (execPriorityFlowControl port classes pause s) := by
  unfold execPriorityFlowControl
  repeat' with_reducible first
    | assumption | exact Kept.refl _ | apply Kept.id_of | apply kept_setNetPort | apply OutcomeKept.answer
    | (refine PrepKept.mk (fun _ _ _ _ _ => ?_) (fun _ _ _ _ _ _ _ => ?_)) | apply OptKept.getD | (fail_if_no_progress beta_reduce)
    | split

theorem kept_execArp {e0_ : State} (port senderIp targetIp senderMac : Nat) (s : State) (h_s : Kept e0_ s) : OutcomeKept e0_ (execArp port senderIp targetIp senderMac s) := by
  unfold execArp
  repeat' with_reducible first
    | assumption | exact Kept.refl _ | apply Kept.id_of | apply kept_send | apply OutcomeKept.answer
    | (refine PrepKept.mk (fun _ _ _ _ _ => ?_) (fun _ _ _ _ _ _ _ => ?_)) | apply OptKept.getD | (fail_if_no_progress beta_reduce)
    | split

theorem kept_execNeighbourDiscovery {e0_ : State} (port senderIp targetIp senderMac : Nat) (s : State) (h_s : Kept e0_ s) : OutcomeKept e0_ (execNeighbourDiscovery port senderIp targetIp senderMac s) := by
  unfold execNeighbourDiscovery
  repeat' with_reducible first
    | assumption | exact Kept.refl _ | apply Kept.id_of | apply kept_send | apply OutcomeKept.answer
    | (refine PrepKept.mk (fun _ _ _ _ _ => ?_) (fun _ _ _ _ _ _ _ => ?_)) | apply OptKept.getD | (fail_if_no_progress beta_reduce)
    | split

theorem kept_execIcmpEcho {e0_ : State} (port : Nat) (v6 : Bool) (senderIp targetIp : Nat) (data : List Byte) (s : State) (h_s : Kept e0_ s) : OutcomeKept e0_ (execIcmpEcho port v6 senderIp targetIp data s) := by
  unfold execIcmpEcho
  repeat' with_reducible first
    | assumption | exact Kept.refl _ | apply Kept.id_of | apply kept_send | apply OutcomeKept.answer
    | (refine PrepKept.mk (fun _ _ _ _ _ => ?_) (fun _ _ _ _ _ _ _ => ?_)) | apply OptKept.getD | (fail_if_no_progress beta_reduce)
    | split

end Sys2Proof.Laws
end

