-- ==== Sys2Proof/Laws/KeptPowers.lean ====
section
/-!
SUPPORT. Sys2Proof/Laws/KeptPowers.lean: what the operations of Machine/Powers.lean keep (Laws/Kept.lean).
-/

set_option linter.unusedTactic false
set_option linter.unreachableTactic false
set_option linter.unusedVariables false

namespace Sys2Proof.Laws

open Sys2Proof.Machine Sys2Proof.Safety

theorem kept_powerCommand {e0_ : State} (s : State) (a b c : Bool) (after : State) (then_ : State → State) (h_s : Kept e0_ s)
    (ht : Kept e0_ (then_ after)) : DoneKept e0_ (powerCommand s a b c after then_) := by
  unfold powerCommand
  repeat' with_reducible first
    | assumption | exact Kept.refl _ | apply Kept.id_of | exact VaultKept.refl _ | exact MemKept.refl _ | exact HostKept.refl _
    | exact VaultKept.upd | exact MemKept.mk id id | exact id | exact (fun w => memWrite_wf w _ _) | exact (fun w => memZero_wf w _ _)
    | exact (fun w => Memory.wf_filter _ w) | apply kept_done | apply kept_refuse | exact DoneKept.none | apply DoneKept.some
    | apply DoneKept.ite | apply OptKept.getD | apply Kept.put | apply Kept.ite | (refine Kept.foldl ?_ (fun _ _ _ => ?_))
    | (refine Kept.foldl_fst ?_ (fun _ _ _ => ?_)) | (refine Kept.foldr ?_ (fun _ _ _ => ?_)) | (fail_if_no_progress beta_reduce)
    | ((try lift_lets -underBinder); intro xx; first | (refine Kept.use (P := Kept e0_ xx) ?_ (fun hx => ?_); (on_goal 2 => clear_value xx); (on_goal 1 => subst xx)) | (refine Kept.use (P := OptKept e0_ xx) ?_ (fun hx => ?_); (on_goal 2 => clear_value xx); (on_goal 1 => subst xx)) | (refine Kept.use (P := Kept e0_ (Prod.fst (α := State) xx)) ?_ (fun hx => ?_); (on_goal 2 => clear_value xx); (on_goal 1 => subst xx)) | (refine Kept.use (P := Kept e0_ (Prod.snd (β := State) xx)) ?_ (fun hx => ?_); (on_goal 2 => clear_value xx); (on_goal 1 => subst xx)) | (refine Kept.use (P := OptFst e0_ xx) ?_ (fun hx => ?_); (on_goal 2 => clear_value xx); (on_goal 1 => subst xx)) | (refine Kept.use (P := ExcKept e0_ xx) ?_ (fun hx => ?_); (on_goal 2 => clear_value xx); (on_goal 1 => subst xx)) | (have yy : _ → _ := xx; clear yy; subst xx) | (have yy : Memories := xx; clear yy; subst xx) | (have yy : Vault := xx; clear yy; subst xx) | (have yy : HostEnv := xx; clear yy; subst xx) | clear_value xx)
    | split | rw [mk_put] | (refine MemKept.mk ?_ ?_)

theorem kept_powerSpec (code : Nat) (mine : List Byte → Bool) (len : Nat) (checks : List Byte → List MbCheck)
    (run : State → Nat → List Byte → Option MbDone) (h : ∀ e s port p, Kept e s → DoneKept e (run s port p)) : SpecKept (powerSpec code mine len checks run) := h

theorem kept_setLevel {e0_ : State} (level : Nat) (s : State) (r : Nat) (h_s : Kept e0_ s) : Kept e0_ (setLevel level s r) := by
  unfold setLevel
  repeat' with_reducible first
    | assumption | exact Kept.refl _ | apply Kept.id_of | exact VaultKept.refl _ | exact MemKept.refl _ | exact HostKept.refl _
    | exact VaultKept.upd | exact MemKept.mk id id | exact id | exact (fun w => memWrite_wf w _ _) | exact (fun w => memZero_wf w _ _)
    | exact (fun w => Memory.wf_filter _ w) | apply OptKept.getD | apply Kept.put | (fail_if_no_progress beta_reduce)
    | (refine Kept.foldl ?_ (fun _ _ _ => ?_)) | (refine Kept.foldl_fst ?_ (fun _ _ _ => ?_)) | (refine Kept.foldr ?_ (fun _ _ _ => ?_))
    | split | rw [mk_put] | (refine MemKept.mk ?_ ?_)

theorem kept_levelRun {e0_ : State} (s : State) (u1_ : Nat) (p : List Byte) (h_s : Kept e0_ s) : DoneKept e0_ (levelRun s u1_ p) := by
  unfold levelRun
  repeat' with_reducible first
    | assumption | exact Kept.refl _ | apply Kept.id_of | exact VaultKept.refl _ | exact MemKept.refl _ | exact HostKept.refl _
    | exact VaultKept.upd | exact MemKept.mk id id | exact id | exact (fun w => memWrite_wf w _ _) | exact (fun w => memZero_wf w _ _)
    | exact (fun w => Memory.wf_filter _ w) | apply kept_resizeAnte | apply kept_powerCommand | apply kept_setLevel
    | exact DoneKept.none | apply DoneKept.some | apply DoneKept.ite | apply OptKept.getD | apply Kept.put
    | (fail_if_no_progress beta_reduce) | (refine Kept.foldl ?_ (fun _ _ _ => ?_)) | (refine Kept.foldl_fst ?_ (fun _ _ _ => ?_))
    | (refine Kept.foldr ?_ (fun _ _ _ => ?_)) | split | rw [mk_put] | (refine MemKept.mk ?_ ?_)

theorem kept_levelSpec   : SpecKept (levelSpec) := by
  intro e0_ s port p h
  unfold levelSpec
  repeat' with_reducible first
    | assumption | (refine SpecKept.run (kept_powerSpec _ _ _ _ _ (fun _ _ _ _ _ => ?_)) ?_) | apply kept_levelRun | exact DoneKept.none
    | apply DoneKept.some | apply DoneKept.ite | (fail_if_no_progress beta_reduce) | split

theorem kept_execMbPwrLevel {e0_ : State} (rq : MbReq) (s : State) (h_s : Kept e0_ s) : OutcomeKept e0_ (execMbPwrLevel rq s) := by
  unfold execMbPwrLevel
  repeat' with_reducible first
    | assumption | apply kept_mbOp | exact kept_levelSpec | apply kept_levelSpec | apply OutcomeKept.answer

theorem kept_gateRun {e0_ : State} (gate : Bool) (s : State) (u2_ : Nat) (p : List Byte) (h_s : Kept e0_ s) : DoneKept e0_ (gateRun gate s u2_ p) := by
  unfold gateRun
  repeat' with_reducible first
    | assumption | exact Kept.refl _ | apply Kept.id_of | exact VaultKept.refl _ | exact MemKept.refl _ | exact HostKept.refl _
    | exact VaultKept.upd | exact MemKept.mk id id | exact id | exact (fun w => memWrite_wf w _ _) | exact (fun w => memZero_wf w _ _)
    | exact (fun w => Memory.wf_filter _ w) | apply kept_resizeAnte | apply kept_powerCommand | exact DoneKept.none
    | apply DoneKept.some | apply DoneKept.ite | apply OptKept.getD | apply Kept.put | (fail_if_no_progress beta_reduce)
    | (refine Kept.foldl ?_ (fun _ _ _ => ?_)) | (refine Kept.foldl_fst ?_ (fun _ _ _ => ?_)) | (refine Kept.foldr ?_ (fun _ _ _ => ?_))
    | split | rw [mk_put] | (refine MemKept.mk ?_ ?_)

theorem kept_gateSpec (gate : Bool)  : SpecKept (gateSpec gate) := by
  intro e0_ s port p h
  unfold gateSpec
  repeat' with_reducible first
    | assumption | (refine SpecKept.run (kept_powerSpec _ _ _ _ _ (fun _ _ _ _ _ => ?_)) ?_) | apply kept_gateRun | exact DoneKept.none
    | apply DoneKept.some | apply DoneKept.ite | (fail_if_no_progress beta_reduce) | split

theorem kept_execMbPwrGate {e0_ : State} (rq : MbReq) (s : State) (h_s : Kept e0_ s) : OutcomeKept e0_ (execMbPwrGate rq s) := by
  unfold execMbPwrGate
  repeat' with_reducible first
    | assumption | apply kept_mbOp | exact kept_gateSpec | apply kept_gateSpec | apply OutcomeKept.answer

theorem kept_execMbPwrUngate {e0_ : State} (rq : MbReq) (s : State) (h_s : Kept e0_ s) : OutcomeKept e0_ (execMbPwrUngate rq s) := by
  unfold execMbPwrUngate
  repeat' with_reducible first
    | assumption | apply kept_mbOp | exact kept_gateSpec | apply kept_gateSpec | apply OutcomeKept.answer

theorem kept_stackRun {e0_ : State} (sr : Bool) (s : State) (u2_ : Nat) (p : List Byte) (h_s : Kept e0_ s) : DoneKept e0_ (stackRun sr s u2_ p) := by
  unfold stackRun
  repeat' with_reducible first
    | assumption | exact Kept.refl _ | apply Kept.id_of | exact VaultKept.refl _ | exact MemKept.refl _ | exact HostKept.refl _
    | exact VaultKept.upd | exact MemKept.mk id id | exact id | exact (fun w => memWrite_wf w _ _) | exact (fun w => memZero_wf w _ _)
    | exact (fun w => Memory.wf_filter _ w) | apply kept_powerCommand | exact DoneKept.none | apply DoneKept.some | apply DoneKept.ite
    | apply OptKept.getD | apply Kept.put | (fail_if_no_progress beta_reduce) | (refine Kept.foldl ?_ (fun _ _ _ => ?_))
    | (refine Kept.foldl_fst ?_ (fun _ _ _ => ?_)) | (refine Kept.foldr ?_ (fun _ _ _ => ?_)) | split | rw [mk_put]
    | (refine MemKept.mk ?_ ?_)

theorem kept_stackSpec (sr : Bool)  : SpecKept (stackSpec sr) := by
  intro e0_ s port p h
  unfold stackSpec
  repeat' with_reducible first
    | assumption | (refine SpecKept.run (kept_powerSpec _ _ _ _ _ (fun _ _ _ _ _ => ?_)) ?_) | apply kept_stackRun | exact DoneKept.none
    | apply DoneKept.some | apply DoneKept.ite | (fail_if_no_progress beta_reduce) | split

theorem kept_execMbPwrStackActive {e0_ : State} (rq : MbReq) (s : State) (h_s : Kept e0_ s) : OutcomeKept e0_ (execMbPwrStackActive rq s) := by
  unfold execMbPwrStackActive
  repeat' with_reducible first
    | assumption | apply kept_mbOp | exact kept_stackSpec | apply kept_stackSpec | apply OutcomeKept.answer

theorem kept_execMbPwrStackSelfRefresh {e0_ : State} (rq : MbReq) (s : State) (h_s : Kept e0_ s) : OutcomeKept e0_ (execMbPwrStackSelfRefresh rq s) := by
  unfold execMbPwrStackSelfRefresh
  repeat' with_reducible first
    | assumption | apply kept_mbOp | exact kept_stackSpec | apply kept_stackSpec | apply OutcomeKept.answer

theorem kept_vaultRun {e0_ : State} (standby : Bool) (s : State) (u2_ : Nat) (u3_ : List Byte) (h_s : Kept e0_ s) : DoneKept e0_ (vaultRun standby s u2_ u3_) := by
  unfold vaultRun
  repeat' with_reducible first
    | assumption | exact Kept.refl _ | apply Kept.id_of | exact VaultKept.refl _ | exact MemKept.refl _ | exact HostKept.refl _
    | exact VaultKept.upd | exact MemKept.mk id id | exact id | exact (fun w => memWrite_wf w _ _) | exact (fun w => memZero_wf w _ _)
    | exact (fun w => Memory.wf_filter _ w) | apply kept_powerCommand | exact DoneKept.none | apply DoneKept.some | apply DoneKept.ite
    | apply OptKept.getD | apply Kept.put | (fail_if_no_progress beta_reduce) | (refine Kept.foldl ?_ (fun _ _ _ => ?_))
    | (refine Kept.foldl_fst ?_ (fun _ _ _ => ?_)) | (refine Kept.foldr ?_ (fun _ _ _ => ?_)) | split | rw [mk_put]
    | (refine MemKept.mk ?_ ?_)

theorem kept_vaultPowerSpec (standby : Bool)  : SpecKept (vaultPowerSpec standby) := by
  intro e0_ s port p h
  unfold vaultPowerSpec
  repeat' with_reducible first
    | assumption | (refine SpecKept.run (kept_powerSpec _ _ _ _ _ (fun _ _ _ _ _ => ?_)) ?_) | apply kept_vaultRun | exact DoneKept.none
    | apply DoneKept.some | apply DoneKept.ite | (fail_if_no_progress beta_reduce) | split

theorem kept_execMbPwrVaultActive {e0_ : State} (rq : MbReq) (s : State) (h_s : Kept e0_ s) : OutcomeKept e0_ (execMbPwrVaultActive rq s) := by
  unfold execMbPwrVaultActive
  repeat' with_reducible first
    | assumption | apply kept_mbOp | exact kept_vaultPowerSpec | apply kept_vaultPowerSpec | apply OutcomeKept.answer

theorem kept_execMbPwrVaultStandby {e0_ : State} (rq : MbReq) (s : State) (h_s : Kept e0_ s) : OutcomeKept e0_ (execMbPwrVaultStandby rq s) := by
  unfold execMbPwrVaultStandby
  repeat' with_reducible first
    | assumption | apply kept_mbOp | exact kept_vaultPowerSpec | apply kept_vaultPowerSpec | apply OutcomeKept.answer

theorem kept_setLanes {e0_ : State} (awake : Nat) (s : State) (p : Nat) (h_s : Kept e0_ s) : Kept e0_ (setLanes awake s p) := by
  unfold setLanes
  repeat' with_reducible first
    | assumption | exact Kept.refl _ | apply Kept.id_of | exact VaultKept.refl _ | exact MemKept.refl _ | exact HostKept.refl _
    | exact VaultKept.upd | exact MemKept.mk id id | exact id | exact (fun w => memWrite_wf w _ _) | exact (fun w => memZero_wf w _ _)
    | exact (fun w => Memory.wf_filter _ w) | apply OptKept.getD | apply Kept.put | (fail_if_no_progress beta_reduce)
    | (refine Kept.foldl ?_ (fun _ _ _ => ?_)) | (refine Kept.foldl_fst ?_ (fun _ _ _ => ?_)) | (refine Kept.foldr ?_ (fun _ _ _ => ?_))
    | split | rw [mk_put] | (refine MemKept.mk ?_ ?_)

theorem kept_relane {e0_ : State} (before : State) (awake : Nat) (s : State) (p : Nat) (h_before : Kept e0_ before) (h_s : Kept e0_ s) : Kept e0_ (relane before awake s p) := by
  unfold relane
  repeat' with_reducible first
    | assumption | exact Kept.refl _ | apply Kept.id_of | exact VaultKept.refl _ | exact MemKept.refl _ | exact HostKept.refl _
    | exact VaultKept.upd | exact MemKept.mk id id | exact id | exact (fun w => memWrite_wf w _ _) | exact (fun w => memZero_wf w _ _)
    | exact (fun w => Memory.wf_filter _ w) | apply kept_portDownOp | apply kept_send | apply OptKept.getD | apply Kept.put
    | apply Kept.ite | (refine Kept.foldl ?_ (fun _ _ _ => ?_)) | (refine Kept.foldl_fst ?_ (fun _ _ _ => ?_))
    | (refine Kept.foldr ?_ (fun _ _ _ => ?_)) | (fail_if_no_progress beta_reduce)
    | ((try lift_lets -underBinder); intro xx; first | (refine Kept.use (P := Kept e0_ xx) ?_ (fun hx => ?_); (on_goal 2 => clear_value xx); (on_goal 1 => subst xx)) | (refine Kept.use (P := OptKept e0_ xx) ?_ (fun hx => ?_); (on_goal 2 => clear_value xx); (on_goal 1 => subst xx)) | (refine Kept.use (P := Kept e0_ (Prod.fst (α := State) xx)) ?_ (fun hx => ?_); (on_goal 2 => clear_value xx); (on_goal 1 => subst xx)) | (refine Kept.use (P := Kept e0_ (Prod.snd (β := State) xx)) ?_ (fun hx => ?_); (on_goal 2 => clear_value xx); (on_goal 1 => subst xx)) | (refine Kept.use (P := OptFst e0_ xx) ?_ (fun hx => ?_); (on_goal 2 => clear_value xx); (on_goal 1 => subst xx)) | (refine Kept.use (P := ExcKept e0_ xx) ?_ (fun hx => ?_); (on_goal 2 => clear_value xx); (on_goal 1 => subst xx)) | (have yy : _ → _ := xx; clear yy; subst xx) | (have yy : Memories := xx; clear yy; subst xx) | (have yy : Vault := xx; clear yy; subst xx) | (have yy : HostEnv := xx; clear yy; subst xx) | clear_value xx)
    | split | rw [mk_put] | (refine MemKept.mk ?_ ?_)

theorem kept_lanesRun {e0_ : State} (s : State) (u1_ : Nat) (p : List Byte) (h_s : Kept e0_ s) : DoneKept e0_ (lanesRun s u1_ p) := by
  unfold lanesRun
  repeat' with_reducible first
    | assumption | exact Kept.refl _ | apply Kept.id_of | exact VaultKept.refl _ | exact MemKept.refl _ | exact HostKept.refl _
    | exact VaultKept.upd | exact MemKept.mk id id | exact id | exact (fun w => memWrite_wf w _ _) | exact (fun w => memZero_wf w _ _)
    | exact (fun w => Memory.wf_filter _ w) | apply kept_powerCommand | apply kept_setLanes | apply kept_relane | exact DoneKept.none
    | apply DoneKept.some | apply DoneKept.ite | apply OptKept.getD | apply Kept.put | (fail_if_no_progress beta_reduce)
    | (refine Kept.foldl ?_ (fun _ _ _ => ?_)) | (refine Kept.foldl_fst ?_ (fun _ _ _ => ?_)) | (refine Kept.foldr ?_ (fun _ _ _ => ?_))
    | split | rw [mk_put] | (refine MemKept.mk ?_ ?_)

theorem kept_lanesSpec   : SpecKept (lanesSpec) := by
  intro e0_ s port p h
  unfold lanesSpec
  repeat' with_reducible first
    | assumption | (refine SpecKept.run (kept_powerSpec _ _ _ _ _ (fun _ _ _ _ _ => ?_)) ?_) | apply kept_lanesRun | exact DoneKept.none
    | apply DoneKept.some | apply DoneKept.ite | (fail_if_no_progress beta_reduce) | split

theorem kept_execMbPwrLanes {e0_ : State} (rq : MbReq) (s : State) (h_s : Kept e0_ s) : OutcomeKept e0_ (execMbPwrLanes rq s) := by
  unfold execMbPwrLanes
  repeat' with_reducible first
    | assumption | apply kept_mbOp | exact kept_lanesSpec | apply kept_lanesSpec | apply OutcomeKept.answer

theorem kept_portDown {e0_ : State} (s : State) (i : Nat) (h_s : Kept e0_ s) : Kept e0_ (portDown s i) := by
  unfold portDown
  repeat' with_reducible first
    | assumption | apply kept_send | apply kept_farDownOp | apply kept_netDown | (fail_if_no_progress beta_reduce) | split

theorem kept_portUp {e0_ : State} (s : State) (i : Nat) (h_s : Kept e0_ s) : Kept e0_ (portUp s i) := by
  unfold portUp
  repeat' with_reducible first
    | assumption | exact Kept.refl _ | apply Kept.id_of | exact VaultKept.refl _ | exact MemKept.refl _ | exact HostKept.refl _
    | exact VaultKept.upd | exact MemKept.mk id id | exact id | exact (fun w => memWrite_wf w _ _) | exact (fun w => memZero_wf w _ _)
    | exact (fun w => Memory.wf_filter _ w) | apply kept_send | apply OptKept.getD | apply Kept.put | (fail_if_no_progress beta_reduce)
    | (refine Kept.foldl ?_ (fun _ _ _ => ?_)) | (refine Kept.foldl_fst ?_ (fun _ _ _ => ?_)) | (refine Kept.foldr ?_ (fun _ _ _ => ?_))
    | split | rw [mk_put] | (refine MemKept.mk ?_ ?_)

theorem kept_portRun {e0_ : State} (down : Bool) (s : State) (u2_ : Nat) (p : List Byte) (h_s : Kept e0_ s) : DoneKept e0_ (portRun down s u2_ p) := by
  unfold portRun
  repeat' with_reducible first
    | assumption | exact Kept.refl _ | apply Kept.id_of | exact VaultKept.refl _ | exact MemKept.refl _ | exact HostKept.refl _
    | exact VaultKept.upd | exact MemKept.mk id id | exact id | exact (fun w => memWrite_wf w _ _) | exact (fun w => memZero_wf w _ _)
    | exact (fun w => Memory.wf_filter _ w) | apply kept_powerCommand | apply kept_portDown | apply kept_portUp | exact DoneKept.none
    | apply DoneKept.some | apply DoneKept.ite | apply OptKept.getD | apply Kept.put | (fail_if_no_progress beta_reduce)
    | (refine Kept.foldl ?_ (fun _ _ _ => ?_)) | (refine Kept.foldl_fst ?_ (fun _ _ _ => ?_)) | (refine Kept.foldr ?_ (fun _ _ _ => ?_))
    | split | rw [mk_put] | (refine MemKept.mk ?_ ?_)

theorem kept_portSpec (down : Bool)  : SpecKept (portSpec down) := by
  intro e0_ s port p h
  unfold portSpec
  repeat' with_reducible first
    | assumption | (refine SpecKept.run (kept_powerSpec _ _ _ _ _ (fun _ _ _ _ _ => ?_)) ?_) | apply kept_portRun | exact DoneKept.none
    | apply DoneKept.some | apply DoneKept.ite | (fail_if_no_progress beta_reduce) | split

theorem kept_execMbPwrPortUp {e0_ : State} (rq : MbReq) (s : State) (h_s : Kept e0_ s) : OutcomeKept e0_ (execMbPwrPortUp rq s) := by
  unfold execMbPwrPortUp
  repeat' with_reducible first
    | assumption | apply kept_mbOp | exact kept_portSpec | apply kept_portSpec | apply OutcomeKept.answer

theorem kept_execMbPwrPortDown {e0_ : State} (rq : MbReq) (s : State) (h_s : Kept e0_ s) : OutcomeKept e0_ (execMbPwrPortDown rq s) := by
  unfold execMbPwrPortDown
  repeat' with_reducible first
    | assumption | apply kept_mbOp | exact kept_portSpec | apply kept_portSpec | apply OutcomeKept.answer

theorem kept_capRun {e0_ : State} (s : State) (u1_ : Nat) (p : List Byte) (h_s : Kept e0_ s) : DoneKept e0_ (capRun s u1_ p) := by
  unfold capRun
  repeat' with_reducible first
    | assumption | exact Kept.refl _ | apply Kept.id_of | exact VaultKept.refl _ | exact MemKept.refl _ | exact HostKept.refl _
    | exact VaultKept.upd | exact MemKept.mk id id | exact id | exact (fun w => memWrite_wf w _ _) | exact (fun w => memZero_wf w _ _)
    | exact (fun w => Memory.wf_filter _ w) | apply kept_done | apply kept_refuse | exact DoneKept.none | apply DoneKept.some
    | apply DoneKept.ite | apply OptKept.getD | apply Kept.put | (fail_if_no_progress beta_reduce)
    | (refine Kept.foldl ?_ (fun _ _ _ => ?_)) | (refine Kept.foldl_fst ?_ (fun _ _ _ => ?_)) | (refine Kept.foldr ?_ (fun _ _ _ => ?_))
    | split | rw [mk_put] | (refine MemKept.mk ?_ ?_)

theorem kept_capSpec   : SpecKept (capSpec) := by
  intro e0_ s port p h
  unfold capSpec
  repeat' with_reducible first
    | assumption | apply kept_capRun | exact DoneKept.none | apply DoneKept.some | apply DoneKept.ite
    | (fail_if_no_progress beta_reduce) | split

theorem kept_execMbPwrCap {e0_ : State} (rq : MbReq) (s : State) (h_s : Kept e0_ s) : OutcomeKept e0_ (execMbPwrCap rq s) := by
  unfold execMbPwrCap
  repeat' with_reducible first
    | assumption | apply kept_mbOp | exact kept_capSpec | apply kept_capSpec | apply OutcomeKept.answer

theorem kept_wakeRegion {e0_ : State} (s : State) (r : Nat) (h_s : Kept e0_ s) : Kept e0_ (wakeRegion s r) := by
  have hz : Kept e0_ ([2 * r, 2 * r + 1].foldl (fun s c => zeroMem s (clusterBase + c * clusterStride) clusterStride) s) :=
    Kept.foldl h_s fun t c ht => kept_zeroMem _ _ _ ht
  unfold wakeRegion
  refine ⟨hz.vault, ⟨hz.memories.mem, fun w => ?_⟩, hz.host0, hz.host1, hz.pending⟩
  exact mem_foldl (h_s.memories.areas w) fun m n hm => memZero_wf hm _ _

theorem kept_settleRegion {e0_ : State} (s : State) (r : Nat) (h_s : Kept e0_ s) : Kept e0_ (settleRegion s r) := by
  unfold settleRegion
  repeat' with_reducible first
    | assumption | exact Kept.refl _ | apply Kept.id_of | exact VaultKept.refl _ | exact MemKept.refl _ | exact HostKept.refl _
    | exact VaultKept.upd | exact MemKept.mk id id | exact id | exact (fun w => memWrite_wf w _ _) | exact (fun w => memZero_wf w _ _)
    | exact (fun w => Memory.wf_filter _ w) | apply kept_resizeAnte | apply kept_wakeRegion | apply OptKept.getD | apply Kept.put
    | apply Kept.ite | (refine Kept.foldl ?_ (fun _ _ _ => ?_)) | (refine Kept.foldl_fst ?_ (fun _ _ _ => ?_))
    | (refine Kept.foldr ?_ (fun _ _ _ => ?_)) | (fail_if_no_progress beta_reduce)
    | ((try lift_lets -underBinder); intro xx; first | (refine Kept.use (P := Kept e0_ xx) ?_ (fun hx => ?_); (on_goal 2 => clear_value xx); (on_goal 1 => subst xx)) | clear_value xx)
    | split | rw [mk_put] | (refine MemKept.mk ?_ ?_)

theorem kept_settleEngine {e0_ : State} (s : State) (n : Nat) (h_s : Kept e0_ s) : Kept e0_ (settleEngine s n) := by
  unfold settleEngine
  repeat' with_reducible first
    | assumption | exact Kept.refl _ | apply Kept.id_of | exact VaultKept.refl _ | exact MemKept.refl _ | exact HostKept.refl _
    | exact VaultKept.upd | exact MemKept.mk id id | exact id | exact (fun w => memWrite_wf w _ _) | exact (fun w => memZero_wf w _ _)
    | exact (fun w => Memory.wf_filter _ w) | apply kept_resizeAnte | apply OptKept.getD | apply Kept.put | apply Kept.ite
    | (refine Kept.foldl ?_ (fun _ _ _ => ?_)) | (refine Kept.foldl_fst ?_ (fun _ _ _ => ?_)) | (refine Kept.foldr ?_ (fun _ _ _ => ?_))
    | (fail_if_no_progress beta_reduce)
    | ((try lift_lets -underBinder); intro xx; first | (refine Kept.use (P := Kept e0_ xx) ?_ (fun hx => ?_); (on_goal 2 => clear_value xx); (on_goal 1 => subst xx)) | clear_value xx)
    | split | rw [mk_put] | (refine MemKept.mk ?_ ?_)

theorem kept_settledOp {e0_ : State} (kind index : Nat) (s : State) (h_s : Kept e0_ s) : Kept e0_ (settledOp kind index s) := by
  unfold settledOp
  repeat' with_reducible first
    | assumption | exact Kept.refl _ | apply Kept.id_of | exact VaultKept.refl _ | exact MemKept.refl _ | exact HostKept.refl _
    | exact VaultKept.upd | exact MemKept.mk id id | exact id | exact (fun w => memWrite_wf w _ _) | exact (fun w => memZero_wf w _ _)
    | exact (fun w => Memory.wf_filter _ w) | apply kept_settleRegion | apply kept_settleEngine | apply OptKept.getD | apply Kept.put
    | (fail_if_no_progress beta_reduce) | (refine Kept.foldl ?_ (fun _ _ _ => ?_)) | (refine Kept.foldl_fst ?_ (fun _ _ _ => ?_))
    | (refine Kept.foldr ?_ (fun _ _ _ => ?_)) | split | rw [mk_put] | (refine MemKept.mk ?_ ?_)

theorem kept_execPowerTransitionSettled {e0_ : State} (kind index : Nat) (s : State) (h_s : Kept e0_ s) : OutcomeKept e0_ (execPowerTransitionSettled kind index s) := by
  unfold execPowerTransitionSettled
  repeat' with_reducible first
    | assumption | apply kept_settledOp | apply OutcomeKept.answer

theorem kept_telemSpec   : SpecKept (telemSpec) := by
  intro e0_ s port p h
  unfold telemSpec
  repeat' with_reducible first
    | assumption | apply kept_done | exact DoneKept.none | apply DoneKept.some | apply DoneKept.ite | (fail_if_no_progress beta_reduce)
    | split

theorem kept_execMbTelemRead {e0_ : State} (rq : MbReq) (s : State) (h_s : Kept e0_ s) : OutcomeKept e0_ (execMbTelemRead rq s) := by
  unfold execMbTelemRead
  repeat' with_reducible first
    | assumption | apply kept_mbOp | exact kept_telemSpec | apply kept_telemSpec | apply OutcomeKept.answer

theorem kept_setWarned {e0_ : State} (s : State) (l : List (Nat × Nat)) (h_s : Kept e0_ s) : Kept e0_ (setWarned s l) := by
  unfold setWarned
  repeat' with_reducible first
    | assumption | exact Kept.refl _ | apply Kept.id_of | exact VaultKept.refl _ | exact MemKept.refl _ | exact HostKept.refl _
    | exact VaultKept.upd | exact MemKept.mk id id | exact id | exact (fun w => memWrite_wf w _ _) | exact (fun w => memZero_wf w _ _)
    | exact (fun w => Memory.wf_filter _ w) | apply OptKept.getD | apply Kept.put | (fail_if_no_progress beta_reduce)
    | (refine Kept.foldl ?_ (fun _ _ _ => ?_)) | (refine Kept.foldl_fst ?_ (fun _ _ _ => ?_)) | (refine Kept.foldr ?_ (fun _ _ _ => ?_))
    | split | rw [mk_put] | (refine MemKept.mk ?_ ?_)

theorem kept_thermalWarnOp {e0_ : State} (sensor index : Nat) (reading : Int) (s : State) (h_s : Kept e0_ s) : Kept e0_ (thermalWarnOp sensor index reading s) := by
  unfold thermalWarnOp
  repeat' with_reducible first
    | assumption | exact Kept.refl _ | apply Kept.id_of | exact VaultKept.refl _ | exact MemKept.refl _ | exact HostKept.refl _
    | exact VaultKept.upd | exact MemKept.mk id id | exact id | exact (fun w => memWrite_wf w _ _) | exact (fun w => memZero_wf w _ _)
    | exact (fun w => Memory.wf_filter _ w) | apply kept_raiseEvent | apply kept_setWarned | apply OptKept.getD | apply Kept.put
    | apply Kept.ite | (refine Kept.foldl ?_ (fun _ _ _ => ?_)) | (refine Kept.foldl_fst ?_ (fun _ _ _ => ?_))
    | (refine Kept.foldr ?_ (fun _ _ _ => ?_)) | (fail_if_no_progress beta_reduce)
    | ((try lift_lets -underBinder); intro xx; first | (refine Kept.use (P := Kept e0_ xx) ?_ (fun hx => ?_); (on_goal 2 => clear_value xx); (on_goal 1 => subst xx)) | clear_value xx)
    | split | rw [mk_put] | (refine MemKept.mk ?_ ?_)

theorem kept_execThermalWarn {e0_ : State} (sensor index : Nat) (reading : Int) (s : State) (h_s : Kept e0_ s) : OutcomeKept e0_ (execThermalWarn sensor index reading s) := by
  unfold execThermalWarn
  repeat' with_reducible first
    | assumption | apply kept_thermalWarnOp | apply OutcomeKept.answer

theorem kept_telemetryWindowOp {e0_ : State} (rd : Readings) (s : State) (h_s : Kept e0_ s) : Kept e0_ (telemetryWindowOp rd s) := by
  unfold telemetryWindowOp
  repeat' with_reducible first
    | assumption | exact Kept.refl _ | apply Kept.id_of | exact VaultKept.refl _ | exact MemKept.refl _ | exact HostKept.refl _
    | exact VaultKept.upd | exact MemKept.mk id id | exact id | exact (fun w => memWrite_wf w _ _) | exact (fun w => memZero_wf w _ _)
    | exact (fun w => Memory.wf_filter _ w) | apply OptKept.getD | apply Kept.put | (fail_if_no_progress beta_reduce)
    | (refine Kept.foldl ?_ (fun _ _ _ => ?_)) | (refine Kept.foldl_fst ?_ (fun _ _ _ => ?_)) | (refine Kept.foldr ?_ (fun _ _ _ => ?_))
    | split | rw [mk_put] | (refine MemKept.mk ?_ ?_)

theorem kept_execTelemetryWindow {e0_ : State} (rd : Readings) (s : State) (h_s : Kept e0_ s) : OutcomeKept e0_ (execTelemetryWindow rd s) := by
  unfold execTelemetryWindow
  repeat' with_reducible first
    | assumption | apply kept_telemetryWindowOp | apply OutcomeKept.answer

theorem kept_protectiveStopOp {e0_ : State} (sensor index : Nat) (reading : Int) (s : State) (h_s : Kept e0_ s) : Kept e0_ (protectiveStopOp sensor index reading s) := by
  unfold protectiveStopOp
  repeat' with_reducible first
    | assumption | apply kept_raiseEverywhere | apply kept_fatal | apply kept_failStart | (fail_if_no_progress beta_reduce) | split

theorem kept_execProtectiveStop {e0_ : State} (sensor index : Nat) (reading : Int) (s : State) (h_s : Kept e0_ s) : OutcomeKept e0_ (execProtectiveStop sensor index reading s) := by
  unfold execProtectiveStop
  repeat' with_reducible first
    | assumption | apply kept_protectiveStopOp | apply OutcomeKept.answer

end Sys2Proof.Laws
end

