-- ==== Sys2Proof/Laws/KeptSide.lean ====
section
/-!
SUPPORT. Sys2Proof/Laws/KeptSide.lean: what the operations of Machine/Side.lean keep (Laws/Kept.lean).
-/

set_option linter.unusedTactic false
set_option linter.unreachableTactic false
set_option linter.unusedVariables false

namespace Sys2Proof.Laws

open Sys2Proof.Machine Sys2Proof.Safety

theorem kept_setSide {e0_ : State} (s : State) (x : Sideband) (h_s : Kept e0_ s) : Kept e0_ (setSide s x) := by
  unfold setSide
  repeat' with_reducible first
    | assumption | exact Kept.refl _ | apply Kept.id_of | exact VaultKept.refl _ | exact MemKept.refl _ | exact HostKept.refl _
    | exact VaultKept.upd | exact MemKept.mk id id | exact id | exact (fun w => memWrite_wf w _ _) | exact (fun w => memZero_wf w _ _)
    | exact (fun w => Memory.wf_filter _ w) | apply OptKept.getD | apply Kept.put | (fail_if_no_progress beta_reduce)
    | (refine Kept.foldl ?_ (fun _ _ _ => ?_)) | (refine Kept.foldl_fst ?_ (fun _ _ _ => ?_)) | (refine Kept.foldr ?_ (fun _ _ _ => ?_))
    | split | rw [mk_put] | (refine MemKept.mk ?_ ?_)

theorem kept_execI3cSetdasa {e0_ : State} (static dynamic : Nat) (s : State) (h_s : Kept e0_ s) : OutcomeKept e0_ (execI3cSetdasa static dynamic s) := by
  unfold execI3cSetdasa
  repeat' with_reducible first
    | assumption | exact Kept.refl _ | apply Kept.id_of | apply kept_setSide | apply OutcomeKept.answer
    | (refine PrepKept.mk (fun _ _ _ _ _ => ?_) (fun _ _ _ _ _ _ _ => ?_)) | apply OptKept.getD | (fail_if_no_progress beta_reduce)
    | split

theorem kept_execI3cEntdaa {e0_ : State} (dynamic : Nat) (s : State) (h_s : Kept e0_ s) : OutcomeKept e0_ (execI3cEntdaa dynamic s) := by
  unfold execI3cEntdaa
  repeat' with_reducible first
    | assumption | exact Kept.refl _ | apply Kept.id_of | apply kept_send | apply kept_setSide | apply OutcomeKept.answer
    | (refine PrepKept.mk (fun _ _ _ _ _ => ?_) (fun _ _ _ _ _ _ _ => ?_)) | apply OptKept.getD | (fail_if_no_progress beta_reduce)
    | split

theorem kept_execI3cGetstatus {e0_ : State} (s : State) (h_s : Kept e0_ s) : OutcomeKept e0_ (execI3cGetstatus s) := by
  unfold execI3cGetstatus
  repeat' with_reducible first
    | assumption | exact Kept.refl _ | apply Kept.id_of | apply kept_send | apply OutcomeKept.answer
    | (refine PrepKept.mk (fun _ _ _ _ _ => ?_) (fun _ _ _ _ _ _ _ => ?_)) | apply OptKept.getD | (fail_if_no_progress beta_reduce)
    | split

theorem kept_execI3cGetpid {e0_ : State} (s : State) (h_s : Kept e0_ s) : OutcomeKept e0_ (execI3cGetpid s) := by
  unfold execI3cGetpid
  repeat' with_reducible first
    | assumption | exact Kept.refl _ | apply Kept.id_of | apply kept_send | apply OutcomeKept.answer
    | (refine PrepKept.mk (fun _ _ _ _ _ => ?_) (fun _ _ _ _ _ _ _ => ?_)) | apply OptKept.getD | (fail_if_no_progress beta_reduce)
    | split

theorem kept_execI3cEventEnable {e0_ : State} (s : State) (h_s : Kept e0_ s) : OutcomeKept e0_ (execI3cEventEnable s) := by
  unfold execI3cEventEnable
  repeat' with_reducible first
    | assumption | exact Kept.refl _ | apply Kept.id_of | apply kept_setSide | apply OutcomeKept.answer
    | (refine PrepKept.mk (fun _ _ _ _ _ => ?_) (fun _ _ _ _ _ _ _ => ?_)) | apply OptKept.getD | (fail_if_no_progress beta_reduce)
    | split

theorem kept_execI3cEventDisable {e0_ : State} (s : State) (h_s : Kept e0_ s) : OutcomeKept e0_ (execI3cEventDisable s) := by
  unfold execI3cEventDisable
  repeat' with_reducible first
    | assumption | exact Kept.refl _ | apply Kept.id_of | apply kept_setSide | apply OutcomeKept.answer
    | (refine PrepKept.mk (fun _ _ _ _ _ => ?_) (fun _ _ _ _ _ _ _ => ?_)) | apply OptKept.getD | (fail_if_no_progress beta_reduce)
    | split

theorem kept_sbAnswer {e0_ : State} (s : State) (seq result : Nat) (payload : List Byte) (h_s : Kept e0_ s) : Kept e0_ (sbAnswer s seq result payload) := by
  unfold sbAnswer
  repeat' with_reducible first
    | assumption | apply kept_send | apply kept_setSide | (fail_if_no_progress beta_reduce) | split

theorem kept_sbOp {e0_ : State} {sp : SbSpec} (hsp : SideKept sp) (rq : SbReq) (s : State) (h_s : Kept e0_ s) : Kept e0_ (sbOp sp rq s) := by
  unfold sbOp
  have h1 := SideKept.get hsp (p := rq.payload) h_s
  repeat' with_reducible first
    | assumption | exact Kept.refl _ | apply Kept.id_of | exact VaultKept.refl _ | exact MemKept.refl _ | exact HostKept.refl _
    | exact VaultKept.upd | exact MemKept.mk id id | exact id | exact (fun w => memWrite_wf w _ _) | exact (fun w => memZero_wf w _ _)
    | exact (fun w => Memory.wf_filter _ w) | apply kept_sbAnswer | apply OptKept.getD | apply Kept.put | apply Kept.ite
    | (refine Kept.foldl ?_ (fun _ _ _ => ?_)) | (refine Kept.foldl_fst ?_ (fun _ _ _ => ?_)) | (refine Kept.foldr ?_ (fun _ _ _ => ?_))
    | (fail_if_no_progress beta_reduce)
    | ((try lift_lets -underBinder); intro xx; first | (refine Kept.use (P := Kept e0_ xx) ?_ (fun hx => ?_); (on_goal 2 => clear_value xx); (on_goal 1 => subst xx)) | (refine Kept.use (P := OptKept e0_ xx) ?_ (fun hx => ?_); (on_goal 2 => clear_value xx); (on_goal 1 => subst xx)) | (refine Kept.use (P := Kept e0_ (Prod.fst (α := State) xx)) ?_ (fun hx => ?_); (on_goal 2 => clear_value xx); (on_goal 1 => subst xx)) | (refine Kept.use (P := Kept e0_ (Prod.snd (β := State) xx)) ?_ (fun hx => ?_); (on_goal 2 => clear_value xx); (on_goal 1 => subst xx)) | (refine Kept.use (P := OptFst e0_ xx) ?_ (fun hx => ?_); (on_goal 2 => clear_value xx); (on_goal 1 => subst xx)) | (refine Kept.use (P := ExcKept e0_ xx) ?_ (fun hx => ?_); (on_goal 2 => clear_value xx); (on_goal 1 => subst xx)) | (have yy : _ → _ := xx; clear yy; subst xx) | (have yy : Memories := xx; clear yy; subst xx) | (have yy : Vault := xx; clear yy; subst xx) | (have yy : HostEnv := xx; clear yy; subst xx) | clear_value xx)
    | split | rw [mk_put] | (refine MemKept.mk ?_ ?_)

theorem kept_sbDone {e0_ : State} (s : State) (payload : List Byte) (h_s : Kept e0_ s) : Kept e0_ (sbDone s payload).2.1 := by
  unfold sbDone
  repeat' with_reducible first
    | assumption | (fail_if_no_progress beta_reduce) | split

theorem kept_sbRefuse {e0_ : State} (s : State) (h_s : Kept e0_ s) : Kept e0_ (sbRefuse s).2.1 := by
  unfold sbRefuse
  repeat' with_reducible first
    | assumption | (fail_if_no_progress beta_reduce) | split

theorem kept_sbRead (always : Bool) (body : State → List Byte) : SideKept (sbRead always body) := by
  intro e s p h
  exact h

theorem kept_execStartRead {e0_ : State} (rq : SbReq) (s : State) (h_s : Kept e0_ s) : OutcomeKept e0_ (execStartRead rq s) := by
  unfold execStartRead
  repeat' with_reducible first
    | assumption | apply kept_sbOp | exact kept_sbRead | apply kept_sbRead | apply OutcomeKept.answer

theorem kept_execStopRead {e0_ : State} (rq : SbReq) (s : State) (h_s : Kept e0_ s) : OutcomeKept e0_ (execStopRead rq s) := by
  unfold execStopRead
  repeat' with_reducible first
    | assumption | apply kept_sbOp | exact kept_sbRead | apply kept_sbRead | apply OutcomeKept.answer

theorem kept_execTempRead {e0_ : State} (rq : SbReq) (s : State) (h_s : Kept e0_ s) : OutcomeKept e0_ (execTempRead rq s) := by
  unfold execTempRead
  repeat' with_reducible first
    | assumption | apply kept_sbOp | exact kept_sbRead | apply kept_sbRead | apply OutcomeKept.answer

theorem kept_execPowerRead {e0_ : State} (rq : SbReq) (s : State) (h_s : Kept e0_ s) : OutcomeKept e0_ (execPowerRead rq s) := by
  unfold execPowerRead
  repeat' with_reducible first
    | assumption | apply kept_sbOp | exact kept_sbRead | apply kept_sbRead | apply OutcomeKept.answer

theorem kept_execStatusRead {e0_ : State} (rq : SbReq) (s : State) (h_s : Kept e0_ s) : OutcomeKept e0_ (execStatusRead rq s) := by
  unfold execStatusRead
  repeat' with_reducible first
    | assumption | apply kept_sbOp | exact kept_sbRead | apply kept_sbRead | apply OutcomeKept.answer

theorem kept_execLinkRead {e0_ : State} (rq : SbReq) (s : State) (h_s : Kept e0_ s) : OutcomeKept e0_ (execLinkRead rq s) := by
  unfold execLinkRead
  repeat' with_reducible first
    | assumption | apply kept_sbOp | exact kept_sbRead | apply kept_sbRead | apply OutcomeKept.answer

theorem kept_storeInstall {e0_ : State} (s : State) (r : List Byte) (h_s : Kept e0_ s) : Kept e0_ (storeInstall s r) := by
  unfold storeInstall
  repeat' with_reducible first
    | assumption | exact Kept.refl _ | apply Kept.id_of | exact VaultKept.refl _ | exact MemKept.refl _ | exact HostKept.refl _
    | exact VaultKept.upd | exact MemKept.mk id id | exact id | exact (fun w => memWrite_wf w _ _) | exact (fun w => memZero_wf w _ _)
    | exact (fun w => Memory.wf_filter _ w) | apply kept_recordWrite | apply OptKept.getD | apply Kept.put
    | (fail_if_no_progress beta_reduce) | (refine Kept.foldl ?_ (fun _ _ _ => ?_)) | (refine Kept.foldl_fst ?_ (fun _ _ _ => ?_))
    | (refine Kept.foldr ?_ (fun _ _ _ => ?_)) | split | rw [mk_put] | (refine MemKept.mk ?_ ?_)

theorem kept_installStageSpec   : SideKept (installStageSpec) := by
  intro e0_ s p h
  unfold installStageSpec
  repeat' with_reducible first
    | assumption | apply kept_setSide | apply kept_sbDone | apply SideKept.run_mk | (fail_if_no_progress beta_reduce) | split

theorem kept_execInstallStage {e0_ : State} (rq : SbReq) (s : State) (h_s : Kept e0_ s) : OutcomeKept e0_ (execInstallStage rq s) := by
  unfold execInstallStage
  repeat' with_reducible first
    | assumption | apply kept_sbOp | exact kept_installStageSpec | apply kept_installStageSpec | apply OutcomeKept.answer

theorem kept_commitInstall {e0_ : State} (s : State) (r : List Byte) (h_s : Kept e0_ s) : Kept e0_ (commitInstall s r) := by
  unfold commitInstall
  repeat' with_reducible first
    | assumption | exact Kept.refl _ | apply Kept.id_of | exact VaultKept.refl _ | exact MemKept.refl _ | exact HostKept.refl _
    | exact VaultKept.upd | exact MemKept.mk id id | exact id | exact (fun w => memWrite_wf w _ _) | exact (fun w => memZero_wf w _ _)
    | exact (fun w => Memory.wf_filter _ w) | apply kept_announce | apply kept_tryEnter | apply kept_storeInstall | apply OptKept.getD
    | apply Kept.put | (fail_if_no_progress beta_reduce) | (refine Kept.foldl ?_ (fun _ _ _ => ?_))
    | (refine Kept.foldl_fst ?_ (fun _ _ _ => ?_)) | (refine Kept.foldr ?_ (fun _ _ _ => ?_)) | split | rw [mk_put]
    | (refine MemKept.mk ?_ ?_)

theorem kept_installCommitSpec   : SideKept (installCommitSpec) := by
  intro e0_ s p h
  unfold installCommitSpec
  repeat' with_reducible first
    | assumption | exact Kept.refl _ | apply Kept.id_of | exact VaultKept.refl _ | exact MemKept.refl _ | exact HostKept.refl _
    | exact VaultKept.upd | exact MemKept.mk id id | exact id | exact (fun w => memWrite_wf w _ _) | exact (fun w => memZero_wf w _ _)
    | exact (fun w => Memory.wf_filter _ w) | apply kept_sbDone | apply kept_sbRefuse | apply kept_commitInstall | apply SideKept.run_mk
    | apply Kept.put | apply Kept.ite | (refine Kept.foldl ?_ (fun _ _ _ => ?_)) | (refine Kept.foldl_fst ?_ (fun _ _ _ => ?_))
    | (refine Kept.foldr ?_ (fun _ _ _ => ?_)) | (refine Kept.mid_of (by assumption) ?_; apply kept_sbDone)
    | (refine Kept.mid_of (by assumption) ?_; apply kept_sbRefuse) | (fail_if_no_progress beta_reduce)
    | ((try lift_lets -underBinder); intro xx; first | (refine Kept.use (P := Kept e0_ xx) ?_ (fun hx => ?_); (on_goal 2 => clear_value xx); (on_goal 1 => subst xx)) | clear_value xx)
    | split | rw [mk_put] | (refine MemKept.mk ?_ ?_)

theorem kept_execInstallCommit {e0_ : State} (rq : SbReq) (s : State) (h_s : Kept e0_ s) : OutcomeKept e0_ (execInstallCommit rq s) := by
  unfold execInstallCommit
  repeat' with_reducible first
    | assumption | apply kept_sbOp | exact kept_installCommitSpec | apply kept_installCommitSpec | apply OutcomeKept.answer

theorem kept_installReadSpec   : SideKept (installReadSpec) := by
  intro e0_ s p h
  unfold installReadSpec
  repeat' with_reducible first
    | assumption | apply kept_sbDone | apply SideKept.run_mk | (fail_if_no_progress beta_reduce) | split

theorem kept_execInstallRead {e0_ : State} (rq : SbReq) (s : State) (h_s : Kept e0_ s) : OutcomeKept e0_ (execInstallRead rq s) := by
  unfold execInstallRead
  repeat' with_reducible first
    | assumption | apply kept_sbOp | exact kept_installReadSpec | apply kept_installReadSpec | apply OutcomeKept.answer

theorem kept_membersSetSpec   : SideKept (membersSetSpec) := by
  intro e0_ s p h
  unfold membersSetSpec
  repeat' with_reducible first
    | assumption | exact Kept.refl _ | apply Kept.id_of | exact VaultKept.refl _ | exact MemKept.refl _ | exact HostKept.refl _
    | exact VaultKept.upd | exact MemKept.mk id id | exact id | exact (fun w => memWrite_wf w _ _) | exact (fun w => memZero_wf w _ _)
    | exact (fun w => Memory.wf_filter _ w) | apply kept_compareLink | apply kept_tryEnter | apply kept_sbDone | apply kept_sbRefuse
    | apply kept_storeInstall | apply SideKept.run_mk | apply Kept.put | (fail_if_no_progress beta_reduce)
    | (refine Kept.mid_of (by assumption) ?_; apply kept_sbDone) | (refine Kept.mid_of (by assumption) ?_; apply kept_sbRefuse)
    | (refine Kept.foldl ?_ (fun _ _ _ => ?_)) | (refine Kept.foldl_fst ?_ (fun _ _ _ => ?_)) | (refine Kept.foldr ?_ (fun _ _ _ => ?_))
    | split | rw [mk_put] | (refine MemKept.mk ?_ ?_)

theorem kept_execMembersSet {e0_ : State} (rq : SbReq) (s : State) (h_s : Kept e0_ s) : OutcomeKept e0_ (execMembersSet rq s) := by
  unfold execMembersSet
  repeat' with_reducible first
    | assumption | apply kept_sbOp | exact kept_membersSetSpec | apply kept_membersSetSpec | apply OutcomeKept.answer

theorem kept_expectSetSpec   : SideKept (expectSetSpec) := by
  intro e0_ s p h
  unfold expectSetSpec
  repeat' with_reducible first
    | assumption | exact Kept.refl _ | apply Kept.id_of | exact VaultKept.refl _ | exact MemKept.refl _ | exact HostKept.refl _
    | exact VaultKept.upd | exact MemKept.mk id id | exact id | exact (fun w => memWrite_wf w _ _) | exact (fun w => memZero_wf w _ _)
    | exact (fun w => Memory.wf_filter _ w) | apply kept_takeDown | apply kept_sbDone | apply kept_sbRefuse | apply kept_storeInstall
    | apply SideKept.run_mk | apply Kept.put | (fail_if_no_progress beta_reduce)
    | (refine Kept.mid_of (by assumption) ?_; apply kept_sbDone) | (refine Kept.mid_of (by assumption) ?_; apply kept_sbRefuse)
    | (refine Kept.foldl ?_ (fun _ _ _ => ?_)) | (refine Kept.foldl_fst ?_ (fun _ _ _ => ?_)) | (refine Kept.foldr ?_ (fun _ _ _ => ?_))
    | split | rw [mk_put] | (refine MemKept.mk ?_ ?_)

theorem kept_execExpectSet {e0_ : State} (rq : SbReq) (s : State) (h_s : Kept e0_ s) : OutcomeKept e0_ (execExpectSet rq s) := by
  unfold execExpectSet
  repeat' with_reducible first
    | assumption | apply kept_sbOp | exact kept_expectSetSpec | apply kept_expectSetSpec | apply OutcomeKept.answer

theorem kept_installRoutes {e0_ : State} (s : State) (p : List Byte) (h_s : Kept e0_ s) : Kept e0_ (installRoutes s p) := by
  unfold installRoutes
  repeat' with_reducible first
    | assumption | exact Kept.refl _ | apply Kept.id_of | exact VaultKept.refl _ | exact MemKept.refl _ | exact HostKept.refl _
    | exact VaultKept.upd | exact MemKept.mk id id | exact id | exact (fun w => memWrite_wf w _ _) | exact (fun w => memZero_wf w _ _)
    | exact (fun w => Memory.wf_filter _ w) | apply kept_linkEvent | apply OptKept.getD | apply Kept.put
    | (fail_if_no_progress beta_reduce) | (refine Kept.foldl ?_ (fun _ _ _ => ?_)) | (refine Kept.foldl_fst ?_ (fun _ _ _ => ?_))
    | (refine Kept.foldr ?_ (fun _ _ _ => ?_)) | split | rw [mk_put] | (refine MemKept.mk ?_ ?_)

theorem kept_routeSetSpec   : SideKept (routeSetSpec) := by
  intro e0_ s p h
  unfold routeSetSpec
  repeat' with_reducible first
    | assumption | apply kept_sbDone | apply kept_installRoutes | apply SideKept.run_mk | (fail_if_no_progress beta_reduce) | split

theorem kept_execRouteSet {e0_ : State} (rq : SbReq) (s : State) (h_s : Kept e0_ s) : OutcomeKept e0_ (execRouteSet rq s) := by
  unfold execRouteSet
  repeat' with_reducible first
    | assumption | apply kept_sbOp | exact kept_routeSetSpec | apply kept_routeSetSpec | apply OutcomeKept.answer

theorem kept_propose {e0_ : State} (s : State) (h_s : Kept e0_ s) : Kept e0_ (propose s) := by
  unfold propose
  repeat' with_reducible first
    | assumption | exact Kept.refl _ | apply Kept.id_of | exact VaultKept.refl _ | exact MemKept.refl _ | exact HostKept.refl _
    | exact VaultKept.upd | exact MemKept.mk id id | exact id | exact (fun w => memWrite_wf w _ _) | exact (fun w => memZero_wf w _ _)
    | exact (fun w => Memory.wf_filter _ w) | apply kept_recordProposal | apply kept_flood | apply kept_noteSeen
    | apply kept_tryArrive | apply OptKept.getD | apply Kept.put | apply Kept.ite | (refine Kept.foldl ?_ (fun _ _ _ => ?_))
    | (refine Kept.foldl_fst ?_ (fun _ _ _ => ?_)) | (refine Kept.foldr ?_ (fun _ _ _ => ?_)) | (fail_if_no_progress beta_reduce)
    | ((try lift_lets -underBinder); intro xx; first | (refine Kept.use (P := Kept e0_ xx) ?_ (fun hx => ?_); (on_goal 2 => clear_value xx); (on_goal 1 => subst xx)) | (refine Kept.use (P := OptKept e0_ xx) ?_ (fun hx => ?_); (on_goal 2 => clear_value xx); (on_goal 1 => subst xx)) | (refine Kept.use (P := Kept e0_ (Prod.fst (α := State) xx)) ?_ (fun hx => ?_); (on_goal 2 => clear_value xx); (on_goal 1 => subst xx)) | (refine Kept.use (P := Kept e0_ (Prod.snd (β := State) xx)) ?_ (fun hx => ?_); (on_goal 2 => clear_value xx); (on_goal 1 => subst xx)) | (refine Kept.use (P := OptFst e0_ xx) ?_ (fun hx => ?_); (on_goal 2 => clear_value xx); (on_goal 1 => subst xx)) | (refine Kept.use (P := ExcKept e0_ xx) ?_ (fun hx => ?_); (on_goal 2 => clear_value xx); (on_goal 1 => subst xx)) | (have yy : _ → _ := xx; clear yy; subst xx) | (have yy : Memories := xx; clear yy; subst xx) | (have yy : Vault := xx; clear yy; subst xx) | (have yy : HostEnv := xx; clear yy; subst xx) | clear_value xx)
    | split | rw [mk_put] | (refine MemKept.mk ?_ ?_)

theorem kept_epochProposeSpec   : SideKept (epochProposeSpec) := by
  intro e0_ s p h
  unfold epochProposeSpec
  repeat' with_reducible first
    | assumption | apply kept_sbDone | apply kept_sbRefuse | apply kept_propose | apply SideKept.run_mk
    | (fail_if_no_progress beta_reduce) | split

theorem kept_execEpochPropose {e0_ : State} (rq : SbReq) (s : State) (h_s : Kept e0_ s) : OutcomeKept e0_ (execEpochPropose rq s) := by
  unfold execEpochPropose
  repeat' with_reducible first
    | assumption | apply kept_sbOp | exact kept_epochProposeSpec | apply kept_epochProposeSpec | apply OutcomeKept.answer

theorem kept_netPortSetSpec   : SideKept (netPortSetSpec) := by
  intro e0_ s p h
  unfold netPortSetSpec
  repeat' with_reducible first
    | assumption | apply kept_setNetPort | apply kept_sbDone | apply SideKept.run_mk | (fail_if_no_progress beta_reduce) | split

theorem kept_execNetPortSet {e0_ : State} (rq : SbReq) (s : State) (h_s : Kept e0_ s) : OutcomeKept e0_ (execNetPortSet rq s) := by
  unfold execNetPortSet
  repeat' with_reducible first
    | assumption | apply kept_sbOp | exact kept_netPortSetSpec | apply kept_netPortSetSpec | apply OutcomeKept.answer

theorem kept_qpSpec (action : Nat)  : SideKept (qpSpec action) := by
  intro e0_ s p h
  unfold qpSpec
  repeat' with_reducible first
    | assumption | exact Kept.refl _ | apply Kept.id_of | exact VaultKept.refl _ | exact MemKept.refl _ | exact HostKept.refl _
    | exact VaultKept.upd | exact MemKept.mk id id | exact id | exact (fun w => memWrite_wf w _ _) | exact (fun w => memZero_wf w _ _)
    | exact (fun w => Memory.wf_filter _ w) | apply kept_putQp | apply kept_failQueue | apply kept_sbDone | apply SideKept.run_mk
    | apply Kept.put | (fail_if_no_progress beta_reduce) | (refine Kept.mid_of (by assumption) ?_; apply kept_sbDone)
    | (refine Kept.foldl ?_ (fun _ _ _ => ?_)) | (refine Kept.foldl_fst ?_ (fun _ _ _ => ?_)) | (refine Kept.foldr ?_ (fun _ _ _ => ?_))
    | split | rw [mk_put] | (refine MemKept.mk ?_ ?_)

theorem kept_execQpSet {e0_ : State} (rq : SbReq) (s : State) (h_s : Kept e0_ s) : OutcomeKept e0_ (execQpSet rq s) := by
  unfold execQpSet
  repeat' with_reducible first
    | assumption | apply kept_sbOp | exact kept_qpSpec | apply kept_qpSpec | apply OutcomeKept.answer

theorem kept_execQpDestroy {e0_ : State} (rq : SbReq) (s : State) (h_s : Kept e0_ s) : OutcomeKept e0_ (execQpDestroy rq s) := by
  unfold execQpDestroy
  repeat' with_reducible first
    | assumption | apply kept_sbOp | exact kept_qpSpec | apply kept_qpSpec | apply OutcomeKept.answer

theorem kept_mrSpec (action : Nat)  : SideKept (mrSpec action) := by
  intro e0_ s p h
  unfold mrSpec
  repeat' with_reducible first
    | assumption | exact Kept.refl _ | apply Kept.id_of | exact VaultKept.refl _ | exact MemKept.refl _ | exact HostKept.refl _
    | exact VaultKept.upd | exact MemKept.mk id id | exact id | exact (fun w => memWrite_wf w _ _) | exact (fun w => memZero_wf w _ _)
    | exact (fun w => Memory.wf_filter _ w) | apply kept_sbDone | apply SideKept.run_mk | apply Kept.put
    | (fail_if_no_progress beta_reduce) | (refine Kept.mid_of (by assumption) ?_; apply kept_sbDone)
    | (refine Kept.foldl ?_ (fun _ _ _ => ?_)) | (refine Kept.foldl_fst ?_ (fun _ _ _ => ?_)) | (refine Kept.foldr ?_ (fun _ _ _ => ?_))
    | split | rw [mk_put] | (refine MemKept.mk ?_ ?_)

theorem kept_execMrSet {e0_ : State} (rq : SbReq) (s : State) (h_s : Kept e0_ s) : OutcomeKept e0_ (execMrSet rq s) := by
  unfold execMrSet
  repeat' with_reducible first
    | assumption | apply kept_sbOp | exact kept_mrSpec | apply kept_mrSpec | apply OutcomeKept.answer

theorem kept_execMrDestroy {e0_ : State} (rq : SbReq) (s : State) (h_s : Kept e0_ s) : OutcomeKept e0_ (execMrDestroy rq s) := by
  unfold execMrDestroy
  repeat' with_reducible first
    | assumption | apply kept_sbOp | exact kept_mrSpec | apply kept_mrSpec | apply OutcomeKept.answer

end Sys2Proof.Laws
end

