-- ==== Sys2Proof/WellFormed.lean ====
section
/-!
DEFINITION. Sys2Proof/WellFormed.lean: which commands are well formed: every operand lies in the range that the manual gives what it
names. A meaning is defined for every command, well formed or not; a row that names no such thing does not happen.
-/

namespace Sys2Proof

/-- A host, far or Ethernet port number: 0 or 1 (R12). -/
def hostPort (p : Nat) : Bool := decide (p < 2)
/-- A Binik port number: 0 to 15 (R12). -/
def binikPort (p : Nat) : Bool := decide (p < 16)

/-- A unit kind and index of Table 1-6. -/
def unitName (kind index : Nat) : Bool :=
  match kind with
  | 1 => decide (index < 64)
  | 2 => decide (index < 16)
  | 3 => decide (index < 32)
  | 4 => decide (index < 256)
  | 5 => decide (index < 64)
  | 6 => decide (index < 32)
  | 7 => decide (index < 512)
  | 8 => decide (index < 1)
  | 9 => decide (index < 8)
  | _ => false

/-- Whether a number names a unit that changes its power state: 0 region, 1 engine, 2 stack, 3 the vault, 4 Binik port, 5 F0, F1, N0, N1. -/
def movingName (kind index : Nat) : Bool :=
  match kind with
  | 0 | 2 => decide (index < 8)
  | 1 => decide (index < 64)
  | 3 => decide (index < 1)
  | 4 => decide (index < 16)
  | 5 => decide (index < 4)
  | _ => false

/-- A sensor kind and index of R507 and R508: 0 regions, 1 stacks, 2 hub, 3 vault, 4 bridges. -/
def sensorName (sensor index : Nat) : Bool :=
  match sensor with
  | 0 | 1 => decide (index < 8)
  | 2 => decide (index < 1)
  | 3 => decide (index < 4)
  | 4 => decide (index < 3)
  | _ => false

/-- A hardware error names a unit and an address that exist. -/
def HwErr.wf : HwErr → Bool
  | .memCorrected pa => decide (pa < 2 ^ 40)
  | .memPoisoned pa => decide (pa < 2 ^ 40)
  | .engineStoreCorrected n => decide (n < 64)
  | .engineStoreUe n => decide (n < 64)
  | .clusterStoreCorrected c => decide (c < 16)
  | .clusterStoreUe pa => decide (pa < 2 ^ 53)
  | .datapath => true
  | .walkRedone w => decide (w < 32)
  | .hubCorrected => true
  | .hubUe => true
  | .bridgeUe b => decide (b < 3)
  | .fabricUe r => decide (r < 8)
  | .farPoison pa => decide (pa < 2 ^ 53)
  | .vaultGranule x g => decide (x < 1536) && decide (g < 1024)
  | .vaultStackFailed st => decide (st < 4)
  | .vaultWrite x => decide (x < 1152)
  | .laneCorrected l => decide (l < 64)

/-- The steps of a command fit its unit's counter (R55). -/
def Start.wf (st : Start) : Bool := decide (st.steps < 2 ^ 64) && st.errs.all HwErr.wf

def HostWrite.wf (w : HostWrite) : Bool := hostPort w.port && decide (w.addr + w.data.length ≤ 2 ^ 64)

/-- A mailbox request as Table 17-7 lays it out. -/
def MbReq.wf (r : MbReq) : Bool :=
  hostPort r.port && decide (r.txn < 2 ^ 32) && decide (r.minor < 256) && decide (r.length < 2 ^ 16)
    && decide (r.payload.length ≤ 4064)

/-- A message as Table 18-4 lays its header out. -/
def PeerMsg.wf (m : PeerMsg) : Bool :=
  binikPort m.port && decide (m.dest < 2 ^ 16) && decide (m.src < 2 ^ 16) && decide (m.hops < 256)
    && decide (m.epoch < 2 ^ 64) && decide (m.addr < 2 ^ 64) && decide (m.length < 2 ^ 32) && decide (m.msgId < 2 ^ 32)

def FarOffer.wf (o : FarOffer) : Bool := decide (o.slot < 4) && decide (o.sizeGib < 2 ^ 16)

def StepReport.wf (r : StepReport) : Bool :=
  decide (r.cause < 256) && decide (r.detail < 256) && r.far.all FarOffer.wf && r.failedUnits.all fun u => unitName u.1 u.2

/-- A sideband request of Table 22-4. -/
def SbReq.wf (r : SbReq) : Bool := decide (r.seq < 256) && decide (r.len < 256) && decide (r.payload.length ≤ 255)

def RdmaReq.wf (p : RdmaReq) : Bool := hostPort p.port && decide (p.va < 2 ^ 64) && decide (p.len < 2 ^ 32)

/-- Readings name every sensor and no more: 16 rails, 8 regions, 8 stacks, 4 vault stacks, 3 bridges (Table 19-5). -/
def Readings.wf (r : Readings) : Bool :=
  decide (r.railMw.length ≤ 16) && decide (r.region.length ≤ 8) && decide (r.stack.length ≤ 8)
    && decide (r.vault.length ≤ 4) && decide (r.bridge.length ≤ 3)

/-- Whether a command is well formed. -/
def Instr.wf : Instr → Bool
  | .knUnitsGet st => st.wf
  | .mmMul st => st.wf
  | .mmMulList st => st.wf
  | .vxRun st => st.wf
  | .vxEnd st => st.wf
  | .vxSetvl st => st.wf
  | .vxXli st => st.wf
  | .vxXadd st => st.wf
  | .vxXsub st => st.wf
  | .vxBnz st => st.wf
  | .vxLd st => st.wf
  | .vxLdb st => st.wf
  | .vxSt st => st.wf
  | .vxAdd st => st.wf
  | .vxSub st => st.wf
  | .vxMul st => st.wf
  | .vxFma st => st.wf
  | .vxMin st => st.wf
  | .vxMax st => st.wf
  | .vxDiv st => st.wf
  | .vxSqrt st => st.wf
  | .vxAbs st => st.wf
  | .vxNeg st => st.wf
  | .vxMov st => st.wf
  | .vxCmplt st => st.wf
  | .vxCmple st => st.wf
  | .vxCmpeq st => st.wf
  | .vxKand st => st.wf
  | .vxKor st => st.wf
  | .vxKnot st => st.wf
  | .vxCvt st => st.wf
  | .vxRedsum st => st.wf
  | .vxRedmax st => st.wf
  | .vxFn st => st.wf
  | .vxDfn st => st.wf
  | .mvCopy st => st.wf
  | .mvFill st => st.wf
  | .moverStagingGranted st => st.wf
  | .moverEngineWriteOut _ => true
  | .knCstoreAssign st => st.wf
  | .knSpillPoolAdd st => st.wf
  | .knSpillPoolWithdraw st => st.wf
  | .stackTemperatureCrossing stack _ => decide (stack < 8)
  | .stagedWeightRepair pa errs => decide (pa < 2 ^ 53) && errs.all HwErr.wf
  | .farLinkDown port => hostPort port
  | .farLinkTrained port offers => hostPort port && offers.all FarOffer.wf
  | .knVaultProvOpen st => st.wf
  | .knVaultProvWrite st => st.wf
  | .knVaultProvClose st => st.wf
  | .knVaultProvAbort st => st.wf
  | .knVaultProvFree st => st.wf
  | .knWeightPlaceSlot st => st.wf
  | .knWeightPlaceBuffer st => st.wf
  | .knWeightPlaceDrop st => st.wf
  | .knModelCutBind st => st.wf
  | .knModelCutArm st => st.wf
  | .knModelCutDisarm st => st.wf
  | .knModelCutUnbind st => st.wf
  | .retiringCopyRelease model => decide (model < 16)
  | .knAsSetCreate st => st.wf
  | .knAsSetSetRoot st => st.wf
  | .knAsSetSetPasid st => st.wf
  | .knAsSetDestroy st => st.wf
  | .knTlbInvalRange st => st.wf
  | .knTlbInvalAsid st => st.wf
  | .knTlbInvalAll st => st.wf
  | .knTlbPin st => st.wf
  | .knTlbUnpin st => st.wf
  | .translationWalk _ va _ errs => decide (va < 2 ^ 56) && errs.all HwErr.wf
  | .kittyStepsExpiry => true
  | .hostDoorbell port shoe writes => hostPort port && decide (shoe < 2 ^ 20) && writes.all HostWrite.wf
  | .shoeFetch errs => errs.all HwErr.wf
  | .knShoeCreate st => st.wf
  | .knShoeDestroy st => st.wf
  | .knShoeSet st => st.wf
  | .knShoeQuery st => st.wf
  | .sySignal st => st.wf
  | .syWait st => st.wf
  | .syWaitSatisfied _ => true
  | .syWaitTimeout _ => true
  | .commandPlacement => true
  | .nextCommandNamed engine => decide (engine < 64)
  | .writeOutEnd st => st.wf
  | .drainComplete _ => true
  | .knDealerSetConfig st => st.wf
  | .knDealerSetAnte st => st.wf
  | .knDealerSetServeBind st => st.wf
  | .knDealerSetServeUnbind st => st.wf
  | .knDealerSetRequest st => st.wf
  | .knDealerSetAdvance st => st.wf
  | .dealBoundary errs => errs.all HwErr.wf
  | .dealOpen errs => errs.all HwErr.wf
  | .knContextSetup st => st.wf
  | .knContextModel st => st.wf
  | .knContextRegister st => st.wf
  | .knContextRelease st => st.wf
  | .knContextTrim st => st.wf
  | .knContextGrant st => st.wf
  | .knContextRing st => st.wf
  | .knContextQuery st => st.wf
  | .atAppend st => st.wf
  | .atAttend st => st.wf
  | .atAdvance st => st.wf
  | .atRing st => st.wf
  | .atCombine st => st.wf
  | .atRingSend st => st.wf
  | .spOpen st => st.wf
  | .spVerify st => st.wf
  | .exRoute st => st.wf
  | .exSettle st => st.wf
  | .routingBoardResolved board => decide (board < 16)
  | .exGather st => st.wf
  | .exCombine st => st.wf
  | .bwAdapterCreate st => st.wf
  | .bwAdapterDestroy st => st.wf
  | .bwAdapterQuery st => st.wf
  | .bwMul st => st.wf
  | .bwNorm st => st.wf
  | .bwSoftmax st => st.wf
  | .knKeyBindReserve st => st.wf
  | .knKeyBindLink st => st.wf
  | .knKeyBindDestroy st => st.wf
  | .knKeyBindQuery st => st.wf
  | .hssBudgetRegain => true
  | .ptmExchange => true
  | .ptmResponse port time _ => hostPort port && decide (time < 2 ^ 64)
  | .mbHello rq => rq.wf
  | .mbNonce rq => rq.wf
  | .mbOwnerClaim rq => rq.wf
  | .mbOwnerTake rq => rq.wf
  | .mbOwnerTransfer rq => rq.wf
  | .mbOwnerMode rq => rq.wf
  | .mbCertGet rq => rq.wf
  | .mbAttest rq => rq.wf
  | .mbAttestSession rq => rq.wf
  | .mbUnitsGet rq => rq.wf
  | .mbRetireAck rq => rq.wf
  | .mbEventConfig rq => rq.wf
  | .mbShoeInit rq => rq.wf
  | .mbKittyConfig rq => rq.wf
  | .mbKittyCollect rq => rq.wf
  | .mbKittyRelease rq => rq.wf
  | .mbFarList rq => rq.wf
  | .mbFarMap rq => rq.wf
  | .mbVaultList rq => rq.wf
  | .mbPtmConfig rq => rq.wf
  | .mbFwStage rq => rq.wf
  | .mbFwStatus rq => rq.wf
  | .mbFwDiscard rq => rq.wf
  | .mbReset rq => rq.wf
  | .mbDebugChallenge rq => rq.wf
  | .mbDebugUnlock rq => rq.wf
  | .mbDebugPeek rq => rq.wf
  | .mbDebugPoke rq => rq.wf
  | .registerWrite port offset value => hostPort port && decide (offset < 65536) && decide (value < 2 ^ 32)
  | .mbPwrLevel rq => rq.wf
  | .mbPwrGate rq => rq.wf
  | .mbPwrUngate rq => rq.wf
  | .mbPwrStackActive rq => rq.wf
  | .mbPwrStackSelfRefresh rq => rq.wf
  | .mbPwrVaultActive rq => rq.wf
  | .mbPwrVaultStandby rq => rq.wf
  | .mbPwrLanes rq => rq.wf
  | .mbPwrPortUp rq => rq.wf
  | .mbPwrPortDown rq => rq.wf
  | .mbPwrCap rq => rq.wf
  | .mbTelemRead rq => rq.wf
  | .powerTransitionSettled kind index => movingName kind index
  | .telemetryWindow rd => rd.wf
  | .thermalWarn sensor index _ => sensorName sensor index
  | .protectiveStop sensor index _ => sensorName sensor index
  | .inServiceTest kind index => unitName kind index
  | .inServiceTestEnd kind index _ => unitName kind index
  | .killAckTimeout kind index => unitName kind index
  | .channelNoAnswer channel => decide (channel < 256)
  | .retirementWindowEnd => true
  | .eventWindowEnd => true
  | .powerOn => true
  | .startStepEnd rp => rp.wf
  | .resetNAssert => true
  | .resetNRelease => true
  | .pcieFundamentalReset port => hostPort port
  | .pcieHotReset port => hostPort port
  | .functionLevelReset port => hostPort port
  | .inputDropout => true
  | .rideThrough => true
  | .rideThroughExpiry => true
  | .inputReturn => true
  | .converterTrip rail => decide (rail < 16)
  | .osfpPlugInsert port watts => hostPort port && decide (watts < 256)
  | .portTrained port _ lo hi record => binikPort port && decide (lo < 256) && decide (hi < 256) && decide (record.length ≤ 4096)
  | .binikPortDown port reason lane => binikPort port && decide (reason < 3) && decide (lane ≤ 4)
  | .replay port lane _ => binikPort port && decide (lane < 4)
  | .peerWrite m => m.wf
  | .peerReadRequest m => m.wf
  | .readData m => m.wf
  | .signal m => m.wf
  | .ringBlock m => m.wf
  | .refusal m => m.wf
  | .domainRecord m => m.wf
  | .proposal m => m.wf
  | .arrival m => m.wf
  | .barrierStall => true
  | .rdmaWrite qp => decide (qp < 1024)
  | .rdmaWriteWithImmediate qp => decide (qp < 1024)
  | .rdmaRead qp => decide (qp < 1024)
  | .rdmaResponse qp _ => decide (qp < 1024)
  | .rdmaRetryExpiry qp => decide (qp < 1024)
  | .incomingRdmaWrite p => p.wf
  | .incomingWriteWithImmediate p => p.wf
  | .incomingRdmaRead p => p.wf
  | .congestionNotification qp => decide (qp < 1024)
  | .priorityFlowControl port _ _ => hostPort port
  | .arp port sip tip mac => hostPort port && decide (sip < 2 ^ 128) && decide (tip < 2 ^ 128) && decide (mac < 2 ^ 48)
  | .neighbourDiscovery port sip tip mac => hostPort port && decide (sip < 2 ^ 128) && decide (tip < 2 ^ 128) && decide (mac < 2 ^ 48)
  | .icmpEcho port _ sip tip data => hostPort port && decide (sip < 2 ^ 128) && decide (tip < 2 ^ 128) && decide (data.length ≤ 65535)
  | .ethernetLinkLost port => hostPort port
  | .i3cSetdasa st dyn => decide (st < 128) && decide (dyn < 128)
  | .i3cEntdaa dyn => decide (dyn < 128)
  | .i3cGetstatus => true
  | .i3cGetpid => true
  | .i3cEventEnable => true
  | .i3cEventDisable => true
  | .startRead rq => rq.wf
  | .stopRead rq => rq.wf
  | .tempRead rq => rq.wf
  | .powerRead rq => rq.wf
  | .statusRead rq => rq.wf
  | .installStage rq => rq.wf
  | .installCommit rq => rq.wf
  | .installRead rq => rq.wf
  | .membersSet rq => rq.wf
  | .expectSet rq => rq.wf
  | .routeSet rq => rq.wf
  | .epochPropose rq => rq.wf
  | .linkRead rq => rq.wf
  | .netPortSet rq => rq.wf
  | .qpSet rq => rq.wf
  | .qpDestroy rq => rq.wf
  | .mrSet rq => rq.wf
  | .mrDestroy rq => rq.wf
  | .commitPoint _ => true
  | .peerAcknowledgement port msg => binikPort port && decide (msg < 2 ^ 32)
  | .channelCopyDone stack => decide (stack < 8)
  | .ethernetLinkUp port => hostPort port
  | .hostLinkDown port => hostPort port
  | .hostLinkUp port => hostPort port
  | .ptmEnable port _ => hostPort port
  | .getVersion port body => hostPort port && decide (body.length ≤ 1048576)
  | .getCapabilities port body => hostPort port && decide (body.length ≤ 1048576)
  | .negotiateAlgorithms port body => hostPort port && decide (body.length ≤ 1048576)
  | .getDigests port body => hostPort port && decide (body.length ≤ 1048576)
  | .getCertificate port body => hostPort port && decide (body.length ≤ 1048576)
  | .challenge port body => hostPort port && decide (body.length ≤ 1048576)
  | .getMeasurements port body => hostPort port && decide (body.length ≤ 1048576)

end Sys2Proof
end

