-- ==== Sys2Proof/Laws/PerInstr.lean ====
section
/-! SUPPORT. Sys2Proof/Laws/PerInstr.lean: what a well-formed command of each constructor carries with it: step counts that fit the unit counter of R55,
and hardware errors that name units and addresses that exist. -/

namespace Sys2Proof.Laws.Carried

/-- The step of a fetched command that a row stands for, where it stands for one. -/
def carriedStart : Instr → Option Start
  | .knUnitsGet st => some st
  | .mmMul st => some st
  | .mmMulList st => some st
  | .vxRun st => some st
  | .vxEnd st => some st
  | .vxSetvl st => some st
  | .vxXli st => some st
  | .vxXadd st => some st
  | .vxXsub st => some st
  | .vxBnz st => some st
  | .vxLd st => some st
  | .vxLdb st => some st
  | .vxSt st => some st
  | .vxAdd st => some st
  | .vxSub st => some st
  | .vxMul st => some st
  | .vxFma st => some st
  | .vxMin st => some st
  | .vxMax st => some st
  | .vxDiv st => some st
  | .vxSqrt st => some st
  | .vxAbs st => some st
  | .vxNeg st => some st
  | .vxMov st => some st
  | .vxCmplt st => some st
  | .vxCmple st => some st
  | .vxCmpeq st => some st
  | .vxKand st => some st
  | .vxKor st => some st
  | .vxKnot st => some st
  | .vxCvt st => some st
  | .vxRedsum st => some st
  | .vxRedmax st => some st
  | .vxFn st => some st
  | .vxDfn st => some st
  | .mvCopy st => some st
  | .mvFill st => some st
  | .moverStagingGranted st => some st
  | .moverEngineWriteOut _ => none
  | .knCstoreAssign st => some st
  | .knSpillPoolAdd st => some st
  | .knSpillPoolWithdraw st => some st
  | .stackTemperatureCrossing _ _ => none
  | .stagedWeightRepair _ _ => none
  | .farLinkDown _ => none
  | .farLinkTrained _ _ => none
  | .knVaultProvOpen st => some st
  | .knVaultProvWrite st => some st
  | .knVaultProvClose st => some st
  | .knVaultProvAbort st => some st
  | .knVaultProvFree st => some st
  | .knWeightPlaceSlot st => some st
  | .knWeightPlaceBuffer st => some st
  | .knWeightPlaceDrop st => some st
  | .knModelCutBind st => some st
  | .knModelCutArm st => some st
  | .knModelCutDisarm st => some st
  | .knModelCutUnbind st => some st
  | .retiringCopyRelease _ => none
  | .knAsSetCreate st => some st
  | .knAsSetSetRoot st => some st
  | .knAsSetSetPasid st => some st
  | .knAsSetDestroy st => some st
  | .knTlbInvalRange st => some st
  | .knTlbInvalAsid st => some st
  | .knTlbInvalAll st => some st
  | .knTlbPin st => some st
  | .knTlbUnpin st => some st
  | .translationWalk _ _ _ _ => none
  | .kittyStepsExpiry => none
  | .hostDoorbell _ _ _ => none
  | .shoeFetch _ => none
  | .knShoeCreate st => some st
  | .knShoeDestroy st => some st
  | .knShoeSet st => some st
  | .knShoeQuery st => some st
  | .sySignal st => some st
  | .syWait st => some st
  | .syWaitSatisfied _ => none
  | .syWaitTimeout _ => none
  | .commandPlacement => none
  | .nextCommandNamed _ => none
  | .writeOutEnd st => some st
  | .drainComplete _ => none
  | .knDealerSetConfig st => some st
  | .knDealerSetAnte st => some st
  | .knDealerSetServeBind st => some st
  | .knDealerSetServeUnbind st => some st
  | .knDealerSetRequest st => some st
  | .knDealerSetAdvance st => some st
  | .dealBoundary _ => none
  | .dealOpen _ => none
  | .knContextSetup st => some st
  | .knContextModel st => some st
  | .knContextRegister st => some st
  | .knContextRelease st => some st
  | .knContextTrim st => some st
  | .knContextGrant st => some st
  | .knContextRing st => some st
  | .knContextQuery st => some st
  | .atAppend st => some st
  | .atAttend st => some st
  | .atAdvance st => some st
  | .atRing st => some st
  | .atCombine st => some st
  | .atRingSend st => some st
  | .spOpen st => some st
  | .spVerify st => some st
  | .exRoute st => some st
  | .exSettle st => some st
  | .routingBoardResolved _ => none
  | .exGather st => some st
  | .exCombine st => some st
  | .bwAdapterCreate st => some st
  | .bwAdapterDestroy st => some st
  | .bwAdapterQuery st => some st
  | .bwMul st => some st
  | .bwNorm st => some st
  | .bwSoftmax st => some st
  | .knKeyBindReserve st => some st
  | .knKeyBindLink st => some st
  | .knKeyBindDestroy st => some st
  | .knKeyBindQuery st => some st
  | .hssBudgetRegain => none
  | .ptmExchange => none
  | .ptmResponse _ _ _ => none
  | .mbHello _ => none
  | .mbNonce _ => none
  | .mbOwnerClaim _ => none
  | .mbOwnerTake _ => none
  | .mbOwnerTransfer _ => none
  | .mbOwnerMode _ => none
  | .mbCertGet _ => none
  | .mbAttest _ => none
  | .mbAttestSession _ => none
  | .mbUnitsGet _ => none
  | .mbRetireAck _ => none
  | .mbEventConfig _ => none
  | .mbShoeInit _ => none
  | .mbKittyConfig _ => none
  | .mbKittyCollect _ => none
  | .mbKittyRelease _ => none
  | .mbFarList _ => none
  | .mbFarMap _ => none
  | .mbVaultList _ => none
  | .mbPtmConfig _ => none
  | .mbFwStage _ => none
  | .mbFwStatus _ => none
  | .mbFwDiscard _ => none
  | .mbReset _ => none
  | .mbDebugChallenge _ => none
  | .mbDebugUnlock _ => none
  | .mbDebugPeek _ => none
  | .mbDebugPoke _ => none
  | .registerWrite _ _ _ => none
  | .mbPwrLevel _ => none
  | .mbPwrGate _ => none
  | .mbPwrUngate _ => none
  | .mbPwrStackActive _ => none
  | .mbPwrStackSelfRefresh _ => none
  | .mbPwrVaultActive _ => none
  | .mbPwrVaultStandby _ => none
  | .mbPwrLanes _ => none
  | .mbPwrPortUp _ => none
  | .mbPwrPortDown _ => none
  | .mbPwrCap _ => none
  | .mbTelemRead _ => none
  | .powerTransitionSettled _ _ => none
  | .telemetryWindow _ => none
  | .thermalWarn _ _ _ => none
  | .protectiveStop _ _ _ => none
  | .inServiceTest _ _ => none
  | .inServiceTestEnd _ _ _ => none
  | .killAckTimeout _ _ => none
  | .channelNoAnswer _ => none
  | .retirementWindowEnd => none
  | .eventWindowEnd => none
  | .powerOn => none
  | .startStepEnd _ => none
  | .resetNAssert => none
  | .resetNRelease => none
  | .pcieFundamentalReset _ => none
  | .pcieHotReset _ => none
  | .functionLevelReset _ => none
  | .inputDropout => none
  | .rideThrough => none
  | .rideThroughExpiry => none
  | .inputReturn => none
  | .converterTrip _ => none
  | .osfpPlugInsert _ _ => none
  | .portTrained _ _ _ _ _ => none
  | .binikPortDown _ _ _ => none
  | .replay _ _ _ => none
  | .peerWrite _ => none
  | .peerReadRequest _ => none
  | .readData _ => none
  | .signal _ => none
  | .ringBlock _ => none
  | .refusal _ => none
  | .domainRecord _ => none
  | .proposal _ => none
  | .arrival _ => none
  | .barrierStall => none
  | .rdmaWrite _ => none
  | .rdmaWriteWithImmediate _ => none
  | .rdmaRead _ => none
  | .rdmaResponse _ _ => none
  | .rdmaRetryExpiry _ => none
  | .incomingRdmaWrite _ => none
  | .incomingWriteWithImmediate _ => none
  | .incomingRdmaRead _ => none
  | .congestionNotification _ => none
  | .priorityFlowControl _ _ _ => none
  | .arp _ _ _ _ => none
  | .neighbourDiscovery _ _ _ _ => none
  | .icmpEcho _ _ _ _ _ => none
  | .ethernetLinkLost _ => none
  | .i3cSetdasa _ _ => none
  | .i3cEntdaa _ => none
  | .i3cGetstatus => none
  | .i3cGetpid => none
  | .i3cEventEnable => none
  | .i3cEventDisable => none
  | .startRead _ => none
  | .stopRead _ => none
  | .tempRead _ => none
  | .powerRead _ => none
  | .statusRead _ => none
  | .installStage _ => none
  | .installCommit _ => none
  | .installRead _ => none
  | .membersSet _ => none
  | .expectSet _ => none
  | .routeSet _ => none
  | .epochPropose _ => none
  | .linkRead _ => none
  | .netPortSet _ => none
  | .qpSet _ => none
  | .qpDestroy _ => none
  | .mrSet _ => none
  | .mrDestroy _ => none
  | .commitPoint _ => none
  | .peerAcknowledgement _ _ => none
  | .channelCopyDone _ => none
  | .ethernetLinkUp _ => none
  | .hostLinkDown _ => none
  | .hostLinkUp _ => none
  | .ptmEnable _ _ => none
  | .getVersion _ _ => none
  | .getCapabilities _ _ => none
  | .negotiateAlgorithms _ _ => none
  | .getDigests _ _ => none
  | .getCertificate _ _ => none
  | .challenge _ _ => none
  | .getMeasurements _ _ => none

/-- The hardware errors that a row brings with it. -/
def carriedErrs : Instr → List HwErr
  | .knUnitsGet st => st.errs
  | .mmMul st => st.errs
  | .mmMulList st => st.errs
  | .vxRun st => st.errs
  | .vxEnd st => st.errs
  | .vxSetvl st => st.errs
  | .vxXli st => st.errs
  | .vxXadd st => st.errs
  | .vxXsub st => st.errs
  | .vxBnz st => st.errs
  | .vxLd st => st.errs
  | .vxLdb st => st.errs
  | .vxSt st => st.errs
  | .vxAdd st => st.errs
  | .vxSub st => st.errs
  | .vxMul st => st.errs
  | .vxFma st => st.errs
  | .vxMin st => st.errs
  | .vxMax st => st.errs
  | .vxDiv st => st.errs
  | .vxSqrt st => st.errs
  | .vxAbs st => st.errs
  | .vxNeg st => st.errs
  | .vxMov st => st.errs
  | .vxCmplt st => st.errs
  | .vxCmple st => st.errs
  | .vxCmpeq st => st.errs
  | .vxKand st => st.errs
  | .vxKor st => st.errs
  | .vxKnot st => st.errs
  | .vxCvt st => st.errs
  | .vxRedsum st => st.errs
  | .vxRedmax st => st.errs
  | .vxFn st => st.errs
  | .vxDfn st => st.errs
  | .mvCopy st => st.errs
  | .mvFill st => st.errs
  | .moverStagingGranted st => st.errs
  | .moverEngineWriteOut _ => []
  | .knCstoreAssign st => st.errs
  | .knSpillPoolAdd st => st.errs
  | .knSpillPoolWithdraw st => st.errs
  | .stackTemperatureCrossing _ _ => []
  | .stagedWeightRepair _ errs => errs
  | .farLinkDown _ => []
  | .farLinkTrained _ _ => []
  | .knVaultProvOpen st => st.errs
  | .knVaultProvWrite st => st.errs
  | .knVaultProvClose st => st.errs
  | .knVaultProvAbort st => st.errs
  | .knVaultProvFree st => st.errs
  | .knWeightPlaceSlot st => st.errs
  | .knWeightPlaceBuffer st => st.errs
  | .knWeightPlaceDrop st => st.errs
  | .knModelCutBind st => st.errs
  | .knModelCutArm st => st.errs
  | .knModelCutDisarm st => st.errs
  | .knModelCutUnbind st => st.errs
  | .retiringCopyRelease _ => []
  | .knAsSetCreate st => st.errs
  | .knAsSetSetRoot st => st.errs
  | .knAsSetSetPasid st => st.errs
  | .knAsSetDestroy st => st.errs
  | .knTlbInvalRange st => st.errs
  | .knTlbInvalAsid st => st.errs
  | .knTlbInvalAll st => st.errs
  | .knTlbPin st => st.errs
  | .knTlbUnpin st => st.errs
  | .translationWalk _ _ _ errs => errs
  | .kittyStepsExpiry => []
  | .hostDoorbell _ _ _ => []
  | .shoeFetch errs => errs
  | .knShoeCreate st => st.errs
  | .knShoeDestroy st => st.errs
  | .knShoeSet st => st.errs
  | .knShoeQuery st => st.errs
  | .sySignal st => st.errs
  | .syWait st => st.errs
  | .syWaitSatisfied _ => []
  | .syWaitTimeout _ => []
  | .commandPlacement => []
  | .nextCommandNamed _ => []
  | .writeOutEnd st => st.errs
  | .drainComplete _ => []
  | .knDealerSetConfig st => st.errs
  | .knDealerSetAnte st => st.errs
  | .knDealerSetServeBind st => st.errs
  | .knDealerSetServeUnbind st => st.errs
  | .knDealerSetRequest st => st.errs
  | .knDealerSetAdvance st => st.errs
  | .dealBoundary errs => errs
  | .dealOpen errs => errs
  | .knContextSetup st => st.errs
  | .knContextModel st => st.errs
  | .knContextRegister st => st.errs
  | .knContextRelease st => st.errs
  | .knContextTrim st => st.errs
  | .knContextGrant st => st.errs
  | .knContextRing st => st.errs
  | .knContextQuery st => st.errs
  | .atAppend st => st.errs
  | .atAttend st => st.errs
  | .atAdvance st => st.errs
  | .atRing st => st.errs
  | .atCombine st => st.errs
  | .atRingSend st => st.errs
  | .spOpen st => st.errs
  | .spVerify st => st.errs
  | .exRoute st => st.errs
  | .exSettle st => st.errs
  | .routingBoardResolved _ => []
  | .exGather st => st.errs
  | .exCombine st => st.errs
  | .bwAdapterCreate st => st.errs
  | .bwAdapterDestroy st => st.errs
  | .bwAdapterQuery st => st.errs
  | .bwMul st => st.errs
  | .bwNorm st => st.errs
  | .bwSoftmax st => st.errs
  | .knKeyBindReserve st => st.errs
  | .knKeyBindLink st => st.errs
  | .knKeyBindDestroy st => st.errs
  | .knKeyBindQuery st => st.errs
  | .hssBudgetRegain => []
  | .ptmExchange => []
  | .ptmResponse _ _ _ => []
  | .mbHello _ => []
  | .mbNonce _ => []
  | .mbOwnerClaim _ => []
  | .mbOwnerTake _ => []
  | .mbOwnerTransfer _ => []
  | .mbOwnerMode _ => []
  | .mbCertGet _ => []
  | .mbAttest _ => []
  | .mbAttestSession _ => []
  | .mbUnitsGet _ => []
  | .mbRetireAck _ => []
  | .mbEventConfig _ => []
  | .mbShoeInit _ => []
  | .mbKittyConfig _ => []
  | .mbKittyCollect _ => []
  | .mbKittyRelease _ => []
  | .mbFarList _ => []
  | .mbFarMap _ => []
  | .mbVaultList _ => []
  | .mbPtmConfig _ => []
  | .mbFwStage _ => []
  | .mbFwStatus _ => []
  | .mbFwDiscard _ => []
  | .mbReset _ => []
  | .mbDebugChallenge _ => []
  | .mbDebugUnlock _ => []
  | .mbDebugPeek _ => []
  | .mbDebugPoke _ => []
  | .registerWrite _ _ _ => []
  | .mbPwrLevel _ => []
  | .mbPwrGate _ => []
  | .mbPwrUngate _ => []
  | .mbPwrStackActive _ => []
  | .mbPwrStackSelfRefresh _ => []
  | .mbPwrVaultActive _ => []
  | .mbPwrVaultStandby _ => []
  | .mbPwrLanes _ => []
  | .mbPwrPortUp _ => []
  | .mbPwrPortDown _ => []
  | .mbPwrCap _ => []
  | .mbTelemRead _ => []
  | .powerTransitionSettled _ _ => []
  | .telemetryWindow _ => []
  | .thermalWarn _ _ _ => []
  | .protectiveStop _ _ _ => []
  | .inServiceTest _ _ => []
  | .inServiceTestEnd _ _ _ => []
  | .killAckTimeout _ _ => []
  | .channelNoAnswer _ => []
  | .retirementWindowEnd => []
  | .eventWindowEnd => []
  | .powerOn => []
  | .startStepEnd _ => []
  | .resetNAssert => []
  | .resetNRelease => []
  | .pcieFundamentalReset _ => []
  | .pcieHotReset _ => []
  | .functionLevelReset _ => []
  | .inputDropout => []
  | .rideThrough => []
  | .rideThroughExpiry => []
  | .inputReturn => []
  | .converterTrip _ => []
  | .osfpPlugInsert _ _ => []
  | .portTrained _ _ _ _ _ => []
  | .binikPortDown _ _ _ => []
  | .replay _ _ _ => []
  | .peerWrite _ => []
  | .peerReadRequest _ => []
  | .readData _ => []
  | .signal _ => []
  | .ringBlock _ => []
  | .refusal _ => []
  | .domainRecord _ => []
  | .proposal _ => []
  | .arrival _ => []
  | .barrierStall => []
  | .rdmaWrite _ => []
  | .rdmaWriteWithImmediate _ => []
  | .rdmaRead _ => []
  | .rdmaResponse _ _ => []
  | .rdmaRetryExpiry _ => []
  | .incomingRdmaWrite _ => []
  | .incomingWriteWithImmediate _ => []
  | .incomingRdmaRead _ => []
  | .congestionNotification _ => []
  | .priorityFlowControl _ _ _ => []
  | .arp _ _ _ _ => []
  | .neighbourDiscovery _ _ _ _ => []
  | .icmpEcho _ _ _ _ _ => []
  | .ethernetLinkLost _ => []
  | .i3cSetdasa _ _ => []
  | .i3cEntdaa _ => []
  | .i3cGetstatus => []
  | .i3cGetpid => []
  | .i3cEventEnable => []
  | .i3cEventDisable => []
  | .startRead _ => []
  | .stopRead _ => []
  | .tempRead _ => []
  | .powerRead _ => []
  | .statusRead _ => []
  | .installStage _ => []
  | .installCommit _ => []
  | .installRead _ => []
  | .membersSet _ => []
  | .expectSet _ => []
  | .routeSet _ => []
  | .epochPropose _ => []
  | .linkRead _ => []
  | .netPortSet _ => []
  | .qpSet _ => []
  | .qpDestroy _ => []
  | .mrSet _ => []
  | .mrDestroy _ => []
  | .commitPoint _ => []
  | .peerAcknowledgement _ _ => []
  | .channelCopyDone _ => []
  | .ethernetLinkUp _ => []
  | .hostLinkDown _ => []
  | .hostLinkUp _ => []
  | .ptmEnable _ _ => []
  | .getVersion _ _ => []
  | .getCapabilities _ _ => []
  | .negotiateAlgorithms _ _ => []
  | .getDigests _ _ => []
  | .getCertificate _ _ => []
  | .challenge _ _ => []
  | .getMeasurements _ _ => []

/-- A well-formed command carries well-formed errors, and its steps fit a unit's 64-bit counter. -/
def Statement (i : Instr) : Prop :=
  i.wf = true → (∀ e ∈ carriedErrs i, e.wf = true) ∧ (∀ st, carriedStart i = some st → st.steps < 2 ^ 64)

theorem of_start (st : Start) (h : st.wf = true) : (∀ e ∈ st.errs, e.wf = true) ∧ (∀ st', some st = some st' → st'.steps < 2 ^ 64) := by
  simp only [Start.wf, Bool.and_eq_true, decide_eq_true_eq, List.all_eq_true] at h
  exact ⟨h.2, fun st' e => Option.some.inj e ▸ h.1⟩

theorem of_errs (errs : List HwErr) (h : errs.all HwErr.wf = true) :
    (∀ e ∈ errs, e.wf = true) ∧ (∀ st', (none : Option Start) = some st' → st'.steps < 2 ^ 64) :=
  ⟨List.all_eq_true.mp h, fun _ e => nomatch e⟩

theorem and_right (a b : Bool) (h : (a && b) = true) : b = true := ((Bool.and_eq_true_iff ..).mp h).2

theorem knUnitsGet (st : Start) : Statement (.knUnitsGet st) :=
  fun h => of_start st h
theorem mmMul (st : Start) : Statement (.mmMul st) :=
  fun h => of_start st h
theorem mmMulList (st : Start) : Statement (.mmMulList st) :=
  fun h => of_start st h
theorem vxRun (st : Start) : Statement (.vxRun st) :=
  fun h => of_start st h
theorem vxEnd (st : Start) : Statement (.vxEnd st) :=
  fun h => of_start st h
theorem vxSetvl (st : Start) : Statement (.vxSetvl st) :=
  fun h => of_start st h
theorem vxXli (st : Start) : Statement (.vxXli st) :=
  fun h => of_start st h
theorem vxXadd (st : Start) : Statement (.vxXadd st) :=
  fun h => of_start st h
theorem vxXsub (st : Start) : Statement (.vxXsub st) :=
  fun h => of_start st h
theorem vxBnz (st : Start) : Statement (.vxBnz st) :=
  fun h => of_start st h
theorem vxLd (st : Start) : Statement (.vxLd st) :=
  fun h => of_start st h
theorem vxLdb (st : Start) : Statement (.vxLdb st) :=
  fun h => of_start st h
theorem vxSt (st : Start) : Statement (.vxSt st) :=
  fun h => of_start st h
theorem vxAdd (st : Start) : Statement (.vxAdd st) :=
  fun h => of_start st h
theorem vxSub (st : Start) : Statement (.vxSub st) :=
  fun h => of_start st h
theorem vxMul (st : Start) : Statement (.vxMul st) :=
  fun h => of_start st h
theorem vxFma (st : Start) : Statement (.vxFma st) :=
  fun h => of_start st h
theorem vxMin (st : Start) : Statement (.vxMin st) :=
  fun h => of_start st h
theorem vxMax (st : Start) : Statement (.vxMax st) :=
  fun h => of_start st h
theorem vxDiv (st : Start) : Statement (.vxDiv st) :=
  fun h => of_start st h
theorem vxSqrt (st : Start) : Statement (.vxSqrt st) :=
  fun h => of_start st h
theorem vxAbs (st : Start) : Statement (.vxAbs st) :=
  fun h => of_start st h
theorem vxNeg (st : Start) : Statement (.vxNeg st) :=
  fun h => of_start st h
theorem vxMov (st : Start) : Statement (.vxMov st) :=
  fun h => of_start st h
theorem vxCmplt (st : Start) : Statement (.vxCmplt st) :=
  fun h => of_start st h
theorem vxCmple (st : Start) : Statement (.vxCmple st) :=
  fun h => of_start st h
theorem vxCmpeq (st : Start) : Statement (.vxCmpeq st) :=
  fun h => of_start st h
theorem vxKand (st : Start) : Statement (.vxKand st) :=
  fun h => of_start st h
theorem vxKor (st : Start) : Statement (.vxKor st) :=
  fun h => of_start st h
theorem vxKnot (st : Start) : Statement (.vxKnot st) :=
  fun h => of_start st h
theorem vxCvt (st : Start) : Statement (.vxCvt st) :=
  fun h => of_start st h
theorem vxRedsum (st : Start) : Statement (.vxRedsum st) :=
  fun h => of_start st h
theorem vxRedmax (st : Start) : Statement (.vxRedmax st) :=
  fun h => of_start st h
theorem vxFn (st : Start) : Statement (.vxFn st) :=
  fun h => of_start st h
theorem vxDfn (st : Start) : Statement (.vxDfn st) :=
  fun h => of_start st h
theorem mvCopy (st : Start) : Statement (.mvCopy st) :=
  fun h => of_start st h
theorem mvFill (st : Start) : Statement (.mvFill st) :=
  fun h => of_start st h
theorem moverStagingGranted (st : Start) : Statement (.moverStagingGranted st) :=
  fun h => of_start st h
theorem moverEngineWriteOut (cid : Nat) : Statement (.moverEngineWriteOut cid) :=
  fun _ => ⟨fun _ h => absurd h (List.not_mem_nil), fun _ h => nomatch h⟩
theorem knCstoreAssign (st : Start) : Statement (.knCstoreAssign st) :=
  fun h => of_start st h
theorem knSpillPoolAdd (st : Start) : Statement (.knSpillPoolAdd st) :=
  fun h => of_start st h
theorem knSpillPoolWithdraw (st : Start) : Statement (.knSpillPoolWithdraw st) :=
  fun h => of_start st h
theorem stackTemperatureCrossing (stack : Nat) (reading : Int) : Statement (.stackTemperatureCrossing stack reading) :=
  fun _ => ⟨fun _ h => absurd h (List.not_mem_nil), fun _ h => nomatch h⟩
theorem stagedWeightRepair (pa : Nat) (errs : List HwErr) : Statement (.stagedWeightRepair pa errs) :=
  fun h => of_errs errs (and_right _ _ h)
theorem farLinkDown (port : Nat) : Statement (.farLinkDown port) :=
  fun _ => ⟨fun _ h => absurd h (List.not_mem_nil), fun _ h => nomatch h⟩
theorem farLinkTrained (port : Nat) (offers : List FarOffer) : Statement (.farLinkTrained port offers) :=
  fun _ => ⟨fun _ h => absurd h (List.not_mem_nil), fun _ h => nomatch h⟩
theorem knVaultProvOpen (st : Start) : Statement (.knVaultProvOpen st) :=
  fun h => of_start st h
theorem knVaultProvWrite (st : Start) : Statement (.knVaultProvWrite st) :=
  fun h => of_start st h
theorem knVaultProvClose (st : Start) : Statement (.knVaultProvClose st) :=
  fun h => of_start st h
theorem knVaultProvAbort (st : Start) : Statement (.knVaultProvAbort st) :=
  fun h => of_start st h
theorem knVaultProvFree (st : Start) : Statement (.knVaultProvFree st) :=
  fun h => of_start st h
theorem knWeightPlaceSlot (st : Start) : Statement (.knWeightPlaceSlot st) :=
  fun h => of_start st h
theorem knWeightPlaceBuffer (st : Start) : Statement (.knWeightPlaceBuffer st) :=
  fun h => of_start st h
theorem knWeightPlaceDrop (st : Start) : Statement (.knWeightPlaceDrop st) :=
  fun h => of_start st h
theorem knModelCutBind (st : Start) : Statement (.knModelCutBind st) :=
  fun h => of_start st h
theorem knModelCutArm (st : Start) : Statement (.knModelCutArm st) :=
  fun h => of_start st h
theorem knModelCutDisarm (st : Start) : Statement (.knModelCutDisarm st) :=
  fun h => of_start st h
theorem knModelCutUnbind (st : Start) : Statement (.knModelCutUnbind st) :=
  fun h => of_start st h
theorem retiringCopyRelease (model : Nat) : Statement (.retiringCopyRelease model) :=
  fun _ => ⟨fun _ h => absurd h (List.not_mem_nil), fun _ h => nomatch h⟩
theorem knAsSetCreate (st : Start) : Statement (.knAsSetCreate st) :=
  fun h => of_start st h
theorem knAsSetSetRoot (st : Start) : Statement (.knAsSetSetRoot st) :=
  fun h => of_start st h
theorem knAsSetSetPasid (st : Start) : Statement (.knAsSetSetPasid st) :=
  fun h => of_start st h
theorem knAsSetDestroy (st : Start) : Statement (.knAsSetDestroy st) :=
  fun h => of_start st h
theorem knTlbInvalRange (st : Start) : Statement (.knTlbInvalRange st) :=
  fun h => of_start st h
theorem knTlbInvalAsid (st : Start) : Statement (.knTlbInvalAsid st) :=
  fun h => of_start st h
theorem knTlbInvalAll (st : Start) : Statement (.knTlbInvalAll st) :=
  fun h => of_start st h
theorem knTlbPin (st : Start) : Statement (.knTlbPin st) :=
  fun h => of_start st h
theorem knTlbUnpin (st : Start) : Statement (.knTlbUnpin st) :=
  fun h => of_start st h
theorem translationWalk (cid va : Nat) (write : Bool) (errs : List HwErr) : Statement (.translationWalk cid va write errs) :=
  fun h => of_errs errs (and_right _ _ h)
theorem kittyStepsExpiry : Statement (.kittyStepsExpiry) :=
  fun _ => ⟨fun _ h => absurd h (List.not_mem_nil), fun _ h => nomatch h⟩
theorem hostDoorbell (port shoe : Nat) (writes : List HostWrite) : Statement (.hostDoorbell port shoe writes) :=
  fun _ => ⟨fun _ h => absurd h (List.not_mem_nil), fun _ h => nomatch h⟩
theorem shoeFetch (errs : List HwErr) : Statement (.shoeFetch errs) :=
  fun h => of_errs errs h
theorem knShoeCreate (st : Start) : Statement (.knShoeCreate st) :=
  fun h => of_start st h
theorem knShoeDestroy (st : Start) : Statement (.knShoeDestroy st) :=
  fun h => of_start st h
theorem knShoeSet (st : Start) : Statement (.knShoeSet st) :=
  fun h => of_start st h
theorem knShoeQuery (st : Start) : Statement (.knShoeQuery st) :=
  fun h => of_start st h
theorem sySignal (st : Start) : Statement (.sySignal st) :=
  fun h => of_start st h
theorem syWait (st : Start) : Statement (.syWait st) :=
  fun h => of_start st h
theorem syWaitSatisfied (cid : Nat) : Statement (.syWaitSatisfied cid) :=
  fun _ => ⟨fun _ h => absurd h (List.not_mem_nil), fun _ h => nomatch h⟩
theorem syWaitTimeout (cid : Nat) : Statement (.syWaitTimeout cid) :=
  fun _ => ⟨fun _ h => absurd h (List.not_mem_nil), fun _ h => nomatch h⟩
theorem commandPlacement : Statement (.commandPlacement) :=
  fun _ => ⟨fun _ h => absurd h (List.not_mem_nil), fun _ h => nomatch h⟩
theorem nextCommandNamed (engine : Nat) : Statement (.nextCommandNamed engine) :=
  fun _ => ⟨fun _ h => absurd h (List.not_mem_nil), fun _ h => nomatch h⟩
theorem writeOutEnd (st : Start) : Statement (.writeOutEnd st) :=
  fun h => of_start st h
theorem drainComplete (cid : Nat) : Statement (.drainComplete cid) :=
  fun _ => ⟨fun _ h => absurd h (List.not_mem_nil), fun _ h => nomatch h⟩
theorem knDealerSetConfig (st : Start) : Statement (.knDealerSetConfig st) :=
  fun h => of_start st h
theorem knDealerSetAnte (st : Start) : Statement (.knDealerSetAnte st) :=
  fun h => of_start st h
theorem knDealerSetServeBind (st : Start) : Statement (.knDealerSetServeBind st) :=
  fun h => of_start st h
theorem knDealerSetServeUnbind (st : Start) : Statement (.knDealerSetServeUnbind st) :=
  fun h => of_start st h
theorem knDealerSetRequest (st : Start) : Statement (.knDealerSetRequest st) :=
  fun h => of_start st h
theorem knDealerSetAdvance (st : Start) : Statement (.knDealerSetAdvance st) :=
  fun h => of_start st h
theorem dealBoundary (errs : List HwErr) : Statement (.dealBoundary errs) :=
  fun h => of_errs errs h
theorem dealOpen (errs : List HwErr) : Statement (.dealOpen errs) :=
  fun h => of_errs errs h
theorem knContextSetup (st : Start) : Statement (.knContextSetup st) :=
  fun h => of_start st h
theorem knContextModel (st : Start) : Statement (.knContextModel st) :=
  fun h => of_start st h
theorem knContextRegister (st : Start) : Statement (.knContextRegister st) :=
  fun h => of_start st h
theorem knContextRelease (st : Start) : Statement (.knContextRelease st) :=
  fun h => of_start st h
theorem knContextTrim (st : Start) : Statement (.knContextTrim st) :=
  fun h => of_start st h
theorem knContextGrant (st : Start) : Statement (.knContextGrant st) :=
  fun h => of_start st h
theorem knContextRing (st : Start) : Statement (.knContextRing st) :=
  fun h => of_start st h
theorem knContextQuery (st : Start) : Statement (.knContextQuery st) :=
  fun h => of_start st h
theorem atAppend (st : Start) : Statement (.atAppend st) :=
  fun h => of_start st h
theorem atAttend (st : Start) : Statement (.atAttend st) :=
  fun h => of_start st h
theorem atAdvance (st : Start) : Statement (.atAdvance st) :=
  fun h => of_start st h
theorem atRing (st : Start) : Statement (.atRing st) :=
  fun h => of_start st h
theorem atCombine (st : Start) : Statement (.atCombine st) :=
  fun h => of_start st h
theorem atRingSend (st : Start) : Statement (.atRingSend st) :=
  fun h => of_start st h
theorem spOpen (st : Start) : Statement (.spOpen st) :=
  fun h => of_start st h
theorem spVerify (st : Start) : Statement (.spVerify st) :=
  fun h => of_start st h
theorem exRoute (st : Start) : Statement (.exRoute st) :=
  fun h => of_start st h
theorem exSettle (st : Start) : Statement (.exSettle st) :=
  fun h => of_start st h
theorem routingBoardResolved (board : Nat) : Statement (.routingBoardResolved board) :=
  fun _ => ⟨fun _ h => absurd h (List.not_mem_nil), fun _ h => nomatch h⟩
theorem exGather (st : Start) : Statement (.exGather st) :=
  fun h => of_start st h
theorem exCombine (st : Start) : Statement (.exCombine st) :=
  fun h => of_start st h
theorem bwAdapterCreate (st : Start) : Statement (.bwAdapterCreate st) :=
  fun h => of_start st h
theorem bwAdapterDestroy (st : Start) : Statement (.bwAdapterDestroy st) :=
  fun h => of_start st h
theorem bwAdapterQuery (st : Start) : Statement (.bwAdapterQuery st) :=
  fun h => of_start st h
theorem bwMul (st : Start) : Statement (.bwMul st) :=
  fun h => of_start st h
theorem bwNorm (st : Start) : Statement (.bwNorm st) :=
  fun h => of_start st h
theorem bwSoftmax (st : Start) : Statement (.bwSoftmax st) :=
  fun h => of_start st h
theorem knKeyBindReserve (st : Start) : Statement (.knKeyBindReserve st) :=
  fun h => of_start st h
theorem knKeyBindLink (st : Start) : Statement (.knKeyBindLink st) :=
  fun h => of_start st h
theorem knKeyBindDestroy (st : Start) : Statement (.knKeyBindDestroy st) :=
  fun h => of_start st h
theorem knKeyBindQuery (st : Start) : Statement (.knKeyBindQuery st) :=
  fun h => of_start st h
theorem hssBudgetRegain : Statement (.hssBudgetRegain) :=
  fun _ => ⟨fun _ h => absurd h (List.not_mem_nil), fun _ h => nomatch h⟩
theorem ptmExchange : Statement (.ptmExchange) :=
  fun _ => ⟨fun _ h => absurd h (List.not_mem_nil), fun _ h => nomatch h⟩
theorem ptmResponse (port time : Nat) (good : Bool) : Statement (.ptmResponse port time good) :=
  fun _ => ⟨fun _ h => absurd h (List.not_mem_nil), fun _ h => nomatch h⟩
theorem mbHello (rq : MbReq) : Statement (.mbHello rq) :=
  fun _ => ⟨fun _ h => absurd h (List.not_mem_nil), fun _ h => nomatch h⟩
theorem mbNonce (rq : MbReq) : Statement (.mbNonce rq) :=
  fun _ => ⟨fun _ h => absurd h (List.not_mem_nil), fun _ h => nomatch h⟩
theorem mbOwnerClaim (rq : MbReq) : Statement (.mbOwnerClaim rq) :=
  fun _ => ⟨fun _ h => absurd h (List.not_mem_nil), fun _ h => nomatch h⟩
theorem mbOwnerTake (rq : MbReq) : Statement (.mbOwnerTake rq) :=
  fun _ => ⟨fun _ h => absurd h (List.not_mem_nil), fun _ h => nomatch h⟩
theorem mbOwnerTransfer (rq : MbReq) : Statement (.mbOwnerTransfer rq) :=
  fun _ => ⟨fun _ h => absurd h (List.not_mem_nil), fun _ h => nomatch h⟩
theorem mbOwnerMode (rq : MbReq) : Statement (.mbOwnerMode rq) :=
  fun _ => ⟨fun _ h => absurd h (List.not_mem_nil), fun _ h => nomatch h⟩
theorem mbCertGet (rq : MbReq) : Statement (.mbCertGet rq) :=
  fun _ => ⟨fun _ h => absurd h (List.not_mem_nil), fun _ h => nomatch h⟩
theorem mbAttest (rq : MbReq) : Statement (.mbAttest rq) :=
  fun _ => ⟨fun _ h => absurd h (List.not_mem_nil), fun _ h => nomatch h⟩
theorem mbAttestSession (rq : MbReq) : Statement (.mbAttestSession rq) :=
  fun _ => ⟨fun _ h => absurd h (List.not_mem_nil), fun _ h => nomatch h⟩
theorem mbUnitsGet (rq : MbReq) : Statement (.mbUnitsGet rq) :=
  fun _ => ⟨fun _ h => absurd h (List.not_mem_nil), fun _ h => nomatch h⟩
theorem mbRetireAck (rq : MbReq) : Statement (.mbRetireAck rq) :=
  fun _ => ⟨fun _ h => absurd h (List.not_mem_nil), fun _ h => nomatch h⟩
theorem mbEventConfig (rq : MbReq) : Statement (.mbEventConfig rq) :=
  fun _ => ⟨fun _ h => absurd h (List.not_mem_nil), fun _ h => nomatch h⟩
theorem mbShoeInit (rq : MbReq) : Statement (.mbShoeInit rq) :=
  fun _ => ⟨fun _ h => absurd h (List.not_mem_nil), fun _ h => nomatch h⟩
theorem mbKittyConfig (rq : MbReq) : Statement (.mbKittyConfig rq) :=
  fun _ => ⟨fun _ h => absurd h (List.not_mem_nil), fun _ h => nomatch h⟩
theorem mbKittyCollect (rq : MbReq) : Statement (.mbKittyCollect rq) :=
  fun _ => ⟨fun _ h => absurd h (List.not_mem_nil), fun _ h => nomatch h⟩
theorem mbKittyRelease (rq : MbReq) : Statement (.mbKittyRelease rq) :=
  fun _ => ⟨fun _ h => absurd h (List.not_mem_nil), fun _ h => nomatch h⟩
theorem mbFarList (rq : MbReq) : Statement (.mbFarList rq) :=
  fun _ => ⟨fun _ h => absurd h (List.not_mem_nil), fun _ h => nomatch h⟩
theorem mbFarMap (rq : MbReq) : Statement (.mbFarMap rq) :=
  fun _ => ⟨fun _ h => absurd h (List.not_mem_nil), fun _ h => nomatch h⟩
theorem mbVaultList (rq : MbReq) : Statement (.mbVaultList rq) :=
  fun _ => ⟨fun _ h => absurd h (List.not_mem_nil), fun _ h => nomatch h⟩
theorem mbPtmConfig (rq : MbReq) : Statement (.mbPtmConfig rq) :=
  fun _ => ⟨fun _ h => absurd h (List.not_mem_nil), fun _ h => nomatch h⟩
theorem mbFwStage (rq : MbReq) : Statement (.mbFwStage rq) :=
  fun _ => ⟨fun _ h => absurd h (List.not_mem_nil), fun _ h => nomatch h⟩
theorem mbFwStatus (rq : MbReq) : Statement (.mbFwStatus rq) :=
  fun _ => ⟨fun _ h => absurd h (List.not_mem_nil), fun _ h => nomatch h⟩
theorem mbFwDiscard (rq : MbReq) : Statement (.mbFwDiscard rq) :=
  fun _ => ⟨fun _ h => absurd h (List.not_mem_nil), fun _ h => nomatch h⟩
theorem mbReset (rq : MbReq) : Statement (.mbReset rq) :=
  fun _ => ⟨fun _ h => absurd h (List.not_mem_nil), fun _ h => nomatch h⟩
theorem mbDebugChallenge (rq : MbReq) : Statement (.mbDebugChallenge rq) :=
  fun _ => ⟨fun _ h => absurd h (List.not_mem_nil), fun _ h => nomatch h⟩
theorem mbDebugUnlock (rq : MbReq) : Statement (.mbDebugUnlock rq) :=
  fun _ => ⟨fun _ h => absurd h (List.not_mem_nil), fun _ h => nomatch h⟩
theorem mbDebugPeek (rq : MbReq) : Statement (.mbDebugPeek rq) :=
  fun _ => ⟨fun _ h => absurd h (List.not_mem_nil), fun _ h => nomatch h⟩
theorem mbDebugPoke (rq : MbReq) : Statement (.mbDebugPoke rq) :=
  fun _ => ⟨fun _ h => absurd h (List.not_mem_nil), fun _ h => nomatch h⟩
theorem registerWrite (port offset value : Nat) : Statement (.registerWrite port offset value) :=
  fun _ => ⟨fun _ h => absurd h (List.not_mem_nil), fun _ h => nomatch h⟩
theorem mbPwrLevel (rq : MbReq) : Statement (.mbPwrLevel rq) :=
  fun _ => ⟨fun _ h => absurd h (List.not_mem_nil), fun _ h => nomatch h⟩
theorem mbPwrGate (rq : MbReq) : Statement (.mbPwrGate rq) :=
  fun _ => ⟨fun _ h => absurd h (List.not_mem_nil), fun _ h => nomatch h⟩
theorem mbPwrUngate (rq : MbReq) : Statement (.mbPwrUngate rq) :=
  fun _ => ⟨fun _ h => absurd h (List.not_mem_nil), fun _ h => nomatch h⟩
theorem mbPwrStackActive (rq : MbReq) : Statement (.mbPwrStackActive rq) :=
  fun _ => ⟨fun _ h => absurd h (List.not_mem_nil), fun _ h => nomatch h⟩
theorem mbPwrStackSelfRefresh (rq : MbReq) : Statement (.mbPwrStackSelfRefresh rq) :=
  fun _ => ⟨fun _ h => absurd h (List.not_mem_nil), fun _ h => nomatch h⟩
theorem mbPwrVaultActive (rq : MbReq) : Statement (.mbPwrVaultActive rq) :=
  fun _ => ⟨fun _ h => absurd h (List.not_mem_nil), fun _ h => nomatch h⟩
theorem mbPwrVaultStandby (rq : MbReq) : Statement (.mbPwrVaultStandby rq) :=
  fun _ => ⟨fun _ h => absurd h (List.not_mem_nil), fun _ h => nomatch h⟩
theorem mbPwrLanes (rq : MbReq) : Statement (.mbPwrLanes rq) :=
  fun _ => ⟨fun _ h => absurd h (List.not_mem_nil), fun _ h => nomatch h⟩
theorem mbPwrPortUp (rq : MbReq) : Statement (.mbPwrPortUp rq) :=
  fun _ => ⟨fun _ h => absurd h (List.not_mem_nil), fun _ h => nomatch h⟩
theorem mbPwrPortDown (rq : MbReq) : Statement (.mbPwrPortDown rq) :=
  fun _ => ⟨fun _ h => absurd h (List.not_mem_nil), fun _ h => nomatch h⟩
theorem mbPwrCap (rq : MbReq) : Statement (.mbPwrCap rq) :=
  fun _ => ⟨fun _ h => absurd h (List.not_mem_nil), fun _ h => nomatch h⟩
theorem mbTelemRead (rq : MbReq) : Statement (.mbTelemRead rq) :=
  fun _ => ⟨fun _ h => absurd h (List.not_mem_nil), fun _ h => nomatch h⟩
theorem powerTransitionSettled (kind index : Nat) : Statement (.powerTransitionSettled kind index) :=
  fun _ => ⟨fun _ h => absurd h (List.not_mem_nil), fun _ h => nomatch h⟩
theorem telemetryWindow (rd : Readings) : Statement (.telemetryWindow rd) :=
  fun _ => ⟨fun _ h => absurd h (List.not_mem_nil), fun _ h => nomatch h⟩
theorem thermalWarn (sensor index : Nat) (reading : Int) : Statement (.thermalWarn sensor index reading) :=
  fun _ => ⟨fun _ h => absurd h (List.not_mem_nil), fun _ h => nomatch h⟩
theorem protectiveStop (sensor index : Nat) (reading : Int) : Statement (.protectiveStop sensor index reading) :=
  fun _ => ⟨fun _ h => absurd h (List.not_mem_nil), fun _ h => nomatch h⟩
theorem inServiceTest (kind index : Nat) : Statement (.inServiceTest kind index) :=
  fun _ => ⟨fun _ h => absurd h (List.not_mem_nil), fun _ h => nomatch h⟩
theorem inServiceTestEnd (kind index : Nat) (passed : Bool) : Statement (.inServiceTestEnd kind index passed) :=
  fun _ => ⟨fun _ h => absurd h (List.not_mem_nil), fun _ h => nomatch h⟩
theorem killAckTimeout (kind index : Nat) : Statement (.killAckTimeout kind index) :=
  fun _ => ⟨fun _ h => absurd h (List.not_mem_nil), fun _ h => nomatch h⟩
theorem channelNoAnswer (channel : Nat) : Statement (.channelNoAnswer channel) :=
  fun _ => ⟨fun _ h => absurd h (List.not_mem_nil), fun _ h => nomatch h⟩
theorem retirementWindowEnd : Statement (.retirementWindowEnd) :=
  fun _ => ⟨fun _ h => absurd h (List.not_mem_nil), fun _ h => nomatch h⟩
theorem eventWindowEnd : Statement (.eventWindowEnd) :=
  fun _ => ⟨fun _ h => absurd h (List.not_mem_nil), fun _ h => nomatch h⟩
theorem powerOn : Statement (.powerOn) :=
  fun _ => ⟨fun _ h => absurd h (List.not_mem_nil), fun _ h => nomatch h⟩
theorem startStepEnd (rp : StepReport) : Statement (.startStepEnd rp) :=
  fun _ => ⟨fun _ h => absurd h (List.not_mem_nil), fun _ h => nomatch h⟩
theorem resetNAssert : Statement (.resetNAssert) :=
  fun _ => ⟨fun _ h => absurd h (List.not_mem_nil), fun _ h => nomatch h⟩
theorem resetNRelease : Statement (.resetNRelease) :=
  fun _ => ⟨fun _ h => absurd h (List.not_mem_nil), fun _ h => nomatch h⟩
theorem pcieFundamentalReset (port : Nat) : Statement (.pcieFundamentalReset port) :=
  fun _ => ⟨fun _ h => absurd h (List.not_mem_nil), fun _ h => nomatch h⟩
theorem pcieHotReset (port : Nat) : Statement (.pcieHotReset port) :=
  fun _ => ⟨fun _ h => absurd h (List.not_mem_nil), fun _ h => nomatch h⟩
theorem functionLevelReset (port : Nat) : Statement (.functionLevelReset port) :=
  fun _ => ⟨fun _ h => absurd h (List.not_mem_nil), fun _ h => nomatch h⟩
theorem inputDropout : Statement (.inputDropout) :=
  fun _ => ⟨fun _ h => absurd h (List.not_mem_nil), fun _ h => nomatch h⟩
theorem rideThrough : Statement (.rideThrough) :=
  fun _ => ⟨fun _ h => absurd h (List.not_mem_nil), fun _ h => nomatch h⟩
theorem rideThroughExpiry : Statement (.rideThroughExpiry) :=
  fun _ => ⟨fun _ h => absurd h (List.not_mem_nil), fun _ h => nomatch h⟩
theorem inputReturn : Statement (.inputReturn) :=
  fun _ => ⟨fun _ h => absurd h (List.not_mem_nil), fun _ h => nomatch h⟩
theorem converterTrip (rail : Nat) : Statement (.converterTrip rail) :=
  fun _ => ⟨fun _ h => absurd h (List.not_mem_nil), fun _ h => nomatch h⟩
theorem osfpPlugInsert (port watts : Nat) : Statement (.osfpPlugInsert port watts) :=
  fun _ => ⟨fun _ h => absurd h (List.not_mem_nil), fun _ h => nomatch h⟩
theorem portTrained (port : Nat) (lanes : BitVec 4) (lowVer highVer : Nat) (record : List Byte) : Statement (.portTrained port lanes lowVer highVer record) :=
  fun _ => ⟨fun _ h => absurd h (List.not_mem_nil), fun _ h => nomatch h⟩
theorem binikPortDown (port reason lane : Nat) : Statement (.binikPortDown port reason lane) :=
  fun _ => ⟨fun _ h => absurd h (List.not_mem_nil), fun _ h => nomatch h⟩
theorem replay (port : Nat) (lane : Nat) (gaveUp : Bool) : Statement (.replay port lane gaveUp) :=
  fun _ => ⟨fun _ h => absurd h (List.not_mem_nil), fun _ h => nomatch h⟩
theorem peerWrite (m : PeerMsg) : Statement (.peerWrite m) :=
  fun _ => ⟨fun _ h => absurd h (List.not_mem_nil), fun _ h => nomatch h⟩
theorem peerReadRequest (m : PeerMsg) : Statement (.peerReadRequest m) :=
  fun _ => ⟨fun _ h => absurd h (List.not_mem_nil), fun _ h => nomatch h⟩
theorem readData (m : PeerMsg) : Statement (.readData m) :=
  fun _ => ⟨fun _ h => absurd h (List.not_mem_nil), fun _ h => nomatch h⟩
theorem signal (m : PeerMsg) : Statement (.signal m) :=
  fun _ => ⟨fun _ h => absurd h (List.not_mem_nil), fun _ h => nomatch h⟩
theorem ringBlock (m : PeerMsg) : Statement (.ringBlock m) :=
  fun _ => ⟨fun _ h => absurd h (List.not_mem_nil), fun _ h => nomatch h⟩
theorem refusal (m : PeerMsg) : Statement (.refusal m) :=
  fun _ => ⟨fun _ h => absurd h (List.not_mem_nil), fun _ h => nomatch h⟩
theorem domainRecord (m : PeerMsg) : Statement (.domainRecord m) :=
  fun _ => ⟨fun _ h => absurd h (List.not_mem_nil), fun _ h => nomatch h⟩
theorem proposal (m : PeerMsg) : Statement (.proposal m) :=
  fun _ => ⟨fun _ h => absurd h (List.not_mem_nil), fun _ h => nomatch h⟩
theorem arrival (m : PeerMsg) : Statement (.arrival m) :=
  fun _ => ⟨fun _ h => absurd h (List.not_mem_nil), fun _ h => nomatch h⟩
theorem barrierStall : Statement (.barrierStall) :=
  fun _ => ⟨fun _ h => absurd h (List.not_mem_nil), fun _ h => nomatch h⟩
theorem rdmaWrite (qp : Nat) : Statement (.rdmaWrite qp) :=
  fun _ => ⟨fun _ h => absurd h (List.not_mem_nil), fun _ h => nomatch h⟩
theorem rdmaWriteWithImmediate (qp : Nat) : Statement (.rdmaWriteWithImmediate qp) :=
  fun _ => ⟨fun _ h => absurd h (List.not_mem_nil), fun _ h => nomatch h⟩
theorem rdmaRead (qp : Nat) : Statement (.rdmaRead qp) :=
  fun _ => ⟨fun _ h => absurd h (List.not_mem_nil), fun _ h => nomatch h⟩
theorem rdmaResponse (qp : Nat) (answer : RdmaAnswer) : Statement (.rdmaResponse qp answer) :=
  fun _ => ⟨fun _ h => absurd h (List.not_mem_nil), fun _ h => nomatch h⟩
theorem rdmaRetryExpiry (qp : Nat) : Statement (.rdmaRetryExpiry qp) :=
  fun _ => ⟨fun _ h => absurd h (List.not_mem_nil), fun _ h => nomatch h⟩
theorem incomingRdmaWrite (p : RdmaReq) : Statement (.incomingRdmaWrite p) :=
  fun _ => ⟨fun _ h => absurd h (List.not_mem_nil), fun _ h => nomatch h⟩
theorem incomingWriteWithImmediate (p : RdmaReq) : Statement (.incomingWriteWithImmediate p) :=
  fun _ => ⟨fun _ h => absurd h (List.not_mem_nil), fun _ h => nomatch h⟩
theorem incomingRdmaRead (p : RdmaReq) : Statement (.incomingRdmaRead p) :=
  fun _ => ⟨fun _ h => absurd h (List.not_mem_nil), fun _ h => nomatch h⟩
theorem congestionNotification (qp : Nat) : Statement (.congestionNotification qp) :=
  fun _ => ⟨fun _ h => absurd h (List.not_mem_nil), fun _ h => nomatch h⟩
theorem priorityFlowControl (port : Nat) (classes : BitVec 8) (pause : Bool) : Statement (.priorityFlowControl port classes pause) :=
  fun _ => ⟨fun _ h => absurd h (List.not_mem_nil), fun _ h => nomatch h⟩
theorem arp (port senderIp targetIp senderMac : Nat) : Statement (.arp port senderIp targetIp senderMac) :=
  fun _ => ⟨fun _ h => absurd h (List.not_mem_nil), fun _ h => nomatch h⟩
theorem neighbourDiscovery (port senderIp targetIp senderMac : Nat) : Statement (.neighbourDiscovery port senderIp targetIp senderMac) :=
  fun _ => ⟨fun _ h => absurd h (List.not_mem_nil), fun _ h => nomatch h⟩
theorem icmpEcho (port : Nat) (v6 : Bool) (senderIp targetIp : Nat) (data : List Byte) : Statement (.icmpEcho port v6 senderIp targetIp data) :=
  fun _ => ⟨fun _ h => absurd h (List.not_mem_nil), fun _ h => nomatch h⟩
theorem ethernetLinkLost (port : Nat) : Statement (.ethernetLinkLost port) :=
  fun _ => ⟨fun _ h => absurd h (List.not_mem_nil), fun _ h => nomatch h⟩
theorem i3cSetdasa (static dynamic : Nat) : Statement (.i3cSetdasa static dynamic) :=
  fun _ => ⟨fun _ h => absurd h (List.not_mem_nil), fun _ h => nomatch h⟩
theorem i3cEntdaa (dynamic : Nat) : Statement (.i3cEntdaa dynamic) :=
  fun _ => ⟨fun _ h => absurd h (List.not_mem_nil), fun _ h => nomatch h⟩
theorem i3cGetstatus : Statement (.i3cGetstatus) :=
  fun _ => ⟨fun _ h => absurd h (List.not_mem_nil), fun _ h => nomatch h⟩
theorem i3cGetpid : Statement (.i3cGetpid) :=
  fun _ => ⟨fun _ h => absurd h (List.not_mem_nil), fun _ h => nomatch h⟩
theorem i3cEventEnable : Statement (.i3cEventEnable) :=
  fun _ => ⟨fun _ h => absurd h (List.not_mem_nil), fun _ h => nomatch h⟩
theorem i3cEventDisable : Statement (.i3cEventDisable) :=
  fun _ => ⟨fun _ h => absurd h (List.not_mem_nil), fun _ h => nomatch h⟩
theorem startRead (rq : SbReq) : Statement (.startRead rq) :=
  fun _ => ⟨fun _ h => absurd h (List.not_mem_nil), fun _ h => nomatch h⟩
theorem stopRead (rq : SbReq) : Statement (.stopRead rq) :=
  fun _ => ⟨fun _ h => absurd h (List.not_mem_nil), fun _ h => nomatch h⟩
theorem tempRead (rq : SbReq) : Statement (.tempRead rq) :=
  fun _ => ⟨fun _ h => absurd h (List.not_mem_nil), fun _ h => nomatch h⟩
theorem powerRead (rq : SbReq) : Statement (.powerRead rq) :=
  fun _ => ⟨fun _ h => absurd h (List.not_mem_nil), fun _ h => nomatch h⟩
theorem statusRead (rq : SbReq) : Statement (.statusRead rq) :=
  fun _ => ⟨fun _ h => absurd h (List.not_mem_nil), fun _ h => nomatch h⟩
theorem installStage (rq : SbReq) : Statement (.installStage rq) :=
  fun _ => ⟨fun _ h => absurd h (List.not_mem_nil), fun _ h => nomatch h⟩
theorem installCommit (rq : SbReq) : Statement (.installCommit rq) :=
  fun _ => ⟨fun _ h => absurd h (List.not_mem_nil), fun _ h => nomatch h⟩
theorem installRead (rq : SbReq) : Statement (.installRead rq) :=
  fun _ => ⟨fun _ h => absurd h (List.not_mem_nil), fun _ h => nomatch h⟩
theorem membersSet (rq : SbReq) : Statement (.membersSet rq) :=
  fun _ => ⟨fun _ h => absurd h (List.not_mem_nil), fun _ h => nomatch h⟩
theorem expectSet (rq : SbReq) : Statement (.expectSet rq) :=
  fun _ => ⟨fun _ h => absurd h (List.not_mem_nil), fun _ h => nomatch h⟩
theorem routeSet (rq : SbReq) : Statement (.routeSet rq) :=
  fun _ => ⟨fun _ h => absurd h (List.not_mem_nil), fun _ h => nomatch h⟩
theorem epochPropose (rq : SbReq) : Statement (.epochPropose rq) :=
  fun _ => ⟨fun _ h => absurd h (List.not_mem_nil), fun _ h => nomatch h⟩
theorem linkRead (rq : SbReq) : Statement (.linkRead rq) :=
  fun _ => ⟨fun _ h => absurd h (List.not_mem_nil), fun _ h => nomatch h⟩
theorem netPortSet (rq : SbReq) : Statement (.netPortSet rq) :=
  fun _ => ⟨fun _ h => absurd h (List.not_mem_nil), fun _ h => nomatch h⟩
theorem qpSet (rq : SbReq) : Statement (.qpSet rq) :=
  fun _ => ⟨fun _ h => absurd h (List.not_mem_nil), fun _ h => nomatch h⟩
theorem qpDestroy (rq : SbReq) : Statement (.qpDestroy rq) :=
  fun _ => ⟨fun _ h => absurd h (List.not_mem_nil), fun _ h => nomatch h⟩
theorem mrSet (rq : SbReq) : Statement (.mrSet rq) :=
  fun _ => ⟨fun _ h => absurd h (List.not_mem_nil), fun _ h => nomatch h⟩
theorem mrDestroy (rq : SbReq) : Statement (.mrDestroy rq) :=
  fun _ => ⟨fun _ h => absurd h (List.not_mem_nil), fun _ h => nomatch h⟩
theorem commitPoint (cid : Nat) : Statement (.commitPoint cid) :=
  fun _ => ⟨fun _ h => absurd h (List.not_mem_nil), fun _ h => nomatch h⟩
theorem peerAcknowledgement (port msgId : Nat) : Statement (.peerAcknowledgement port msgId) :=
  fun _ => ⟨fun _ h => absurd h (List.not_mem_nil), fun _ h => nomatch h⟩
theorem channelCopyDone (stack : Nat) : Statement (.channelCopyDone stack) :=
  fun _ => ⟨fun _ h => absurd h (List.not_mem_nil), fun _ h => nomatch h⟩
theorem ethernetLinkUp (port : Nat) : Statement (.ethernetLinkUp port) :=
  fun _ => ⟨fun _ h => absurd h (List.not_mem_nil), fun _ h => nomatch h⟩
theorem hostLinkDown (port : Nat) : Statement (.hostLinkDown port) :=
  fun _ => ⟨fun _ h => absurd h (List.not_mem_nil), fun _ h => nomatch h⟩
theorem hostLinkUp (port : Nat) : Statement (.hostLinkUp port) :=
  fun _ => ⟨fun _ h => absurd h (List.not_mem_nil), fun _ h => nomatch h⟩
theorem ptmEnable (port : Nat) (on : Bool) : Statement (.ptmEnable port on) :=
  fun _ => ⟨fun _ h => absurd h (List.not_mem_nil), fun _ h => nomatch h⟩
theorem getVersion (port : Nat) (body : List Byte) : Statement (.getVersion port body) :=
  fun _ => ⟨fun _ h => absurd h (List.not_mem_nil), fun _ h => nomatch h⟩
theorem getCapabilities (port : Nat) (body : List Byte) : Statement (.getCapabilities port body) :=
  fun _ => ⟨fun _ h => absurd h (List.not_mem_nil), fun _ h => nomatch h⟩
theorem negotiateAlgorithms (port : Nat) (body : List Byte) : Statement (.negotiateAlgorithms port body) :=
  fun _ => ⟨fun _ h => absurd h (List.not_mem_nil), fun _ h => nomatch h⟩
theorem getDigests (port : Nat) (body : List Byte) : Statement (.getDigests port body) :=
  fun _ => ⟨fun _ h => absurd h (List.not_mem_nil), fun _ h => nomatch h⟩
theorem getCertificate (port : Nat) (body : List Byte) : Statement (.getCertificate port body) :=
  fun _ => ⟨fun _ h => absurd h (List.not_mem_nil), fun _ h => nomatch h⟩
theorem challenge (port : Nat) (body : List Byte) : Statement (.challenge port body) :=
  fun _ => ⟨fun _ h => absurd h (List.not_mem_nil), fun _ h => nomatch h⟩
theorem getMeasurements (port : Nat) (body : List Byte) : Statement (.getMeasurements port body) :=
  fun _ => ⟨fun _ h => absurd h (List.not_mem_nil), fun _ h => nomatch h⟩

end Sys2Proof.Laws.Carried
end

