-- ==== Sys2Proof/Laws/Tables.lean ====
section
/-!
SUPPORT. Sys2Proof/Laws/Tables.lean: reading the sparse tables after a write, and the entry of a structure after its update.
-/

namespace Sys2Proof.Laws

open Sys2Proof.Machine

variable {α : Type}

@[simp] theorem tabFind_tabPut_same (t : Tab α) (k : Nat) (v : α) : tabFind (tabPut t k v) k = some v := by
  induction t with
  | nil => simp [tabPut, tabFind]
  | cons x r ih =>
    obtain ⟨j, w⟩ := x
    simp only [tabPut]
    split
    · simp [tabFind]
    · split
      · simp [tabFind]
      · rename_i hj; simp [tabFind, Ne.symm hj, ih]

theorem tabFind_tabPut_ne (t : Tab α) {k j : Nat} (v : α) (h : j ≠ k) : tabFind (tabPut t k v) j = tabFind t j := by
  induction t with
  | nil => simp [tabPut, tabFind, Ne.symm h]
  | cons x r ih =>
    obtain ⟨i, w⟩ := x
    simp only [tabPut]
    split
    · simp [tabFind, Ne.symm h]
    · split
      · rename_i hk; subst hk; simp [tabFind, Ne.symm h]
      · simp only [tabFind]; split <;> [rfl; exact ih]

@[simp] theorem tabFind_tabErase_same (t : Tab α) (k : Nat) : tabFind (tabErase t k) k = none := by
  induction t with
  | nil => rfl
  | cons x r ih =>
    obtain ⟨j, w⟩ := x
    unfold tabErase at ih ⊢
    by_cases hj : j = k
    · simp [hj, ih]
    · simp [hj, tabFind, ih]

theorem tabFind_tabErase_ne (t : Tab α) {k j : Nat} (h : j ≠ k) : tabFind (tabErase t k) j = tabFind t j := by
  induction t with
  | nil => rfl
  | cons x r ih =>
    obtain ⟨i, w⟩ := x
    unfold tabErase at ih ⊢
    by_cases hi : i = k
    · subst hi; simp [tabFind, Ne.symm h, ih]
    · simp only [List.filter_cons, bne_iff_ne, ne_eq, hi, not_false_eq_true, if_true, tabFind, ih]

@[simp] theorem tabGet_tabSet_same [DecidableEq α] (t : Tab α) (k : Nat) (v d : α) : tabGet (tabSet t k v d) k d = v := by
  unfold tabGet tabSet
  split
  · rename_i h; simp [h]
  · simp

theorem tabGet_tabSet_ne [DecidableEq α] (t : Tab α) {k j : Nat} (v d e : α) (h : j ≠ k) : tabGet (tabSet t k v d) j e = tabGet t j e := by
  unfold tabGet tabSet
  split
  · rw [tabFind_tabErase_ne t h]
  · rw [tabFind_tabPut_ne t v h]

@[simp] theorem linkOf_putLink_same (s : State) (p : Nat) (l : Link) : linkOf (putLink s p l) p = l := by
  unfold linkOf putLink; simp
theorem linkOf_putLink_ne (s : State) {p q : Nat} (l : Link) (h : q ≠ p) : linkOf (putLink s p l) q = linkOf s q := by
  unfold linkOf putLink; exact tabGet_tabSet_ne _ _ _ _ h
@[simp] theorem shoeOf_putShoe_same (s : State) (n : Nat) (h : Shoe) : shoeOf (putShoe s n h) n = h := by
  unfold shoeOf putShoe; simp
theorem shoeOf_putShoe_ne (s : State) {n m : Nat} (h : Shoe) (hm : m ≠ n) : shoeOf (putShoe s n h) m = shoeOf s m := by
  unfold shoeOf putShoe; exact tabGet_tabSet_ne _ _ _ _ hm
@[simp] theorem ctxOf_putCtx_same (s : State) (c : Nat) (x : Ctx) : ctxOf (putCtx s c x) c = x := by
  unfold ctxOf putCtx; simp
theorem ctxOf_putCtx_ne (s : State) {c d : Nat} (x : Ctx) (h : d ≠ c) : ctxOf (putCtx s c x) d = ctxOf s d := by
  unfold ctxOf putCtx; exact tabGet_tabSet_ne _ _ _ _ h
@[simp] theorem asidRec_putAsid_same (s : State) (a : Nat) (r : Asid) : asidRec (putAsid s a r) a = r := by
  unfold asidRec putAsid; simp

end Sys2Proof.Laws
end

