-- ==== Sys2Proof/Laws/Shared.lean ====
section
/-!
SUPPORT. Sys2Proof/Laws/Shared.lean: what the operations that many rows share can do, said once: raising an event or an error, a bit of the
units-present map, a mailbox, a link, a flight, a run of memory, the fatal path, a model's record.
-/

namespace Sys2Proof.Laws

open Sys2Proof.Machine

/-! ## Lists -/

/-- A fold keeps what each of its steps keeps. -/
theorem foldl_keeps {α β : Type} (P : β → Prop) (g : β → α → β) (hg : ∀ b a, P b → P (g b a)) (l : List α) (b : β) (hb : P b) :
    P (l.foldl g b) := by
  induction l generalizing b with
  | nil => exact hb
  | cons a l ih => exact ih _ (hg b a hb)

theorem any_eq_false_of {α : Type} (l : List α) (p : α → Bool) (h : ∀ x ∈ l, p x = false) : l.any p = false := by
  apply Bool.eq_false_iff.2
  intro hc
  obtain ⟨u, hu, h3⟩ := List.any_eq_true.1 hc
  rw [h u hu] at h3
  cases h3

theorem slice_length (bs : List Byte) (off n : Nat) : (slice bs off n).length = n := by
  unfold slice
  simp
  try omega

/-! ## The units-present map -/

theorem putBit_getLsbD {w : Nat} (x : BitVec w) (i : Nat) (b : Bool) (j : Nat) (hi : i < w) :
    (putBit x i b).getLsbD j = if j = i then b else x.getLsbD j := by
  unfold putBit
  cases b
  · simp only [Bool.false_eq_true, if_false, BitVec.getLsbD_and, BitVec.getLsbD_not, BitVec.getLsbD_twoPow]
    by_cases h : j = i
    · subst h; simp [hi]
    · by_cases hj : j < w
      · simp [h, hj, Ne.symm h]
      · simp [h, BitVec.getLsbD_of_ge _ _ (Nat.not_lt.1 hj)]
  · simp only [if_true, BitVec.getLsbD_or, BitVec.getLsbD_twoPow]
    by_cases h : j = i
    · subst h; simp [hi]
    · simp [h, Ne.symm h]

theorem setPortLive_portsLive (s : State) (p : Nat) (b : Bool) :
    (setPortLive s p b).units.map.portsLive = putBit s.units.map.portsLive p b := by
  unfold setPortLive mapChange
  dsimp only
  split <;> rfl

theorem portLive_setPortLive (s : State) (p : Nat) (b : Bool) (hp : p < 6) : portLive (setPortLive s p b) p = b := by
  unfold portLive
  rw [setPortLive_portsLive, putBit_getLsbD _ _ _ _ hp]
  simp [hp]

theorem setTpLive_tpLive (s : State) (p : Nat) (b : Bool) : (setTpLive s p b).units.map.tpLive = putBit s.units.map.tpLive p b := by
  unfold setTpLive mapChange
  dsimp only
  split <;> rfl

theorem tpLive_setTpLive (s : State) (p : Nat) (b : Bool) (hp : p < 16) : tpLive (setTpLive s p b) p = b := by
  unfold tpLive
  rw [setTpLive_tpLive, putBit_getLsbD _ _ _ _ hp]
  simp [hp]

/-! ## Events and errors -/

/-- Two states differ in nothing but what an event moves: the event and error counts, the mailboxes, the hosts' memories, the output. -/
structure EventOnly (s t : State) : Prop where
  rest : { t with units := s.units, heldun := s.heldun, host0 := s.host0, host1 := s.host1, out := s.out } = s
  units : { t.units with eventSeq := s.units.eventSeq, errs := s.units.errs } = s.units
  heldun : { t.heldun with port0 := s.heldun.port0, port1 := s.heldun.port1 } = s.heldun

theorem EventOnly.refl (s : State) : EventOnly s s := ⟨rfl, rfl, rfl⟩

theorem EventOnly.setMbox {s t : State} (p : Nat) (m : Mbox) (h : EventOnly s t) : EventOnly s (setMbox t p m) := by
  refine ⟨h.rest, h.units, ?_⟩
  unfold Machine.setMbox
  split <;> exact h.heldun

theorem EventOnly.hostPut {s t : State} (p a : Nat) (bs : List Byte) (h : EventOnly s t) : EventOnly s (hostPut t p a bs) := by
  unfold Machine.hostPut setHost
  split <;> exact ⟨h.rest, h.units, h.heldun⟩

theorem EventOnly.send {s t : State} (o : Out) (h : EventOnly s t) : EventOnly s (send t o) := ⟨h.rest, h.units, h.heldun⟩

theorem EventOnly.deliver {s t : State} (r : List Byte) (p : Nat) (h : EventOnly s t) : EventOnly s (deliverEvent r t p) := by
  unfold deliverEvent
  split
  · dsimp only
    split
    · exact h.setMbox _ _
    · split
      · exact h.setMbox _ _
      · split
        · exact h.setMbox _ _
        · exact ((h.hostPut _ _ _).setMbox _ _).send _
  · exact h

theorem EventOnly.raise {s t : State} (c : Nat) (p : List Byte) (h : EventOnly s t) : EventOnly s (raiseEvent t c p) := by
  unfold raiseEvent
  dsimp only
  exact ((⟨h.rest, h.units, h.heldun⟩ : EventOnly s { t with units := { t.units with eventSeq := wrapAdd 32 t.units.eventSeq 1 } }).deliver _
    _).deliver _ _

theorem EventOnly.error {s t : State} (e : ErrInfo) (h : EventOnly s t) : EventOnly s (raiseError t e) := by
  unfold raiseError
  dsimp only
  have h2 : ∀ l, EventOnly s { t with units := { t.units with errs := l } } := fun l => ⟨h.rest, h.units, h.heldun⟩
  split <;> split <;> first
    | exact (h2 _).raise _ _
    | exact h2 _

theorem EventOnly.memories {s t : State} (h : EventOnly s t) : t.memories = s.memories :=
  (congrArg (fun u : State => u.memories) h.rest : _)
theorem EventOnly.flights {s t : State} (h : EventOnly s t) : t.flights = s.flights :=
  (congrArg (fun u : State => u.flights) h.rest : _)
theorem EventOnly.domain {s t : State} (h : EventOnly s t) : t.domain = s.domain :=
  (congrArg (fun u : State => u.domain) h.rest : _)
theorem EventOnly.models {s t : State} (h : EventOnly s t) : t.models = s.models :=
  (congrArg (fun u : State => u.models) h.rest : _)
theorem EventOnly.vault {s t : State} (h : EventOnly s t) : t.vault = s.vault :=
  (congrArg (fun u : State => u.vault) h.rest : _)
theorem EventOnly.power {s t : State} (h : EventOnly s t) : t.power = s.power :=
  (congrArg (fun u : State => u.power) h.rest : _)
theorem EventOnly.keys {s t : State} (h : EventOnly s t) : t.keys = s.keys :=
  (congrArg (fun u : State => u.keys) h.rest : _)
theorem EventOnly.map {s t : State} (h : EventOnly s t) : t.units.map = s.units.map :=
  (congrArg (fun u : Units => u.map) h.units : _)

/-! ## Mailboxes -/

theorem mboxOf_setMbox_ne (s : State) {p q : Nat} (m : Mbox) (hp : p < 2) (hq : q < 2) (h : q ≠ p) :
    mboxOf (setMbox s p m) q = mboxOf s q := by
  have : (p = 0 ∧ q = 1) ∨ (p = 1 ∧ q = 0) := by omega
  rcases this with ⟨rfl, rfl⟩ | ⟨rfl, rfl⟩ <;> rfl

/-! ## Links -/

theorem linkOf_putLink (s : State) (k : Nat) (l : Link) (j : Nat) : linkOf (putLink s k l) j = if j = k then l else linkOf s j := by
  unfold linkOf putLink
  by_cases h : j = k
  · subst h
    simp only [if_true]
    exact tabGet_tabSet_same _ _ _ _
  · rw [if_neg h]
    exact tabGet_tabSet_ne _ _ _ _ h

/-- Comparing a port's records keeps memories and models. -/
theorem compareLink_keeps (s t : State) (p : Nat) (h : t.memories = s.memories ∧ t.models = s.models) :
    (compareLink t p).memories = s.memories ∧ (compareLink t p).models = s.models := by
  unfold compareLink
  dsimp only
  split
  · exact h
  · split
    · have q := (EventOnly.refl (setTpLive (putLink t p { linkOf t p with state := 1, failed := failedChecks t p (linkOf t p).peer }) p
        false)).raise evLink (natLe 1 p ++ natLe 1 linkProbation ++ natLe 2 0 ++ natLe 4 (failedChecks t p (linkOf t p).peer))
      unfold linkEvent
      rw [q.memories, q.models]
      exact h
    · split
      · exact h
      · have q := (EventOnly.refl (setTpLive (putLink t p { linkOf t p with state := 2, failed := 0 }) p true)).raise evLink
          (natLe 1 p ++ natLe 1 linkLive ++ natLe 2 0 ++ natLe 4 (linkOf t p).lanes)
        unfold linkEvent
        rw [q.memories, q.models]
        exact h

/-- Announcing a changed record keeps memories and models. -/
theorem announce_keeps (s : State) : (announce s).memories = s.memories ∧ (announce s).models = s.models := by
  unfold announce
  dsimp only
  apply foldl_keeps (P := fun t : State => t.memories = s.memories ∧ t.models = s.models)
  · intro b a h
    exact compareLink_keeps s b a h
  · apply foldl_keeps (P := fun t : State => t.memories = s.memories ∧ t.models = s.models)
    · intro b a h
      exact h
    · exact ⟨rfl, rfl⟩

/-- Writing a model's record writes it, and keeps memories. -/
theorem putModel_spec (s : State) (m : Nat) (x : Model) : (putModel s m x).memories = s.memories ∧ modelOf (putModel s m x) m = x := by
  have h : modelOf { s with models := tabSet s.models m x ⟨none, none, none, none, 0, 0⟩ } m = x := tabGet_tabSet_same _ _ _ _
  unfold putModel
  dsimp only
  split
  · exact ⟨rfl, h⟩
  · have k := announce_keeps { s with models := tabSet s.models m x ⟨none, none, none, none, 0, 0⟩ }
    refine ⟨k.1, ?_⟩
    have e : ∀ (t u : State), t.models = u.models → modelOf t m = modelOf u m := by
      intro t u h
      unfold modelOf
      rw [h]
    exact (e _ _ k.2).trans h

/-! ## Flights -/

theorem find_putFlight (l : List Flight) (f g : Flight) (h : l.find? (fun g => g.cid == f.cid) = some g) :
    (l.map fun g => if g.cid == f.cid then f else g).find? (fun g => g.cid == f.cid) = some f := by
  induction l with
  | nil => simp at h
  | cons a l ih =>
    by_cases ha : a.cid == f.cid
    · rw [List.map_cons, List.find?_cons, if_pos ha]
      simp
    · have : (a.cid == f.cid) = false := by simpa using ha
      rw [List.find?_cons, this] at h
      rw [List.map_cons, List.find?_cons]
      simp only [this, Bool.false_eq_true, if_false]
      exact ih h

theorem flightOf_putFlight (s : State) (f g : Flight) (h : flightOf s f.cid = some g) : flightOf (putFlight s f) f.cid = some f :=
  find_putFlight _ f g h

theorem flightOf_cid {s : State} {c : Nat} {f : Flight} (h : flightOf s c = some f) : f.cid = c := by
  have := List.find?_some h
  simpa using this

/-! ## Runs of memory -/

theorem memGet_memWrite_getD (m : Mem) (a : Nat) (bs : List Byte) (i : Nat) (h : i < bs.length) :
    memGet (memWrite m a bs) (a + i) = bs.getD i 0#8 := by
  rw [memGet_memWrite _ _ _ _ h]
  simp [h]

/-- A run written unit by unit leaves every byte outside it. -/
theorem memGet_writeUnits (pa : Nat) (bs : List Byte) (bad us : List Nat) (m : Mem) (a : Nat) (h : a < pa ∨ pa + bs.length ≤ a) :
    memGet (us.foldl (fun m u => if bad.contains u then m else
      let lo := max pa u
      memWrite m lo (slice bs (lo - pa) (min (pa + bs.length) (u + 64) - lo))) m) a = memGet m a := by
  induction us generalizing m with
  | nil => rfl
  | cons u us ih =>
    rw [List.foldl_cons, ih]
    split
    · rfl
    · dsimp only
      apply memGet_memWrite_ne
      rw [slice_length]
      by_cases hz : min (pa + bs.length) (u + 64) ≤ max pa u
      · omega
      · omega

/-- A write of a run changes no byte outside it; where no unit of it is poisoned it stores every byte; areas and hosts stand. -/
theorem putMem_spec (s : State) (pa : Nat) (bs : List Byte) :
    (∀ a, a < pa ∨ pa + bs.length ≤ a → memGet (putMem s pa bs).1.memories.mem a = memGet s.memories.mem a) ∧
    ((clusterBase ≤ pa ∨ anyPoison s pa bs.length = false) → ∀ i, i < bs.length →
      memGet (putMem s pa bs).1.memories.mem (pa + i) = bs.getD i 0#8) ∧
    (putMem s pa bs).1.memories.areas = s.memories.areas ∧ (putMem s pa bs).1.host0 = s.host0 ∧ (putMem s pa bs).1.host1 = s.host1 ∧
    (putMem s pa bs).1.out = s.out := by
  unfold putMem putCovered
  dsimp only
  split
  · exact ⟨fun a ha => memGet_memWrite_ne _ _ _ _ ha, fun _ i hi => memGet_memWrite_getD _ _ _ _ hi, rfl, rfl, rfl, rfl⟩
  · rename_i hc
    split
    · rename_i hp
      refine ⟨fun a ha => memGet_writeUnits pa bs _ _ _ a ha, fun h => ?_, rfl, rfl, rfl, rfl⟩
      rcases h with h | h
      · exact absurd h hc
      · rw [h] at hp
        cases hp
    · exact ⟨fun a ha => memGet_memWrite_ne _ _ _ _ ha, fun _ i hi => memGet_memWrite_getD _ _ _ _ hi, rfl, rfl, rfl, rfl⟩

/-! ## The fatal path -/

theorem serving_raiseAlert (s : State) (c : Nat) (h : s.heldun.ready = 2) : serving (raiseAlert s c) = false := by
  have k : serving s = false := by
    unfold serving
    rw [h]
    rfl
  unfold raiseAlert
  dsimp only
  split <;> exact k

/-- A device that the fatal path has stopped does not serve. -/
theorem serving_fatal (s : State) (cause kind index addr : Nat) : serving (fatal s cause kind index addr) = false := by
  unfold fatal fatalWith
  split
  · next h =>
    unfold serving
    simpa using h
  · dsimp only
    exact serving_raiseAlert _ _ rfl

end Sys2Proof.Laws
end

