-- ==== Sys2Proof/Laws/State.lean ====
section
/-!
SUPPORT. Sys2Proof/Laws/State.lean: what each update of the state does to each field, so that no later proof takes a record update apart.
The word of a lemma is <update>_<field>; an update's own field is the last of its group.
-/

namespace Sys2Proof.Laws

open Sys2Proof.Machine

/-! ## mapChange -/

@[simp] theorem mapChange_boot (s : State) (f : UnitsMap → UnitsMap) : (mapChange s f).boot = s.boot := rfl
@[simp] theorem mapChange_module (s : State) (f : UnitsMap → UnitsMap) : (mapChange s f).module = s.module := rfl
@[simp] theorem mapChange_vault (s : State) (f : UnitsMap → UnitsMap) : (mapChange s f).vault = s.vault := rfl
@[simp] theorem mapChange_models (s : State) (f : UnitsMap → UnitsMap) : (mapChange s f).models = s.models := rfl
@[simp] theorem mapChange_power (s : State) (f : UnitsMap → UnitsMap) : (mapChange s f).power = s.power := rfl
@[simp] theorem mapChange_telemetry (s : State) (f : UnitsMap → UnitsMap) : (mapChange s f).telemetry = s.telemetry := rfl
@[simp] theorem mapChange_steps (s : State) (f : UnitsMap → UnitsMap) : (mapChange s f).steps = s.steps := rfl
@[simp] theorem mapChange_ptm (s : State) (f : UnitsMap → UnitsMap) : (mapChange s f).ptm = s.ptm := rfl
@[simp] theorem mapChange_heldun (s : State) (f : UnitsMap → UnitsMap) : (mapChange s f).heldun = s.heldun := rfl
@[simp] theorem mapChange_keys (s : State) (f : UnitsMap → UnitsMap) : (mapChange s f).keys = s.keys := rfl
@[simp] theorem mapChange_memories (s : State) (f : UnitsMap → UnitsMap) : (mapChange s f).memories = s.memories := rfl
@[simp] theorem mapChange_trans (s : State) (f : UnitsMap → UnitsMap) : (mapChange s f).trans = s.trans := rfl
@[simp] theorem mapChange_kitty (s : State) (f : UnitsMap → UnitsMap) : (mapChange s f).kitty = s.kitty := rfl
@[simp] theorem mapChange_shoes (s : State) (f : UnitsMap → UnitsMap) : (mapChange s f).shoes = s.shoes := rfl
@[simp] theorem mapChange_flights (s : State) (f : UnitsMap → UnitsMap) : (mapChange s f).flights = s.flights := rfl
@[simp] theorem mapChange_dealer (s : State) (f : UnitsMap → UnitsMap) : (mapChange s f).dealer = s.dealer := rfl
@[simp] theorem mapChange_kv (s : State) (f : UnitsMap → UnitsMap) : (mapChange s f).kv = s.kv := rfl
@[simp] theorem mapChange_boards (s : State) (f : UnitsMap → UnitsMap) : (mapChange s f).boards = s.boards := rfl
@[simp] theorem mapChange_adapters (s : State) (f : UnitsMap → UnitsMap) : (mapChange s f).adapters = s.adapters := rfl
@[simp] theorem mapChange_domain (s : State) (f : UnitsMap → UnitsMap) : (mapChange s f).domain = s.domain := rfl
@[simp] theorem mapChange_net (s : State) (f : UnitsMap → UnitsMap) : (mapChange s f).net = s.net := rfl
@[simp] theorem mapChange_sideband (s : State) (f : UnitsMap → UnitsMap) : (mapChange s f).sideband = s.sideband := rfl
@[simp] theorem mapChange_host0 (s : State) (f : UnitsMap → UnitsMap) : (mapChange s f).host0 = s.host0 := rfl
@[simp] theorem mapChange_host1 (s : State) (f : UnitsMap → UnitsMap) : (mapChange s f).host1 = s.host1 := rfl
@[simp] theorem mapChange_out (s : State) (f : UnitsMap → UnitsMap) : (mapChange s f).out = s.out := rfl
@[simp] theorem mapChange_fresh (s : State) (f : UnitsMap → UnitsMap) : (mapChange s f).fresh = s.fresh := rfl
@[simp] theorem mapChange_pending (s : State) (f : UnitsMap → UnitsMap) : (mapChange s f).pending = s.pending := rfl

/-! ## setPortLive -/

@[simp] theorem setPortLive_boot (s : State) (p : Nat) (b : Bool) : (setPortLive s p b).boot = s.boot := rfl
@[simp] theorem setPortLive_module (s : State) (p : Nat) (b : Bool) : (setPortLive s p b).module = s.module := rfl
@[simp] theorem setPortLive_vault (s : State) (p : Nat) (b : Bool) : (setPortLive s p b).vault = s.vault := rfl
@[simp] theorem setPortLive_models (s : State) (p : Nat) (b : Bool) : (setPortLive s p b).models = s.models := rfl
@[simp] theorem setPortLive_power (s : State) (p : Nat) (b : Bool) : (setPortLive s p b).power = s.power := rfl
@[simp] theorem setPortLive_telemetry (s : State) (p : Nat) (b : Bool) : (setPortLive s p b).telemetry = s.telemetry := rfl
@[simp] theorem setPortLive_steps (s : State) (p : Nat) (b : Bool) : (setPortLive s p b).steps = s.steps := rfl
@[simp] theorem setPortLive_ptm (s : State) (p : Nat) (b : Bool) : (setPortLive s p b).ptm = s.ptm := rfl
@[simp] theorem setPortLive_heldun (s : State) (p : Nat) (b : Bool) : (setPortLive s p b).heldun = s.heldun := rfl
@[simp] theorem setPortLive_keys (s : State) (p : Nat) (b : Bool) : (setPortLive s p b).keys = s.keys := rfl
@[simp] theorem setPortLive_memories (s : State) (p : Nat) (b : Bool) : (setPortLive s p b).memories = s.memories := rfl
@[simp] theorem setPortLive_trans (s : State) (p : Nat) (b : Bool) : (setPortLive s p b).trans = s.trans := rfl
@[simp] theorem setPortLive_kitty (s : State) (p : Nat) (b : Bool) : (setPortLive s p b).kitty = s.kitty := rfl
@[simp] theorem setPortLive_shoes (s : State) (p : Nat) (b : Bool) : (setPortLive s p b).shoes = s.shoes := rfl
@[simp] theorem setPortLive_flights (s : State) (p : Nat) (b : Bool) : (setPortLive s p b).flights = s.flights := rfl
@[simp] theorem setPortLive_dealer (s : State) (p : Nat) (b : Bool) : (setPortLive s p b).dealer = s.dealer := rfl
@[simp] theorem setPortLive_kv (s : State) (p : Nat) (b : Bool) : (setPortLive s p b).kv = s.kv := rfl
@[simp] theorem setPortLive_boards (s : State) (p : Nat) (b : Bool) : (setPortLive s p b).boards = s.boards := rfl
@[simp] theorem setPortLive_adapters (s : State) (p : Nat) (b : Bool) : (setPortLive s p b).adapters = s.adapters := rfl
@[simp] theorem setPortLive_domain (s : State) (p : Nat) (b : Bool) : (setPortLive s p b).domain = s.domain := rfl
@[simp] theorem setPortLive_net (s : State) (p : Nat) (b : Bool) : (setPortLive s p b).net = s.net := rfl
@[simp] theorem setPortLive_sideband (s : State) (p : Nat) (b : Bool) : (setPortLive s p b).sideband = s.sideband := rfl
@[simp] theorem setPortLive_host0 (s : State) (p : Nat) (b : Bool) : (setPortLive s p b).host0 = s.host0 := rfl
@[simp] theorem setPortLive_host1 (s : State) (p : Nat) (b : Bool) : (setPortLive s p b).host1 = s.host1 := rfl
@[simp] theorem setPortLive_out (s : State) (p : Nat) (b : Bool) : (setPortLive s p b).out = s.out := rfl
@[simp] theorem setPortLive_fresh (s : State) (p : Nat) (b : Bool) : (setPortLive s p b).fresh = s.fresh := rfl
@[simp] theorem setPortLive_pending (s : State) (p : Nat) (b : Bool) : (setPortLive s p b).pending = s.pending := rfl

/-! ## setTpLive -/

@[simp] theorem setTpLive_boot (s : State) (p : Nat) (b : Bool) : (setTpLive s p b).boot = s.boot := rfl
@[simp] theorem setTpLive_module (s : State) (p : Nat) (b : Bool) : (setTpLive s p b).module = s.module := rfl
@[simp] theorem setTpLive_vault (s : State) (p : Nat) (b : Bool) : (setTpLive s p b).vault = s.vault := rfl
@[simp] theorem setTpLive_models (s : State) (p : Nat) (b : Bool) : (setTpLive s p b).models = s.models := rfl
@[simp] theorem setTpLive_power (s : State) (p : Nat) (b : Bool) : (setTpLive s p b).power = s.power := rfl
@[simp] theorem setTpLive_telemetry (s : State) (p : Nat) (b : Bool) : (setTpLive s p b).telemetry = s.telemetry := rfl
@[simp] theorem setTpLive_steps (s : State) (p : Nat) (b : Bool) : (setTpLive s p b).steps = s.steps := rfl
@[simp] theorem setTpLive_ptm (s : State) (p : Nat) (b : Bool) : (setTpLive s p b).ptm = s.ptm := rfl
@[simp] theorem setTpLive_heldun (s : State) (p : Nat) (b : Bool) : (setTpLive s p b).heldun = s.heldun := rfl
@[simp] theorem setTpLive_keys (s : State) (p : Nat) (b : Bool) : (setTpLive s p b).keys = s.keys := rfl
@[simp] theorem setTpLive_memories (s : State) (p : Nat) (b : Bool) : (setTpLive s p b).memories = s.memories := rfl
@[simp] theorem setTpLive_trans (s : State) (p : Nat) (b : Bool) : (setTpLive s p b).trans = s.trans := rfl
@[simp] theorem setTpLive_kitty (s : State) (p : Nat) (b : Bool) : (setTpLive s p b).kitty = s.kitty := rfl
@[simp] theorem setTpLive_shoes (s : State) (p : Nat) (b : Bool) : (setTpLive s p b).shoes = s.shoes := rfl
@[simp] theorem setTpLive_flights (s : State) (p : Nat) (b : Bool) : (setTpLive s p b).flights = s.flights := rfl
@[simp] theorem setTpLive_dealer (s : State) (p : Nat) (b : Bool) : (setTpLive s p b).dealer = s.dealer := rfl
@[simp] theorem setTpLive_kv (s : State) (p : Nat) (b : Bool) : (setTpLive s p b).kv = s.kv := rfl
@[simp] theorem setTpLive_boards (s : State) (p : Nat) (b : Bool) : (setTpLive s p b).boards = s.boards := rfl
@[simp] theorem setTpLive_adapters (s : State) (p : Nat) (b : Bool) : (setTpLive s p b).adapters = s.adapters := rfl
@[simp] theorem setTpLive_domain (s : State) (p : Nat) (b : Bool) : (setTpLive s p b).domain = s.domain := rfl
@[simp] theorem setTpLive_net (s : State) (p : Nat) (b : Bool) : (setTpLive s p b).net = s.net := rfl
@[simp] theorem setTpLive_sideband (s : State) (p : Nat) (b : Bool) : (setTpLive s p b).sideband = s.sideband := rfl
@[simp] theorem setTpLive_host0 (s : State) (p : Nat) (b : Bool) : (setTpLive s p b).host0 = s.host0 := rfl
@[simp] theorem setTpLive_host1 (s : State) (p : Nat) (b : Bool) : (setTpLive s p b).host1 = s.host1 := rfl
@[simp] theorem setTpLive_out (s : State) (p : Nat) (b : Bool) : (setTpLive s p b).out = s.out := rfl
@[simp] theorem setTpLive_fresh (s : State) (p : Nat) (b : Bool) : (setTpLive s p b).fresh = s.fresh := rfl
@[simp] theorem setTpLive_pending (s : State) (p : Nat) (b : Bool) : (setTpLive s p b).pending = s.pending := rfl

/-! ## advance -/

@[simp] theorem advance_boot (s : State) (u : StepUnit) (k : Nat) : (advance s u k).boot = s.boot := rfl
@[simp] theorem advance_module (s : State) (u : StepUnit) (k : Nat) : (advance s u k).module = s.module := rfl
@[simp] theorem advance_vault (s : State) (u : StepUnit) (k : Nat) : (advance s u k).vault = s.vault := rfl
@[simp] theorem advance_models (s : State) (u : StepUnit) (k : Nat) : (advance s u k).models = s.models := rfl
@[simp] theorem advance_units (s : State) (u : StepUnit) (k : Nat) : (advance s u k).units = s.units := rfl
@[simp] theorem advance_power (s : State) (u : StepUnit) (k : Nat) : (advance s u k).power = s.power := rfl
@[simp] theorem advance_telemetry (s : State) (u : StepUnit) (k : Nat) : (advance s u k).telemetry = s.telemetry := rfl
@[simp] theorem advance_ptm (s : State) (u : StepUnit) (k : Nat) : (advance s u k).ptm = s.ptm := rfl
@[simp] theorem advance_heldun (s : State) (u : StepUnit) (k : Nat) : (advance s u k).heldun = s.heldun := rfl
@[simp] theorem advance_keys (s : State) (u : StepUnit) (k : Nat) : (advance s u k).keys = s.keys := rfl
@[simp] theorem advance_memories (s : State) (u : StepUnit) (k : Nat) : (advance s u k).memories = s.memories := rfl
@[simp] theorem advance_trans (s : State) (u : StepUnit) (k : Nat) : (advance s u k).trans = s.trans := rfl
@[simp] theorem advance_kitty (s : State) (u : StepUnit) (k : Nat) : (advance s u k).kitty = s.kitty := rfl
@[simp] theorem advance_shoes (s : State) (u : StepUnit) (k : Nat) : (advance s u k).shoes = s.shoes := rfl
@[simp] theorem advance_flights (s : State) (u : StepUnit) (k : Nat) : (advance s u k).flights = s.flights := rfl
@[simp] theorem advance_dealer (s : State) (u : StepUnit) (k : Nat) : (advance s u k).dealer = s.dealer := rfl
@[simp] theorem advance_kv (s : State) (u : StepUnit) (k : Nat) : (advance s u k).kv = s.kv := rfl
@[simp] theorem advance_boards (s : State) (u : StepUnit) (k : Nat) : (advance s u k).boards = s.boards := rfl
@[simp] theorem advance_adapters (s : State) (u : StepUnit) (k : Nat) : (advance s u k).adapters = s.adapters := rfl
@[simp] theorem advance_domain (s : State) (u : StepUnit) (k : Nat) : (advance s u k).domain = s.domain := rfl
@[simp] theorem advance_net (s : State) (u : StepUnit) (k : Nat) : (advance s u k).net = s.net := rfl
@[simp] theorem advance_sideband (s : State) (u : StepUnit) (k : Nat) : (advance s u k).sideband = s.sideband := rfl
@[simp] theorem advance_host0 (s : State) (u : StepUnit) (k : Nat) : (advance s u k).host0 = s.host0 := rfl
@[simp] theorem advance_host1 (s : State) (u : StepUnit) (k : Nat) : (advance s u k).host1 = s.host1 := rfl
@[simp] theorem advance_out (s : State) (u : StepUnit) (k : Nat) : (advance s u k).out = s.out := rfl
@[simp] theorem advance_fresh (s : State) (u : StepUnit) (k : Nat) : (advance s u k).fresh = s.fresh := rfl
@[simp] theorem advance_pending (s : State) (u : StepUnit) (k : Nat) : (advance s u k).pending = s.pending := rfl

/-! ## setHost -/

@[simp] theorem setHost_boot (s : State) (port : Nat) (h : HostEnv) : (setHost s port h).boot = s.boot := by unfold setHost; split <;> rfl
@[simp] theorem setHost_module (s : State) (port : Nat) (h : HostEnv) : (setHost s port h).module = s.module := by unfold setHost; split <;> rfl
@[simp] theorem setHost_vault (s : State) (port : Nat) (h : HostEnv) : (setHost s port h).vault = s.vault := by unfold setHost; split <;> rfl
@[simp] theorem setHost_models (s : State) (port : Nat) (h : HostEnv) : (setHost s port h).models = s.models := by unfold setHost; split <;> rfl
@[simp] theorem setHost_units (s : State) (port : Nat) (h : HostEnv) : (setHost s port h).units = s.units := by unfold setHost; split <;> rfl
@[simp] theorem setHost_power (s : State) (port : Nat) (h : HostEnv) : (setHost s port h).power = s.power := by unfold setHost; split <;> rfl
@[simp] theorem setHost_telemetry (s : State) (port : Nat) (h : HostEnv) : (setHost s port h).telemetry = s.telemetry := by unfold setHost; split <;> rfl
@[simp] theorem setHost_steps (s : State) (port : Nat) (h : HostEnv) : (setHost s port h).steps = s.steps := by unfold setHost; split <;> rfl
@[simp] theorem setHost_ptm (s : State) (port : Nat) (h : HostEnv) : (setHost s port h).ptm = s.ptm := by unfold setHost; split <;> rfl
@[simp] theorem setHost_heldun (s : State) (port : Nat) (h : HostEnv) : (setHost s port h).heldun = s.heldun := by unfold setHost; split <;> rfl
@[simp] theorem setHost_keys (s : State) (port : Nat) (h : HostEnv) : (setHost s port h).keys = s.keys := by unfold setHost; split <;> rfl
@[simp] theorem setHost_memories (s : State) (port : Nat) (h : HostEnv) : (setHost s port h).memories = s.memories := by unfold setHost; split <;> rfl
@[simp] theorem setHost_trans (s : State) (port : Nat) (h : HostEnv) : (setHost s port h).trans = s.trans := by unfold setHost; split <;> rfl
@[simp] theorem setHost_kitty (s : State) (port : Nat) (h : HostEnv) : (setHost s port h).kitty = s.kitty := by unfold setHost; split <;> rfl
@[simp] theorem setHost_shoes (s : State) (port : Nat) (h : HostEnv) : (setHost s port h).shoes = s.shoes := by unfold setHost; split <;> rfl
@[simp] theorem setHost_flights (s : State) (port : Nat) (h : HostEnv) : (setHost s port h).flights = s.flights := by unfold setHost; split <;> rfl
@[simp] theorem setHost_dealer (s : State) (port : Nat) (h : HostEnv) : (setHost s port h).dealer = s.dealer := by unfold setHost; split <;> rfl
@[simp] theorem setHost_kv (s : State) (port : Nat) (h : HostEnv) : (setHost s port h).kv = s.kv := by unfold setHost; split <;> rfl
@[simp] theorem setHost_boards (s : State) (port : Nat) (h : HostEnv) : (setHost s port h).boards = s.boards := by unfold setHost; split <;> rfl
@[simp] theorem setHost_adapters (s : State) (port : Nat) (h : HostEnv) : (setHost s port h).adapters = s.adapters := by unfold setHost; split <;> rfl
@[simp] theorem setHost_domain (s : State) (port : Nat) (h : HostEnv) : (setHost s port h).domain = s.domain := by unfold setHost; split <;> rfl
@[simp] theorem setHost_net (s : State) (port : Nat) (h : HostEnv) : (setHost s port h).net = s.net := by unfold setHost; split <;> rfl
@[simp] theorem setHost_sideband (s : State) (port : Nat) (h : HostEnv) : (setHost s port h).sideband = s.sideband := by unfold setHost; split <;> rfl
@[simp] theorem setHost_out (s : State) (port : Nat) (h : HostEnv) : (setHost s port h).out = s.out := by unfold setHost; split <;> rfl
@[simp] theorem setHost_fresh (s : State) (port : Nat) (h : HostEnv) : (setHost s port h).fresh = s.fresh := by unfold setHost; split <;> rfl
@[simp] theorem setHost_pending (s : State) (port : Nat) (h : HostEnv) : (setHost s port h).pending = s.pending := by unfold setHost; split <;> rfl

/-! ## hostPut -/

@[simp] theorem hostPut_boot (s : State) (port addr : Nat) (bs : List Byte) : (hostPut s port addr bs).boot = s.boot := by unfold hostPut setHost; split <;> rfl
@[simp] theorem hostPut_module (s : State) (port addr : Nat) (bs : List Byte) : (hostPut s port addr bs).module = s.module := by unfold hostPut setHost; split <;> rfl
@[simp] theorem hostPut_vault (s : State) (port addr : Nat) (bs : List Byte) : (hostPut s port addr bs).vault = s.vault := by unfold hostPut setHost; split <;> rfl
@[simp] theorem hostPut_models (s : State) (port addr : Nat) (bs : List Byte) : (hostPut s port addr bs).models = s.models := by unfold hostPut setHost; split <;> rfl
@[simp] theorem hostPut_units (s : State) (port addr : Nat) (bs : List Byte) : (hostPut s port addr bs).units = s.units := by unfold hostPut setHost; split <;> rfl
@[simp] theorem hostPut_power (s : State) (port addr : Nat) (bs : List Byte) : (hostPut s port addr bs).power = s.power := by unfold hostPut setHost; split <;> rfl
@[simp] theorem hostPut_telemetry (s : State) (port addr : Nat) (bs : List Byte) : (hostPut s port addr bs).telemetry = s.telemetry := by unfold hostPut setHost; split <;> rfl
@[simp] theorem hostPut_steps (s : State) (port addr : Nat) (bs : List Byte) : (hostPut s port addr bs).steps = s.steps := by unfold hostPut setHost; split <;> rfl
@[simp] theorem hostPut_ptm (s : State) (port addr : Nat) (bs : List Byte) : (hostPut s port addr bs).ptm = s.ptm := by unfold hostPut setHost; split <;> rfl
@[simp] theorem hostPut_heldun (s : State) (port addr : Nat) (bs : List Byte) : (hostPut s port addr bs).heldun = s.heldun := by unfold hostPut setHost; split <;> rfl
@[simp] theorem hostPut_keys (s : State) (port addr : Nat) (bs : List Byte) : (hostPut s port addr bs).keys = s.keys := by unfold hostPut setHost; split <;> rfl
@[simp] theorem hostPut_memories (s : State) (port addr : Nat) (bs : List Byte) : (hostPut s port addr bs).memories = s.memories := by unfold hostPut setHost; split <;> rfl
@[simp] theorem hostPut_trans (s : State) (port addr : Nat) (bs : List Byte) : (hostPut s port addr bs).trans = s.trans := by unfold hostPut setHost; split <;> rfl
@[simp] theorem hostPut_kitty (s : State) (port addr : Nat) (bs : List Byte) : (hostPut s port addr bs).kitty = s.kitty := by unfold hostPut setHost; split <;> rfl
@[simp] theorem hostPut_shoes (s : State) (port addr : Nat) (bs : List Byte) : (hostPut s port addr bs).shoes = s.shoes := by unfold hostPut setHost; split <;> rfl
@[simp] theorem hostPut_flights (s : State) (port addr : Nat) (bs : List Byte) : (hostPut s port addr bs).flights = s.flights := by unfold hostPut setHost; split <;> rfl
@[simp] theorem hostPut_dealer (s : State) (port addr : Nat) (bs : List Byte) : (hostPut s port addr bs).dealer = s.dealer := by unfold hostPut setHost; split <;> rfl
@[simp] theorem hostPut_kv (s : State) (port addr : Nat) (bs : List Byte) : (hostPut s port addr bs).kv = s.kv := by unfold hostPut setHost; split <;> rfl
@[simp] theorem hostPut_boards (s : State) (port addr : Nat) (bs : List Byte) : (hostPut s port addr bs).boards = s.boards := by unfold hostPut setHost; split <;> rfl
@[simp] theorem hostPut_adapters (s : State) (port addr : Nat) (bs : List Byte) : (hostPut s port addr bs).adapters = s.adapters := by unfold hostPut setHost; split <;> rfl
@[simp] theorem hostPut_domain (s : State) (port addr : Nat) (bs : List Byte) : (hostPut s port addr bs).domain = s.domain := by unfold hostPut setHost; split <;> rfl
@[simp] theorem hostPut_net (s : State) (port addr : Nat) (bs : List Byte) : (hostPut s port addr bs).net = s.net := by unfold hostPut setHost; split <;> rfl
@[simp] theorem hostPut_sideband (s : State) (port addr : Nat) (bs : List Byte) : (hostPut s port addr bs).sideband = s.sideband := by unfold hostPut setHost; split <;> rfl
@[simp] theorem hostPut_out (s : State) (port addr : Nat) (bs : List Byte) : (hostPut s port addr bs).out = s.out := by unfold hostPut setHost; split <;> rfl
@[simp] theorem hostPut_fresh (s : State) (port addr : Nat) (bs : List Byte) : (hostPut s port addr bs).fresh = s.fresh := by unfold hostPut setHost; split <;> rfl
@[simp] theorem hostPut_pending (s : State) (port addr : Nat) (bs : List Byte) : (hostPut s port addr bs).pending = s.pending := by unfold hostPut setHost; split <;> rfl

/-! ## setMbox -/

@[simp] theorem setMbox_boot (s : State) (port : Nat) (m : Mbox) : (setMbox s port m).boot = s.boot := rfl
@[simp] theorem setMbox_module (s : State) (port : Nat) (m : Mbox) : (setMbox s port m).module = s.module := rfl
@[simp] theorem setMbox_vault (s : State) (port : Nat) (m : Mbox) : (setMbox s port m).vault = s.vault := rfl
@[simp] theorem setMbox_models (s : State) (port : Nat) (m : Mbox) : (setMbox s port m).models = s.models := rfl
@[simp] theorem setMbox_units (s : State) (port : Nat) (m : Mbox) : (setMbox s port m).units = s.units := rfl
@[simp] theorem setMbox_power (s : State) (port : Nat) (m : Mbox) : (setMbox s port m).power = s.power := rfl
@[simp] theorem setMbox_telemetry (s : State) (port : Nat) (m : Mbox) : (setMbox s port m).telemetry = s.telemetry := rfl
@[simp] theorem setMbox_steps (s : State) (port : Nat) (m : Mbox) : (setMbox s port m).steps = s.steps := rfl
@[simp] theorem setMbox_ptm (s : State) (port : Nat) (m : Mbox) : (setMbox s port m).ptm = s.ptm := rfl
@[simp] theorem setMbox_keys (s : State) (port : Nat) (m : Mbox) : (setMbox s port m).keys = s.keys := rfl
@[simp] theorem setMbox_memories (s : State) (port : Nat) (m : Mbox) : (setMbox s port m).memories = s.memories := rfl
@[simp] theorem setMbox_trans (s : State) (port : Nat) (m : Mbox) : (setMbox s port m).trans = s.trans := rfl
@[simp] theorem setMbox_kitty (s : State) (port : Nat) (m : Mbox) : (setMbox s port m).kitty = s.kitty := rfl
@[simp] theorem setMbox_shoes (s : State) (port : Nat) (m : Mbox) : (setMbox s port m).shoes = s.shoes := rfl
@[simp] theorem setMbox_flights (s : State) (port : Nat) (m : Mbox) : (setMbox s port m).flights = s.flights := rfl
@[simp] theorem setMbox_dealer (s : State) (port : Nat) (m : Mbox) : (setMbox s port m).dealer = s.dealer := rfl
@[simp] theorem setMbox_kv (s : State) (port : Nat) (m : Mbox) : (setMbox s port m).kv = s.kv := rfl
@[simp] theorem setMbox_boards (s : State) (port : Nat) (m : Mbox) : (setMbox s port m).boards = s.boards := rfl
@[simp] theorem setMbox_adapters (s : State) (port : Nat) (m : Mbox) : (setMbox s port m).adapters = s.adapters := rfl
@[simp] theorem setMbox_domain (s : State) (port : Nat) (m : Mbox) : (setMbox s port m).domain = s.domain := rfl
@[simp] theorem setMbox_net (s : State) (port : Nat) (m : Mbox) : (setMbox s port m).net = s.net := rfl
@[simp] theorem setMbox_sideband (s : State) (port : Nat) (m : Mbox) : (setMbox s port m).sideband = s.sideband := rfl
@[simp] theorem setMbox_host0 (s : State) (port : Nat) (m : Mbox) : (setMbox s port m).host0 = s.host0 := rfl
@[simp] theorem setMbox_host1 (s : State) (port : Nat) (m : Mbox) : (setMbox s port m).host1 = s.host1 := rfl
@[simp] theorem setMbox_out (s : State) (port : Nat) (m : Mbox) : (setMbox s port m).out = s.out := rfl
@[simp] theorem setMbox_fresh (s : State) (port : Nat) (m : Mbox) : (setMbox s port m).fresh = s.fresh := rfl
@[simp] theorem setMbox_pending (s : State) (port : Nat) (m : Mbox) : (setMbox s port m).pending = s.pending := rfl

/-! ## send -/

@[simp] theorem send_boot (s : State) (o : Out) : (send s o).boot = s.boot := rfl
@[simp] theorem send_module (s : State) (o : Out) : (send s o).module = s.module := rfl
@[simp] theorem send_vault (s : State) (o : Out) : (send s o).vault = s.vault := rfl
@[simp] theorem send_models (s : State) (o : Out) : (send s o).models = s.models := rfl
@[simp] theorem send_units (s : State) (o : Out) : (send s o).units = s.units := rfl
@[simp] theorem send_power (s : State) (o : Out) : (send s o).power = s.power := rfl
@[simp] theorem send_telemetry (s : State) (o : Out) : (send s o).telemetry = s.telemetry := rfl
@[simp] theorem send_steps (s : State) (o : Out) : (send s o).steps = s.steps := rfl
@[simp] theorem send_ptm (s : State) (o : Out) : (send s o).ptm = s.ptm := rfl
@[simp] theorem send_heldun (s : State) (o : Out) : (send s o).heldun = s.heldun := rfl
@[simp] theorem send_keys (s : State) (o : Out) : (send s o).keys = s.keys := rfl
@[simp] theorem send_memories (s : State) (o : Out) : (send s o).memories = s.memories := rfl
@[simp] theorem send_trans (s : State) (o : Out) : (send s o).trans = s.trans := rfl
@[simp] theorem send_kitty (s : State) (o : Out) : (send s o).kitty = s.kitty := rfl
@[simp] theorem send_shoes (s : State) (o : Out) : (send s o).shoes = s.shoes := rfl
@[simp] theorem send_flights (s : State) (o : Out) : (send s o).flights = s.flights := rfl
@[simp] theorem send_dealer (s : State) (o : Out) : (send s o).dealer = s.dealer := rfl
@[simp] theorem send_kv (s : State) (o : Out) : (send s o).kv = s.kv := rfl
@[simp] theorem send_boards (s : State) (o : Out) : (send s o).boards = s.boards := rfl
@[simp] theorem send_adapters (s : State) (o : Out) : (send s o).adapters = s.adapters := rfl
@[simp] theorem send_domain (s : State) (o : Out) : (send s o).domain = s.domain := rfl
@[simp] theorem send_net (s : State) (o : Out) : (send s o).net = s.net := rfl
@[simp] theorem send_sideband (s : State) (o : Out) : (send s o).sideband = s.sideband := rfl
@[simp] theorem send_host0 (s : State) (o : Out) : (send s o).host0 = s.host0 := rfl
@[simp] theorem send_host1 (s : State) (o : Out) : (send s o).host1 = s.host1 := rfl
@[simp] theorem send_fresh (s : State) (o : Out) : (send s o).fresh = s.fresh := rfl
@[simp] theorem send_pending (s : State) (o : Out) : (send s o).pending = s.pending := rfl

/-! ## putLink -/

@[simp] theorem putLink_boot (s : State) (p : Nat) (l : Link) : (putLink s p l).boot = s.boot := rfl
@[simp] theorem putLink_module (s : State) (p : Nat) (l : Link) : (putLink s p l).module = s.module := rfl
@[simp] theorem putLink_vault (s : State) (p : Nat) (l : Link) : (putLink s p l).vault = s.vault := rfl
@[simp] theorem putLink_models (s : State) (p : Nat) (l : Link) : (putLink s p l).models = s.models := rfl
@[simp] theorem putLink_units (s : State) (p : Nat) (l : Link) : (putLink s p l).units = s.units := rfl
@[simp] theorem putLink_power (s : State) (p : Nat) (l : Link) : (putLink s p l).power = s.power := rfl
@[simp] theorem putLink_telemetry (s : State) (p : Nat) (l : Link) : (putLink s p l).telemetry = s.telemetry := rfl
@[simp] theorem putLink_steps (s : State) (p : Nat) (l : Link) : (putLink s p l).steps = s.steps := rfl
@[simp] theorem putLink_ptm (s : State) (p : Nat) (l : Link) : (putLink s p l).ptm = s.ptm := rfl
@[simp] theorem putLink_heldun (s : State) (p : Nat) (l : Link) : (putLink s p l).heldun = s.heldun := rfl
@[simp] theorem putLink_keys (s : State) (p : Nat) (l : Link) : (putLink s p l).keys = s.keys := rfl
@[simp] theorem putLink_memories (s : State) (p : Nat) (l : Link) : (putLink s p l).memories = s.memories := rfl
@[simp] theorem putLink_trans (s : State) (p : Nat) (l : Link) : (putLink s p l).trans = s.trans := rfl
@[simp] theorem putLink_kitty (s : State) (p : Nat) (l : Link) : (putLink s p l).kitty = s.kitty := rfl
@[simp] theorem putLink_shoes (s : State) (p : Nat) (l : Link) : (putLink s p l).shoes = s.shoes := rfl
@[simp] theorem putLink_flights (s : State) (p : Nat) (l : Link) : (putLink s p l).flights = s.flights := rfl
@[simp] theorem putLink_dealer (s : State) (p : Nat) (l : Link) : (putLink s p l).dealer = s.dealer := rfl
@[simp] theorem putLink_kv (s : State) (p : Nat) (l : Link) : (putLink s p l).kv = s.kv := rfl
@[simp] theorem putLink_boards (s : State) (p : Nat) (l : Link) : (putLink s p l).boards = s.boards := rfl
@[simp] theorem putLink_adapters (s : State) (p : Nat) (l : Link) : (putLink s p l).adapters = s.adapters := rfl
@[simp] theorem putLink_net (s : State) (p : Nat) (l : Link) : (putLink s p l).net = s.net := rfl
@[simp] theorem putLink_sideband (s : State) (p : Nat) (l : Link) : (putLink s p l).sideband = s.sideband := rfl
@[simp] theorem putLink_host0 (s : State) (p : Nat) (l : Link) : (putLink s p l).host0 = s.host0 := rfl
@[simp] theorem putLink_host1 (s : State) (p : Nat) (l : Link) : (putLink s p l).host1 = s.host1 := rfl
@[simp] theorem putLink_out (s : State) (p : Nat) (l : Link) : (putLink s p l).out = s.out := rfl
@[simp] theorem putLink_fresh (s : State) (p : Nat) (l : Link) : (putLink s p l).fresh = s.fresh := rfl
@[simp] theorem putLink_pending (s : State) (p : Nat) (l : Link) : (putLink s p l).pending = s.pending := rfl

/-! ## putBarrier -/

@[simp] theorem putBarrier_boot (s : State) (b : Barrier) : (putBarrier s b).boot = s.boot := rfl
@[simp] theorem putBarrier_module (s : State) (b : Barrier) : (putBarrier s b).module = s.module := rfl
@[simp] theorem putBarrier_vault (s : State) (b : Barrier) : (putBarrier s b).vault = s.vault := rfl
@[simp] theorem putBarrier_models (s : State) (b : Barrier) : (putBarrier s b).models = s.models := rfl
@[simp] theorem putBarrier_units (s : State) (b : Barrier) : (putBarrier s b).units = s.units := rfl
@[simp] theorem putBarrier_power (s : State) (b : Barrier) : (putBarrier s b).power = s.power := rfl
@[simp] theorem putBarrier_telemetry (s : State) (b : Barrier) : (putBarrier s b).telemetry = s.telemetry := rfl
@[simp] theorem putBarrier_steps (s : State) (b : Barrier) : (putBarrier s b).steps = s.steps := rfl
@[simp] theorem putBarrier_ptm (s : State) (b : Barrier) : (putBarrier s b).ptm = s.ptm := rfl
@[simp] theorem putBarrier_heldun (s : State) (b : Barrier) : (putBarrier s b).heldun = s.heldun := rfl
@[simp] theorem putBarrier_keys (s : State) (b : Barrier) : (putBarrier s b).keys = s.keys := rfl
@[simp] theorem putBarrier_memories (s : State) (b : Barrier) : (putBarrier s b).memories = s.memories := rfl
@[simp] theorem putBarrier_trans (s : State) (b : Barrier) : (putBarrier s b).trans = s.trans := rfl
@[simp] theorem putBarrier_kitty (s : State) (b : Barrier) : (putBarrier s b).kitty = s.kitty := rfl
@[simp] theorem putBarrier_shoes (s : State) (b : Barrier) : (putBarrier s b).shoes = s.shoes := rfl
@[simp] theorem putBarrier_flights (s : State) (b : Barrier) : (putBarrier s b).flights = s.flights := rfl
@[simp] theorem putBarrier_dealer (s : State) (b : Barrier) : (putBarrier s b).dealer = s.dealer := rfl
@[simp] theorem putBarrier_kv (s : State) (b : Barrier) : (putBarrier s b).kv = s.kv := rfl
@[simp] theorem putBarrier_boards (s : State) (b : Barrier) : (putBarrier s b).boards = s.boards := rfl
@[simp] theorem putBarrier_adapters (s : State) (b : Barrier) : (putBarrier s b).adapters = s.adapters := rfl
@[simp] theorem putBarrier_net (s : State) (b : Barrier) : (putBarrier s b).net = s.net := rfl
@[simp] theorem putBarrier_sideband (s : State) (b : Barrier) : (putBarrier s b).sideband = s.sideband := rfl
@[simp] theorem putBarrier_host0 (s : State) (b : Barrier) : (putBarrier s b).host0 = s.host0 := rfl
@[simp] theorem putBarrier_host1 (s : State) (b : Barrier) : (putBarrier s b).host1 = s.host1 := rfl
@[simp] theorem putBarrier_out (s : State) (b : Barrier) : (putBarrier s b).out = s.out := rfl
@[simp] theorem putBarrier_fresh (s : State) (b : Barrier) : (putBarrier s b).fresh = s.fresh := rfl
@[simp] theorem putBarrier_pending (s : State) (b : Barrier) : (putBarrier s b).pending = s.pending := rfl

/-! ## putShoe -/

@[simp] theorem putShoe_boot (s : State) (n : Nat) (h : Shoe) : (putShoe s n h).boot = s.boot := rfl
@[simp] theorem putShoe_module (s : State) (n : Nat) (h : Shoe) : (putShoe s n h).module = s.module := rfl
@[simp] theorem putShoe_vault (s : State) (n : Nat) (h : Shoe) : (putShoe s n h).vault = s.vault := rfl
@[simp] theorem putShoe_models (s : State) (n : Nat) (h : Shoe) : (putShoe s n h).models = s.models := rfl
@[simp] theorem putShoe_units (s : State) (n : Nat) (h : Shoe) : (putShoe s n h).units = s.units := rfl
@[simp] theorem putShoe_power (s : State) (n : Nat) (h : Shoe) : (putShoe s n h).power = s.power := rfl
@[simp] theorem putShoe_telemetry (s : State) (n : Nat) (h : Shoe) : (putShoe s n h).telemetry = s.telemetry := rfl
@[simp] theorem putShoe_steps (s : State) (n : Nat) (h : Shoe) : (putShoe s n h).steps = s.steps := rfl
@[simp] theorem putShoe_ptm (s : State) (n : Nat) (h : Shoe) : (putShoe s n h).ptm = s.ptm := rfl
@[simp] theorem putShoe_heldun (s : State) (n : Nat) (h : Shoe) : (putShoe s n h).heldun = s.heldun := rfl
@[simp] theorem putShoe_keys (s : State) (n : Nat) (h : Shoe) : (putShoe s n h).keys = s.keys := rfl
@[simp] theorem putShoe_memories (s : State) (n : Nat) (h : Shoe) : (putShoe s n h).memories = s.memories := rfl
@[simp] theorem putShoe_trans (s : State) (n : Nat) (h : Shoe) : (putShoe s n h).trans = s.trans := rfl
@[simp] theorem putShoe_kitty (s : State) (n : Nat) (h : Shoe) : (putShoe s n h).kitty = s.kitty := rfl
@[simp] theorem putShoe_flights (s : State) (n : Nat) (h : Shoe) : (putShoe s n h).flights = s.flights := rfl
@[simp] theorem putShoe_dealer (s : State) (n : Nat) (h : Shoe) : (putShoe s n h).dealer = s.dealer := rfl
@[simp] theorem putShoe_kv (s : State) (n : Nat) (h : Shoe) : (putShoe s n h).kv = s.kv := rfl
@[simp] theorem putShoe_boards (s : State) (n : Nat) (h : Shoe) : (putShoe s n h).boards = s.boards := rfl
@[simp] theorem putShoe_adapters (s : State) (n : Nat) (h : Shoe) : (putShoe s n h).adapters = s.adapters := rfl
@[simp] theorem putShoe_domain (s : State) (n : Nat) (h : Shoe) : (putShoe s n h).domain = s.domain := rfl
@[simp] theorem putShoe_net (s : State) (n : Nat) (h : Shoe) : (putShoe s n h).net = s.net := rfl
@[simp] theorem putShoe_sideband (s : State) (n : Nat) (h : Shoe) : (putShoe s n h).sideband = s.sideband := rfl
@[simp] theorem putShoe_host0 (s : State) (n : Nat) (h : Shoe) : (putShoe s n h).host0 = s.host0 := rfl
@[simp] theorem putShoe_host1 (s : State) (n : Nat) (h : Shoe) : (putShoe s n h).host1 = s.host1 := rfl
@[simp] theorem putShoe_out (s : State) (n : Nat) (h : Shoe) : (putShoe s n h).out = s.out := rfl
@[simp] theorem putShoe_fresh (s : State) (n : Nat) (h : Shoe) : (putShoe s n h).fresh = s.fresh := rfl
@[simp] theorem putShoe_pending (s : State) (n : Nat) (h : Shoe) : (putShoe s n h).pending = s.pending := rfl

/-! ## setFlights -/

@[simp] theorem setFlights_boot (s : State) (l : List Flight) : (setFlights s l).boot = s.boot := rfl
@[simp] theorem setFlights_module (s : State) (l : List Flight) : (setFlights s l).module = s.module := rfl
@[simp] theorem setFlights_vault (s : State) (l : List Flight) : (setFlights s l).vault = s.vault := rfl
@[simp] theorem setFlights_models (s : State) (l : List Flight) : (setFlights s l).models = s.models := rfl
@[simp] theorem setFlights_units (s : State) (l : List Flight) : (setFlights s l).units = s.units := rfl
@[simp] theorem setFlights_power (s : State) (l : List Flight) : (setFlights s l).power = s.power := rfl
@[simp] theorem setFlights_telemetry (s : State) (l : List Flight) : (setFlights s l).telemetry = s.telemetry := rfl
@[simp] theorem setFlights_steps (s : State) (l : List Flight) : (setFlights s l).steps = s.steps := rfl
@[simp] theorem setFlights_ptm (s : State) (l : List Flight) : (setFlights s l).ptm = s.ptm := rfl
@[simp] theorem setFlights_heldun (s : State) (l : List Flight) : (setFlights s l).heldun = s.heldun := rfl
@[simp] theorem setFlights_keys (s : State) (l : List Flight) : (setFlights s l).keys = s.keys := rfl
@[simp] theorem setFlights_memories (s : State) (l : List Flight) : (setFlights s l).memories = s.memories := rfl
@[simp] theorem setFlights_trans (s : State) (l : List Flight) : (setFlights s l).trans = s.trans := rfl
@[simp] theorem setFlights_kitty (s : State) (l : List Flight) : (setFlights s l).kitty = s.kitty := rfl
@[simp] theorem setFlights_shoes (s : State) (l : List Flight) : (setFlights s l).shoes = s.shoes := rfl
@[simp] theorem setFlights_dealer (s : State) (l : List Flight) : (setFlights s l).dealer = s.dealer := rfl
@[simp] theorem setFlights_kv (s : State) (l : List Flight) : (setFlights s l).kv = s.kv := rfl
@[simp] theorem setFlights_boards (s : State) (l : List Flight) : (setFlights s l).boards = s.boards := rfl
@[simp] theorem setFlights_adapters (s : State) (l : List Flight) : (setFlights s l).adapters = s.adapters := rfl
@[simp] theorem setFlights_domain (s : State) (l : List Flight) : (setFlights s l).domain = s.domain := rfl
@[simp] theorem setFlights_net (s : State) (l : List Flight) : (setFlights s l).net = s.net := rfl
@[simp] theorem setFlights_sideband (s : State) (l : List Flight) : (setFlights s l).sideband = s.sideband := rfl
@[simp] theorem setFlights_host0 (s : State) (l : List Flight) : (setFlights s l).host0 = s.host0 := rfl
@[simp] theorem setFlights_host1 (s : State) (l : List Flight) : (setFlights s l).host1 = s.host1 := rfl
@[simp] theorem setFlights_out (s : State) (l : List Flight) : (setFlights s l).out = s.out := rfl
@[simp] theorem setFlights_fresh (s : State) (l : List Flight) : (setFlights s l).fresh = s.fresh := rfl
@[simp] theorem setFlights_pending (s : State) (l : List Flight) : (setFlights s l).pending = s.pending := rfl

/-! ## putFlight -/

@[simp] theorem putFlight_boot (s : State) (f : Flight) : (putFlight s f).boot = s.boot := rfl
@[simp] theorem putFlight_module (s : State) (f : Flight) : (putFlight s f).module = s.module := rfl
@[simp] theorem putFlight_vault (s : State) (f : Flight) : (putFlight s f).vault = s.vault := rfl
@[simp] theorem putFlight_models (s : State) (f : Flight) : (putFlight s f).models = s.models := rfl
@[simp] theorem putFlight_units (s : State) (f : Flight) : (putFlight s f).units = s.units := rfl
@[simp] theorem putFlight_power (s : State) (f : Flight) : (putFlight s f).power = s.power := rfl
@[simp] theorem putFlight_telemetry (s : State) (f : Flight) : (putFlight s f).telemetry = s.telemetry := rfl
@[simp] theorem putFlight_steps (s : State) (f : Flight) : (putFlight s f).steps = s.steps := rfl
@[simp] theorem putFlight_ptm (s : State) (f : Flight) : (putFlight s f).ptm = s.ptm := rfl
@[simp] theorem putFlight_heldun (s : State) (f : Flight) : (putFlight s f).heldun = s.heldun := rfl
@[simp] theorem putFlight_keys (s : State) (f : Flight) : (putFlight s f).keys = s.keys := rfl
@[simp] theorem putFlight_memories (s : State) (f : Flight) : (putFlight s f).memories = s.memories := rfl
@[simp] theorem putFlight_trans (s : State) (f : Flight) : (putFlight s f).trans = s.trans := rfl
@[simp] theorem putFlight_kitty (s : State) (f : Flight) : (putFlight s f).kitty = s.kitty := rfl
@[simp] theorem putFlight_shoes (s : State) (f : Flight) : (putFlight s f).shoes = s.shoes := rfl
@[simp] theorem putFlight_dealer (s : State) (f : Flight) : (putFlight s f).dealer = s.dealer := rfl
@[simp] theorem putFlight_kv (s : State) (f : Flight) : (putFlight s f).kv = s.kv := rfl
@[simp] theorem putFlight_boards (s : State) (f : Flight) : (putFlight s f).boards = s.boards := rfl
@[simp] theorem putFlight_adapters (s : State) (f : Flight) : (putFlight s f).adapters = s.adapters := rfl
@[simp] theorem putFlight_domain (s : State) (f : Flight) : (putFlight s f).domain = s.domain := rfl
@[simp] theorem putFlight_net (s : State) (f : Flight) : (putFlight s f).net = s.net := rfl
@[simp] theorem putFlight_sideband (s : State) (f : Flight) : (putFlight s f).sideband = s.sideband := rfl
@[simp] theorem putFlight_host0 (s : State) (f : Flight) : (putFlight s f).host0 = s.host0 := rfl
@[simp] theorem putFlight_host1 (s : State) (f : Flight) : (putFlight s f).host1 = s.host1 := rfl
@[simp] theorem putFlight_out (s : State) (f : Flight) : (putFlight s f).out = s.out := rfl
@[simp] theorem putFlight_fresh (s : State) (f : Flight) : (putFlight s f).fresh = s.fresh := rfl
@[simp] theorem putFlight_pending (s : State) (f : Flight) : (putFlight s f).pending = s.pending := rfl

/-! ## putCtx -/

@[simp] theorem putCtx_boot (s : State) (c : Nat) (x : Ctx) : (putCtx s c x).boot = s.boot := rfl
@[simp] theorem putCtx_module (s : State) (c : Nat) (x : Ctx) : (putCtx s c x).module = s.module := rfl
@[simp] theorem putCtx_vault (s : State) (c : Nat) (x : Ctx) : (putCtx s c x).vault = s.vault := rfl
@[simp] theorem putCtx_models (s : State) (c : Nat) (x : Ctx) : (putCtx s c x).models = s.models := rfl
@[simp] theorem putCtx_units (s : State) (c : Nat) (x : Ctx) : (putCtx s c x).units = s.units := rfl
@[simp] theorem putCtx_power (s : State) (c : Nat) (x : Ctx) : (putCtx s c x).power = s.power := rfl
@[simp] theorem putCtx_telemetry (s : State) (c : Nat) (x : Ctx) : (putCtx s c x).telemetry = s.telemetry := rfl
@[simp] theorem putCtx_steps (s : State) (c : Nat) (x : Ctx) : (putCtx s c x).steps = s.steps := rfl
@[simp] theorem putCtx_ptm (s : State) (c : Nat) (x : Ctx) : (putCtx s c x).ptm = s.ptm := rfl
@[simp] theorem putCtx_heldun (s : State) (c : Nat) (x : Ctx) : (putCtx s c x).heldun = s.heldun := rfl
@[simp] theorem putCtx_keys (s : State) (c : Nat) (x : Ctx) : (putCtx s c x).keys = s.keys := rfl
@[simp] theorem putCtx_memories (s : State) (c : Nat) (x : Ctx) : (putCtx s c x).memories = s.memories := rfl
@[simp] theorem putCtx_trans (s : State) (c : Nat) (x : Ctx) : (putCtx s c x).trans = s.trans := rfl
@[simp] theorem putCtx_kitty (s : State) (c : Nat) (x : Ctx) : (putCtx s c x).kitty = s.kitty := rfl
@[simp] theorem putCtx_shoes (s : State) (c : Nat) (x : Ctx) : (putCtx s c x).shoes = s.shoes := rfl
@[simp] theorem putCtx_flights (s : State) (c : Nat) (x : Ctx) : (putCtx s c x).flights = s.flights := rfl
@[simp] theorem putCtx_dealer (s : State) (c : Nat) (x : Ctx) : (putCtx s c x).dealer = s.dealer := rfl
@[simp] theorem putCtx_boards (s : State) (c : Nat) (x : Ctx) : (putCtx s c x).boards = s.boards := rfl
@[simp] theorem putCtx_adapters (s : State) (c : Nat) (x : Ctx) : (putCtx s c x).adapters = s.adapters := rfl
@[simp] theorem putCtx_domain (s : State) (c : Nat) (x : Ctx) : (putCtx s c x).domain = s.domain := rfl
@[simp] theorem putCtx_net (s : State) (c : Nat) (x : Ctx) : (putCtx s c x).net = s.net := rfl
@[simp] theorem putCtx_sideband (s : State) (c : Nat) (x : Ctx) : (putCtx s c x).sideband = s.sideband := rfl
@[simp] theorem putCtx_host0 (s : State) (c : Nat) (x : Ctx) : (putCtx s c x).host0 = s.host0 := rfl
@[simp] theorem putCtx_host1 (s : State) (c : Nat) (x : Ctx) : (putCtx s c x).host1 = s.host1 := rfl
@[simp] theorem putCtx_out (s : State) (c : Nat) (x : Ctx) : (putCtx s c x).out = s.out := rfl
@[simp] theorem putCtx_fresh (s : State) (c : Nat) (x : Ctx) : (putCtx s c x).fresh = s.fresh := rfl
@[simp] theorem putCtx_pending (s : State) (c : Nat) (x : Ctx) : (putCtx s c x).pending = s.pending := rfl

/-! ## putSpec -/

@[simp] theorem putSpec_boot (s : State) (c : Nat) (x : Spec) : (putSpec s c x).boot = s.boot := rfl
@[simp] theorem putSpec_module (s : State) (c : Nat) (x : Spec) : (putSpec s c x).module = s.module := rfl
@[simp] theorem putSpec_vault (s : State) (c : Nat) (x : Spec) : (putSpec s c x).vault = s.vault := rfl
@[simp] theorem putSpec_models (s : State) (c : Nat) (x : Spec) : (putSpec s c x).models = s.models := rfl
@[simp] theorem putSpec_units (s : State) (c : Nat) (x : Spec) : (putSpec s c x).units = s.units := rfl
@[simp] theorem putSpec_power (s : State) (c : Nat) (x : Spec) : (putSpec s c x).power = s.power := rfl
@[simp] theorem putSpec_telemetry (s : State) (c : Nat) (x : Spec) : (putSpec s c x).telemetry = s.telemetry := rfl
@[simp] theorem putSpec_steps (s : State) (c : Nat) (x : Spec) : (putSpec s c x).steps = s.steps := rfl
@[simp] theorem putSpec_ptm (s : State) (c : Nat) (x : Spec) : (putSpec s c x).ptm = s.ptm := rfl
@[simp] theorem putSpec_heldun (s : State) (c : Nat) (x : Spec) : (putSpec s c x).heldun = s.heldun := rfl
@[simp] theorem putSpec_keys (s : State) (c : Nat) (x : Spec) : (putSpec s c x).keys = s.keys := rfl
@[simp] theorem putSpec_memories (s : State) (c : Nat) (x : Spec) : (putSpec s c x).memories = s.memories := rfl
@[simp] theorem putSpec_trans (s : State) (c : Nat) (x : Spec) : (putSpec s c x).trans = s.trans := rfl
@[simp] theorem putSpec_kitty (s : State) (c : Nat) (x : Spec) : (putSpec s c x).kitty = s.kitty := rfl
@[simp] theorem putSpec_shoes (s : State) (c : Nat) (x : Spec) : (putSpec s c x).shoes = s.shoes := rfl
@[simp] theorem putSpec_flights (s : State) (c : Nat) (x : Spec) : (putSpec s c x).flights = s.flights := rfl
@[simp] theorem putSpec_dealer (s : State) (c : Nat) (x : Spec) : (putSpec s c x).dealer = s.dealer := rfl
@[simp] theorem putSpec_boards (s : State) (c : Nat) (x : Spec) : (putSpec s c x).boards = s.boards := rfl
@[simp] theorem putSpec_adapters (s : State) (c : Nat) (x : Spec) : (putSpec s c x).adapters = s.adapters := rfl
@[simp] theorem putSpec_domain (s : State) (c : Nat) (x : Spec) : (putSpec s c x).domain = s.domain := rfl
@[simp] theorem putSpec_net (s : State) (c : Nat) (x : Spec) : (putSpec s c x).net = s.net := rfl
@[simp] theorem putSpec_sideband (s : State) (c : Nat) (x : Spec) : (putSpec s c x).sideband = s.sideband := rfl
@[simp] theorem putSpec_host0 (s : State) (c : Nat) (x : Spec) : (putSpec s c x).host0 = s.host0 := rfl
@[simp] theorem putSpec_host1 (s : State) (c : Nat) (x : Spec) : (putSpec s c x).host1 = s.host1 := rfl
@[simp] theorem putSpec_out (s : State) (c : Nat) (x : Spec) : (putSpec s c x).out = s.out := rfl
@[simp] theorem putSpec_fresh (s : State) (c : Nat) (x : Spec) : (putSpec s c x).fresh = s.fresh := rfl
@[simp] theorem putSpec_pending (s : State) (c : Nat) (x : Spec) : (putSpec s c x).pending = s.pending := rfl

/-! ## putMade -/

@[simp] theorem putMade_boot (s : State) (c e : Nat) (x : PageEntry) : (putMade s c e x).boot = s.boot := rfl
@[simp] theorem putMade_module (s : State) (c e : Nat) (x : PageEntry) : (putMade s c e x).module = s.module := rfl
@[simp] theorem putMade_vault (s : State) (c e : Nat) (x : PageEntry) : (putMade s c e x).vault = s.vault := rfl
@[simp] theorem putMade_models (s : State) (c e : Nat) (x : PageEntry) : (putMade s c e x).models = s.models := rfl
@[simp] theorem putMade_units (s : State) (c e : Nat) (x : PageEntry) : (putMade s c e x).units = s.units := rfl
@[simp] theorem putMade_power (s : State) (c e : Nat) (x : PageEntry) : (putMade s c e x).power = s.power := rfl
@[simp] theorem putMade_telemetry (s : State) (c e : Nat) (x : PageEntry) : (putMade s c e x).telemetry = s.telemetry := rfl
@[simp] theorem putMade_steps (s : State) (c e : Nat) (x : PageEntry) : (putMade s c e x).steps = s.steps := rfl
@[simp] theorem putMade_ptm (s : State) (c e : Nat) (x : PageEntry) : (putMade s c e x).ptm = s.ptm := rfl
@[simp] theorem putMade_heldun (s : State) (c e : Nat) (x : PageEntry) : (putMade s c e x).heldun = s.heldun := rfl
@[simp] theorem putMade_keys (s : State) (c e : Nat) (x : PageEntry) : (putMade s c e x).keys = s.keys := rfl
@[simp] theorem putMade_memories (s : State) (c e : Nat) (x : PageEntry) : (putMade s c e x).memories = s.memories := rfl
@[simp] theorem putMade_trans (s : State) (c e : Nat) (x : PageEntry) : (putMade s c e x).trans = s.trans := rfl
@[simp] theorem putMade_kitty (s : State) (c e : Nat) (x : PageEntry) : (putMade s c e x).kitty = s.kitty := rfl
@[simp] theorem putMade_shoes (s : State) (c e : Nat) (x : PageEntry) : (putMade s c e x).shoes = s.shoes := rfl
@[simp] theorem putMade_flights (s : State) (c e : Nat) (x : PageEntry) : (putMade s c e x).flights = s.flights := rfl
@[simp] theorem putMade_dealer (s : State) (c e : Nat) (x : PageEntry) : (putMade s c e x).dealer = s.dealer := rfl
@[simp] theorem putMade_boards (s : State) (c e : Nat) (x : PageEntry) : (putMade s c e x).boards = s.boards := rfl
@[simp] theorem putMade_adapters (s : State) (c e : Nat) (x : PageEntry) : (putMade s c e x).adapters = s.adapters := rfl
@[simp] theorem putMade_domain (s : State) (c e : Nat) (x : PageEntry) : (putMade s c e x).domain = s.domain := rfl
@[simp] theorem putMade_net (s : State) (c e : Nat) (x : PageEntry) : (putMade s c e x).net = s.net := rfl
@[simp] theorem putMade_sideband (s : State) (c e : Nat) (x : PageEntry) : (putMade s c e x).sideband = s.sideband := rfl
@[simp] theorem putMade_host0 (s : State) (c e : Nat) (x : PageEntry) : (putMade s c e x).host0 = s.host0 := rfl
@[simp] theorem putMade_host1 (s : State) (c e : Nat) (x : PageEntry) : (putMade s c e x).host1 = s.host1 := rfl
@[simp] theorem putMade_out (s : State) (c e : Nat) (x : PageEntry) : (putMade s c e x).out = s.out := rfl
@[simp] theorem putMade_fresh (s : State) (c e : Nat) (x : PageEntry) : (putMade s c e x).fresh = s.fresh := rfl
@[simp] theorem putMade_pending (s : State) (c e : Nat) (x : PageEntry) : (putMade s c e x).pending = s.pending := rfl

/-! ## putSeg -/

@[simp] theorem putSeg_boot (s : State) (i : Nat) (g : Seg) : (putSeg s i g).boot = s.boot := rfl
@[simp] theorem putSeg_module (s : State) (i : Nat) (g : Seg) : (putSeg s i g).module = s.module := rfl
@[simp] theorem putSeg_vault (s : State) (i : Nat) (g : Seg) : (putSeg s i g).vault = s.vault := rfl
@[simp] theorem putSeg_models (s : State) (i : Nat) (g : Seg) : (putSeg s i g).models = s.models := rfl
@[simp] theorem putSeg_units (s : State) (i : Nat) (g : Seg) : (putSeg s i g).units = s.units := rfl
@[simp] theorem putSeg_power (s : State) (i : Nat) (g : Seg) : (putSeg s i g).power = s.power := rfl
@[simp] theorem putSeg_telemetry (s : State) (i : Nat) (g : Seg) : (putSeg s i g).telemetry = s.telemetry := rfl
@[simp] theorem putSeg_steps (s : State) (i : Nat) (g : Seg) : (putSeg s i g).steps = s.steps := rfl
@[simp] theorem putSeg_ptm (s : State) (i : Nat) (g : Seg) : (putSeg s i g).ptm = s.ptm := rfl
@[simp] theorem putSeg_heldun (s : State) (i : Nat) (g : Seg) : (putSeg s i g).heldun = s.heldun := rfl
@[simp] theorem putSeg_keys (s : State) (i : Nat) (g : Seg) : (putSeg s i g).keys = s.keys := rfl
@[simp] theorem putSeg_trans (s : State) (i : Nat) (g : Seg) : (putSeg s i g).trans = s.trans := rfl
@[simp] theorem putSeg_kitty (s : State) (i : Nat) (g : Seg) : (putSeg s i g).kitty = s.kitty := rfl
@[simp] theorem putSeg_shoes (s : State) (i : Nat) (g : Seg) : (putSeg s i g).shoes = s.shoes := rfl
@[simp] theorem putSeg_flights (s : State) (i : Nat) (g : Seg) : (putSeg s i g).flights = s.flights := rfl
@[simp] theorem putSeg_dealer (s : State) (i : Nat) (g : Seg) : (putSeg s i g).dealer = s.dealer := rfl
@[simp] theorem putSeg_kv (s : State) (i : Nat) (g : Seg) : (putSeg s i g).kv = s.kv := rfl
@[simp] theorem putSeg_boards (s : State) (i : Nat) (g : Seg) : (putSeg s i g).boards = s.boards := rfl
@[simp] theorem putSeg_adapters (s : State) (i : Nat) (g : Seg) : (putSeg s i g).adapters = s.adapters := rfl
@[simp] theorem putSeg_domain (s : State) (i : Nat) (g : Seg) : (putSeg s i g).domain = s.domain := rfl
@[simp] theorem putSeg_net (s : State) (i : Nat) (g : Seg) : (putSeg s i g).net = s.net := rfl
@[simp] theorem putSeg_sideband (s : State) (i : Nat) (g : Seg) : (putSeg s i g).sideband = s.sideband := rfl
@[simp] theorem putSeg_host0 (s : State) (i : Nat) (g : Seg) : (putSeg s i g).host0 = s.host0 := rfl
@[simp] theorem putSeg_host1 (s : State) (i : Nat) (g : Seg) : (putSeg s i g).host1 = s.host1 := rfl
@[simp] theorem putSeg_out (s : State) (i : Nat) (g : Seg) : (putSeg s i g).out = s.out := rfl
@[simp] theorem putSeg_fresh (s : State) (i : Nat) (g : Seg) : (putSeg s i g).fresh = s.fresh := rfl
@[simp] theorem putSeg_pending (s : State) (i : Nat) (g : Seg) : (putSeg s i g).pending = s.pending := rfl

/-! ## putArea -/

@[simp] theorem putArea_boot (s : State) (n : Nat) (t : AreaTag) : (putArea s n t).boot = s.boot := rfl
@[simp] theorem putArea_module (s : State) (n : Nat) (t : AreaTag) : (putArea s n t).module = s.module := rfl
@[simp] theorem putArea_vault (s : State) (n : Nat) (t : AreaTag) : (putArea s n t).vault = s.vault := rfl
@[simp] theorem putArea_models (s : State) (n : Nat) (t : AreaTag) : (putArea s n t).models = s.models := rfl
@[simp] theorem putArea_units (s : State) (n : Nat) (t : AreaTag) : (putArea s n t).units = s.units := rfl
@[simp] theorem putArea_power (s : State) (n : Nat) (t : AreaTag) : (putArea s n t).power = s.power := rfl
@[simp] theorem putArea_telemetry (s : State) (n : Nat) (t : AreaTag) : (putArea s n t).telemetry = s.telemetry := rfl
@[simp] theorem putArea_steps (s : State) (n : Nat) (t : AreaTag) : (putArea s n t).steps = s.steps := rfl
@[simp] theorem putArea_ptm (s : State) (n : Nat) (t : AreaTag) : (putArea s n t).ptm = s.ptm := rfl
@[simp] theorem putArea_heldun (s : State) (n : Nat) (t : AreaTag) : (putArea s n t).heldun = s.heldun := rfl
@[simp] theorem putArea_keys (s : State) (n : Nat) (t : AreaTag) : (putArea s n t).keys = s.keys := rfl
@[simp] theorem putArea_trans (s : State) (n : Nat) (t : AreaTag) : (putArea s n t).trans = s.trans := rfl
@[simp] theorem putArea_kitty (s : State) (n : Nat) (t : AreaTag) : (putArea s n t).kitty = s.kitty := rfl
@[simp] theorem putArea_shoes (s : State) (n : Nat) (t : AreaTag) : (putArea s n t).shoes = s.shoes := rfl
@[simp] theorem putArea_flights (s : State) (n : Nat) (t : AreaTag) : (putArea s n t).flights = s.flights := rfl
@[simp] theorem putArea_dealer (s : State) (n : Nat) (t : AreaTag) : (putArea s n t).dealer = s.dealer := rfl
@[simp] theorem putArea_kv (s : State) (n : Nat) (t : AreaTag) : (putArea s n t).kv = s.kv := rfl
@[simp] theorem putArea_boards (s : State) (n : Nat) (t : AreaTag) : (putArea s n t).boards = s.boards := rfl
@[simp] theorem putArea_adapters (s : State) (n : Nat) (t : AreaTag) : (putArea s n t).adapters = s.adapters := rfl
@[simp] theorem putArea_domain (s : State) (n : Nat) (t : AreaTag) : (putArea s n t).domain = s.domain := rfl
@[simp] theorem putArea_net (s : State) (n : Nat) (t : AreaTag) : (putArea s n t).net = s.net := rfl
@[simp] theorem putArea_sideband (s : State) (n : Nat) (t : AreaTag) : (putArea s n t).sideband = s.sideband := rfl
@[simp] theorem putArea_host0 (s : State) (n : Nat) (t : AreaTag) : (putArea s n t).host0 = s.host0 := rfl
@[simp] theorem putArea_host1 (s : State) (n : Nat) (t : AreaTag) : (putArea s n t).host1 = s.host1 := rfl
@[simp] theorem putArea_out (s : State) (n : Nat) (t : AreaTag) : (putArea s n t).out = s.out := rfl
@[simp] theorem putArea_fresh (s : State) (n : Nat) (t : AreaTag) : (putArea s n t).fresh = s.fresh := rfl
@[simp] theorem putArea_pending (s : State) (n : Nat) (t : AreaTag) : (putArea s n t).pending = s.pending := rfl

/-! ## putBoard -/

@[simp] theorem putBoard_boot (s : State) (n : Nat) (b : Board) : (putBoard s n b).boot = s.boot := rfl
@[simp] theorem putBoard_module (s : State) (n : Nat) (b : Board) : (putBoard s n b).module = s.module := rfl
@[simp] theorem putBoard_vault (s : State) (n : Nat) (b : Board) : (putBoard s n b).vault = s.vault := rfl
@[simp] theorem putBoard_models (s : State) (n : Nat) (b : Board) : (putBoard s n b).models = s.models := rfl
@[simp] theorem putBoard_units (s : State) (n : Nat) (b : Board) : (putBoard s n b).units = s.units := rfl
@[simp] theorem putBoard_power (s : State) (n : Nat) (b : Board) : (putBoard s n b).power = s.power := rfl
@[simp] theorem putBoard_telemetry (s : State) (n : Nat) (b : Board) : (putBoard s n b).telemetry = s.telemetry := rfl
@[simp] theorem putBoard_steps (s : State) (n : Nat) (b : Board) : (putBoard s n b).steps = s.steps := rfl
@[simp] theorem putBoard_ptm (s : State) (n : Nat) (b : Board) : (putBoard s n b).ptm = s.ptm := rfl
@[simp] theorem putBoard_heldun (s : State) (n : Nat) (b : Board) : (putBoard s n b).heldun = s.heldun := rfl
@[simp] theorem putBoard_keys (s : State) (n : Nat) (b : Board) : (putBoard s n b).keys = s.keys := rfl
@[simp] theorem putBoard_memories (s : State) (n : Nat) (b : Board) : (putBoard s n b).memories = s.memories := rfl
@[simp] theorem putBoard_trans (s : State) (n : Nat) (b : Board) : (putBoard s n b).trans = s.trans := rfl
@[simp] theorem putBoard_kitty (s : State) (n : Nat) (b : Board) : (putBoard s n b).kitty = s.kitty := rfl
@[simp] theorem putBoard_shoes (s : State) (n : Nat) (b : Board) : (putBoard s n b).shoes = s.shoes := rfl
@[simp] theorem putBoard_flights (s : State) (n : Nat) (b : Board) : (putBoard s n b).flights = s.flights := rfl
@[simp] theorem putBoard_dealer (s : State) (n : Nat) (b : Board) : (putBoard s n b).dealer = s.dealer := rfl
@[simp] theorem putBoard_kv (s : State) (n : Nat) (b : Board) : (putBoard s n b).kv = s.kv := rfl
@[simp] theorem putBoard_adapters (s : State) (n : Nat) (b : Board) : (putBoard s n b).adapters = s.adapters := rfl
@[simp] theorem putBoard_domain (s : State) (n : Nat) (b : Board) : (putBoard s n b).domain = s.domain := rfl
@[simp] theorem putBoard_net (s : State) (n : Nat) (b : Board) : (putBoard s n b).net = s.net := rfl
@[simp] theorem putBoard_sideband (s : State) (n : Nat) (b : Board) : (putBoard s n b).sideband = s.sideband := rfl
@[simp] theorem putBoard_host0 (s : State) (n : Nat) (b : Board) : (putBoard s n b).host0 = s.host0 := rfl
@[simp] theorem putBoard_host1 (s : State) (n : Nat) (b : Board) : (putBoard s n b).host1 = s.host1 := rfl
@[simp] theorem putBoard_out (s : State) (n : Nat) (b : Board) : (putBoard s n b).out = s.out := rfl
@[simp] theorem putBoard_fresh (s : State) (n : Nat) (b : Board) : (putBoard s n b).fresh = s.fresh := rfl
@[simp] theorem putBoard_pending (s : State) (n : Nat) (b : Board) : (putBoard s n b).pending = s.pending := rfl

/-! ## putExpander -/

@[simp] theorem putExpander_boot (s : State) (k : Nat) (e : Expander) : (putExpander s k e).boot = s.boot := rfl
@[simp] theorem putExpander_module (s : State) (k : Nat) (e : Expander) : (putExpander s k e).module = s.module := rfl
@[simp] theorem putExpander_vault (s : State) (k : Nat) (e : Expander) : (putExpander s k e).vault = s.vault := rfl
@[simp] theorem putExpander_models (s : State) (k : Nat) (e : Expander) : (putExpander s k e).models = s.models := rfl
@[simp] theorem putExpander_units (s : State) (k : Nat) (e : Expander) : (putExpander s k e).units = s.units := rfl
@[simp] theorem putExpander_power (s : State) (k : Nat) (e : Expander) : (putExpander s k e).power = s.power := rfl
@[simp] theorem putExpander_telemetry (s : State) (k : Nat) (e : Expander) : (putExpander s k e).telemetry = s.telemetry := rfl
@[simp] theorem putExpander_steps (s : State) (k : Nat) (e : Expander) : (putExpander s k e).steps = s.steps := rfl
@[simp] theorem putExpander_ptm (s : State) (k : Nat) (e : Expander) : (putExpander s k e).ptm = s.ptm := rfl
@[simp] theorem putExpander_heldun (s : State) (k : Nat) (e : Expander) : (putExpander s k e).heldun = s.heldun := rfl
@[simp] theorem putExpander_keys (s : State) (k : Nat) (e : Expander) : (putExpander s k e).keys = s.keys := rfl
@[simp] theorem putExpander_trans (s : State) (k : Nat) (e : Expander) : (putExpander s k e).trans = s.trans := rfl
@[simp] theorem putExpander_kitty (s : State) (k : Nat) (e : Expander) : (putExpander s k e).kitty = s.kitty := rfl
@[simp] theorem putExpander_shoes (s : State) (k : Nat) (e : Expander) : (putExpander s k e).shoes = s.shoes := rfl
@[simp] theorem putExpander_flights (s : State) (k : Nat) (e : Expander) : (putExpander s k e).flights = s.flights := rfl
@[simp] theorem putExpander_dealer (s : State) (k : Nat) (e : Expander) : (putExpander s k e).dealer = s.dealer := rfl
@[simp] theorem putExpander_kv (s : State) (k : Nat) (e : Expander) : (putExpander s k e).kv = s.kv := rfl
@[simp] theorem putExpander_boards (s : State) (k : Nat) (e : Expander) : (putExpander s k e).boards = s.boards := rfl
@[simp] theorem putExpander_adapters (s : State) (k : Nat) (e : Expander) : (putExpander s k e).adapters = s.adapters := rfl
@[simp] theorem putExpander_domain (s : State) (k : Nat) (e : Expander) : (putExpander s k e).domain = s.domain := rfl
@[simp] theorem putExpander_net (s : State) (k : Nat) (e : Expander) : (putExpander s k e).net = s.net := rfl
@[simp] theorem putExpander_sideband (s : State) (k : Nat) (e : Expander) : (putExpander s k e).sideband = s.sideband := rfl
@[simp] theorem putExpander_host0 (s : State) (k : Nat) (e : Expander) : (putExpander s k e).host0 = s.host0 := rfl
@[simp] theorem putExpander_host1 (s : State) (k : Nat) (e : Expander) : (putExpander s k e).host1 = s.host1 := rfl
@[simp] theorem putExpander_out (s : State) (k : Nat) (e : Expander) : (putExpander s k e).out = s.out := rfl
@[simp] theorem putExpander_fresh (s : State) (k : Nat) (e : Expander) : (putExpander s k e).fresh = s.fresh := rfl
@[simp] theorem putExpander_pending (s : State) (k : Nat) (e : Expander) : (putExpander s k e).pending = s.pending := rfl

/-! ## putAsid -/

@[simp] theorem putAsid_boot (s : State) (a : Nat) (r : Asid) : (putAsid s a r).boot = s.boot := rfl
@[simp] theorem putAsid_module (s : State) (a : Nat) (r : Asid) : (putAsid s a r).module = s.module := rfl
@[simp] theorem putAsid_vault (s : State) (a : Nat) (r : Asid) : (putAsid s a r).vault = s.vault := rfl
@[simp] theorem putAsid_models (s : State) (a : Nat) (r : Asid) : (putAsid s a r).models = s.models := rfl
@[simp] theorem putAsid_units (s : State) (a : Nat) (r : Asid) : (putAsid s a r).units = s.units := rfl
@[simp] theorem putAsid_power (s : State) (a : Nat) (r : Asid) : (putAsid s a r).power = s.power := rfl
@[simp] theorem putAsid_telemetry (s : State) (a : Nat) (r : Asid) : (putAsid s a r).telemetry = s.telemetry := rfl
@[simp] theorem putAsid_steps (s : State) (a : Nat) (r : Asid) : (putAsid s a r).steps = s.steps := rfl
@[simp] theorem putAsid_ptm (s : State) (a : Nat) (r : Asid) : (putAsid s a r).ptm = s.ptm := rfl
@[simp] theorem putAsid_heldun (s : State) (a : Nat) (r : Asid) : (putAsid s a r).heldun = s.heldun := rfl
@[simp] theorem putAsid_keys (s : State) (a : Nat) (r : Asid) : (putAsid s a r).keys = s.keys := rfl
@[simp] theorem putAsid_memories (s : State) (a : Nat) (r : Asid) : (putAsid s a r).memories = s.memories := rfl
@[simp] theorem putAsid_kitty (s : State) (a : Nat) (r : Asid) : (putAsid s a r).kitty = s.kitty := rfl
@[simp] theorem putAsid_shoes (s : State) (a : Nat) (r : Asid) : (putAsid s a r).shoes = s.shoes := rfl
@[simp] theorem putAsid_flights (s : State) (a : Nat) (r : Asid) : (putAsid s a r).flights = s.flights := rfl
@[simp] theorem putAsid_dealer (s : State) (a : Nat) (r : Asid) : (putAsid s a r).dealer = s.dealer := rfl
@[simp] theorem putAsid_kv (s : State) (a : Nat) (r : Asid) : (putAsid s a r).kv = s.kv := rfl
@[simp] theorem putAsid_boards (s : State) (a : Nat) (r : Asid) : (putAsid s a r).boards = s.boards := rfl
@[simp] theorem putAsid_adapters (s : State) (a : Nat) (r : Asid) : (putAsid s a r).adapters = s.adapters := rfl
@[simp] theorem putAsid_domain (s : State) (a : Nat) (r : Asid) : (putAsid s a r).domain = s.domain := rfl
@[simp] theorem putAsid_net (s : State) (a : Nat) (r : Asid) : (putAsid s a r).net = s.net := rfl
@[simp] theorem putAsid_sideband (s : State) (a : Nat) (r : Asid) : (putAsid s a r).sideband = s.sideband := rfl
@[simp] theorem putAsid_host0 (s : State) (a : Nat) (r : Asid) : (putAsid s a r).host0 = s.host0 := rfl
@[simp] theorem putAsid_host1 (s : State) (a : Nat) (r : Asid) : (putAsid s a r).host1 = s.host1 := rfl
@[simp] theorem putAsid_out (s : State) (a : Nat) (r : Asid) : (putAsid s a r).out = s.out := rfl
@[simp] theorem putAsid_fresh (s : State) (a : Nat) (r : Asid) : (putAsid s a r).fresh = s.fresh := rfl
@[simp] theorem putAsid_pending (s : State) (a : Nat) (r : Asid) : (putAsid s a r).pending = s.pending := rfl

/-! ## unsetKitty -/

@[simp] theorem unsetKitty_boot (s : State) : (unsetKitty s).boot = s.boot := rfl
@[simp] theorem unsetKitty_module (s : State) : (unsetKitty s).module = s.module := rfl
@[simp] theorem unsetKitty_vault (s : State) : (unsetKitty s).vault = s.vault := rfl
@[simp] theorem unsetKitty_models (s : State) : (unsetKitty s).models = s.models := rfl
@[simp] theorem unsetKitty_units (s : State) : (unsetKitty s).units = s.units := rfl
@[simp] theorem unsetKitty_power (s : State) : (unsetKitty s).power = s.power := rfl
@[simp] theorem unsetKitty_telemetry (s : State) : (unsetKitty s).telemetry = s.telemetry := rfl
@[simp] theorem unsetKitty_steps (s : State) : (unsetKitty s).steps = s.steps := rfl
@[simp] theorem unsetKitty_ptm (s : State) : (unsetKitty s).ptm = s.ptm := rfl
@[simp] theorem unsetKitty_heldun (s : State) : (unsetKitty s).heldun = s.heldun := rfl
@[simp] theorem unsetKitty_keys (s : State) : (unsetKitty s).keys = s.keys := rfl
@[simp] theorem unsetKitty_memories (s : State) : (unsetKitty s).memories = s.memories := rfl
@[simp] theorem unsetKitty_trans (s : State) : (unsetKitty s).trans = s.trans := rfl
@[simp] theorem unsetKitty_shoes (s : State) : (unsetKitty s).shoes = s.shoes := rfl
@[simp] theorem unsetKitty_flights (s : State) : (unsetKitty s).flights = s.flights := rfl
@[simp] theorem unsetKitty_dealer (s : State) : (unsetKitty s).dealer = s.dealer := rfl
@[simp] theorem unsetKitty_kv (s : State) : (unsetKitty s).kv = s.kv := rfl
@[simp] theorem unsetKitty_boards (s : State) : (unsetKitty s).boards = s.boards := rfl
@[simp] theorem unsetKitty_adapters (s : State) : (unsetKitty s).adapters = s.adapters := rfl
@[simp] theorem unsetKitty_domain (s : State) : (unsetKitty s).domain = s.domain := rfl
@[simp] theorem unsetKitty_net (s : State) : (unsetKitty s).net = s.net := rfl
@[simp] theorem unsetKitty_sideband (s : State) : (unsetKitty s).sideband = s.sideband := rfl
@[simp] theorem unsetKitty_host0 (s : State) : (unsetKitty s).host0 = s.host0 := rfl
@[simp] theorem unsetKitty_host1 (s : State) : (unsetKitty s).host1 = s.host1 := rfl
@[simp] theorem unsetKitty_out (s : State) : (unsetKitty s).out = s.out := rfl
@[simp] theorem unsetKitty_fresh (s : State) : (unsetKitty s).fresh = s.fresh := rfl
@[simp] theorem unsetKitty_pending (s : State) : (unsetKitty s).pending = s.pending := rfl

/-! ## putSlot -/

@[simp] theorem putSlot_boot (s : State) (k : Nat) (x : KeySlot) : (putSlot s k x).boot = s.boot := rfl
@[simp] theorem putSlot_module (s : State) (k : Nat) (x : KeySlot) : (putSlot s k x).module = s.module := rfl
@[simp] theorem putSlot_vault (s : State) (k : Nat) (x : KeySlot) : (putSlot s k x).vault = s.vault := rfl
@[simp] theorem putSlot_models (s : State) (k : Nat) (x : KeySlot) : (putSlot s k x).models = s.models := rfl
@[simp] theorem putSlot_units (s : State) (k : Nat) (x : KeySlot) : (putSlot s k x).units = s.units := rfl
@[simp] theorem putSlot_power (s : State) (k : Nat) (x : KeySlot) : (putSlot s k x).power = s.power := rfl
@[simp] theorem putSlot_telemetry (s : State) (k : Nat) (x : KeySlot) : (putSlot s k x).telemetry = s.telemetry := rfl
@[simp] theorem putSlot_steps (s : State) (k : Nat) (x : KeySlot) : (putSlot s k x).steps = s.steps := rfl
@[simp] theorem putSlot_ptm (s : State) (k : Nat) (x : KeySlot) : (putSlot s k x).ptm = s.ptm := rfl
@[simp] theorem putSlot_heldun (s : State) (k : Nat) (x : KeySlot) : (putSlot s k x).heldun = s.heldun := rfl
@[simp] theorem putSlot_memories (s : State) (k : Nat) (x : KeySlot) : (putSlot s k x).memories = s.memories := rfl
@[simp] theorem putSlot_trans (s : State) (k : Nat) (x : KeySlot) : (putSlot s k x).trans = s.trans := rfl
@[simp] theorem putSlot_kitty (s : State) (k : Nat) (x : KeySlot) : (putSlot s k x).kitty = s.kitty := rfl
@[simp] theorem putSlot_shoes (s : State) (k : Nat) (x : KeySlot) : (putSlot s k x).shoes = s.shoes := rfl
@[simp] theorem putSlot_flights (s : State) (k : Nat) (x : KeySlot) : (putSlot s k x).flights = s.flights := rfl
@[simp] theorem putSlot_dealer (s : State) (k : Nat) (x : KeySlot) : (putSlot s k x).dealer = s.dealer := rfl
@[simp] theorem putSlot_kv (s : State) (k : Nat) (x : KeySlot) : (putSlot s k x).kv = s.kv := rfl
@[simp] theorem putSlot_boards (s : State) (k : Nat) (x : KeySlot) : (putSlot s k x).boards = s.boards := rfl
@[simp] theorem putSlot_adapters (s : State) (k : Nat) (x : KeySlot) : (putSlot s k x).adapters = s.adapters := rfl
@[simp] theorem putSlot_domain (s : State) (k : Nat) (x : KeySlot) : (putSlot s k x).domain = s.domain := rfl
@[simp] theorem putSlot_net (s : State) (k : Nat) (x : KeySlot) : (putSlot s k x).net = s.net := rfl
@[simp] theorem putSlot_sideband (s : State) (k : Nat) (x : KeySlot) : (putSlot s k x).sideband = s.sideband := rfl
@[simp] theorem putSlot_host0 (s : State) (k : Nat) (x : KeySlot) : (putSlot s k x).host0 = s.host0 := rfl
@[simp] theorem putSlot_host1 (s : State) (k : Nat) (x : KeySlot) : (putSlot s k x).host1 = s.host1 := rfl
@[simp] theorem putSlot_out (s : State) (k : Nat) (x : KeySlot) : (putSlot s k x).out = s.out := rfl
@[simp] theorem putSlot_fresh (s : State) (k : Nat) (x : KeySlot) : (putSlot s k x).fresh = s.fresh := rfl
@[simp] theorem putSlot_pending (s : State) (k : Nat) (x : KeySlot) : (putSlot s k x).pending = s.pending := rfl

/-! ## putBank -/

@[simp] theorem putBank_boot (s : State) (i : Nat) (b : Bank) : (putBank s i b).boot = s.boot := rfl
@[simp] theorem putBank_module (s : State) (i : Nat) (b : Bank) : (putBank s i b).module = s.module := rfl
@[simp] theorem putBank_models (s : State) (i : Nat) (b : Bank) : (putBank s i b).models = s.models := rfl
@[simp] theorem putBank_units (s : State) (i : Nat) (b : Bank) : (putBank s i b).units = s.units := rfl
@[simp] theorem putBank_power (s : State) (i : Nat) (b : Bank) : (putBank s i b).power = s.power := rfl
@[simp] theorem putBank_telemetry (s : State) (i : Nat) (b : Bank) : (putBank s i b).telemetry = s.telemetry := rfl
@[simp] theorem putBank_steps (s : State) (i : Nat) (b : Bank) : (putBank s i b).steps = s.steps := rfl
@[simp] theorem putBank_ptm (s : State) (i : Nat) (b : Bank) : (putBank s i b).ptm = s.ptm := rfl
@[simp] theorem putBank_heldun (s : State) (i : Nat) (b : Bank) : (putBank s i b).heldun = s.heldun := rfl
@[simp] theorem putBank_keys (s : State) (i : Nat) (b : Bank) : (putBank s i b).keys = s.keys := rfl
@[simp] theorem putBank_memories (s : State) (i : Nat) (b : Bank) : (putBank s i b).memories = s.memories := rfl
@[simp] theorem putBank_trans (s : State) (i : Nat) (b : Bank) : (putBank s i b).trans = s.trans := rfl
@[simp] theorem putBank_kitty (s : State) (i : Nat) (b : Bank) : (putBank s i b).kitty = s.kitty := rfl
@[simp] theorem putBank_shoes (s : State) (i : Nat) (b : Bank) : (putBank s i b).shoes = s.shoes := rfl
@[simp] theorem putBank_flights (s : State) (i : Nat) (b : Bank) : (putBank s i b).flights = s.flights := rfl
@[simp] theorem putBank_dealer (s : State) (i : Nat) (b : Bank) : (putBank s i b).dealer = s.dealer := rfl
@[simp] theorem putBank_kv (s : State) (i : Nat) (b : Bank) : (putBank s i b).kv = s.kv := rfl
@[simp] theorem putBank_boards (s : State) (i : Nat) (b : Bank) : (putBank s i b).boards = s.boards := rfl
@[simp] theorem putBank_adapters (s : State) (i : Nat) (b : Bank) : (putBank s i b).adapters = s.adapters := rfl
@[simp] theorem putBank_domain (s : State) (i : Nat) (b : Bank) : (putBank s i b).domain = s.domain := rfl
@[simp] theorem putBank_net (s : State) (i : Nat) (b : Bank) : (putBank s i b).net = s.net := rfl
@[simp] theorem putBank_sideband (s : State) (i : Nat) (b : Bank) : (putBank s i b).sideband = s.sideband := rfl
@[simp] theorem putBank_host0 (s : State) (i : Nat) (b : Bank) : (putBank s i b).host0 = s.host0 := rfl
@[simp] theorem putBank_host1 (s : State) (i : Nat) (b : Bank) : (putBank s i b).host1 = s.host1 := rfl
@[simp] theorem putBank_out (s : State) (i : Nat) (b : Bank) : (putBank s i b).out = s.out := rfl
@[simp] theorem putBank_fresh (s : State) (i : Nat) (b : Bank) : (putBank s i b).fresh = s.fresh := rfl
@[simp] theorem putBank_pending (s : State) (i : Nat) (b : Bank) : (putBank s i b).pending = s.pending := rfl

/-! ## setNetPort -/

@[simp] theorem setNetPort_boot (s : State) (p : Nat) (x : NetPort) : (setNetPort s p x).boot = s.boot := rfl
@[simp] theorem setNetPort_module (s : State) (p : Nat) (x : NetPort) : (setNetPort s p x).module = s.module := rfl
@[simp] theorem setNetPort_vault (s : State) (p : Nat) (x : NetPort) : (setNetPort s p x).vault = s.vault := rfl
@[simp] theorem setNetPort_models (s : State) (p : Nat) (x : NetPort) : (setNetPort s p x).models = s.models := rfl
@[simp] theorem setNetPort_units (s : State) (p : Nat) (x : NetPort) : (setNetPort s p x).units = s.units := rfl
@[simp] theorem setNetPort_power (s : State) (p : Nat) (x : NetPort) : (setNetPort s p x).power = s.power := rfl
@[simp] theorem setNetPort_telemetry (s : State) (p : Nat) (x : NetPort) : (setNetPort s p x).telemetry = s.telemetry := rfl
@[simp] theorem setNetPort_steps (s : State) (p : Nat) (x : NetPort) : (setNetPort s p x).steps = s.steps := rfl
@[simp] theorem setNetPort_ptm (s : State) (p : Nat) (x : NetPort) : (setNetPort s p x).ptm = s.ptm := rfl
@[simp] theorem setNetPort_heldun (s : State) (p : Nat) (x : NetPort) : (setNetPort s p x).heldun = s.heldun := rfl
@[simp] theorem setNetPort_keys (s : State) (p : Nat) (x : NetPort) : (setNetPort s p x).keys = s.keys := rfl
@[simp] theorem setNetPort_memories (s : State) (p : Nat) (x : NetPort) : (setNetPort s p x).memories = s.memories := rfl
@[simp] theorem setNetPort_trans (s : State) (p : Nat) (x : NetPort) : (setNetPort s p x).trans = s.trans := rfl
@[simp] theorem setNetPort_kitty (s : State) (p : Nat) (x : NetPort) : (setNetPort s p x).kitty = s.kitty := rfl
@[simp] theorem setNetPort_shoes (s : State) (p : Nat) (x : NetPort) : (setNetPort s p x).shoes = s.shoes := rfl
@[simp] theorem setNetPort_flights (s : State) (p : Nat) (x : NetPort) : (setNetPort s p x).flights = s.flights := rfl
@[simp] theorem setNetPort_dealer (s : State) (p : Nat) (x : NetPort) : (setNetPort s p x).dealer = s.dealer := rfl
@[simp] theorem setNetPort_kv (s : State) (p : Nat) (x : NetPort) : (setNetPort s p x).kv = s.kv := rfl
@[simp] theorem setNetPort_boards (s : State) (p : Nat) (x : NetPort) : (setNetPort s p x).boards = s.boards := rfl
@[simp] theorem setNetPort_adapters (s : State) (p : Nat) (x : NetPort) : (setNetPort s p x).adapters = s.adapters := rfl
@[simp] theorem setNetPort_domain (s : State) (p : Nat) (x : NetPort) : (setNetPort s p x).domain = s.domain := rfl
@[simp] theorem setNetPort_sideband (s : State) (p : Nat) (x : NetPort) : (setNetPort s p x).sideband = s.sideband := rfl
@[simp] theorem setNetPort_host0 (s : State) (p : Nat) (x : NetPort) : (setNetPort s p x).host0 = s.host0 := rfl
@[simp] theorem setNetPort_host1 (s : State) (p : Nat) (x : NetPort) : (setNetPort s p x).host1 = s.host1 := rfl
@[simp] theorem setNetPort_out (s : State) (p : Nat) (x : NetPort) : (setNetPort s p x).out = s.out := rfl
@[simp] theorem setNetPort_fresh (s : State) (p : Nat) (x : NetPort) : (setNetPort s p x).fresh = s.fresh := rfl
@[simp] theorem setNetPort_pending (s : State) (p : Nat) (x : NetPort) : (setNetPort s p x).pending = s.pending := rfl

/-! ## putQp -/

@[simp] theorem putQp_boot (s : State) (n : Nat) (q : Qp) : (putQp s n q).boot = s.boot := rfl
@[simp] theorem putQp_module (s : State) (n : Nat) (q : Qp) : (putQp s n q).module = s.module := rfl
@[simp] theorem putQp_vault (s : State) (n : Nat) (q : Qp) : (putQp s n q).vault = s.vault := rfl
@[simp] theorem putQp_models (s : State) (n : Nat) (q : Qp) : (putQp s n q).models = s.models := rfl
@[simp] theorem putQp_units (s : State) (n : Nat) (q : Qp) : (putQp s n q).units = s.units := rfl
@[simp] theorem putQp_power (s : State) (n : Nat) (q : Qp) : (putQp s n q).power = s.power := rfl
@[simp] theorem putQp_telemetry (s : State) (n : Nat) (q : Qp) : (putQp s n q).telemetry = s.telemetry := rfl
@[simp] theorem putQp_steps (s : State) (n : Nat) (q : Qp) : (putQp s n q).steps = s.steps := rfl
@[simp] theorem putQp_ptm (s : State) (n : Nat) (q : Qp) : (putQp s n q).ptm = s.ptm := rfl
@[simp] theorem putQp_heldun (s : State) (n : Nat) (q : Qp) : (putQp s n q).heldun = s.heldun := rfl
@[simp] theorem putQp_keys (s : State) (n : Nat) (q : Qp) : (putQp s n q).keys = s.keys := rfl
@[simp] theorem putQp_memories (s : State) (n : Nat) (q : Qp) : (putQp s n q).memories = s.memories := rfl
@[simp] theorem putQp_trans (s : State) (n : Nat) (q : Qp) : (putQp s n q).trans = s.trans := rfl
@[simp] theorem putQp_kitty (s : State) (n : Nat) (q : Qp) : (putQp s n q).kitty = s.kitty := rfl
@[simp] theorem putQp_shoes (s : State) (n : Nat) (q : Qp) : (putQp s n q).shoes = s.shoes := rfl
@[simp] theorem putQp_flights (s : State) (n : Nat) (q : Qp) : (putQp s n q).flights = s.flights := rfl
@[simp] theorem putQp_dealer (s : State) (n : Nat) (q : Qp) : (putQp s n q).dealer = s.dealer := rfl
@[simp] theorem putQp_kv (s : State) (n : Nat) (q : Qp) : (putQp s n q).kv = s.kv := rfl
@[simp] theorem putQp_boards (s : State) (n : Nat) (q : Qp) : (putQp s n q).boards = s.boards := rfl
@[simp] theorem putQp_adapters (s : State) (n : Nat) (q : Qp) : (putQp s n q).adapters = s.adapters := rfl
@[simp] theorem putQp_domain (s : State) (n : Nat) (q : Qp) : (putQp s n q).domain = s.domain := rfl
@[simp] theorem putQp_sideband (s : State) (n : Nat) (q : Qp) : (putQp s n q).sideband = s.sideband := rfl
@[simp] theorem putQp_host0 (s : State) (n : Nat) (q : Qp) : (putQp s n q).host0 = s.host0 := rfl
@[simp] theorem putQp_host1 (s : State) (n : Nat) (q : Qp) : (putQp s n q).host1 = s.host1 := rfl
@[simp] theorem putQp_out (s : State) (n : Nat) (q : Qp) : (putQp s n q).out = s.out := rfl
@[simp] theorem putQp_fresh (s : State) (n : Nat) (q : Qp) : (putQp s n q).fresh = s.fresh := rfl
@[simp] theorem putQp_pending (s : State) (n : Nat) (q : Qp) : (putQp s n q).pending = s.pending := rfl

/-! ## setSide -/

@[simp] theorem setSide_boot (s : State) (x : Sideband) : (setSide s x).boot = s.boot := rfl
@[simp] theorem setSide_module (s : State) (x : Sideband) : (setSide s x).module = s.module := rfl
@[simp] theorem setSide_vault (s : State) (x : Sideband) : (setSide s x).vault = s.vault := rfl
@[simp] theorem setSide_models (s : State) (x : Sideband) : (setSide s x).models = s.models := rfl
@[simp] theorem setSide_units (s : State) (x : Sideband) : (setSide s x).units = s.units := rfl
@[simp] theorem setSide_power (s : State) (x : Sideband) : (setSide s x).power = s.power := rfl
@[simp] theorem setSide_telemetry (s : State) (x : Sideband) : (setSide s x).telemetry = s.telemetry := rfl
@[simp] theorem setSide_steps (s : State) (x : Sideband) : (setSide s x).steps = s.steps := rfl
@[simp] theorem setSide_ptm (s : State) (x : Sideband) : (setSide s x).ptm = s.ptm := rfl
@[simp] theorem setSide_heldun (s : State) (x : Sideband) : (setSide s x).heldun = s.heldun := rfl
@[simp] theorem setSide_keys (s : State) (x : Sideband) : (setSide s x).keys = s.keys := rfl
@[simp] theorem setSide_memories (s : State) (x : Sideband) : (setSide s x).memories = s.memories := rfl
@[simp] theorem setSide_trans (s : State) (x : Sideband) : (setSide s x).trans = s.trans := rfl
@[simp] theorem setSide_kitty (s : State) (x : Sideband) : (setSide s x).kitty = s.kitty := rfl
@[simp] theorem setSide_shoes (s : State) (x : Sideband) : (setSide s x).shoes = s.shoes := rfl
@[simp] theorem setSide_flights (s : State) (x : Sideband) : (setSide s x).flights = s.flights := rfl
@[simp] theorem setSide_dealer (s : State) (x : Sideband) : (setSide s x).dealer = s.dealer := rfl
@[simp] theorem setSide_kv (s : State) (x : Sideband) : (setSide s x).kv = s.kv := rfl
@[simp] theorem setSide_boards (s : State) (x : Sideband) : (setSide s x).boards = s.boards := rfl
@[simp] theorem setSide_adapters (s : State) (x : Sideband) : (setSide s x).adapters = s.adapters := rfl
@[simp] theorem setSide_domain (s : State) (x : Sideband) : (setSide s x).domain = s.domain := rfl
@[simp] theorem setSide_net (s : State) (x : Sideband) : (setSide s x).net = s.net := rfl
@[simp] theorem setSide_host0 (s : State) (x : Sideband) : (setSide s x).host0 = s.host0 := rfl
@[simp] theorem setSide_host1 (s : State) (x : Sideband) : (setSide s x).host1 = s.host1 := rfl
@[simp] theorem setSide_out (s : State) (x : Sideband) : (setSide s x).out = s.out := rfl
@[simp] theorem setSide_fresh (s : State) (x : Sideband) : (setSide s x).fresh = s.fresh := rfl
@[simp] theorem setSide_pending (s : State) (x : Sideband) : (setSide s x).pending = s.pending := rfl

/-! ## setWarned -/

@[simp] theorem setWarned_boot (s : State) (l : List (Nat × Nat)) : (setWarned s l).boot = s.boot := rfl
@[simp] theorem setWarned_module (s : State) (l : List (Nat × Nat)) : (setWarned s l).module = s.module := rfl
@[simp] theorem setWarned_vault (s : State) (l : List (Nat × Nat)) : (setWarned s l).vault = s.vault := rfl
@[simp] theorem setWarned_models (s : State) (l : List (Nat × Nat)) : (setWarned s l).models = s.models := rfl
@[simp] theorem setWarned_units (s : State) (l : List (Nat × Nat)) : (setWarned s l).units = s.units := rfl
@[simp] theorem setWarned_power (s : State) (l : List (Nat × Nat)) : (setWarned s l).power = s.power := rfl
@[simp] theorem setWarned_steps (s : State) (l : List (Nat × Nat)) : (setWarned s l).steps = s.steps := rfl
@[simp] theorem setWarned_ptm (s : State) (l : List (Nat × Nat)) : (setWarned s l).ptm = s.ptm := rfl
@[simp] theorem setWarned_heldun (s : State) (l : List (Nat × Nat)) : (setWarned s l).heldun = s.heldun := rfl
@[simp] theorem setWarned_keys (s : State) (l : List (Nat × Nat)) : (setWarned s l).keys = s.keys := rfl
@[simp] theorem setWarned_memories (s : State) (l : List (Nat × Nat)) : (setWarned s l).memories = s.memories := rfl
@[simp] theorem setWarned_trans (s : State) (l : List (Nat × Nat)) : (setWarned s l).trans = s.trans := rfl
@[simp] theorem setWarned_kitty (s : State) (l : List (Nat × Nat)) : (setWarned s l).kitty = s.kitty := rfl
@[simp] theorem setWarned_shoes (s : State) (l : List (Nat × Nat)) : (setWarned s l).shoes = s.shoes := rfl
@[simp] theorem setWarned_flights (s : State) (l : List (Nat × Nat)) : (setWarned s l).flights = s.flights := rfl
@[simp] theorem setWarned_dealer (s : State) (l : List (Nat × Nat)) : (setWarned s l).dealer = s.dealer := rfl
@[simp] theorem setWarned_kv (s : State) (l : List (Nat × Nat)) : (setWarned s l).kv = s.kv := rfl
@[simp] theorem setWarned_boards (s : State) (l : List (Nat × Nat)) : (setWarned s l).boards = s.boards := rfl
@[simp] theorem setWarned_adapters (s : State) (l : List (Nat × Nat)) : (setWarned s l).adapters = s.adapters := rfl
@[simp] theorem setWarned_domain (s : State) (l : List (Nat × Nat)) : (setWarned s l).domain = s.domain := rfl
@[simp] theorem setWarned_net (s : State) (l : List (Nat × Nat)) : (setWarned s l).net = s.net := rfl
@[simp] theorem setWarned_sideband (s : State) (l : List (Nat × Nat)) : (setWarned s l).sideband = s.sideband := rfl
@[simp] theorem setWarned_host0 (s : State) (l : List (Nat × Nat)) : (setWarned s l).host0 = s.host0 := rfl
@[simp] theorem setWarned_host1 (s : State) (l : List (Nat × Nat)) : (setWarned s l).host1 = s.host1 := rfl
@[simp] theorem setWarned_out (s : State) (l : List (Nat × Nat)) : (setWarned s l).out = s.out := rfl
@[simp] theorem setWarned_fresh (s : State) (l : List (Nat × Nat)) : (setWarned s l).fresh = s.fresh := rfl
@[simp] theorem setWarned_pending (s : State) (l : List (Nat × Nat)) : (setWarned s l).pending = s.pending := rfl

/-! ## zeroMem -/

@[simp] theorem zeroMem_boot (s : State) (pa len : Nat) : (zeroMem s pa len).boot = s.boot := rfl
@[simp] theorem zeroMem_module (s : State) (pa len : Nat) : (zeroMem s pa len).module = s.module := rfl
@[simp] theorem zeroMem_vault (s : State) (pa len : Nat) : (zeroMem s pa len).vault = s.vault := rfl
@[simp] theorem zeroMem_models (s : State) (pa len : Nat) : (zeroMem s pa len).models = s.models := rfl
@[simp] theorem zeroMem_units (s : State) (pa len : Nat) : (zeroMem s pa len).units = s.units := rfl
@[simp] theorem zeroMem_power (s : State) (pa len : Nat) : (zeroMem s pa len).power = s.power := rfl
@[simp] theorem zeroMem_telemetry (s : State) (pa len : Nat) : (zeroMem s pa len).telemetry = s.telemetry := rfl
@[simp] theorem zeroMem_steps (s : State) (pa len : Nat) : (zeroMem s pa len).steps = s.steps := rfl
@[simp] theorem zeroMem_ptm (s : State) (pa len : Nat) : (zeroMem s pa len).ptm = s.ptm := rfl
@[simp] theorem zeroMem_heldun (s : State) (pa len : Nat) : (zeroMem s pa len).heldun = s.heldun := rfl
@[simp] theorem zeroMem_keys (s : State) (pa len : Nat) : (zeroMem s pa len).keys = s.keys := rfl
@[simp] theorem zeroMem_trans (s : State) (pa len : Nat) : (zeroMem s pa len).trans = s.trans := rfl
@[simp] theorem zeroMem_kitty (s : State) (pa len : Nat) : (zeroMem s pa len).kitty = s.kitty := rfl
@[simp] theorem zeroMem_shoes (s : State) (pa len : Nat) : (zeroMem s pa len).shoes = s.shoes := rfl
@[simp] theorem zeroMem_flights (s : State) (pa len : Nat) : (zeroMem s pa len).flights = s.flights := rfl
@[simp] theorem zeroMem_dealer (s : State) (pa len : Nat) : (zeroMem s pa len).dealer = s.dealer := rfl
@[simp] theorem zeroMem_kv (s : State) (pa len : Nat) : (zeroMem s pa len).kv = s.kv := rfl
@[simp] theorem zeroMem_boards (s : State) (pa len : Nat) : (zeroMem s pa len).boards = s.boards := rfl
@[simp] theorem zeroMem_adapters (s : State) (pa len : Nat) : (zeroMem s pa len).adapters = s.adapters := rfl
@[simp] theorem zeroMem_domain (s : State) (pa len : Nat) : (zeroMem s pa len).domain = s.domain := rfl
@[simp] theorem zeroMem_net (s : State) (pa len : Nat) : (zeroMem s pa len).net = s.net := rfl
@[simp] theorem zeroMem_sideband (s : State) (pa len : Nat) : (zeroMem s pa len).sideband = s.sideband := rfl
@[simp] theorem zeroMem_host0 (s : State) (pa len : Nat) : (zeroMem s pa len).host0 = s.host0 := rfl
@[simp] theorem zeroMem_host1 (s : State) (pa len : Nat) : (zeroMem s pa len).host1 = s.host1 := rfl
@[simp] theorem zeroMem_out (s : State) (pa len : Nat) : (zeroMem s pa len).out = s.out := rfl
@[simp] theorem zeroMem_fresh (s : State) (pa len : Nat) : (zeroMem s pa len).fresh = s.fresh := rfl
@[simp] theorem zeroMem_pending (s : State) (pa len : Nat) : (zeroMem s pa len).pending = s.pending := rfl

/-! ## notePosted -/

@[simp] theorem notePosted_boot (s : State) (p : Posted) : (notePosted s p).boot = s.boot := rfl
@[simp] theorem notePosted_module (s : State) (p : Posted) : (notePosted s p).module = s.module := rfl
@[simp] theorem notePosted_vault (s : State) (p : Posted) : (notePosted s p).vault = s.vault := rfl
@[simp] theorem notePosted_models (s : State) (p : Posted) : (notePosted s p).models = s.models := rfl
@[simp] theorem notePosted_units (s : State) (p : Posted) : (notePosted s p).units = s.units := rfl
@[simp] theorem notePosted_power (s : State) (p : Posted) : (notePosted s p).power = s.power := rfl
@[simp] theorem notePosted_telemetry (s : State) (p : Posted) : (notePosted s p).telemetry = s.telemetry := rfl
@[simp] theorem notePosted_steps (s : State) (p : Posted) : (notePosted s p).steps = s.steps := rfl
@[simp] theorem notePosted_ptm (s : State) (p : Posted) : (notePosted s p).ptm = s.ptm := rfl
@[simp] theorem notePosted_heldun (s : State) (p : Posted) : (notePosted s p).heldun = s.heldun := rfl
@[simp] theorem notePosted_keys (s : State) (p : Posted) : (notePosted s p).keys = s.keys := rfl
@[simp] theorem notePosted_memories (s : State) (p : Posted) : (notePosted s p).memories = s.memories := rfl
@[simp] theorem notePosted_trans (s : State) (p : Posted) : (notePosted s p).trans = s.trans := rfl
@[simp] theorem notePosted_kitty (s : State) (p : Posted) : (notePosted s p).kitty = s.kitty := rfl
@[simp] theorem notePosted_shoes (s : State) (p : Posted) : (notePosted s p).shoes = s.shoes := rfl
@[simp] theorem notePosted_dealer (s : State) (p : Posted) : (notePosted s p).dealer = s.dealer := rfl
@[simp] theorem notePosted_kv (s : State) (p : Posted) : (notePosted s p).kv = s.kv := rfl
@[simp] theorem notePosted_boards (s : State) (p : Posted) : (notePosted s p).boards = s.boards := rfl
@[simp] theorem notePosted_adapters (s : State) (p : Posted) : (notePosted s p).adapters = s.adapters := rfl
@[simp] theorem notePosted_domain (s : State) (p : Posted) : (notePosted s p).domain = s.domain := rfl
@[simp] theorem notePosted_net (s : State) (p : Posted) : (notePosted s p).net = s.net := rfl
@[simp] theorem notePosted_sideband (s : State) (p : Posted) : (notePosted s p).sideband = s.sideband := rfl
@[simp] theorem notePosted_host0 (s : State) (p : Posted) : (notePosted s p).host0 = s.host0 := rfl
@[simp] theorem notePosted_host1 (s : State) (p : Posted) : (notePosted s p).host1 = s.host1 := rfl
@[simp] theorem notePosted_out (s : State) (p : Posted) : (notePosted s p).out = s.out := rfl
@[simp] theorem notePosted_fresh (s : State) (p : Posted) : (notePosted s p).fresh = s.fresh := rfl
@[simp] theorem notePosted_pending (s : State) (p : Posted) : (notePosted s p).pending = s.pending := rfl

/-! ## touchPage -/

@[simp] theorem touchPage_boot (s : State) (p deal : Nat) : (touchPage s p deal).boot = s.boot := rfl
@[simp] theorem touchPage_module (s : State) (p deal : Nat) : (touchPage s p deal).module = s.module := rfl
@[simp] theorem touchPage_vault (s : State) (p deal : Nat) : (touchPage s p deal).vault = s.vault := rfl
@[simp] theorem touchPage_models (s : State) (p deal : Nat) : (touchPage s p deal).models = s.models := rfl
@[simp] theorem touchPage_units (s : State) (p deal : Nat) : (touchPage s p deal).units = s.units := rfl
@[simp] theorem touchPage_power (s : State) (p deal : Nat) : (touchPage s p deal).power = s.power := rfl
@[simp] theorem touchPage_telemetry (s : State) (p deal : Nat) : (touchPage s p deal).telemetry = s.telemetry := rfl
@[simp] theorem touchPage_steps (s : State) (p deal : Nat) : (touchPage s p deal).steps = s.steps := rfl
@[simp] theorem touchPage_ptm (s : State) (p deal : Nat) : (touchPage s p deal).ptm = s.ptm := rfl
@[simp] theorem touchPage_heldun (s : State) (p deal : Nat) : (touchPage s p deal).heldun = s.heldun := rfl
@[simp] theorem touchPage_keys (s : State) (p deal : Nat) : (touchPage s p deal).keys = s.keys := rfl
@[simp] theorem touchPage_memories (s : State) (p deal : Nat) : (touchPage s p deal).memories = s.memories := rfl
@[simp] theorem touchPage_trans (s : State) (p deal : Nat) : (touchPage s p deal).trans = s.trans := rfl
@[simp] theorem touchPage_kitty (s : State) (p deal : Nat) : (touchPage s p deal).kitty = s.kitty := rfl
@[simp] theorem touchPage_shoes (s : State) (p deal : Nat) : (touchPage s p deal).shoes = s.shoes := rfl
@[simp] theorem touchPage_flights (s : State) (p deal : Nat) : (touchPage s p deal).flights = s.flights := rfl
@[simp] theorem touchPage_dealer (s : State) (p deal : Nat) : (touchPage s p deal).dealer = s.dealer := rfl
@[simp] theorem touchPage_boards (s : State) (p deal : Nat) : (touchPage s p deal).boards = s.boards := rfl
@[simp] theorem touchPage_adapters (s : State) (p deal : Nat) : (touchPage s p deal).adapters = s.adapters := rfl
@[simp] theorem touchPage_domain (s : State) (p deal : Nat) : (touchPage s p deal).domain = s.domain := rfl
@[simp] theorem touchPage_net (s : State) (p deal : Nat) : (touchPage s p deal).net = s.net := rfl
@[simp] theorem touchPage_sideband (s : State) (p deal : Nat) : (touchPage s p deal).sideband = s.sideband := rfl
@[simp] theorem touchPage_host0 (s : State) (p deal : Nat) : (touchPage s p deal).host0 = s.host0 := rfl
@[simp] theorem touchPage_host1 (s : State) (p deal : Nat) : (touchPage s p deal).host1 = s.host1 := rfl
@[simp] theorem touchPage_out (s : State) (p deal : Nat) : (touchPage s p deal).out = s.out := rfl
@[simp] theorem touchPage_fresh (s : State) (p deal : Nat) : (touchPage s p deal).fresh = s.fresh := rfl
@[simp] theorem touchPage_pending (s : State) (p deal : Nat) : (touchPage s p deal).pending = s.pending := rfl

/-! ## respond -/

@[simp] theorem respond_boot (s : State) (port txn : Nat) (response : List Byte) : (respond s port txn response).boot = s.boot := rfl
@[simp] theorem respond_module (s : State) (port txn : Nat) (response : List Byte) : (respond s port txn response).module = s.module := rfl
@[simp] theorem respond_vault (s : State) (port txn : Nat) (response : List Byte) : (respond s port txn response).vault = s.vault := rfl
@[simp] theorem respond_models (s : State) (port txn : Nat) (response : List Byte) : (respond s port txn response).models = s.models := rfl
@[simp] theorem respond_units (s : State) (port txn : Nat) (response : List Byte) : (respond s port txn response).units = s.units := rfl
@[simp] theorem respond_power (s : State) (port txn : Nat) (response : List Byte) : (respond s port txn response).power = s.power := rfl
@[simp] theorem respond_telemetry (s : State) (port txn : Nat) (response : List Byte) : (respond s port txn response).telemetry = s.telemetry := rfl
@[simp] theorem respond_steps (s : State) (port txn : Nat) (response : List Byte) : (respond s port txn response).steps = s.steps := rfl
@[simp] theorem respond_ptm (s : State) (port txn : Nat) (response : List Byte) : (respond s port txn response).ptm = s.ptm := rfl
@[simp] theorem respond_keys (s : State) (port txn : Nat) (response : List Byte) : (respond s port txn response).keys = s.keys := rfl
@[simp] theorem respond_memories (s : State) (port txn : Nat) (response : List Byte) : (respond s port txn response).memories = s.memories := rfl
@[simp] theorem respond_trans (s : State) (port txn : Nat) (response : List Byte) : (respond s port txn response).trans = s.trans := rfl
@[simp] theorem respond_kitty (s : State) (port txn : Nat) (response : List Byte) : (respond s port txn response).kitty = s.kitty := rfl
@[simp] theorem respond_shoes (s : State) (port txn : Nat) (response : List Byte) : (respond s port txn response).shoes = s.shoes := rfl
@[simp] theorem respond_flights (s : State) (port txn : Nat) (response : List Byte) : (respond s port txn response).flights = s.flights := rfl
@[simp] theorem respond_dealer (s : State) (port txn : Nat) (response : List Byte) : (respond s port txn response).dealer = s.dealer := rfl
@[simp] theorem respond_kv (s : State) (port txn : Nat) (response : List Byte) : (respond s port txn response).kv = s.kv := rfl
@[simp] theorem respond_boards (s : State) (port txn : Nat) (response : List Byte) : (respond s port txn response).boards = s.boards := rfl
@[simp] theorem respond_adapters (s : State) (port txn : Nat) (response : List Byte) : (respond s port txn response).adapters = s.adapters := rfl
@[simp] theorem respond_domain (s : State) (port txn : Nat) (response : List Byte) : (respond s port txn response).domain = s.domain := rfl
@[simp] theorem respond_net (s : State) (port txn : Nat) (response : List Byte) : (respond s port txn response).net = s.net := rfl
@[simp] theorem respond_sideband (s : State) (port txn : Nat) (response : List Byte) : (respond s port txn response).sideband = s.sideband := rfl
@[simp] theorem respond_host0 (s : State) (port txn : Nat) (response : List Byte) : (respond s port txn response).host0 = s.host0 := rfl
@[simp] theorem respond_host1 (s : State) (port txn : Nat) (response : List Byte) : (respond s port txn response).host1 = s.host1 := rfl
@[simp] theorem respond_fresh (s : State) (port txn : Nat) (response : List Byte) : (respond s port txn response).fresh = s.fresh := rfl
@[simp] theorem respond_pending (s : State) (port txn : Nat) (response : List Byte) : (respond s port txn response).pending = s.pending := rfl

/-! ## The fields that the updates set -/

@[simp] theorem send_out (s : State) (o : Out) : (send s o).out = s.out ++ [o] := rfl
@[simp] theorem setFlights_list (s : State) (l : List Flight) : (setFlights s l).flights.list = l := rfl
@[simp] theorem setFlights_sent (s : State) (l : List Flight) : (setFlights s l).flights.sent = s.flights.sent := rfl
@[simp] theorem setFlights_posted (s : State) (l : List Flight) : (setFlights s l).flights.posted = s.flights.posted := rfl
@[simp] theorem setSide_sideband (s : State) (x : Sideband) : (setSide s x).sideband = x := rfl
@[simp] theorem putBarrier_barrier (s : State) (b : Barrier) : (putBarrier s b).domain.barrier = b := rfl
@[simp] theorem putBarrier_links (s : State) (b : Barrier) : (putBarrier s b).domain.links = s.domain.links := rfl
@[simp] theorem putBarrier_routes (s : State) (b : Barrier) : (putBarrier s b).domain.routes = s.domain.routes := rfl
@[simp] theorem putLink_barrier (s : State) (p : Nat) (l : Link) : (putLink s p l).domain.barrier = s.domain.barrier := rfl
@[simp] theorem putLink_routes (s : State) (p : Nat) (l : Link) : (putLink s p l).domain.routes = s.domain.routes := rfl
@[simp] theorem unsetKitty_area (s : State) : (unsetKitty s).kitty.area = none := rfl
@[simp] theorem setWarned_warned (s : State) (l : List (Nat × Nat)) : (setWarned s l).telemetry.warned = l := rfl
@[simp] theorem setWarned_rd (s : State) (l : List (Nat × Nat)) : (setWarned s l).telemetry.rd = s.telemetry.rd := rfl
@[simp] theorem setMbox_owner (s : State) (p : Nat) (m : Mbox) : (setMbox s p m).heldun.owner = s.heldun.owner := by
  unfold setMbox; split <;> rfl
@[simp] theorem setMbox_ready (s : State) (p : Nat) (m : Mbox) : (setMbox s p m).heldun.ready = s.heldun.ready := by
  unfold setMbox; split <;> rfl
@[simp] theorem mboxOf_setMbox (s : State) (p : Nat) (m : Mbox) : mboxOf (setMbox s p m) p = m := by
  unfold mboxOf setMbox; split <;> rfl
@[simp] theorem hostOf_setHost (s : State) (p : Nat) (h : HostEnv) : hostOf (setHost s p h) p = h := by
  unfold hostOf setHost; split <;> rfl
@[simp] theorem linkOf_tab (s : State) (p : Nat) (l : Link) : (putLink s p l).domain.links = tabSet s.domain.links p l freeLink := rfl
@[simp] theorem putArea_mem (s : State) (n : Nat) (t : AreaTag) : (putArea s n t).memories.mem = s.memories.mem := rfl
@[simp] theorem putArea_areas (s : State) (n : Nat) (t : AreaTag) : (putArea s n t).memories.areas = s.memories.areas := rfl
@[simp] theorem putSeg_mem (s : State) (i : Nat) (g : Seg) : (putSeg s i g).memories.mem = s.memories.mem := rfl
@[simp] theorem putSeg_areas (s : State) (i : Nat) (g : Seg) : (putSeg s i g).memories.areas = s.memories.areas := rfl
@[simp] theorem putExpander_mem (s : State) (k : Nat) (e : Expander) : (putExpander s k e).memories.mem = s.memories.mem := rfl
@[simp] theorem advance_steps_hub (s : State) (k : Nat) : (advance s .frontEnd k).steps.frontEnd = wrapAdd 64 s.steps.frontEnd k := rfl

end Sys2Proof.Laws
end

