-- ==== Sys2Proof/Tests/Slice0.lean ====
section
/-!
SUPPORT. Sys2Proof/Tests/Slice0.lean: the smoke test of the well-formedness checks, a state that meets the premises of each statement, and small
tests of results worked out by hand from the rules.
-/

namespace Sys2Proof.Tests

set_option Elab.async false

open Sys2Proof.Machine Sys2Proof.Laws

/-- The tables of the test address space 5: virtual addresses below 2^30 are the same addresses of stacked memory, writable. -/
def tables : Mem := [(0x100000, 1#8), (0x100002, 0x20#8), (0x200000, 13#8)]

/-- A LIVE kernel shoe of 16 slots in address space 5 that may use every engine. -/
def kernelShoe : Shoe :=
  { freeShoe with
    state := 1
    log2 := 4
    dbPorts := 1#2
    asid := 5
    engines := BitVec.allOnes 64
    ringPtr := 0x50000
    tailPtr := 0x58000
    headPtr := 0x59000
    area := 0xE000000,
    sealSlot := 0xFFF }

/-- A context of model 0 and tenant 1 with no key slot, no adapter and no ring, whose positions are 0 to 4,095. -/
def context : Ctx :=
  { freeCtx with state := 1, model := 0, keySlot := 0xFFF, tenant := 1, adapter := 0xFFFF, segLimit := 4096, ring := 0xFF }

/-- A device that has started, with host 0 as its owner on a live port, kernel shoe 1, context 0 and its page pool, and memory with the
listed runs of bytes. -/
def world (runs : List (Nat × List Byte)) : State :=
  { State.reset with
    boot := { State.reset.boot with step := 7 }
    heldun := { State.reset.heldun with ready := 1, owner := some 0, port0 := { Mbox.fresh with major := some 2, minors := [1, 1, 1, 1, 1, 1, 1, 1, 1, 1] } }
    units := { State.reset.units with map := { UnitsMap.full with portsLive := 0x3F#6 } }
    memories := { Memories.zeroed with mem := runs.foldl (fun m r => memWrite m r.1 r.2) tables }
    trans := { State.reset.trans with asids := [(5, ⟨1, 0x100000, none, none⟩)] }
    kv := { State.reset.kv with area := some 0x4000000, ctxCount := 16, poolBase := 0x8000000, poolPages := 16, ctxs := [(0, context)], tenants := [(1, 16, false)], models := [(0, ⟨1, 1, 1, 1, 0, true, 0, []⟩)] }
    shoes := { count := 8, tableBase := 0xF000000, areaBase := 0xE000000, areaCount := 8, tab := [(1, kernelShoe)], lastServed := (0, 0, 0), cache := [], init := none } }

/-- A command of shoe 1 in address space 5 with no key slot, whose parameter block of n bytes stands at 0x30000. -/
def cmdOf (op n : Nat) : Cmd :=
  { opcode := op, flags := 0, version := 3, ticket := 9, context := 0, asid := 5, keySlot := 0xFFF, paramPtr := 0x30000, paramLen := n,
    waitFence := 0, completion := 0, sigTarget := 0, sigValue := 0, imm := 0 }

def flightIn (c : Cmd) (ph : Phase) (pl : Place) : Flight :=
  { cid := 7, shoe := 1, seq := 4, cls := 0, tenant := 0, sealedBy := none, cmd := c, phase := ph, place := pl, deal := none, live := none, block := [], pages := [],
    wrote := [], ctxs := [], uses := [], t0 := 0, measured := 0, stepTime := 0, cost := 0, est := 0, preempt := 0, rank := none, flags := 0#32, result := ⟨0, 0, 0⟩, staged := [],
    post := .none, units := 0, touches := [], far := [], marks := [], seen := false }

/-- The world with one command in flight. -/
def flying (runs : List (Nat × List Byte)) (f : Flight) : State := setFlights (world runs) [f]

/-- The row operands of command 7: ten steps and no hardware error. -/
def st7 : Start := ⟨7, 10, []⟩

/-- A row of command 7 begins, and its body gives a plan of which a test holds. -/
def plans (place : Place) (op : Nat) (body : Body) (s : State) (ok : State → Flight → Plan → Log → Bool) : Bool :=
  match begin s st7 place (fun f => f.cmd.opcode == op) with
  | .go t f =>
    match runBody t f body emptyLog with
    | .ok (p, log) => !touchesReassigned t log.segs && ok t f p log
    | .error _ => false
  | _ => false

/-- What `plans` computes is a witness of the premises of the statements about starts. -/
theorem runs_of_plans {place : Place} {op : Nat} {body : Body} {s : State} {ok : State → Flight → Plan → Log → Bool} (h : plans place op body s ok = true) :
    ∃ t f p log, Slice0.Runs place op body st7 s t f p log ∧ ok t f p log = true := by
  unfold plans at h
  split at h
  · next t f hb =>
    split at h
    · next p log hr =>
      rw [Bool.and_eq_true] at h
      exact ⟨t, f, p, log, ⟨hb, hr, by simpa using h.1⟩, h.2⟩
    · cases h
  · cases h

/-! ## Starts: the premises of the statements about hub, waiting and engine rows -/

/-- A hub command with its parameter block, and with runs of bytes at other addresses. -/
def hubCmd (op : Nat) (block : List Byte) (runs : List (Nat × List Byte)) : State :=
  flying ((0x30000, block) :: runs) (flightIn (cmdOf op block.length) .waiting .none)

/-- A hub action whose write-out lands. -/
def lands (t : State) (f : Flight) (p : Plan) (log : Log) : Bool :=
  match p with
  | .act u ws n _ _ => serving u && (writeAll (Slice0.noted t f log n) (enterTicket u (Slice0.noted t f log n)) ws).2 == 0
  | _ => false

def isNoop (_ : State) (_ : Flight) (p : Plan) (_ : Log) : Bool := match p with | .noop _ => true | _ => false
def isStaged (_ : State) (_ : Flight) (p : Plan) (_ : Log) : Bool := match p with | .staged _ => true | _ => false

/-- A hub action whose wait is over at once, or not. -/
def drains (done : Bool) (t : State) (f : Flight) (p : Plan) (log : Log) : Bool :=
  match p with
  | .drain u dr on n d x =>
    let g : Flight := { Slice0.noted t f log n with result := ⟨sOk, d, x⟩ }
    drainDone (if dr = .post then enterTicket u g else u) dr on == done
  | _ => false

/-- A parameter block by its fields: (width in bytes, value). -/
def block (fs : List (Nat × Nat)) : List Byte := fs.flatMap fun f => natLe f.1 f.2

/-- Every listed hub command (opcode, body, state) begins, and its plan passes a test. -/
def hubRuns (ok : State → Flight → Plan → Log → Bool) (rows : List (Nat × Body × State)) : Bool := rows.all fun r => plans .hub r.1 r.2.1 r.2.2 ok

/-- Slot 3 of the vault holds an image of one chunk, in a state. -/
def slot3 (st : SlotState) (s : State) : State :=
  { s with vault := { s.vault with slots := [(3, { freeVaultSlot with state := st, chunks := 1, total := 1, extents := [0], written := [0] })] } }
/-- Model 2 has slot 3 as its NEXT copy, with chunk 0 in a stacked frame, and a cut may be armed. -/
def next3 (armed : Option Nat) (s : State) : State := putModel s 2 { modelOf s 2 with next := some ⟨3, [(0, (1, 0x1000000))], [0]⟩, armed := armed }
/-- The dealer has its sheet area. -/
def withSheet (s : State) : State := { s with dealer := { s.dealer with cfg := { s.dealer.cfg with area := some 0xA000000 } } }
/-- Shoe 2 is LIVE beside shoe 1. -/
def twoShoes (s : State) : State := putShoe s 2 { kernelShoe with area := 1 }
/-- An adapter of rank 8 in FP16 of tenant 1. -/
def withAdapter (s : State) : State := { s with adapters := [(9, ⟨1, 8, 1, 0xFFF, 1, 0, 65536, 0x2000000⟩)] }
/-- Key slot 7 is reserved for tenant 1. -/
def withKey (s : State) : State :=
  { s with keys := { s.keys with
    sealedAllowed := true
    slots := [(7, { freeSlot with state := 1, tenant := 1, windowAsid := 5, windowVa := 0x70000, windowBytes := 65536, tagVa := 0x90000 })] } }
/-- Far slot 0 is mapped, and the second GiB of the address space is its first. -/
def withFar (s : State) : State :=
  { s with memories := { s.memories with expanders := [(0, { freeExpander with base := farBase, sizeGib := 1, state := 1 })] } }

/-- kn.units_get that writes the whole map at 0x40000. -/
def unitsGet : State := hubCmd 0xF002 (block [(8, 0x40000), (4, 256), (4, 0)]) []

theorem test_ready_hub_command : serving unitsGet = true ∧ flightOf unitsGet st7.cid = some (flightIn (cmdOf 0xF002 16) .waiting .none) ∧
    needsEngine 0xF002 = false ∧ fencesOf unitsGet (flightIn (cmdOf 0xF002 16) .waiting .none) = .ready ∧
    (∀ g ∈ unitsGet.flights.list, g.shoe = 1 → g.seq < 4 → inKitty g = false ∧ releaseRank g = none) ∧ st7.errs = [] := by decide +kernel

theorem test_units_get_acts : plans .hub 0xF002 knUnitsGetBody unitsGet lands = true := by decide +kernel

theorem witness_hub_command_acts : ∃ t f p log, Slice0.Runs .hub 0xF002 knUnitsGetBody st7 unitsGet t f p log ∧ lands t f p log = true :=
  runs_of_plans test_units_get_acts

theorem test_spaces_and_shoes_act : hubRuns lands
    [(0xF003, knAsSetCreateBody, hubCmd 0xF003 (block [(2, 6), (14, 0), (8, 0x300000), (8, 0)]) []),
     (0xF004, knTlbUnpinBody, hubCmd 0xF004 (block [(2, 4), (2, 5), (4, 256), (24, 0)]) []),
     (0xF001, knShoeCreateBody, hubCmd 0xF001 (block [(2, 0), (1, 4), (1, 3), (4, 2), (2, 5), (6, 0), (8, 0x60000), (8, 0x61000), (8, 0x61040), (8, 1), (16, 0)]) []),
     (0xF001, knShoeSetBody, twoShoes (hubCmd 0xF001 (block [(3, 2), (1, 1), (4, 2), (32, 0), (8, 1), (16, 0)]) [])),
     (0xF001, knShoeQueryBody, hubCmd 0xF001 (block [(4, 3), (4, 7), (40, 0), (8, 0x40000), (8, 128)]) [])] = true := by decide +kernel

theorem test_waits_and_pools_act : hubRuns lands
    [(0x8002, syWaitBody, hubCmd 0x8002 (block [(8, 0x40000), (8, 5), (16, 1)]) [(0x40000, natLe 8 5)]),
     (0xF006, knSpillPoolAddBody, withFar (hubCmd 0xF006 (block [(8, 0x40000000), (4, 1), (4, 2)]) [(0x200008, natLe 8 (farBase + 13))])),
     (0xF006, knSpillPoolWithdrawBody, hubCmd 0xF006 (block [(8, 0x40000000), (4, 1), (4, 0x10002)]) [])] = true := by decide +kernel

theorem test_vault_and_cuts_act : hubRuns lands
    [(0xF007, knVaultProvCloseBody, slot3 .writing (hubCmd 0xF007 (block [(1, 2), (1, 3), (62, 0)]) [])),
     (0xF007, knVaultProvAbortBody, slot3 .writing (hubCmd 0xF007 (block [(1, 3), (1, 3), (62, 0)]) [])),
     (0xF007, knVaultProvFreeBody, slot3 .ready (hubCmd 0xF007 (block [(1, 4), (1, 3), (62, 0)]) [])),
     (0xF009, knModelCutBindBody, slot3 .ready (hubCmd 0xF009 (block [(1, 2), (1, 0), (1, 3), (29, 0)]) [])),
     (0xF009, knModelCutArmBody, next3 none (hubCmd 0xF009 (block [(1, 2), (1, 1), (6, 0), (8, 7), (16, 0)]) [])),
     (0xF009, knModelCutDisarmBody, next3 (some 7) (hubCmd 0xF009 (block [(1, 2), (1, 2), (30, 0)]) [])),
     (0xF009, knModelCutUnbindBody, next3 none (hubCmd 0xF009 (block [(1, 2), (1, 3), (30, 0)]) []))] = true := by decide +kernel

theorem test_dealer_settings_act : hubRuns lands
    [(0xF00C, knDealerSetConfigBody, hubCmd 0xF00C (block [(1, 0), (1, 1), (6, 0), (8, 0xA000000), (4, sheetBytes), (2, 64), (2, 128), (4, 4096), (4, 4096), (2, 0), (1, 3), (29, 0)]) []),
     (0xF00C, knDealerSetAnteBody, hubCmd 0xF00C (block [(1, 1), (1, 0), (2, 32), (60, 0)]) []),
     (0xF00C, knDealerSetServeBindBody, withSheet (hubCmd 0xF00C (block [(1, 2), (1, 0), (2, 1), (4, 1), (56, 0)]) [])),
     (0xF00C, knDealerSetServeUnbindBody, (fun s => { s with dealer := { s.dealer with serve := [(1, 0)] } }) (hubCmd 0xF00C (block [(1, 2), (3, 0), (4, 1), (56, 0)]) [])),
     (0xF00C, knDealerSetRequestBody, withSheet (hubCmd 0xF00C (block [(1, 3), (1, 0), (2, 1), (4, 0), (8, 0x40000), (4, 16), (44, 0)]) [(0x40000, block [(4, 0), (1, 1), (3, 0), (4, 16), (4, 0)])])),
     (0xF00C, knDealerSetAdvanceBody, hubCmd 0xF00C (block [(1, 4), (63, 0)]) [])] = true := by decide +kernel

theorem test_contexts_act : hubRuns lands
    [(0xF00A, knContextModelBody, hubCmd 0xF00A (block [(1, 1), (1, 2), (1, 1), (1, 1), (2, 1), (1, 1), (1, 1), (32, 0), (8, 0x40000), (8, 0), (4, 16384), (4, 0)]) []),
     (0xF00A, knContextRegisterBody, hubCmd 0xF00A (block [(8, 2), (4, 15), (8, 0), (2, 1), (2, 0xFFF), (2, 0xFFFF), (6, 0), (4, 4096), (1, 0xFF), (27, 0)]) []),
     (0xF00A, knContextGrantBody, hubCmd 0xF00A (block [(8, 5), (4, 1), (16, 0), (4, 8), (4, 1), (28, 0)]) []),
     (0xF00A, knContextRingBody, hubCmd 0xF00A (block [(8, 6), (4, 63), (16, 0), (1, 2), (1, 0), (1, 3), (1, 1), (4, 64), (4, 0), (8, 0x50000), (8, 0), (4, 64), (4, 0)]) []),
     (0xF00A, knContextQueryBody, hubCmd 0xF00A (block [(8, 7), (4, 0), (28, 0), (8, 0x40000), (8, 0), (4, 256), (4, 0)]) [])] = true := by decide +kernel

theorem test_context_setup_acts : hubRuns lands
    [(0xF00A, knContextSetupBody, (fun s => { s with kv := { s.kv with ctxs := [] } }) (hubCmd 0xF00A (block [(28, 0), (4, 16), (4, 16), (4, 0), (8, 0x4000000), (8, 0x8000000), (4, 0x3000000), (4, 16)]) []))] = true := by decide +kernel

theorem test_adapters_and_keys_act : hubRuns lands
    [(0x7001, bwAdapterCreateBody, hubCmd 0x7001 (block [(1, 0), (1, 1), (2, 4095), (2, 256), (2, 0xFFF), (8, 0x2000000), (4, 65536), (44, 0)]) []),
     (0x7001, bwAdapterQueryBody, withAdapter (hubCmd 0x7001 (block [(2, 2), (2, 9), (4, 0), (8, 0x40000), (4, 64), (44, 0)]) [])),
     (0xF00B, knKeyBindReserveBody, withKey (hubCmd 0xF00B (block [(2, 0), (2, 8), (2, 1), (2, 5), (8, 0x70000), (8, 0x90000), (4, 65536), (36, 0)]) [])),
     (0xF00B, knKeyBindQueryBody, hubCmd 0xF00B (block [(2, 3), (2, 4094), (4, 0), (8, 0x40000), (8, 0), (4, 64), (36, 0)]) [])] = true := by decide +kernel

theorem test_weights_of_no_chunk : hubRuns isNoop
    [(0xF007, knVaultProvWriteBody [], hubCmd 0xF007 (block [(1, 1), (1, 3), (62, 0)]) []),
     (0xF008, placeBody 0, hubCmd 0xF008 (block [(3, 0), (1, 1), (60, 0)]) []),
     (0xF008, placeBody 1, hubCmd 0xF008 (block [(2, 0), (1, 1), (1, 1), (60, 0)]) []),
     (0xF006, knSpillPoolAddBody, hubCmd 0xF006 (block [(16, 0)]) []),
     (0xF004, knTlbPinBody, hubCmd 0xF004 (block [(2, 3), (2, 5), (28, 0)]) [])] = true := by decide +kernel

theorem test_spaces_and_buffers_end_at_once : hubRuns (drains true)
    [(0xF003, knAsSetSetRootBody, hubCmd 0xF003 (block [(2, 5), (1, 1), (13, 0), (8, 0x300000), (8, 0)]) []),
     (0xF003, knAsSetSetPasidBody, hubCmd 0xF003 (block [(2, 5), (1, 2), (1, 0), (4, 0x80000007), (24, 0)]) []),
     (0xF003, knAsSetDestroyBody, hubCmd 0xF003 (block [(2, 5), (1, 3), (29, 0)]) []),
     (0xF004, knTlbInvalRangeBody, hubCmd 0xF004 (block [(2, 0), (2, 5), (4, 1), (24, 0)]) []),
     (0xF004, knTlbInvalAsidBody, hubCmd 0xF004 (block [(2, 1), (2, 5), (28, 0)]) []),
     (0xF001, knShoeDestroyBody, twoShoes (hubCmd 0xF001 (block [(4, 1), (4, 2), (56, 0)]) [])),
     (0xF005, knCstoreAssignBody, hubCmd 0xF005 (block [(2, 0), (2, 383), (2, 1), (10, 0)]) [])] = true := by decide +kernel

theorem test_contexts_and_records_end_at_once : hubRuns (drains true)
    [(0xF008, knWeightPlaceDropBody, slot3 .ready <| next3 none (hubCmd 0xF008 (block [(1, 2), (1, 1), (1, 2), (5, 0), (4, 1), (52, 0)]) [])),
     (0xF00A, knContextReleaseBody, hubCmd 0xF00A (block [(64, 3)]) []),
     (0xF00A, knContextTrimBody, hubCmd 0xF00A (block [(64, 4)]) []),
     (0x7001, bwAdapterDestroyBody, withAdapter (hubCmd 0x7001 (block [(2, 1), (2, 9), (60, 0)]) [])),
     (0xF00B, knKeyBindDestroyBody, withKey (hubCmd 0xF00B (block [(2, 2), (2, 7), (60, 0)]) []))] = true := by decide +kernel

/-- kn.tlb INVAL_ALL, alone and with an engine's command in flight that translates a page. -/
def invalAll : State := hubCmd 0xF004 (block [(2, 2), (30, 0)]) []
def busy : Flight := { flightIn (cmdOf 0x1001 128) .running (.engine 0) with cid := 8, seq := 2, pages := [0] }
def invalAllBusy : State :=
  let s := setFlights invalAll (busy :: invalAll.flights.list)
  { s with trans := { s.trans with level1 := [(0, [⟨5, 0, 1, 13, false⟩])] } }

theorem test_inval_all_ends : plans .hub 0xF004 knTlbInvalAllBody invalAll (drains true) = true := by decide +kernel
theorem test_inval_all_waits : plans .hub 0xF004 knTlbInvalAllBody invalAllBusy (drains false) = true := by decide +kernel

/-! ## Engine rows and prepared rows -/

/-- A descriptor of Table 4-1: pointer, bytes, stride 64, format. -/
def desc (ptr bytes format : Nat) : List Byte := block [(8, ptr), (4, bytes), (4, 64), (12, 0), (1, format), (3, 0)]
/-- A product of Table 4-6 at 0x31000, 0x32000 and 0x33000, C in format c. -/
def product (c rows k n : Nat) : List Byte :=
  desc 0x31000 64 0 ++ desc 0x32000 64 0 ++ desc 0x33000 64 c ++ block [(4, rows), (4, k), (4, n), (20, 0)]

/-- A command placed on engine 0, in deal 1, with its parameter block and other runs of bytes. -/
def engineCmd (op : Nat) (p : List Byte) (runs : List (Nat × List Byte)) : State :=
  flying ((0x30000, p) :: runs) { flightIn (cmdOf op p.length) .placed (.engine 0) with deal := some 1, live := some [some 3] }

/-- The 1 by 1 matrices 2.0 and 3.0. -/
def factors : List (Nat × List Byte) := [(0x31000, natLe 4 0x40000000), (0x32000, natLe 4 0x40400000)]
def mul11 : State := engineCmd 0x1001 (product 0x10 1 1 1) factors

/-- Context 0 is bound to adapter 9. -/
def withBound (s : State) : State := { withAdapter s with kv := { s.kv with ctxs := [(0, { context with adapter := 9 })] } }

/-- A header of an at. command: SRC at 0x31000, DST at 0x33000, groups, one entry, SCALE, slots, no status vector, then context 0 with
row 0, FIRST and TOKENS. -/
def atBlock (src dst : List Byte) (groups scale slots tokens : Nat) : List Byte :=
  src ++ dst ++ block [(4, 0), (2, groups), (2, 0), (4, 1), (4, scale), (8, 0), (4, slots), (36, 0)] ++ block [(4, 0), (4, 0), (2, 0), (2, tokens), (4, 0)]
def noDesc : List Byte := natLe 32 0
def wide (ptr bytes format : Nat) : List Byte := block [(8, ptr), (4, bytes), (4, 1088), (12, 0), (1, format), (3, 0)]

/-- The header of an ex. command with one entry of context 0 and one token; COUNT 1, WIDTH, SEL_LIMIT, selection records at 0x34000, keep
records at 0x35000 and the list at 0x36000, each with its length. -/
def exBlock (inp out exp : List Byte) (route selLimit width sel keep list : Nat) : List Byte :=
  inp ++ out ++ exp ++ block [(8, route), (2, 0), (1, selLimit), (1, 0), (4, 1), (4, width), (4, 0), (8, 0),
    (8, if sel = 0 then 0 else 0x34000), (4, sel), (4, keep), (8, if keep = 0 then 0 else 0x35000),
    (8, if list = 0 then 0 else 0x36000), (4, list), (28, 0)] ++ block [(4, 0), (4, 0), (2, 0), (2, 1), (4, 0)]

/-- 128 FP16 elements at an address. -/
def halves (ptr : Nat) : List Byte := block [(8, ptr), (4, 256), (4, 256), (12, 0), (1, 1), (3, 0)]

/-- The open state of context 0 in deal 1, with room for four rows; its open page is page 3 of the pool. -/
def opened (s : State) : State :=
  { s with kv := { s.kv with
    specs := [(0, { isOpen := true, limit := 4, dir := 0, deal := 1, verifies := 0, madeTokens := 0 })]
    dirs := [(0, [(0, ⟨1, false, 0, 1⟩)])]
    lists := [(0, [(0, ⟨1, false, 0, 2⟩)])]
    openDirs := [(0, [(0, ⟨1, true, 0, 3⟩)])]
    pages := [(0, ⟨3, false, 1, 0, 0, 0⟩), (1, ⟨2, false, 1, 0, 0, 0⟩), (2, ⟨1, false, 1, 0, 0, 0⟩), (3, ⟨1, true, 1, 0, 0, 0⟩)] } }

/-- Deal 1 is open with a slot of one token for context 0; slot 3 of the vault is model 0's LIVE copy, and its payload begins with a routing
record: layer 0, two experts, one selected, capacity 4. -/
def dealt (s : State) : State :=
  { s with
    dealer := { s.dealer with dealSeq := 1, cur := some { seq := 1, slots := [{ ctx := 0, kind := 1, tokens := 1, rowBase := 0, firstPos := 0, model := 0, status := 0, measured := 0, est := 0 }], epoch := 0, opened := Stamp.none, ante := 0, held := 0, live := [some 3], measured := 0, est := 0 } }
    models := [(0, ⟨some ⟨3, [], [0]⟩, none, none, none, 0, 0⟩)]
    vault := { s.vault with slots := [(3, { freeVaultSlot with state := .ready, chunks := 1, total := 1, extents := [0], written := [0], payload := memWrite [] 0 (block [(2, 0), (2, 2), (1, 1), (1, 0), (6, 0), (4, 4), (16, 0)]) })] } }

/-- Routing board 0 of deal 1, model 0 and layer 0, with one deposit of context 0 for expert 1. -/
def boarded (resolved : Bool) (s : State) : State :=
  { s with boards := { s.boards with tab := [(0, ⟨1, 0, 0, resolved, resolved, block [(2, 0), (2, 2), (1, 1), (1, 0), (6, 0), (4, 4), (16, 0)], [⟨0, 0, 0, false, [1]⟩], []⟩)] } }

/-- Every listed engine command begins on engine 0, and its plan passes a test. -/
def engineRuns (ok : State → Flight → Plan → Log → Bool) (rows : List (Nat × Body × State)) : Bool := rows.all fun r => plans .none r.1 r.2.1 r.2.2 ok

/-- The bytes that a plan writes. -/
def writes (data : List (List Byte)) (_ : State) (_ : Flight) (p : Plan) (_ : Log) : Bool :=
  match p with | .staged x => x.writes.map (·.data) == data | _ => false

/-- Two times three is six (0x40C00000), in a product, in a list of one product, and in a backward product in FP16 (0x4600). -/
theorem test_products_of_2_and_3 : engineRuns (writes [natLe 4 0x40C00000])
    [(0x1001, mmMulBody, mul11),
     (0x1002, mmMulListBody, engineCmd 0x1002 (natLe 32 1 ++ product 0x10 1 1 1) factors)] = true ∧
  engineRuns (writes [natLe 2 0x4600])
    [(0x7002, bwMulBody, withBound (engineCmd 0x7002 (product 1 1 1 1 ++ block [(8, 0), (2, 9), (6, 0)]) factors))] = true := by decide +kernel

/-- ex.gather copies row 0, the word 2.0. -/
theorem test_gather_copies : engineRuns (writes [natLe 4 0x40000000])
    [(opGather, exGatherBody, engineCmd opGather ((exBlock (desc 0x31000 64 0) (desc 0x33000 64 0) noDesc 0 0 1 0 0 4).take 192)
      (factors ++ [(0x36000, natLe 4 0)]))] = true := by decide +kernel

theorem test_backward_rows_stage : engineRuns isStaged
    [(0x7003, bwNormBody, withBound (engineCmd 0x7003 (product 1 1 1 1 ++ desc 0x31000 64 0 ++ desc 0x32000 64 0 ++
        block [(4, 0x3F800000), (2, 9), (26, 0)]) factors)),
     (0x7004, bwSoftmaxBody, withBound (engineCmd 0x7004 (halves 0x31000 ++ halves 0x32000 ++ desc 0x33000 64 1 ++
        block [(4, 1), (4, 128), (4, 1), (20, 0)] ++ desc 0x31000 64 0 ++ noDesc ++ block [(4, 0x3F800000), (2, 9), (26, 0)]) factors))] = true := by
  decide +kernel

/-- A product of no row. -/
theorem test_mm_mul_empty : engineRuns isNoop [(0x1001, mmMulBody, engineCmd 0x1001 (product 0x10 0 1 1) [])] = true := by decide +kernel

/-- A prepared row begins, passes its checks and its preparation, and its body gives a plan of which a test holds. -/
def prepares {α β : Type} (place : Place) (op : Nat) (check : State → Actor → Flight → List Byte → Run (Except Nat α))
    (prep : State → Flight → α → State × Except Stop β) (body : State → Actor → Flight → α → β → Run Plan) (s : State)
    (ok : State → Flight → Plan → Log → Bool) : Bool :=
  match begin s st7 place (fun f => f.cmd.opcode == op) with
  | .go t f =>
    match Slice0.firstRun check t f emptyLog with
    | .ok (.ok x, log1) =>
      match prep t f x with
      | (t1, .ok y) =>
        match Slice0.restRun body t1 f x y log1 with
        | .ok (p, log) => !touchesReassigned t log1.segs && !touchesReassigned t1 log.segs && ok t1 f p log
        | .error _ => false
      | _ => false
    | _ => false
  | _ => false

/-- What `prepares` computes is a witness of the premises of the statement about prepared rows. -/
theorem prepRuns_of_prepares {α β : Type} {place : Place} {op : Nat} {check : State → Actor → Flight → List Byte → Run (Except Nat α)}
    {prep : State → Flight → α → State × Except Stop β} {body : State → Actor → Flight → α → β → Run Plan} {s : State}
    {ok : State → Flight → Plan → Log → Bool} (h : prepares place op check prep body s ok = true) :
    ∃ t1 f p log, Slice0.PrepRuns place op check prep body st7 s t1 f p log ∧ ok t1 f p log = true := by
  unfold prepares at h
  split at h
  · next t f hb =>
    split at h
    · next x log1 hc =>
      split at h
      · next t1 y hp =>
        split at h
        · next p log hr =>
          simp only [Bool.and_eq_true, Bool.not_eq_true'] at h
          exact ⟨t1, f, p, log, ⟨t, x, y, log1, hb, hc, h.1.1, hp, hr, h.1.2⟩, h.2⟩
        · cases h
      · cases h
    · cases h
  · cases h

def isWait (_ : State) (_ : Flight) (p : Plan) (_ : Log) : Bool := match p with | .wait _ _ _ => true | _ => false

/-- Context 0 has one made row in page 2 of the pool, in the list page 1 of directory page 0. -/
def withRow (x : Ctx) (s : State) : State :=
  { s with kv := { s.kv with
    ctxs := [(0, { x with position := 1 })]
    dirs := [(0, [(0, ⟨1, false, 0, 1⟩)])]
    lists := [(0, [(0, ⟨1, false, 0, 2⟩)])]
    pages := [(0, ⟨3, false, 1, 0, 0, 0⟩), (1, ⟨2, false, 1, 0, 0, 0⟩), (2, ⟨1, false, 1, 0, 0, 0⟩)] } }

theorem test_attention_stages :
    prepares .none opAppend (atCheck opAppend) appendPrep appendBody (engineCmd opAppend (atBlock (wide 0x31000 1088 0) noDesc 0 0 0 1) []) isStaged = true ∧
    prepares .none opAttend (atCheck opAttend) (attendPrep opAttend) attendBody
      (withRow context (engineCmd opAttend (atBlock (wide 0x31000 1088 0) (wide 0x33000 1088 0) 1 0x3F800000 0 1) [])) isStaged = true ∧
    prepares .none opRing (atCheck opRing) (attendPrep opRing) ringBody
      (withRow context (engineCmd opRing (atBlock (wide 0x31000 1088 0) (wide 0x33000 1088 0) 1 0x3F800000 0 1) [])) isStaged = true ∧
    prepares .none opCombine (atCheck opCombine) combinePrep combineBody
      (withRow context (engineCmd opCombine (atBlock (wide 0x31000 1088 0) (wide 0x33000 1088 0) 1 0 1 1) [])) isStaged = true := by decide +kernel

/-- sp.verify of the draft 1, 7 and the choice 7, 9: position 0 and the token that its choice confirms are made. -/
theorem test_verify_makes_two : prepares .none opSpVerify (spCheck opSpVerify) verifyPrep verifyBody
    (opened (engineCmd opSpVerify (block [(8, 1), (8, 0x31000), (4, 64), (4, 64), (8, 0x32000), (8, 0x33000), (4, 72), (20, 0), (4, 0), (4, 0), (8, 2)])
      [(0x31000, block [(4, 1), (4, 7)]), (0x32000, block [(4, 7), (4, 9)])]))
    (fun _ _ p _ => match p with
      | .staged x => x.writes.map (·.data) == [padTo 72 (block [(4, 2), (4, 0), (4, 7), (4, 9)])]
      | _ => false) = true := by decide +kernel

/-- ex.route of the scores 2.0 and 0: expert 0 with weight 2.0. -/
theorem test_route_selects : prepares .none opRoute routeCheck (fun s f x => (s, .ok (exMarks s f opRoute x.job))) routeBody
    (dealt (engineCmd opRoute (exBlock (desc 0x31000 64 0) noDesc noDesc 0x80000000 0 0 128 0 0) (factors ++ [(0x200010, natLe 8 0xC5)])))
    (fun _ _ p _ => match p with
      | .staged x => x.writes.map (·.data) == [padTo 128 (block [(4, 0x8000), (4, 0x40000000)])]
      | _ => false) = true := by decide +kernel

theorem test_settle_reports_or_waits :
    prepares .none opSettle settleCheck settlePrep settleBody (boarded true (dealt (engineCmd opSettle (exBlock noDesc noDesc noDesc 0 0 0 0 64 64) []))) isStaged = true ∧
    prepares .none opSettle settleCheck settlePrep settleBody (boarded false (dealt (engineCmd opSettle (exBlock noDesc noDesc noDesc 0 0 0 0 64 64) []))) isWait = true := by
  decide +kernel

/-- ex.combine adds 1.0 times the expert's row 3.0 to the residual 2.0: 5.0. -/
theorem test_combine_adds : prepares .none opExCombine exCombineCheck (fun s f j => (s, .ok (exMarks s f opExCombine j))) exCombineBody
    (dealt (engineCmd opExCombine (exBlock (desc 0x31000 64 0) (desc 0x33000 64 0) (desc 0x32000 64 0) 0 1 1 128 64 0)
      (factors ++ [(0x34000, block [(4, 0x8000), (4, 0x3F800000)]), (0x35000, natLe 4 0x80000000)])))
    (fun _ _ p _ => match p with | .staged x => x.writes.map (·.data) == [natLe 4 0x40A00000] | _ => false) = true := by decide +kernel

/-- A hub command in deal 1. -/
def hubAt (op : Nat) (p : List Byte) : State := flying [(0x30000, p)] { flightIn (cmdOf op p.length) .waiting .none with deal := some 1 }

theorem test_advance_and_open_act :
    prepares .hub opAdvance (atCheck opAdvance) combinePrep advanceBody (hubAt opAdvance (atBlock noDesc noDesc 0 0 0 1)) lands = true ∧
    prepares .hub opSpOpen (spCheck opSpOpen) openPrep openBody (hubAt opSpOpen (block [(64, 1), (8, 0), (8, 16)])) lands = true := by decide +kernel

/-- Ring record 2 sends to logical port 3, whose egress is live. -/
def ringed (s : State) : State :=
  { withRow { context with ring := 2 } s with
    domain := { s.domain with
      links := [(3, { state := 2, protocol := 3, lanes := 4, failed := 0, peer := [], sendSeq := 0, recvSeq := 0 })]
      routes := [(3, ⟨true, 3, 1⟩)] }
    units := { s.units with map := { s.units.map with tpLive := 8#16 } } }
def withRing (s : State) : State := { s with kv := { s.kv with rings := [(2, ⟨2, 0, 3, 1, 0x10000, 0x50000⟩)] } }

theorem test_ring_send_waits :
    prepares .hub 0x4005 sendCheck sendPrep sendBody (withRing (ringed (hubAt 0x4005 (block [(7, 0), (1, 2), (56, 0)])))) isWait = true := by
  decide +kernel

theorem witness_prepared_stages : ∃ t1 f p log, Slice0.PrepRuns .none opSettle settleCheck settlePrep settleBody st7
    (boarded true (dealt (engineCmd opSettle (exBlock noDesc noDesc noDesc 0 0 0 0 64 64) []))) t1 f p log ∧ isStaged t1 f p log = true :=
  prepRuns_of_prepares test_settle_reports_or_waits.1

/-! ## The vector engine -/

/-- A vector instruction word of Table 5-5 with FMT f and no mask. -/
def ins (op f vd va vb im imm : Nat) : Nat := op * 2 ^ 57 + f * 2 ^ 53 + vd * 2 ^ 48 + va * 2 ^ 43 + vb * 2 ^ 38 + im * 2 ^ 32 + imm
/-- One instruction and vx.end. -/
def program (i : Nat) : List Byte := natLe 8 i ++ natLe 8 0
def buffer (ptr bytes : Nat) : List Byte := block [(8, ptr), (4, bytes), (20, 0)]
/-- The parameter block of vx.run: a program of 16 bytes at 0x60000, buffer 0 in at 0x31000, buffer 1 out at 0x33000, STEP_LIMIT 100, X0 7. -/
def vxParam : List Byte :=
  block [(8, 0x60000), (4, 16), (1, 3), (1, 2), (2, 0), (4, 100), (12, 0), (128, 7)] ++ buffer 0x31000 64 ++ buffer 0x33000 64 ++ natLe 192 0

/-- A vector state with 2.0 in element 0 of V0, 3.0 of V1 and 1.0 of V2; X0 is 7 and VL is 1. -/
def vec (prog : List Byte) : Vx :=
  { setV (setV (setV (vxStart vxParam prog) 0 0x40000000#4096) 1 0x40400000#4096) 2 0x3F800000#4096 with vl := 1 }
def vecFlight (x : Vx) : Flight := flightIn (cmdOf 0x2001 416) (.vector x) (.engine 0)
def vecWorld (x : Vx) : State := flying factors (vecFlight x)

/-- A witness of VxAt for any operation. -/
theorem vxAt_vec (op : Nat) (x : Vx) (h : (vinsAt x.prog x.pc).op = op) :
    Slice0.VxAt op st7 (vecWorld x) (advance (vecWorld x) (stepUnitOf (vecFlight x)) 10) (vecFlight x) x (vinsAt x.prog x.pc) :=
  ⟨rfl, rfl, rfl, rfl, h, rfl, rfl⟩

/-- Every operation code but vx.end. -/
def vectorOps : List Nat :=
  [0x01, 0x02, 0x03, 0x04, 0x05, 0x10, 0x11, 0x12, 0x20, 0x21, 0x22, 0x23, 0x24, 0x25, 0x26, 0x27, 0x28, 0x29, 0x2A, 0x30, 0x31, 0x32, 0x38,
   0x39, 0x3A, 0x40, 0x48, 0x49, 0x50, 0x51]

/-- The premises of the statements about vector rows: the operation stands at the program counter, its steps keep the limit, VL is at most
E of its formats, and an instruction follows. -/
theorem test_vector_premises : ∀ op ∈ vectorOps, let x := vec (program (ins op 0 2 0 1 0 0))
    (vinsAt x.prog x.pc).op = op ∧ x.p + vsteps (vinsAt x.prog x.pc) ≤ x.limit ∧ x.vl ≤ regElems (fmtOfIns (vinsAt x.prog x.pc)) ∧
      x.vl ≤ regElems (Slice0.srcFmt (vinsAt x.prog x.pc)) ∧ x.pc + 1 < x.prog.length / 8 := by decide +kernel

/-- The clauses of the two limits: one step more than STEP_LIMIT, and VL one above the 128 elements of FP32. -/
theorem test_vector_limits : ∀ r ∈ Slice0.elemRows, let x := vec (program (ins r.op 0 2 0 1 0 0)); let i := vinsAt x.prog x.pc
    (vinsAt { x with limit := vsteps i - 1 }.prog 0).op = r.op ∧ { x with limit := vsteps i - 1 }.limit < x.p + vsteps i ∧
      x.p + vsteps i ≤ x.limit ∧ regElems (fmtOfIns i) < { x with vl := 129 }.vl := by decide +kernel

/-- The vector state after a row. -/
def vecAfter (c : Instr) (x : Vx) : Option Vx :=
  match exec c (vecWorld x) with
  | .next t => (flightOf t 7).bind fun f => match f.phase with
    | .vector y => some y
    | _ => none
  | _ => none

/-- Element 0 of V2 after an operation on 2.0 and 3.0 in FP32, with 1.0 in V2 before, by hand: 5, 7, 3, 2/3, the root of 2, -2. -/
theorem test_vector_arithmetic : ∀ r ∈ [(Instr.vxAdd st7, 0x20, 0x40A00000), (.vxFma st7, 0x23, 0x40E00000), (.vxMax st7, 0x25, 0x40400000),
      (.vxDiv st7, 0x26, 0x3F2AAAAB), (.vxSqrt st7, 0x27, 0x3FB504F3), (.vxNeg st7, 0x29, 0xC0000000)],
    (vecAfter r.1 (vec (program (ins r.2.1 0 2 0 1 0 0)))).map (fun y => Slice0.elemAt .f32 (vreg y 2) 0) = some r.2.2 := by decide +kernel

/-- vx.cvt of 2.0 to FP16 (0x4000), vx.redsum of 2.0 alone, vx.knot, and a comparison, whose bit 0 is 2 < 3. -/
theorem test_vector_conversion_and_tree :
    (vecAfter (.vxCvt st7) (vec (program (ins 0x40 1 2 0 0 0 0)))).map (fun y => Slice0.elemAt .f16 (vreg y 2) 0) = some 0x4000 ∧
    (vecAfter (.vxRedsum st7) (vec (program (ins 0x48 0 2 0 0 0 0)))).map (fun y => Slice0.elemAt .f32 (vreg y 2) 0) = some 0x40000000 ∧
    (vecAfter (.vxCmplt st7) (vec (program (ins 0x30 0 1 0 1 0 0)))).map (fun y => kreg y 1) = some 1#512 ∧
    (vecAfter (.vxKnot st7) (vec (program (ins 0x3A 0 1 0 0 0 0)))).map (fun y => kreg y 1) = some 1#512 := by decide +kernel

/-- The scalars: VL becomes min(7, 128), X3 the sign-extended -1 and 7 + 7, and vx.bnz of X0 = 7 goes back to instruction 0. -/
theorem test_vector_scalars :
    (vecAfter (.vxSetvl st7) (vec (program (ins 0x01 0 3 0 0 0 0)))).map (fun y => (y.vl, xreg y 3)) = some (7, 7#64) ∧
    (vecAfter (.vxXli st7) (vec (program (ins 0x02 0 3 0 0 2 0xFFFFFFFF)))).map (xreg · 3) = some (BitVec.allOnes 64) ∧
    (vecAfter (.vxXadd st7) (vec (program (ins 0x03 0 3 0 0 0 0)))).map (xreg · 3) = some 14#64 ∧
    (vecAfter (.vxXsub st7) (vec (program (ins 0x04 0 3 0 0 2 8)))).map (xreg · 3) = some (BitVec.allOnes 64) ∧
    (vecAfter (.vxBnz st7) (vec (program (ins 0x05 0 0 0 0 2 0)))).map (·.pc) = some 0 ∧
    (vecAfter (.vxBnz st7) (vec (program (ins 0x05 0 0 1 0 2 0)))).map (·.pc) = some 1 := by decide +kernel

/-- Accesses: X1 is 0, so vx.ld and vx.ldb of buffer 0 load 2.0, and vx.st to buffer 1 stages element 0. -/
theorem test_vector_accesses :
    (vecAfter (.vxLd st7) (vec (program (ins 0x10 0 4 1 0 2 0)))).map (fun y => Slice0.elemAt .f32 (vreg y 4) 0) = some 0x40000000 ∧
    (vecAfter (.vxLdb st7) (vec (program (ins 0x11 0 4 1 0 2 0)))).map (fun y => Slice0.elemAt .f32 (vreg y 4) 0) = some 0x40000000 ∧
    (vecAfter (.vxSt st7) (vec (program (ins 0x12 0 1 1 1 2 0)))).map (·.staged) = some [(2 ^ 40, 0x40400000)] := by decide +kernel

/-- vx.run makes its program ready, and vx.end of a staged element places its write. -/
theorem test_vector_run_and_end :
    plans .none 0x2001 vxRunBody (engineCmd 0x2001 vxParam [(0x60000, program (ins 0x20 0 2 0 1 0 0))])
      (fun _ _ p _ => match p with | .vector x _ => x.limit == 100 && xreg x 0 == 7#64 | _ => false) = true ∧
    (let x := { vec (program 0) with pc := 1, staged := [(2 ^ 40, 0x40400000)] }
     (vinsAt x.prog x.pc).op = 0 ∧
     (match ((bufSet (fld x.param 13 1)).mapM (bufWrites (vecWorld x) (actorOf (vecWorld x) (vecFlight x)) x)) emptyLog with
      | .ok (ws, _) => ws.flatten == [⟨.mem 0x33000, natLe 4 0x40400000, none⟩]
      | .error _ => false) = true) := by decide +kernel

/-! ## Movers, commit points, write-outs and waits -/

/-- A mover command begins on a mover of its cluster, and its plan passes a test: the premises of `Slice0.MoverRuns`. -/
def moves (op off : Nat) (body : Body) (s : State) (ok : State → Flight → Plan → Log → Bool) : Bool :=
  match flightOf s 7 with
  | some g => g.cmd.opcode == op && startable g && !clusterWaits s g off && !moverQueued s g off &&
      (match freeMover s (clusterFor s g off) with
       | some m => plans (.mover (clusterFor s g off) m) op body s ok
       | none => false)
  | none => false

/-- mv.copy of a row of one FP32 element to FP16, on cluster 3. -/
def copyBlk (rows : Nat) : List Byte :=
  desc 0x31000 64 0 ++ desc 0x33000 64 1 ++ block [(4, rows), (4, 1), (4, 0), (1, 3), (1, 0), (2, 0), (16, 0)]
def copyCmd (rows : Nat) : State := flying ((0x30000, copyBlk rows) :: factors) (flightIn (cmdOf 0x3001 96) .waiting .none)
/-- Another mover command of cluster 3 holds all 128 staging units. -/
def hog : Flight := { flightIn (cmdOf 0x3001 96) .running (.mover 3 1) with cid := 8, seq := 2, units := 128 }
def crowded (s : State) : State := setFlights s (hog :: s.flights.list)

/-- 2.0 becomes 0x4000; with no unit free the command waits; no row is a no-op; mv.fill stages its value. -/
theorem test_movers :
    moves 0x3001 76 mvCopyBody (copyCmd 1) (writes [natLe 2 0x4000]) = true ∧
    moves 0x3001 76 mvCopyBody (crowded (copyCmd 1)) (fun _ _ p _ => match p with | .wait _ .staging _ => true | _ => false) = true ∧
    moves 0x3001 76 mvCopyBody (copyCmd 0) isNoop = true ∧
    moves 0x3002 44 mvFillBody (flying [(0x30000, block [(8, 0x33000), (4, 8), (20, 0), (8, 0x0123456789ABCDEF), (4, 0), (1, 3), (3, 0)])]
      (flightIn (cmdOf 0x3002 48) .waiting .none)) (writes [natLe 8 0x0123456789ABCDEF]) = true := by decide +kernel

/-- A mv.copy that waits for staging, and one whose write-out is held for engine 12. -/
def waitingCopy : Flight := { flightIn (cmdOf 0x3001 96) .staging (.mover 3 0) with block := copyBlk 1 }
def staging : State := flying ((0x30000, copyBlk 1) :: factors) waitingCopy
def heldCopyAt : Flight := flightIn (cmdOf 0x3001 96) (.heldEngine 12) (.mover 3 0)
def onEngine12 : Flight := { flightIn (cmdOf 0x1001 128) .running (.engine 12) with cid := 8, seq := 2 }

theorem test_mover_waits_end :
    (match resumeBody (advance staging (stepUnitOf waitingCopy) 10) waitingCopy mvCopyBody emptyLog with
     | .ok (.staged x, log) => x.units == 1 && !touchesReassigned (advance staging (stepUnitOf waitingCopy) 10) log.segs
     | _ => false) = true ∧
    (∀ g ∈ (flying [] heldCopyAt).flights.list, g.place = .engine 12 → isStarted g = false) ∧
    (∃ g ∈ (setFlights (flying [] heldCopyAt) [onEngine12, heldCopyAt]).flights.list, g.place = .engine 12 ∧ isStarted g = true) := by
  decide +kernel

/-- A command at its commit point, with its result 6.0 staged. -/
def runs6 : Flight := { flightIn (cmdOf 0x1001 128) .running (.engine 0) with staged := [⟨.mem 0x33000, natLe 4 0x40C00000, none⟩] }
/-- The same past it. -/
def done6 : Flight := { runs6 with phase := .committed }
/-- The same for a peer, over the link of logical port 3. -/
def peer6 : Flight := { done6 with staged := [⟨.peer 1 0x33000, natLe 4 0x40C00000, none⟩] }

/-- The world with it in flight, and the link of device 1 live. -/
def overLink : State :=
  let s := flying [] peer6
  { s with
    domain := { s.domain with routes := [(0, ⟨true, 0, 1⟩)] }
    units := { s.units with map := { s.units.map with tpLive := 1#16 } } }

theorem test_commit_and_write_out :
    (flightOf (flying [] runs6) 7 = some runs6 ∧ runs6.post = .none ∧ commitPost (flying [] runs6) runs6 = .go (flying [] runs6) runs6) ∧
    ((writeAll done6 (readyAreas (flying [] done6) done6) done6.staged).2 = 0 ∧ peerRuns done6.staged = [] ∧
      memRead (writeAll done6 (readyAreas (flying [] done6) done6) done6.staged).1.memories.mem 0x33000 4 = natLe 4 0x40C00000) ∧
    (peerRuns peer6.staged ≠ [] ∧ (sendRuns (dealEpoch overLink peer6.deal) overLink (peerRuns peer6.staged)).isSome = true) ∧
    (let lost : Flight := { done6 with staged := [⟨.host 1 0x1000, [1#8], none⟩] }
     (writeAll lost (setPortLive (flying [] lost) 1 false) lost.staged).2 ≠ 0) := by
  refine ⟨⟨rfl, rfl, rfl⟩, ?_, ?_, ?_⟩ <;> decide +kernel

/-- The premises of the three places of a write: the memory is not poisoned, the far links are up, and host 1 takes it. -/
theorem test_write_places :
    farDown (world []) 0x33000 = false ∧ anyPoison (world []) 0x33000 4 = false ∧ portLive (world []) 1 = true ∧
    hostRefuses (world []) 1 0x1000 1 = false := by decide +kernel

/-- The waits of hub actions: with nothing to wait for, and with a command that still runs. -/
theorem test_drains :
    drainDone (world []) (.asidDestroy 5) [] = true ∧ drainDone (setFlights (world []) [busy]) (.keySlot 7) [8] = false := by decide +kernel

/-- sy.signal with and without a second signal, and sy.wait for 6 on a word that is 5. -/
theorem test_signals :
    plans .hub 0x8001 sySignalBody (hubCmd 0x8001 (natLe 16 0) []) isNoop = true ∧
    plans .hub 0x8001 sySignalBody (hubCmd 0x8001 (block [(8, 0x40000), (8, 3)]) []) isNoop = true ∧
    plans .hub 0x8002 syWaitBody (hubCmd 0x8002 (block [(8, 0x40000), (8, 6), (16, 0)]) [(0x40000, natLe 8 5)]) isWait = true := by decide +kernel

/-- A sy.wait that watches the word 5 at 0x40000 for at least 5, or for 6, since step 0, with TIMEOUT 10. -/
def watching (value : Nat) : Flight := flightIn (cmdOf 0x8002 32) (.watch 0x40000 value 0 10 0 5) .hub
theorem test_watch :
    (let s := flying [(0x40000, natLe 8 5)] (watching 5)
     serving s = true ∧ flightOf s 7 = some (watching 5) ∧ isPoisoned s (unitOf 0x40000) = false ∧ 5 ≤ leNat (memRead s.memories.mem 0x40000 8) ∧
       ¬ 6 ≤ leNat (memRead s.memories.mem 0x40000 8)) ∧
    (let s := { flying [] (watching 6) with steps := { State.reset.steps with frontEnd := 10 } }
     10 ≤ (s.steps.frontEnd + 2 ^ 64 - 0) % 2 ^ 64 ∧ (State.reset.steps.frontEnd + 2 ^ 64 - 0) % 2 ^ 64 < 10) := by decide +kernel

/-! ## Shoes -/

/-- Shoe 1 is PENDING, and its tail word says n slots ahead of HEAD 0; slot 0 of its ring holds a sy.signal of version 3. -/
def ringing (n : Nat) : State :=
  let s := world [(0x58000, natLe 8 n), (0x50000, block [(2, 0x8001), (1, 8), (1, 3), (4, 1), (4, 0), (2, 5), (2, 0xFFF), (8, 0x30000), (4, 16)])]
  modShoe s 1 fun h => { h with pending := true }

/-- Shoe 1 rings on port 0 but not on port 1, and shoe 2 not at all. -/
theorem test_doorbell : (shoeOf (world []) 1).state = 1 ∧ (shoeOf (world []) 1).dbPorts.getLsbD 0 = true ∧
    (shoeOf (world []) 1).dbPorts.getLsbD 1 = false ∧ (shoeOf (world []) 2).state = 0 := by decide +kernel

/-- The clauses of a turn: nothing to serve; one slot more than the ring holds; one slot. -/
theorem test_turn :
    nextShoe (world []) = none ∧ (nextShoe (ringing 1)).map (·.1) = some 1 ∧ entryLost (ringing 1) 1 = false ∧ entryLost (ringing 17) 1 = false ∧
    (match nextShoe (ringing 17) with
     | some (n, last) => let s2 := takeTurn (ringing 17) n last; let h := shoeOf s2 n
       (match fetchRead s2 h h.tailPtr 8 with | .ok w => decide (2 ^ h.log2 < slotsTo h (fld w 0 4)) | .error _ => false)
     | none => false) = true ∧
    (match nextShoe (ringing 1) with
     | some (n, last) => let s2 := takeTurn (ringing 1) n last; let h := shoeOf s2 n
       (match fetchRead s2 h h.tailPtr 8 with
        | .ok w => let k := slotsTo h (fld w 0 4)
          k == 1 && (match fetchSlots n (k + 1) 0 (putShoe s2 n { h with tail := fld w 0 4 }) with
            | some (u, .idle) => u.flights.list.map (·.cmd.opcode) == [0x8001]
            | _ => false)
        | .error _ => false)
     | none => false) = true := by decide +kernel

/-- A mm.mul that waits is first in the order and engine 0 is the lowest free one; then nothing else is placed. -/
def ready : Flight := flightIn (cmdOf 0x1001 128) .waiting .none
theorem test_placement :
    placeNext (world []) = none ∧
    (let s := setFlights (world []) [ready]
     failedWait s = none ∧ readyOrder s = [ready] ∧ unplaceable s ready = none ∧ freeEngineFor s ready = some 0 ∧
       placeNext (placeOn s ready 0) = none) := by decide +kernel

/-- Naming: a command of engine 0 whose step count S is 2,048 steps away, and one step more; the next command is the ready one. -/
theorem test_naming :
    (∀ cost ∈ [2048, 2049], let r := { busy with t0 := 0, cost := cost }
      let s := setFlights (world []) [r, ready]
      s.flights.list.find? (fun f => f.place == .engine 0 && (isStarted f || isCommitted f)) = some r ∧ nextFor s 0 = some ready ∧
        (r.cost ≤ measuredNow s r + 2048 ↔ cost = 2048)) ∧
    nextFor (setFlights (world []) [busy]) 0 = none := by decide +kernel

/-- Fences: with FENCE_BEFORE and WAIT_FENCE 2 on command 4 of the shoe, and command 2 of it in flight. -/
def fenced (flags wait : Nat) : Flight := flightIn { cmdOf 0xF002 16 with flags := flags, waitFence := wait } .waiting .none
theorem test_fences :
    hasFence (fenced 2 0).cmd = true ∧ hasFence (fenced 0 2).cmd = false ∧
    (busy ∈ (setFlights (world []) [busy, fenced 2 0]).flights.list ∧ busy.shoe = (fenced 2 0).shoe ∧ busy.seq < (fenced 2 0).seq) ∧
    busy.seq + (fenced 0 2).cmd.waitFence = (fenced 0 2).seq ∧ (fenced 0 5).seq < (fenced 0 5).cmd.waitFence ∧
    (∀ st ∈ [sOk, sLength], let s := modShoe (setFlights (world []) [fenced 0 2]) 1 fun h => { h with ring := [(2, st)] }
      (shoeOf s 1).ring.find? (fun e => e.1 == 4 - 2) = some (2, st) ∧ ∀ g ∈ s.flights.list, g.shoe = 1 → g.seq + 2 ≠ 4) := by decide +kernel


/-! ## Well-formed commands: each check refuses an ill-formed term -/

/-- The names of units, moving units, sensors and ports: the last that there is, and the first that there is not. -/
theorem smoke_names :
    hostPort 1 = true ∧ hostPort 2 = false ∧ binikPort 15 = true ∧ binikPort 16 = false ∧
    [(1, 64), (2, 16), (3, 32), (4, 256), (5, 64), (6, 32), (7, 512), (8, 1), (9, 8)].all (fun u => unitName u.1 (u.2 - 1) && !unitName u.1 u.2) = true ∧
    unitName 0 0 = false ∧ unitName 10 0 = false ∧
    [(0, 8), (1, 64), (2, 8), (3, 1), (4, 16), (5, 4)].all (fun u => movingName u.1 (u.2 - 1) && !movingName u.1 u.2) = true ∧ movingName 6 0 = false ∧
    [(0, 8), (1, 8), (2, 1), (3, 4), (4, 3)].all (fun u => sensorName u.1 (u.2 - 1) && !sensorName u.1 u.2) = true ∧ sensorName 5 0 = false := by
  decide +kernel

/-- Every hardware error of a list is refused, alone and as an operand. -/
def badErrs (es : List HwErr) : Bool := es.all fun e => !e.wf && !(Instr.mmMul ⟨0, 1, [e]⟩).wf
/-- Every command of a list is refused. -/
def badRows (cs : List Instr) : Bool := cs.all fun c => !c.wf

/-- Every hardware error that names a unit or an address that does not exist. -/
theorem smoke_hardware_errors :
    badErrs [.memCorrected (2 ^ 40), .memPoisoned (2 ^ 40), .engineStoreCorrected 64, .engineStoreUe 64, .clusterStoreCorrected 16] = true ∧
    badErrs [.clusterStoreUe (2 ^ 53), .walkRedone 32, .bridgeUe 3, .fabricUe 8, .farPoison (2 ^ 53), .vaultGranule 1536 0] = true ∧
    badErrs [.vaultGranule 0 1024, .vaultStackFailed 4, .vaultWrite 1152, .laneCorrected 64] = true ∧
    [HwErr.datapath, .hubCorrected, .hubUe, .memPoisoned 0, .vaultGranule 1535 1023].all HwErr.wf = true := by decide +kernel

/-- A step count of 65 bits, and a host's write past the end of its memory. -/
theorem smoke_steps_and_host_writes :
    (Instr.syWait ⟨0, 2 ^ 64, []⟩).wf = false ∧ (Instr.syWait ⟨0, 2 ^ 64 - 1, []⟩).wf = true ∧
    (Instr.hostDoorbell 0 0 [⟨2, 0, []⟩]).wf = false ∧ (Instr.hostDoorbell 0 0 [⟨0, 2 ^ 64, [1#8]⟩]).wf = false ∧
    (Instr.hostDoorbell 0 (2 ^ 20) []).wf = false ∧ (Instr.hostDoorbell 2 0 []).wf = false := by decide +kernel

/-- A mailbox, a peer, a sideband and a network request with one field too wide each. -/
theorem smoke_messages :
    (MbReq.wf ⟨0, 1, 1, 0, 0, []⟩ = true ∧ MbReq.wf ⟨2, 1, 1, 0, 0, []⟩ = false ∧ MbReq.wf ⟨0, 2 ^ 32, 1, 0, 0, []⟩ = false ∧
      MbReq.wf ⟨0, 1, 256, 0, 0, []⟩ = false ∧ MbReq.wf ⟨0, 1, 1, 65536, 0, []⟩ = false ∧
      MbReq.wf ⟨0, 1, 1, 0, 0, List.replicate 4065 0#8⟩ = false) ∧
    (PeerMsg.wf ⟨0, 0, 0, 0, 0, 0, 0, 0, []⟩ = true ∧ PeerMsg.wf ⟨16, 0, 0, 0, 0, 0, 0, 0, []⟩ = false ∧
      PeerMsg.wf ⟨0, 65536, 0, 0, 0, 0, 0, 0, []⟩ = false ∧ PeerMsg.wf ⟨0, 0, 65536, 0, 0, 0, 0, 0, []⟩ = false ∧
      PeerMsg.wf ⟨0, 0, 0, 256, 0, 0, 0, 0, []⟩ = false ∧ PeerMsg.wf ⟨0, 0, 0, 0, 2 ^ 64, 0, 0, 0, []⟩ = false ∧
      PeerMsg.wf ⟨0, 0, 0, 0, 0, 2 ^ 64, 0, 0, []⟩ = false ∧ PeerMsg.wf ⟨0, 0, 0, 0, 0, 0, 2 ^ 32, 0, []⟩ = false ∧
      PeerMsg.wf ⟨0, 0, 0, 0, 0, 0, 0, 2 ^ 32, []⟩ = false) ∧
    (SbReq.wf ⟨0, 0, []⟩ = true ∧ SbReq.wf ⟨256, 0, []⟩ = false ∧ SbReq.wf ⟨0, 256, []⟩ = false ∧ SbReq.wf ⟨0, 0, List.replicate 256 0#8⟩ = false) ∧
    (RdmaReq.wf ⟨0, 0, 0, 0, 0, 0, false, []⟩ = true ∧ RdmaReq.wf ⟨2, 0, 0, 0, 0, 0, false, []⟩ = false ∧
      RdmaReq.wf ⟨0, 0, 0, 2 ^ 64, 0, 0, false, []⟩ = false ∧ RdmaReq.wf ⟨0, 0, 0, 0, 2 ^ 32, 0, false, []⟩ = false) := by decide +kernel

/-- An offer, a step report and readings with one field too many or too wide. -/
theorem smoke_offers_reports_and_readings :
    (FarOffer.wf ⟨3, 16, 0, 0, 0, 0, 0, 0, 0⟩ = true ∧ FarOffer.wf ⟨4, 16, 0, 0, 0, 0, 0, 0, 0⟩ = false ∧
      FarOffer.wf ⟨0, 65536, 0, 0, 0, 0, 0, 0, 0⟩ = false) ∧
    (StepReport.wf ⟨[(1, 63)], 0, 0, 0#2, 0#2, 0#2, [], 0#2, 0, 0#2⟩ = true ∧ StepReport.wf ⟨[(1, 64)], 0, 0, 0#2, 0#2, 0#2, [], 0#2, 0, 0#2⟩ = false ∧
      StepReport.wf ⟨[], 256, 0, 0#2, 0#2, 0#2, [], 0#2, 0, 0#2⟩ = false ∧ StepReport.wf ⟨[], 0, 256, 0#2, 0#2, 0#2, [], 0#2, 0, 0#2⟩ = false ∧
      StepReport.wf ⟨[], 0, 0, 0#2, 0#2, 0#2, [⟨4, 0, 0, 0, 0, 0, 0, 0, 0⟩], 0#2, 0, 0#2⟩ = false) ∧
    (Readings.wf ⟨[], [], [], 0, [], [], 0, 0, 0⟩ = true ∧ Readings.wf ⟨List.replicate 17 0, [], [], 0, [], [], 0, 0, 0⟩ = false ∧
      Readings.wf ⟨[], List.replicate 9 0, [], 0, [], [], 0, 0, 0⟩ = false ∧ Readings.wf ⟨[], [], List.replicate 9 0, 0, [], [], 0, 0, 0⟩ = false ∧
      Readings.wf ⟨[], [], [], 0, List.replicate 5 0, [], 0, 0, 0⟩ = false ∧
      Readings.wf ⟨[], [], [], 0, [], List.replicate 4 0, 0, 0, 0⟩ = false) := by decide +kernel

/-- The ranges that a row names itself, each passed by one. -/
theorem smoke_rows :
    badRows [.stackTemperatureCrossing 8 0, .stagedWeightRepair (2 ^ 53) [], .retiringCopyRelease 16, .translationWalk 0 (2 ^ 56) false [],
      .nextCommandNamed 64, .routingBoardResolved 16, .ptmResponse 0 (2 ^ 64) true, .registerWrite 0 65536 0, .registerWrite 0 0 (2 ^ 32)] = true ∧
    badRows [.channelNoAnswer 256, .converterTrip 16, .osfpPlugInsert 0 256, .portTrained 0 0#4 256 0 [], .portTrained 0 0#4 0 256 [],
      .binikPortDown 0 3 0, .binikPortDown 0 0 5, .replay 0 4 true, .rdmaWrite 1024, .rdmaResponse 1024 .ack, .congestionNotification 1024] = true ∧
    badRows [.arp 0 (2 ^ 128) 0 0, .arp 0 0 (2 ^ 128) 0, .arp 0 0 0 (2 ^ 48), .neighbourDiscovery 0 (2 ^ 128) 0 0, .icmpEcho 0 false (2 ^ 128) 0 [],
      .icmpEcho 2 false 0 0 [], .i3cSetdasa 128 0, .i3cSetdasa 0 128, .i3cEntdaa 128] = true ∧
    badRows [.powerTransitionSettled 6 0, .thermalWarn 5 0 0, .protectiveStop 5 0 0, .inServiceTest 1 64, .inServiceTestEnd 1 64 true,
      .killAckTimeout 2 16, .farLinkDown 2, .priorityFlowControl 2 0#8 true] = true := by decide +kernel

/-- Ranges of the last rows of the table. -/
theorem smoke_last_rows :
    (Instr.peerAcknowledgement 0 (2 ^ 32)).wf = false ∧ (Instr.channelCopyDone 8).wf = false ∧ (Instr.ethernetLinkUp 2).wf = false ∧
    (Instr.hostLinkDown 2).wf = false ∧ (Instr.ptmEnable 2 true).wf = false ∧ (Instr.getVersion 2 []).wf = false := by
  refine ⟨rfl, rfl, rfl, rfl, rfl, rfl⟩

/-- No row of the opcode table has bits, so no word spells a command. -/
theorem test_no_word_spells_a_command : decodeTableWord 0 0 = none ∧ decodeTableWord 32 0x1001 = none := ⟨rfl, rfl⟩

/-! ## Steps, the mailbox, SPDM, registers, the sideband and I3C -/

/-- A started device with nothing in memory but its tables. -/
def plain : State := world []
/-- A device whose start is at step n, or that is off (step 0). -/
def atStep (n : Nat) : State := { State.reset with boot := { State.reset.boot with step := n } }

/-- A queue with a command; an empty queue before and after a start began; a region that works and one that does not. -/
theorem test_queue :
    (∃ t, step { plain with pending := [.barrierStall] } = .next t) ∧ plain.pending = [] ∧ plain.boot.step ≠ 0 ∧ (atStep 0).pending = [] ∧
    (atStep 0).boot.step = 0 ∧ regionWorks plain 7 = true ∧
    regionWorks { plain with power := { plain.power with level := [(7, 1)] } } 7 = false :=
  ⟨⟨_, rfl⟩, rfl, by decide, rfl, rfl, by decide +kernel, by decide +kernel⟩

/-- The byte memories of the test world are canonical. -/
theorem witness_canonical : Safety.Canonical plain :=
  ⟨by decide +kernel, by decide +kernel, by decide +kernel, by decide +kernel, by decide +kernel⟩

/-- A mailbox request on a port with TXN, LENGTH and its payload. -/
def asks (port txn : Nat) (p : List Byte) : MbReq := ⟨port, txn, 1, p.length, 0, p⟩
/-- Both hosts have negotiated major 2. -/
def bothTalk : State := { plain with heldun := { plain.heldun with port1 := plain.heldun.port0 } }

theorem heard {s : State} {r : Slice0.MbRow} {rq : MbReq} (h : (serving s = true ∧ rq.port < 2 ∧ portLive s rq.port = true ∧
    r.spec.mine (Slice0.payloadOf rq) = true) ∧ (mboxOf s rq.port).busy = false ∧ rq.rsv = 0 ∧ rq.length ≤ 4064) : Slice0.Heard s r rq :=
  ⟨⟨h.1.1, h.1.2.1, h.1.2.2.1, h.1.2.2.2⟩, h.2.1, h.2.2.1, h.2.2.2⟩

/-- Port 0 serves a request. -/
def busyPort : State := setMbox plain 0 { mboxOf plain 0 with busy := true }

/-- The first stages of an exchange: a busy port; a reserved header byte; no negotiation. -/
theorem test_mailbox_headers :
    (serving plain = true ∧ portLive plain 0 = true ∧ (mboxOf busyPort 0).busy = true ∧ serving busyPort = true ∧ portLive busyPort 0 = true ∧
      nonceSpec.mine (Slice0.payloadOf ⟨0, 0, 1, 0, 1, []⟩) = true ∧ (mboxOf plain 0).busy = false) ∧
    Slice0.Heard plain ⟨.mbNonce, nonceSpec⟩ (asks 1 0 []) ∧ (mboxOf plain 1).major = none ∧ nonceSpec.code ≠ 1 :=
  ⟨by decide +kernel, heard (by decide +kernel), by decide +kernel, by decide +kernel⟩

/-- The later ones: a failed check; an executed read; a commanded reset while no other port is served, and while one is. -/
theorem test_mailbox_stages :
    (Slice0.Fresh plain ⟨.mbNonce, nonceSpec⟩ (asks 0 0 [0#8]) ∧
      mbChecks nonceSpec plain (asks 0 0 [0#8]) (Slice0.payloadOf (asks 0 0 [0#8])) = some (3, 0x80000006)) ∧
    (Slice0.Fresh plain ⟨.mbUnitsGet, unitsSpec⟩ (asks 0 3 []) ∧ mbChecks unitsSpec plain (asks 0 3 []) (Slice0.payloadOf (asks 0 3 [])) = none ∧
      ∃ d, unitsSpec.run plain 0 (Slice0.payloadOf (asks 0 3 [])) = some d ∧ serving d.state = true ∧ d.reset = false ∧ d.begun = none) ∧
    (Slice0.Fresh plain ⟨.mbReset, resetSpec⟩ (asks 0 0 (natLe 4 0)) ∧
      mbChecks resetSpec plain (asks 0 0 (natLe 4 0)) (Slice0.payloadOf (asks 0 0 (natLe 4 0))) = none ∧
      ∃ d, resetSpec.run plain 0 (Slice0.payloadOf (asks 0 0 (natLe 4 0))) = some d ∧ serving d.state = true ∧ d.reset = true ∧ d.begun = none) := by
  refine ⟨⟨⟨heard ?_, .inl rfl, .inl rfl⟩, ?_⟩, ⟨⟨heard ?_, .inl rfl, .inr ?_⟩, ?_, _, rfl, ?_, rfl, rfl⟩,
    ⟨⟨heard ?_, .inl rfl, .inl rfl⟩, ?_, _, rfl, ?_, rfl, rfl⟩⟩ <;> decide +kernel

/-- A reply leaves no port busy, or the other one. -/
theorem test_mailbox_busy_after_reply :
    mailboxBusy (Slice0.replied plain ⟨.mbReset, resetSpec⟩ (asks 0 0 (natLe 4 0)) 0 0 []) = false ∧
    mailboxBusy (Slice0.replied (setMbox plain 1 { mboxOf plain 1 with busy := true }) ⟨.mbReset, resetSpec⟩ (asks 0 0 (natLe 4 0)) 0 0 []) = true := by
  decide +kernel

/-- A device without shoes whose second GiB of addresses is memory of board device 1. -/
def noShoes : State :=
  let s := world [(0x200008, natLe 8 (2 ^ 53 + 13))]
  { s with
    shoes := { s.shoes with count := 0, tab := [] }
    domain := { s.domain with routes := [(0, ⟨true, 0, 1⟩)] }
    units := { s.units with map := { s.units.map with tpLive := 1#16 } } }

/-- MB_SHOE_INIT with its tail word there. -/
def initRequest : MbReq :=
  asks 0 0 (block [(4, 16), (4, 1), (8, 0x400000), (8, 0x600000), (8, 0x100000), (8, 0x50000), (8, 0x40000000), (8, 0x59000), (8, 1), (1, 4), (1, 1), (14, 0)])

/-- It passes its checks and asks the peer. -/
theorem test_shoe_init_asks :
    mbChecks shoeInitSpec noShoes initRequest (Slice0.payloadOf initRequest) = none ∧
    ((shoeInitSpec.run noShoes 0 (Slice0.payloadOf initRequest)).map fun d => serving d.state && d.begun.isSome) = some true := by decide +kernel

/-- The reads whose answers are stated pass their checks at the owner's port. -/
theorem test_mailbox_reads :
    mbChecks farListSpec plain (asks 0 0 []) (Slice0.payloadOf (asks 0 0 [])) = none ∧
    mbChecks telemSpec plain (asks 0 0 []) (Slice0.payloadOf (asks 0 0 [])) = none := by decide +kernel

/-- A reply of transaction 5 to a command, cached on port 0. -/
def remembered (code : Nat) : State :=
  { plain with heldun := { plain.heldun with port0 := { plain.heldun.port0 with cache := [⟨5, code, 0, sha384 [], []⟩] } } }

/-- A repeated request and one that conflicts: the cached entry is found, and is the same request or is not. -/
theorem test_mailbox_repeats :
    Slice0.Heard (remembered 0x3001) ⟨.mbUnitsGet, unitsSpec⟩ (asks 0 5 []) ∧ (mboxOf (remembered 0x3001) 0).major.isSome = true ∧ (asks 0 5 []).txn ≠ 0 ∧
    (∀ code, (mboxOf (remembered code) 0).cache.find? (fun e => e.txn == 5) = some ⟨5, code, 0, sha384 [], []⟩) ∧
    (0x3001 = unitsSpec.code ∧ 0 = (asks 0 5 []).length ∧ sha384 [] = sha384 (Slice0.payloadOf (asks 0 5 []))) ∧ 0x3002 ≠ unitsSpec.code :=
  ⟨heard (by decide +kernel), rfl, by decide, fun _ => rfl, ⟨rfl, rfl, rfl⟩, by decide⟩

/-- Host 1, which is no owner and has no right, asks for a reset and for the telemetry. -/
theorem test_mailbox_roles :
    Slice0.Fresh bothTalk ⟨.mbReset, resetSpec⟩ (asks 1 0 (natLe 4 0)) ∧ resetSpec.role = .owner ∧ resetSpec.lengths 4 = true ∧
    Slice0.Fresh bothTalk ⟨.mbTelemRead, telemSpec⟩ (asks 1 0 []) ∧ telemSpec.role = .right 1 ∧ telemSpec.lengths 0 = true ∧
    bothTalk.vault.observerRights.getLsbD 1 = false ∧ bothTalk.heldun.owner ≠ some 1 ∧ (mboxOf bothTalk 1).major = some 2 ∧
    1 ≤ minorOf (mboxOf bothTalk 1) (familyOf resetSpec.code) ∧ 1 ≤ minorOf (mboxOf bothTalk 1) (familyOf telemSpec.code) ∧
    bothTalk.heldun.resetDue = false := by
  refine ⟨⟨heard ?_, .inl rfl, .inl rfl⟩, rfl, rfl, ⟨heard ?_, .inl rfl, .inl rfl⟩, rfl, rfl, ?_⟩ <;> decide +kernel

/-- A body of each SPDM request, on a port where no algorithms are agreed. -/
theorem test_spdm :
    ([0x84, 0xE1, 0xE3, 0x81, 0x82, 0x83, 0xE0] : List Nat).all (fun code => fld (natLe 1 0x12 ++ natLe 1 code) 1 1 == code) = true ∧
    (mboxOf plain 0).spdmAlgs = false ∧ serving plain = true ∧ portLive plain 0 = true := by decide +kernel

/-- A powered device whose BAR answers. -/
theorem test_registers : plain.module.powered = true ∧ 3 ≤ plain.boot.step ∧ portLive plain 1 = true := by decide +kernel

/-- The checks of a sideband request: a payload that is too long, a route set before the start has ended, an egress above 15, all zero. -/
theorem test_sideband :
    (sbRead true startRecord).lengths 1 = false ∧ (sbRead true startRecord).mine [0#8] = true ∧
    routeSetSpec.mine (natLe 132 0) = true ∧ routeSetSpec.lengths 132 = true ∧ routeSetSpec.form (natLe 132 0) = true ∧
    routeSetSpec.always = false ∧ serving (atStep 3) = false ∧ (atStep 3).module.powered = true ∧
    routeSetSpec.form (natLe 4 0 ++ natLe 4 (16 * 2 ^ 24) ++ natLe 124 0) = true ∧
    routeSetSpec.range (natLe 4 0 ++ natLe 4 (16 * 2 ^ 24) ++ natLe 124 0) = false ∧
    routeSetSpec.range (natLe 132 0) = true ∧ serving plain = true := by decide +kernel

/-- A staged record of domain 1 and device 0, which is legal, and one of domain 0, which is not. -/
theorem test_install : installLegal plain (padTo 2136 (natLe 8 1)) = true ∧ installLegal plain (padTo 2136 []) = false := by decide +kernel

/-- A device without a dynamic address, one with it, and a static address that is not its own. -/
theorem test_i3c : plain.sideband.dynAddr = none ∧ { plain.sideband with dynAddr := some 9 }.dynAddr = some 9 ∧ (0x3F : Nat) ≠ 0x40 + position plain := by
  decide +kernel

/-! ## Resets, starts, the module's inputs, PTM, refresh and far links -/

/-- A device whose owner key is stored. -/
def keyed : State := { plain with vault := { plain.vault with ownerKey := some [1#8] } }

/-- Power off and on, RESET_N low, and a fundamental reset that is a full start or a port reset. -/
theorem test_resets :
    { plain.module with powered := false }.powered = false ∧ plain.module.powered = true ∧ { plain.module with resetLow := true }.resetLow = true ∧
    plain.heldun.owner = some 0 ∧ ¬ (keyed.heldun.owner = some 1 ∨ keyed.heldun.ready = 2 ∨ keyed.vault.ownerKey = none) := by decide +kernel

/-- The start steps: a cause that stops step 2 or any; one that does not; the banks; no engine, no channel, no walker, and all present. -/
theorem test_start_steps :
    (∀ n ∈ [1, 2, 3, 4, 5, 6], starting (atStep n) = true ∧ (atStep n).module.resetLow = false ∧ causeAt n 10 = true ∧ causeAt n 0 = false) ∧
    causeAt 2 1 = true ∧ causeAt 1 1 = false ∧
    (chooseBank (atStep 2) 0#2).isOk = true ∧ (chooseBank (atStep 2) 3#2).isOk = false ∧
    (atStep 6).units.map.engines ≠ 0#64 ∧ (atStep 6).units.map.channels ≠ 0#256 ∧ (atStep 6).units.map.walkers ≠ 0#32 ∧
    { UnitsMap.full with engines := 0#64 }.engines = 0#64 ∧ { UnitsMap.full with channels := 0#256 }.engines ≠ 0#64 ∧
    { UnitsMap.full with walkers := 0#32 }.channels ≠ 0#256 ∧ serving (atStep 6) = false := by decide +kernel

/-- The input and the rails: in and out of ride-through, in and out of a start; a plug of 15 W and of 16 W; a host link while a start runs. -/
theorem test_inputs :
    plain.module.powered = true ∧ plain.module.rideThrough = false ∧ { plain.module with rideThrough := true }.rideThrough = true ∧
    starting plain = false ∧ starting (atStep 1) = true ∧ (atStep 1).module.powered = true ∧ 1 ≤ plain.boot.step ∧
    plain.power.portsDown.getLsbD 2 = false ∧ plain.power.portsDown.getLsbD 3 = false := by decide +kernel

/-- PTM enabled on the ports of a mask, on a port, and waiting there. -/
def ptm (mask : BitVec 2) (port : Option Nat) (waiting : Bool) : State := { plain with ptm := { plain.ptm with enabled := mask, port := port, waiting := waiting } }

/-- A port newly chosen, the same one before and after the interval, none, the other one, and an exchange that waits. -/
theorem test_ptm :
    (ptmChoice (ptm 1#2 none false) = some 0 ∧ (ptm 1#2 none false).ptm.port ≠ some 0) ∧
    (ptmChoice (ptm 1#2 (some 0) false) = some 0 ∧ (hubNow (ptm 1#2 (some 0) false) + 2 ^ 64 - (ptm 1#2 (some 0) false).ptm.lastStart) % 2 ^ 64 < 2 ^ 20) ∧
    2 ^ 20 ≤ (hubNow { plain with steps := { plain.steps with narrow := 2 ^ 20 } } + 2 ^ 64 - plain.ptm.lastStart) % 2 ^ 64 ∧
    plain.ptm.log2Interval = 20 ∧ ptmChoice plain = none ∧ plain.heldun.owner = some 0 ∧
    (ptm 2#2 none false).ptm.enabled.getLsbD 0 = false ∧ ptmChoice (ptm 2#2 none false) = some 1 ∧
    (ptm 1#2 (some 0) true).ptm.waiting = true ∧ (ptm 1#2 (some 0) true).ptm.port = some 0 ∧ (ptm 1#2 (some 0) true).ptm.port ≠ some 1 := by
  decide +kernel

/-- Far port 0 with slot 0 mapped (state 1) or lost (state 3). -/
def far0 (st : Nat) : State :=
  { plain with memories := { plain.memories with expanders := [(0, { freeExpander with base := farBase, sizeGib := 1, state := st })] } }

/-- The clauses of the refresh rate do not overlap at their boundaries; a far link that is live or down; an offer to a lost slot; and a channel
copy that is the last of its stack or not. -/
theorem test_refresh_far_and_copies :
    ([1521, 1520, 1472, 1471, 1361, 1360, 1312, 1311] : List Int).all (fun c =>
      ([decide (95 * 16 < c), decide (92 * 16 ≤ c ∧ c ≤ 95 * 16), decide (85 * 16 < c ∧ c < 92 * 16), decide (82 * 16 ≤ c ∧ c ≤ 85 * 16),
        decide (c < 82 * 16)].filter id).length == 1) = true ∧
    portLive (far0 1) 2 = true ∧ portLive (setPortLive plain 2 false) 2 = false ∧ mappedSlots (far0 1) 0 = [0] ∧ (far0 1).flights.list = [] ∧
    portLive (setPortLive (far0 3) 2 false) 2 = false ∧ (expanderOf (setPortLive (far0 3) 2 false) 0).state = 3 ∧
    plain.power.portsDown.getLsbD 0 = false ∧ FarOffer.wf ⟨0, 16, 0, 0, 0, 0, 0, 4, 5⟩ = true ∧
    (∀ rest ∈ [[], [4]], tabGet { plain.memories with copying := [(0, 3 :: rest)] }.copying 0 [] = 3 :: rest) ∧
    plain.memories.lostChan.contains (32 * 0 + 4) = false ∧ { plain.memories with lostChan := [4] }.lostChan.contains (32 * 0 + 4) = true := by
  decide +kernel

/-! ## Links, peers and the domain -/

/-- Binik port 0 in a link state at protocol 3, and the epoch known. -/
def linked (st : Nat) : State :=
  let s := putLink plain 0 { freeLink with state := st, protocol := 3 }
  { s with domain := { s.domain with barrier := { s.domain.barrier with known := true } } }

/-- A port that is down with a common version and without one; one that is up; a lane that is none. -/
theorem test_binik :
    linksTrain plain = true ∧ (linkOf (linked 0) 0).state = 0 ∧ tpLive (linked 0) 0 = false ∧ (linkOf (linked 0) 0).peer = [] ∧
    awakeLanes (linked 0) 0 ≠ 0 ∧ widthOf (lanesUp (linked 0) 0 0xF#4).length = 4 ∧ widthOf (lanesUp (linked 0) 0 1#4).length ≠ 0 ∧
    (linked 0).domain.barrier.known = true ∧ commonVersion (linked 0) 4 5 = none ∧ commonVersion (linked 0) 3 3 = some 3 ∧
    linksTrain (linked 2) = true ∧ (linkOf (linked 2) 0).state ≠ 0 ∧ (linked 2).flights.sent = [] := by decide +kernel

/-- A write of 8 bytes at 0x40000 to a device, of an epoch. -/
def peerMsg (dest epoch : Nat) : PeerMsg := ⟨0, dest, 1, 0, epoch, 0x40000, 8, 5, natLe 8 77⟩

/-- A message that arrives in probation, for another device, of another epoch, and one that is served; and the writes it may make. -/
theorem test_peer_messages :
    (∀ st ∈ [1, 2], ∀ dest ∈ [0, 9], ∀ epoch ∈ [0, 1], serving (linked st) = true ∧ (linkOf (linked st) 0).state = st ∧
      peerWaits (linked st) (peerMsg dest epoch) = false ∧ ringWaits (linked st) (peerMsg dest epoch) = false) ∧
    deviceId (linked 2) = 0 ∧ epochOk (linked 2) (peerMsg 0 1) = false ∧ epochOk (linked 2) (peerMsg 0 0) = true ∧
    (checkLocal (linked 2) (peerActor (linked 2)) true 0x40000 8).isOk = true ∧ anyPoison (linked 2) 0x40000 8 = false := by decide +kernel

theorem witness_peer_message_arrives : Slice0.Arrives (linked 2) (peerMsg 0 0) := ⟨by decide +kernel, by decide, by decide +kernel, by decide +kernel⟩

/-- A command that waits for the acknowledgements of messages, which this device sent on port 0. -/
def awaiting (ids : List Nat) : State :=
  let s := setFlights (linked 2) [flightIn (cmdOf 0x1001 128) (.peer ids) (.engine 0)]
  { s with flights := { s.flights with sent := ids.map fun i => (i, 0) } }

theorem test_peer_answers :
    (∀ ids ∈ [[5], [5, 6]], (5, 0) ∈ (awaiting ids).flights.sent ∧
      (awaiting ids).flights.list.find? (fun f => match f.phase with | .peer ids => ids.contains 5 | _ => false) =
        some (flightIn (cmdOf 0x1001 128) (.peer ids) (.engine 0))) ∧
    (∃ x ∈ (awaiting [5]).flights.sent, x.1 = (peerMsg 0 0).msgId) ∧ ∀ x ∈ (linked 2).flights.sent, x.1 ≠ (peerMsg 0 0).msgId := by decide +kernel

/-- The barrier of an open port's device. -/
def barrier (arrived : List Nat) (sent proposed : Bool) (s : State) : State :=
  putBarrier s { s.domain.barrier with arrived := arrived, sent := sent, proposed := proposed }

/-- A record's, a proposal's and an arrival's epochs; arrivals that are new, held, and complete; a stall that is due and one that is not. -/
theorem test_barrier :
    (peerMsg 0 1).epoch ≠ (linked 2).domain.barrier.epoch ∧ (peerMsg 0 0).epoch = (linked 2).domain.barrier.epoch ∧
    (peerMsg 0 0).src ∈ (barrier [1] false false (linked 2)).domain.barrier.arrived ∧ (peerMsg 0 0).src ∉ (linked 2).domain.barrier.arrived ∧
    (let s := barrier (members (linked 2)) true false (linked 2)
     s.domain.barrier.sent = true ∧ ∀ i ∈ members s, i ∈ s.domain.barrier.arrived) ∧ (linked 2).domain.barrier.sent = false ∧
    (let s := barrier [] false true { plain with steps := { plain.steps with narrow := 2 ^ 24 } }
     serving s = true ∧ s.domain.barrier.proposed = true ∧ 2 ^ 24 ≤ (hubNow s + 2 ^ 64 - s.domain.barrier.since) % 2 ^ 64) ∧
    plain.domain.barrier.proposed = false := by decide +kernel

/-! ## The network -/

/-- Queue pair 1 on Ethernet port 0 in address space 5: its ring at 0x41000, its tail word at 0x40000. -/
def qp : Qp :=
  { port := 0, asid := 5, remoteQp := 2, remoteIp := 3, sendVa := 0x41000, log2Send := 4, tailVa := 0x40000, complVa := 0, log2Compl := 0, immVa := 0,
    head := 0, tail := 0, compl := 0, sent := none, slowed := 0 }
/-- A send entry with an OP and a length, from 0x42000. -/
def entry (op len : Nat) : List Byte := block [(1, op), (1, 0), (2, 0), (4, 0), (8, 0x42000), (4, len), (4, 7), (8, 0x1000), (32, 0)]
/-- The device with that queue pair, one entry in its ring, and a region of key 7 over the 64 bytes at 0x42000. -/
def ethernet (op len : Nat) (q : Qp) : State :=
  let s := world [(0x40000, natLe 8 1), (0x41000, entry op len)]
  { s with net := { s.net with qps := [(1, q)], mrs := [(0, ⟨5, true, true, 7, 0x42000, 64⟩)] } }

theorem ok_of_toOption {ε α : Type} {x : Except ε α} {a : α} (h : x.toOption = some a) : x = .ok a := by
  cases x with
  | ok b => simp only [Except.toOption, Option.some.injEq] at h; rw [h]
  | error e => simp [Except.toOption] at h

theorem entry_at (op len : Nat) (h : op < 3) (hl : len ∈ [0, 8]) :
    Slice0.EntryAt (ethernet op len qp) 1 qp { qp with tail := 1 } (entry op len) := by
  refine ⟨natLe 8 1, ?_⟩
  have : op = 0 ∨ op = 1 ∨ op = 2 := by omega
  simp only [List.mem_cons, List.mem_nil_iff, or_false] at hl
  rcases this with rfl | rfl | rfl <;> rcases hl with rfl | rfl <;> exact ⟨by decide +kernel, rfl, rfl, rfl, ok_of_toOption (by decide +kernel), by decide +kernel, by decide,
    ok_of_toOption (by decide +kernel)⟩

/-- An entry of each OP that breaks Table 18-14 by a length of 0, and one that is sent, on a port that is live and on one that is not. -/
theorem test_send_entries :
    (∀ op ∈ [0, 1, 2], fld (entry op 8) 0 1 = op ∧ entryFault (entry op 0) = some (sLength, detParam 16) ∧ entryFault (entry op 8) = none) ∧
    portLive (ethernet 0 8 qp) 4 = true ∧ portLive (setPortLive (ethernet 0 8 qp) 4 false) 4 = false ∧
    netRead (ethernet 0 8 qp) 5 0x42000 8 = .ok (natLe 8 0) := by
  refine ⟨by decide +kernel, by decide +kernel, by decide +kernel, ok_of_toOption (by decide +kernel)⟩

/-- The same entry once it was sent, with the bytes that an answer stores. -/
theorem test_answers : ∀ op ∈ [0, 2], let q : Qp := { qp with sent := some (entry op 8) }
    tabFind (ethernet op 8 q).net.qps 1 = some q ∧ (fld (entry op 8) 0 1 ≠ 2 ↔ op = 0) ∧ fld (entry op 8) 1 1 % 2 = 0 ∧
      (netDest (ethernet op 8 q) 5 0x42000 8).isOk = true ∧ serving (ethernet op 8 q) = true := by decide +kernel

/-- A request from the network with a key. -/
def request (rkey : Nat) : RdmaReq := ⟨0, 1, rkey, 0x42000, 8, 0, false, natLe 8 5⟩

/-- A request with and without a region; flow control, address requests and a link that comes up. -/
theorem test_network_requests :
    (let s := ethernet 0 8 qp
     tabFind s.net.qps 1 = some qp ∧ portLive s 4 = true ∧ regionOf s (request 8) true = none ∧ regionOf s (request 8) false = none ∧
       regionOf s (request 7) true = some ⟨5, true, true, 7, 0x42000, 64⟩ ∧ regionOf s (request 7) false = some ⟨5, true, true, 7, 0x42000, 64⟩ ∧
       (netDest s 5 0x42000 8).isOk = true ∧ (netRead s 5 0x42000 8).isOk = true) ∧
    (let s := setNetPort plain 0 { netPortOf plain 0 with pfc := 3, ipv4 := 9, ipv6 := 8 }
     (netPortOf s 0).pfc < 8 ∧ (8#8).getLsbD (netPortOf s 0).pfc = true ∧ (netPortOf s 0).ipv4 ≠ 0 ∧ (netPortOf s 0).ipv6 ≠ 0 ∧ portLive s 4 = true) ∧
    (let s := setPortLive { plain with module := { plain.module with osfp := 1#2, osfpPowered := 1#2 } } 4 false
     linksTrain s = true ∧ portLive s 4 = false ∧ cageReady s 0 = true ∧ s.power.portsDown.getLsbD 2 = false) := by decide +kernel

/-! ## Power, temperature, errors and deals -/

/-- WARN_C is 100 °C, and some sensors have warned. -/
def warned (l : List (Nat × Nat)) : State :=
  { plain with power := { plain.power with warnC := 100 }, telemetry := { plain.telemetry with warned := l } }

/-- The boundaries of the warning: 97 °C and a sixteenth more, 100 °C and a sixteenth more, each in one clause; a sensor that has warned or not. -/
theorem test_thermal_boundaries :
    (∀ c ∈ ([1552, 1553, 1600, 1601] : List Int), (c ≤ ((100 : Int) - 3) * 16 ↔ c = 1552) ∧ ((100 : Int) * 16 < c ↔ c = 1601) ∧
      ((((100 : Int) - 3) * 16 < c ∧ c ≤ 100 * 16) ↔ (c = 1553 ∨ c = 1600))) ∧
    (warned []).power.warnC = 100 ∧ plain.power.warnC = 0 ∧ warnCode 0 = some 0 ∧ warnCode 2 = some 1 ∧ warnCode 3 = some 3 ∧ warnCode 1 = none ∧
    (0, 4) ∉ (warned []).telemetry.warned ∧ (0, 4) ∈ (warned [(0, 4)]).telemetry.warned ∧
    stopCode 0 = some 0 ∧ stopCode 4 = some 2 ∧ ¬ (1887 : Int) ≥ 118 * 16 ∧ (1888 : Int) ≥ 118 * 16 := by decide +kernel

/-- Engine 0 is gated and moves, idle and with a command on it. -/
def gating (fs : List Flight) : State :=
  let s := setFlights plain fs
  { s with power := { s.power with gated := 1#64, engMoving := 1#64 } }

theorem test_settling :
    (∀ fs ∈ [[], [busy]], (gating fs).power.engMoving.getLsbD 0 = true ∧ (gating fs).power.gated.getLsbD 0 = true ∧ serving (gating fs) = true) ∧
    (∃ f ∈ (gating [busy]).flights.list, onUnit f = true ∧ f.place = .engine 0) ∧
    ∀ f ∈ (gating []).flights.list, onUnit f = true → f.place ≠ .engine 0 := by decide +kernel

/-- Engine 0, and walker 2, under test. -/
def testing (kind index : Nat) (running : Bool) (fs : List Flight) : State :=
  let s := setFlights plain fs
  { s with units := { s.units with tests := [⟨kind, index, running⟩] } }

theorem test_unit_tests :
    underTest (testing 1 0 false [busy]) 1 0 = true ∧ unitBusy (testing 1 0 false [busy]) 1 0 = true ∧ unitBusy (testing 1 0 false []) 1 0 = false ∧
    (∀ u ∈ [(1, 0), (2, 5), (3, 2)], ∃ x ∈ (testing u.1 u.2 true []).units.tests, x.kind = u.1 ∧ x.index = u.2 ∧ x.running = true) ∧
    unitHere { plain with units := { plain.units with map := { plain.units.map with engines := 0#64 } } } 1 0 = false := by decide +kernel

/-- A device at a hub step, with engine 3 told of a kill at step 0, and one error counted then. -/
def hubAtStep (n : Nat) : State :=
  { plain with
    steps := { plain.steps with narrow := n }
    units := { plain.units with kills := [(unitKey 1 3, 0)], errs := [⟨0x10, 4, 0, 5, 2, 0⟩] } }

/-- The ends of the three counts: 2^20 steps of a kill and of an event window, 2^46 of a retirement window and 2^20 of a telemetry window, and one
step less. -/
theorem test_counts_pass :
    (∀ n ∈ [2 ^ 20 - 1, 2 ^ 20], (tabFind (hubAtStep n).units.kills (unitKey 1 3) = some 0) ∧
      (2 ^ 20 ≤ (hubNow (hubAtStep n) + 2 ^ 64 - 0) % 2 ^ 64 ↔ n = 2 ^ 20) ∧
      (2 ^ 20 ≤ (hubNow (hubAtStep n) + 2 ^ 64 - (hubAtStep n).telemetry.windowAt) % 2 ^ 64 ↔ n = 2 ^ 20) ∧
      ∀ e ∈ (hubAtStep n).units.errs, (2 ^ 20 ≤ (hubNow (hubAtStep n) + 2 ^ 64 - e.since) % 2 ^ 64 ↔ n = 2 ^ 20)) ∧
    tabFind plain.units.kills (unitKey 1 3) = none ∧
    (∀ n ∈ [2 ^ 46 - 1, 2 ^ 46], (2 ^ 46 ≤ (hubNow (hubAtStep n) + 2 ^ 64 - (hubAtStep n).units.windowAt) % 2 ^ 64 ↔ n = 2 ^ 46)) := by decide +kernel

/-- An open deal of number 4, and the word of a serving shoe in the sheet area. -/
def deal4 : Deal := { seq := 4, slots := [], epoch := 0, opened := stampNow plain, ante := 0, held := 0, live := [], measured := 0, est := 0 }
def dealFour (word : Nat) : State :=
  let s := withSheet (world [(0xA020200, natLe 8 word)])
  { s with dealer := { s.dealer with cur := some deal4, serve := [(1, 0)] } }
/-- A request of context 0, whose model has a LIVE copy. -/
def requested : State :=
  let s := putModel plain 0 { modelOf plain 0 with live := some ⟨3, [], []⟩ }
  { s with dealer := { s.dealer with requests := [(0, ⟨1, false, 1, 1⟩)] } }

/-- The CLOSE word at and below the deal's number; a deal wanted and not. -/
theorem test_deals :
    closeDue (dealFour 4) deal4 = true ∧ closeDue (dealFour 3) deal4 = false ∧ (dealFour 4).dealer.cur = some deal4 ∧ plain.dealer.cur = none ∧
    dealWanted plain = false ∧ dealWanted requested = true ∧ requested.dealer.cur = none := by decide +kernel

/-- A batch with one record, at the hub step at which it expires and one before. -/
def batched (now : Nat) : State :=
  let b : Batch := { plain.kitty.cur with overflow := 1, records := [⟨5, 0, 0, 0, 0, 1, 1#64, 0#32, false, 1, 0, 0⟩] }
  { plain with kitty := { plain.kitty with steps := 16, cur := b }, steps := { plain.steps with narrow := now } }

/-- Board 2 in a state. -/
def board2 (closed resolved : Bool) : State :=
  { plain with boards := { plain.boards with tab := [(2, ⟨4, 0, 0, closed, resolved, [], [], []⟩)] } }
/-- Model 0 has slot 3 as its RETIRING copy; command 7 holds a copy or none. -/
def retiring (live : Option (List (Option Nat))) : State :=
  putModel (setFlights plain [{ busy with live := live }]) 0 { modelOf plain 0 with retiring := some ⟨3, [], []⟩ }

theorem test_batches_boards_copies_and_budget :
    kittyDue (batched 16) = true ∧ kittyDue (batched 15) = false ∧ kittyDue plain = false ∧
    (∀ b ∈ [(true, false), (false, false), (true, true)], (tabFind (board2 b.1 b.2).boards.tab 2).map (fun x => (x.closed, x.resolved)) = some b) ∧
    (board2 true false).flights.list = [] ∧
    (∀ l ∈ [some [some 3], some [none], none], ((modelOf (retiring l) 0).retiring.map (·.slot)) = some 3 ∧
      (copyHeld (retiring l) 0 3 = true ↔ l = some [some 3])) ∧
    (2 ^ 32 ≤ (hubNow { plain with steps := { plain.steps with narrow := 2 ^ 32 } } + 2 ^ 64 - plain.keys.hssRegainAt) % 2 ^ 64) ∧
    (hubNow plain + 2 ^ 64 - plain.keys.hssRegainAt) % 2 ^ 64 < 2 ^ 32 := by decide +kernel

/-- A started command of engine 0 that reads and writes page 3; and the engine's first level with its leaf. -/
def translating : State := flying [] { flightIn (cmdOf 0x1001 128) .running (.engine 0) with pages := [3], wrote := [3] }
def translated : State := { translating with trans := { translating.trans with level1 := [(0, [⟨5, 0, 1, 13, false⟩])] } }

theorem test_walks : misses translated (.engine 0) 5 0x33000 = false ∧
    (∃ f, flightOf translating 7 = some f ∧ isStarted f = true ∧
      (∀ write : Bool, 0x33000 / 65536 ∈ (if write then f.wrote else f.pages) ∧ 0x43000 / 65536 ∉ (if write then f.wrote else f.pages)) ∧
      misses translating f.place f.cmd.asid 0x33000 = true ∧
      (walkDie translating f.place).isSome = true ∧
      (match walkTables translating f.place f.cmd.asid 0x33000 false with
       | .ok (.leaf e _) => accessReason e (f.cls == 0) true == none
       | _ => false) = true) := ⟨by decide +kernel, _, rfl, by decide +kernel⟩

/-- A poisoned unit that lies in no frame, and one in chunk 0 of slot 3, whose frame model 2 has placed. -/
def spoiled (pa : Nat) : State :=
  let s := slot3 .ready (next3 none plain)
  { s with memories := { s.memories with poison := [unitOf pa] } }

theorem test_repairs :
    isPoisoned plain (unitOf 0x1000040) = false ∧ isPoisoned (spoiled 0x40000) (unitOf 0x40000) = true ∧ frameOwner (spoiled 0x40000) (unitOf 0x40000) = none ∧
    isPoisoned (spoiled 0x1000040) (unitOf 0x1000040) = true ∧
    (frameOwner (spoiled 0x1000040) (unitOf 0x1000040)).map (fun x => (x.1, x.2.2.1, x.2.2.2.slot)) = some (2, 0, 3) ∧
    (vaultSlot (spoiled 0x1000040) 3).state = .ready ∧ 0 < (vaultSlot (spoiled 0x1000040) 3).chunks ∧ vaultAsleep (spoiled 0x1000040) = false := by
  decide +kernel
end Sys2Proof.Tests
end

section
/-!
SUPPORT. The statements of 01_six_levels.md: what every step keeps of the vault's records, mailbox reads, the steps of a start, the Binik ports,
the state after reset, hub commands, and the input, rails, plugs and host links.
-/

namespace Sys2Proof.SixLevels

open Sys2Proof.Machine Sys2Proof.Laws

/-! ## What every step keeps -/

/-- Whatever command runs, its next state keeps what `Kept` says: each row has its own lemma in Laws/Kept*.lean. -/
theorem kept_exec {e s : State} (c : Instr) (h : Kept e s) : OutcomeKept e (exec c s) := by
  cases c with
  | knUnitsGet st => exact kept_execKnUnitsGet st s h
  | mmMul st => exact kept_execMmMul st s h
  | mmMulList st => exact kept_execMmMulList st s h
  | vxRun st => exact kept_execVxRun st s h
  | vxEnd st => exact kept_execVxEnd st s h
  | vxSetvl st => exact kept_execVxSetvl st s h
  | vxXli st => exact kept_execVxXli st s h
  | vxXadd st => exact kept_execVxXadd st s h
  | vxXsub st => exact kept_execVxXsub st s h
  | vxBnz st => exact kept_execVxBnz st s h
  | vxLd st => exact kept_execVxLd st s h
  | vxLdb st => exact kept_execVxLdb st s h
  | vxSt st => exact kept_execVxSt st s h
  | vxAdd st => exact kept_execVxAdd st s h
  | vxSub st => exact kept_execVxSub st s h
  | vxMul st => exact kept_execVxMul st s h
  | vxFma st => exact kept_execVxFma st s h
  | vxMin st => exact kept_execVxMin st s h
  | vxMax st => exact kept_execVxMax st s h
  | vxDiv st => exact kept_execVxDiv st s h
  | vxSqrt st => exact kept_execVxSqrt st s h
  | vxAbs st => exact kept_execVxAbs st s h
  | vxNeg st => exact kept_execVxNeg st s h
  | vxMov st => exact kept_execVxMov st s h
  | vxCmplt st => exact kept_execVxCmplt st s h
  | vxCmple st => exact kept_execVxCmple st s h
  | vxCmpeq st => exact kept_execVxCmpeq st s h
  | vxKand st => exact kept_execVxKand st s h
  | vxKor st => exact kept_execVxKor st s h
  | vxKnot st => exact kept_execVxKnot st s h
  | vxCvt st => exact kept_execVxCvt st s h
  | vxRedsum st => exact kept_execVxRedsum st s h
  | vxRedmax st => exact kept_execVxRedmax st s h
  | vxFn st => exact kept_execVxFn st s h
  | vxDfn st => exact kept_execVxDfn st s h
  | mvCopy st => exact kept_execMvCopy st s h
  | mvFill st => exact kept_execMvFill st s h
  | moverStagingGranted st => exact kept_execMoverStagingGranted st s h
  | moverEngineWriteOut cid => exact kept_execMoverEngineWriteOut cid s h
  | knCstoreAssign st => exact kept_execKnCstoreAssign st s h
  | knSpillPoolAdd st => exact kept_execKnSpillPoolAdd st s h
  | knSpillPoolWithdraw st => exact kept_execKnSpillPoolWithdraw st s h
  | stackTemperatureCrossing stack reading => exact kept_execStackTemperatureCrossing stack reading s h
  | stagedWeightRepair pa errs => exact kept_execStagedWeightRepair pa errs s h
  | farLinkDown port => exact kept_execFarLinkDown port s h
  | farLinkTrained port offers => exact kept_execFarLinkTrained port offers s h
  | knVaultProvOpen st => exact kept_execKnVaultProvOpen st s h
  | knVaultProvWrite st => exact kept_execKnVaultProvWrite st s h
  | knVaultProvClose st => exact kept_execKnVaultProvClose st s h
  | knVaultProvAbort st => exact kept_execKnVaultProvAbort st s h
  | knVaultProvFree st => exact kept_execKnVaultProvFree st s h
  | knWeightPlaceSlot st => exact kept_execKnWeightPlaceSlot st s h
  | knWeightPlaceBuffer st => exact kept_execKnWeightPlaceBuffer st s h
  | knWeightPlaceDrop st => exact kept_execKnWeightPlaceDrop st s h
  | knModelCutBind st => exact kept_execKnModelCutBind st s h
  | knModelCutArm st => exact kept_execKnModelCutArm st s h
  | knModelCutDisarm st => exact kept_execKnModelCutDisarm st s h
  | knModelCutUnbind st => exact kept_execKnModelCutUnbind st s h
  | retiringCopyRelease model => exact kept_execRetiringCopyRelease model s h
  | knAsSetCreate st => exact kept_execKnAsSetCreate st s h
  | knAsSetSetRoot st => exact kept_execKnAsSetSetRoot st s h
  | knAsSetSetPasid st => exact kept_execKnAsSetSetPasid st s h
  | knAsSetDestroy st => exact kept_execKnAsSetDestroy st s h
  | knTlbInvalRange st => exact kept_execKnTlbInvalRange st s h
  | knTlbInvalAsid st => exact kept_execKnTlbInvalAsid st s h
  | knTlbInvalAll st => exact kept_execKnTlbInvalAll st s h
  | knTlbPin st => exact kept_execKnTlbPin st s h
  | knTlbUnpin st => exact kept_execKnTlbUnpin st s h
  | translationWalk cid va write errs => exact kept_execTranslationWalk cid va write errs s h
  | kittyStepsExpiry => exact kept_execKittyStepsExpiry s h
  | hostDoorbell port shoe writes => exact kept_execHostDoorbell port shoe writes s h
  | shoeFetch errs => exact kept_execShoeFetch errs s h
  | knShoeCreate st => exact kept_execKnShoeCreate st s h
  | knShoeDestroy st => exact kept_execKnShoeDestroy st s h
  | knShoeSet st => exact kept_execKnShoeSet st s h
  | knShoeQuery st => exact kept_execKnShoeQuery st s h
  | sySignal st => exact kept_execSySignal st s h
  | syWait st => exact kept_execSyWait st s h
  | syWaitSatisfied cid => exact kept_execSyWaitSatisfied cid s h
  | syWaitTimeout cid => exact kept_execSyWaitTimeout cid s h
  | commandPlacement => exact kept_execCommandPlacement s h
  | nextCommandNamed engine => exact kept_execNextCommandNamed engine s h
  | writeOutEnd st => exact kept_execWriteOutEnd st s h
  | drainComplete cid => exact kept_execDrainComplete cid s h
  | knDealerSetConfig st => exact kept_execKnDealerSetConfig st s h
  | knDealerSetAnte st => exact kept_execKnDealerSetAnte st s h
  | knDealerSetServeBind st => exact kept_execKnDealerSetServeBind st s h
  | knDealerSetServeUnbind st => exact kept_execKnDealerSetServeUnbind st s h
  | knDealerSetRequest st => exact kept_execKnDealerSetRequest st s h
  | knDealerSetAdvance st => exact kept_execKnDealerSetAdvance st s h
  | dealBoundary errs => exact kept_execDealBoundary errs s h
  | dealOpen errs => exact kept_execDealOpen errs s h
  | knContextSetup st => exact kept_execKnContextSetup st s h
  | knContextModel st => exact kept_execKnContextModel st s h
  | knContextRegister st => exact kept_execKnContextRegister st s h
  | knContextRelease st => exact kept_execKnContextRelease st s h
  | knContextTrim st => exact kept_execKnContextTrim st s h
  | knContextGrant st => exact kept_execKnContextGrant st s h
  | knContextRing st => exact kept_execKnContextRing st s h
  | knContextQuery st => exact kept_execKnContextQuery st s h
  | atAppend st => exact kept_execAtAppend st s h
  | atAttend st => exact kept_execAtAttend st s h
  | atAdvance st => exact kept_execAtAdvance st s h
  | atRing st => exact kept_execAtRing st s h
  | atCombine st => exact kept_execAtCombine st s h
  | atRingSend st => exact kept_execAtRingSend st s h
  | spOpen st => exact kept_execSpOpen st s h
  | spVerify st => exact kept_execSpVerify st s h
  | exRoute st => exact kept_execExRoute st s h
  | exSettle st => exact kept_execExSettle st s h
  | routingBoardResolved board => exact kept_execRoutingBoardResolved board s h
  | exGather st => exact kept_execExGather st s h
  | exCombine st => exact kept_execExCombine st s h
  | bwAdapterCreate st => exact kept_execBwAdapterCreate st s h
  | bwAdapterDestroy st => exact kept_execBwAdapterDestroy st s h
  | bwAdapterQuery st => exact kept_execBwAdapterQuery st s h
  | bwMul st => exact kept_execBwMul st s h
  | bwNorm st => exact kept_execBwNorm st s h
  | bwSoftmax st => exact kept_execBwSoftmax st s h
  | knKeyBindReserve st => exact kept_execKnKeyBindReserve st s h
  | knKeyBindLink st => exact kept_execKnKeyBindLink st s h
  | knKeyBindDestroy st => exact kept_execKnKeyBindDestroy st s h
  | knKeyBindQuery st => exact kept_execKnKeyBindQuery st s h
  | hssBudgetRegain => exact kept_execHssBudgetRegain s h
  | ptmExchange => exact kept_execPtmExchange s h
  | ptmResponse port time good => exact kept_execPtmResponse port time good s h
  | mbHello rq => exact kept_execMbHello rq s h
  | mbNonce rq => exact kept_execMbNonce rq s h
  | mbOwnerClaim rq => exact kept_execMbOwnerClaim rq s h
  | mbOwnerTake rq => exact kept_execMbOwnerTake rq s h
  | mbOwnerTransfer rq => exact kept_execMbOwnerTransfer rq s h
  | mbOwnerMode rq => exact kept_execMbOwnerMode rq s h
  | mbCertGet rq => exact kept_execMbCertGet rq s h
  | mbAttest rq => exact kept_execMbAttest rq s h
  | mbAttestSession rq => exact kept_execMbAttestSession rq s h
  | mbUnitsGet rq => exact kept_execMbUnitsGet rq s h
  | mbRetireAck rq => exact kept_execMbRetireAck rq s h
  | mbEventConfig rq => exact kept_execMbEventConfig rq s h
  | mbShoeInit rq => exact kept_execMbShoeInit rq s h
  | mbKittyConfig rq => exact kept_execMbKittyConfig rq s h
  | mbKittyCollect rq => exact kept_execMbKittyCollect rq s h
  | mbKittyRelease rq => exact kept_execMbKittyRelease rq s h
  | mbFarList rq => exact kept_execMbFarList rq s h
  | mbFarMap rq => exact kept_execMbFarMap rq s h
  | mbVaultList rq => exact kept_execMbVaultList rq s h
  | mbPtmConfig rq => exact kept_execMbPtmConfig rq s h
  | mbFwStage rq => exact kept_execMbFwStage rq s h
  | mbFwStatus rq => exact kept_execMbFwStatus rq s h
  | mbFwDiscard rq => exact kept_execMbFwDiscard rq s h
  | mbReset rq => exact kept_execMbReset rq s h
  | mbDebugChallenge rq => exact kept_execMbDebugChallenge rq s h
  | mbDebugUnlock rq => exact kept_execMbDebugUnlock rq s h
  | mbDebugPeek rq => exact kept_execMbDebugPeek rq s h
  | mbDebugPoke rq => exact kept_execMbDebugPoke rq s h
  | registerWrite port offset value => exact kept_execRegisterWrite port offset value s h
  | mbPwrLevel rq => exact kept_execMbPwrLevel rq s h
  | mbPwrGate rq => exact kept_execMbPwrGate rq s h
  | mbPwrUngate rq => exact kept_execMbPwrUngate rq s h
  | mbPwrStackActive rq => exact kept_execMbPwrStackActive rq s h
  | mbPwrStackSelfRefresh rq => exact kept_execMbPwrStackSelfRefresh rq s h
  | mbPwrVaultActive rq => exact kept_execMbPwrVaultActive rq s h
  | mbPwrVaultStandby rq => exact kept_execMbPwrVaultStandby rq s h
  | mbPwrLanes rq => exact kept_execMbPwrLanes rq s h
  | mbPwrPortUp rq => exact kept_execMbPwrPortUp rq s h
  | mbPwrPortDown rq => exact kept_execMbPwrPortDown rq s h
  | mbPwrCap rq => exact kept_execMbPwrCap rq s h
  | mbTelemRead rq => exact kept_execMbTelemRead rq s h
  | powerTransitionSettled kind index => exact kept_execPowerTransitionSettled kind index s h
  | telemetryWindow rd => exact kept_execTelemetryWindow rd s h
  | thermalWarn sensor index reading => exact kept_execThermalWarn sensor index reading s h
  | protectiveStop sensor index reading => exact kept_execProtectiveStop sensor index reading s h
  | inServiceTest kind index => exact kept_execInServiceTest kind index s h
  | inServiceTestEnd kind index passed => exact kept_execInServiceTestEnd kind index passed s h
  | killAckTimeout kind index => exact kept_execKillAckTimeout kind index s h
  | channelNoAnswer channel => exact kept_execChannelNoAnswer channel s h
  | retirementWindowEnd => exact kept_execRetirementWindowEnd s h
  | eventWindowEnd => exact kept_execEventWindowEnd s h
  | powerOn => exact kept_execPowerOn s h
  | startStepEnd rp => exact kept_execStartStepEnd rp s h
  | resetNAssert => exact kept_execResetNAssert s h
  | resetNRelease => exact kept_execResetNRelease s h
  | pcieFundamentalReset port => exact kept_execPcieFundamentalReset port s h
  | pcieHotReset port => exact kept_execPcieHotReset port s h
  | functionLevelReset port => exact kept_execFunctionLevelReset port s h
  | inputDropout => exact kept_execInputDropout s h
  | rideThrough => exact kept_execRideThrough s h
  | rideThroughExpiry => exact kept_execRideThroughExpiry s h
  | inputReturn => exact kept_execInputReturn s h
  | converterTrip rail => exact kept_execConverterTrip rail s h
  | osfpPlugInsert port watts => exact kept_execOsfpPlugInsert port watts s h
  | portTrained port lanes lowVer highVer record => exact kept_execPortTrained port lanes lowVer highVer record s h
  | binikPortDown port reason lane => exact kept_execBinikPortDown port reason lane s h
  | replay port lane gaveUp => exact kept_execReplay port lane gaveUp s h
  | peerWrite m => exact kept_execPeerWrite m s h
  | peerReadRequest m => exact kept_execPeerReadRequest m s h
  | readData m => exact kept_execReadData m s h
  | signal m => exact kept_execSignal m s h
  | ringBlock m => exact kept_execRingBlock m s h
  | refusal m => exact kept_execRefusal m s h
  | domainRecord m => exact kept_execDomainRecord m s h
  | proposal m => exact kept_execProposal m s h
  | arrival m => exact kept_execArrival m s h
  | barrierStall => exact kept_execBarrierStall s h
  | rdmaWrite qp => exact kept_execRdmaWrite qp s h
  | rdmaWriteWithImmediate qp => exact kept_execRdmaWriteWithImmediate qp s h
  | rdmaRead qp => exact kept_execRdmaRead qp s h
  | rdmaResponse qp answer => exact kept_execRdmaResponse qp answer s h
  | rdmaRetryExpiry qp => exact kept_execRdmaRetryExpiry qp s h
  | incomingRdmaWrite p => exact kept_execIncomingRdmaWrite p s h
  | incomingWriteWithImmediate p => exact kept_execIncomingWriteWithImmediate p s h
  | incomingRdmaRead p => exact kept_execIncomingRdmaRead p s h
  | congestionNotification qp => exact kept_execCongestionNotification qp s h
  | priorityFlowControl port classes pause => exact kept_execPriorityFlowControl port classes pause s h
  | arp port senderIp targetIp senderMac => exact kept_execArp port senderIp targetIp senderMac s h
  | neighbourDiscovery port senderIp targetIp senderMac => exact kept_execNeighbourDiscovery port senderIp targetIp senderMac s h
  | icmpEcho port v6 senderIp targetIp data => exact kept_execIcmpEcho port v6 senderIp targetIp data s h
  | ethernetLinkLost port => exact kept_execEthernetLinkLost port s h
  | i3cSetdasa static dynamic => exact kept_execI3cSetdasa static dynamic s h
  | i3cEntdaa dynamic => exact kept_execI3cEntdaa dynamic s h
  | i3cGetstatus => exact kept_execI3cGetstatus s h
  | i3cGetpid => exact kept_execI3cGetpid s h
  | i3cEventEnable => exact kept_execI3cEventEnable s h
  | i3cEventDisable => exact kept_execI3cEventDisable s h
  | startRead rq => exact kept_execStartRead rq s h
  | stopRead rq => exact kept_execStopRead rq s h
  | tempRead rq => exact kept_execTempRead rq s h
  | powerRead rq => exact kept_execPowerRead rq s h
  | statusRead rq => exact kept_execStatusRead rq s h
  | installStage rq => exact kept_execInstallStage rq s h
  | installCommit rq => exact kept_execInstallCommit rq s h
  | installRead rq => exact kept_execInstallRead rq s h
  | membersSet rq => exact kept_execMembersSet rq s h
  | expectSet rq => exact kept_execExpectSet rq s h
  | routeSet rq => exact kept_execRouteSet rq s h
  | epochPropose rq => exact kept_execEpochPropose rq s h
  | linkRead rq => exact kept_execLinkRead rq s h
  | netPortSet rq => exact kept_execNetPortSet rq s h
  | qpSet rq => exact kept_execQpSet rq s h
  | qpDestroy rq => exact kept_execQpDestroy rq s h
  | mrSet rq => exact kept_execMrSet rq s h
  | mrDestroy rq => exact kept_execMrDestroy rq s h
  | commitPoint cid => exact kept_execCommitPoint cid s h
  | peerAcknowledgement port msgId => exact kept_execPeerAcknowledgement port msgId s h
  | channelCopyDone stack => exact kept_execChannelCopyDone stack s h
  | ethernetLinkUp port => exact kept_execEthernetLinkUp port s h
  | hostLinkDown port => exact kept_execHostLinkDown port s h
  | hostLinkUp port => exact kept_execHostLinkUp port s h
  | ptmEnable port on => exact kept_execPtmEnable port on s h
  | getVersion port body => exact kept_execGetVersion port body s h
  | getCapabilities port body => exact kept_execGetCapabilities port body s h
  | negotiateAlgorithms port body => exact kept_execNegotiateAlgorithms port body s h
  | getDigests port body => exact kept_execGetDigests port body s h
  | getCertificate port body => exact kept_execGetCertificate port body s h
  | challenge port body => exact kept_execChallenge port body s h
  | getMeasurements port body => exact kept_execGetMeasurements port body s h

/-- A step keeps what `Kept` says, but for the command that it takes from the queue. -/
theorem kept_step {s t : State} (h : step s = .next t) : Kept { s with pending := s.pending.tail } t := by
  unfold step at h
  split at h
  · next empty =>
    cases h
    have same : { s with pending := s.pending.tail } = s := by rw [empty, List.tail_nil, ← empty]
    rw [same]
    exact kept_advanceAll s (Kept.refl s)
  · next c rest front =>
    rw [front, List.tail_cons]
    exact kept_exec c (Kept.refl { s with pending := rest }) t h

/-- Settles O7: a step keeps the vault's records, and with them the recorded retirements and the count of fatal stops. -/
theorem retirementsAndStopsAreNeverForgotten : Obligations.RetirementsAndStopsAreNeverForgotten := by
  intro s t h
  have kept : VaultKept s.vault t.vault := (kept_step h).vault
  exact ⟨kept.retired, kept.stops⟩

/-! ## Mailbox exchanges that only read -/

/-- Two states differ in the mailbox state and the output at most, and no device reset is due in the second that was not in the first. -/
structure MailboxOnly (s t : State) : Prop where
  rest     : { t with heldun := s.heldun, out := s.out } = s
  resetDue : t.heldun.resetDue = s.heldun.resetDue

theorem MailboxOnly.refl (s : State) : MailboxOnly s s := ⟨rfl, rfl⟩

theorem MailboxOnly.setMbox {s t : State} (p : Nat) (m : Mbox) (h : MailboxOnly s t) : MailboxOnly s (setMbox t p m) := by
  unfold Machine.setMbox
  split <;> exact ⟨h.rest, h.resetDue⟩

theorem MailboxOnly.send {s t : State} (o : Out) (h : MailboxOnly s t) : MailboxOnly s (send t o) := ⟨h.rest, h.resetDue⟩

theorem MailboxOnly.respond {s t : State} (p txn : Nat) (bs : List Byte) (h : MailboxOnly s t) : MailboxOnly s (respond t p txn bs) :=
  (h.setMbox _ _).send _

theorem MailboxOnly.cacheReply {s t : State} (p code : Nat) (rq : MbReq) (dg bs : List Byte) (h : MailboxOnly s t) :
    MailboxOnly s (cacheReply t p code rq dg bs) := by
  unfold Machine.cacheReply
  split
  · exact h
  · exact h.setMbox _ _

/-- The end of a request touches only the mailbox while no device reset is due. -/
theorem MailboxOnly.endRequest {s t : State} (code : Nat) (rq : MbReq) (result detail : Nat) (payload : List Byte)
    (h : MailboxOnly s t) (hr : s.heldun.resetDue = false) : MailboxOnly s (endRequest t code rq result detail payload) := by
  have answered := fun dg bs =>
    ((h.setMbox rq.port { mboxOf t rq.port with busy := false }).cacheReply rq.port code rq dg bs).respond rq.port rq.txn bs
  unfold Machine.endRequest
  dsimp only
  rw [(answered _ _).resetDue, hr]
  exact answered _ _

/-- A command that only reads: what it executes leaves the state, commands no reset and waits for no peer. -/
def ReadsOnly (sp : MbSpec) : Prop := ∀ s port p d, sp.run s port p = some d → d.state = s ∧ d.reset = false ∧ d.begun = none

/-- An execution that is done or refused at once leaves the state. -/
theorem keeps_of_done {s : State} {payload : List Byte} {d : MbDone} (h : done s payload = some d) :
    d.state = s ∧ d.reset = false ∧ d.begun = none := by
  cases h; exact ⟨rfl, rfl, rfl⟩

theorem keeps_of_refuse_or_done {s : State} {c : Prop} [Decidable c] {result detail : Nat} {payload : List Byte} {d : MbDone}
    (h : (if c then refuse s result detail else done s payload) = some d) : d.state = s ∧ d.reset = false ∧ d.begun = none := by
  split at h <;> cases h <;> exact ⟨rfl, rfl, rfl⟩

theorem readsOnly_certSpec : ReadsOnly certSpec := fun _ _ _ _ h => keeps_of_refuse_or_done h

theorem readsOnly_vaultListSpec : ReadsOnly vaultListSpec := by
  intro s port p d h
  simp only [vaultListSpec, vaultListRun] at h
  split at h <;> exact keeps_of_refuse_or_done h

theorem readsOnly_unitsSpec : ReadsOnly unitsSpec := fun _ _ _ _ h => keeps_of_done h
theorem readsOnly_farListSpec : ReadsOnly farListSpec := fun _ _ _ _ h => keeps_of_done h
theorem readsOnly_fwStatusSpec : ReadsOnly fwStatusSpec := fun _ _ _ _ h => keeps_of_done h
theorem readsOnly_telemSpec : ReadsOnly telemSpec := fun _ _ _ _ h => keeps_of_done h

/-- Served or refused, a request that only reads touches the mailbox alone. -/
theorem mailboxOnly_serveNew {sp : MbSpec} (hsp : ReadsOnly sp) (s : State) (rq : MbReq) (p : List Byte) (hr : s.heldun.resetDue = false) :
    MailboxOnly s (serveNew sp s rq p) := by
  unfold serveNew
  split
  · exact (MailboxOnly.refl s).endRequest _ _ _ _ _ hr
  · split
    · exact MailboxOnly.refl s
    · next d hd =>
      obtain ⟨hstate, hreset, hbegun⟩ := hsp _ _ _ _ hd
      simp only [hstate, hreset, hbegun, Bool.not_false, if_true]
      split
      · exact MailboxOnly.refl s
      · exact (MailboxOnly.refl s).endRequest _ _ _ _ _ hr

/-- The whole exchange of a command that only reads touches the mailbox alone, whichever step of R446 answers it. -/
theorem mailboxOnly_mbOp {sp : MbSpec} (hsp : ReadsOnly sp) (rq : MbReq) (s : State) (hr : s.heldun.resetDue = false) :
    MailboxOnly s (mbOp sp rq s) := by
  have h := MailboxOnly.refl s
  unfold mbOp
  dsimp only
  split
  · exact h
  split
  · exact h.setMbox _ _
  split
  · exact h.respond _ _ _
  split
  · exact h.respond _ _ _
  split
  · exact h.respond _ _ _
  split
  · split <;> exact h.respond _ _ _
  · exact mailboxOnly_serveNew hsp _ _ _ hr

/-- A request that reaches the Heldun idle, in form and with a TXN of its own is served anew. -/
theorem mbOp_of_fresh {s : State} {r : Slice0.MbRow} {rq : MbReq} (h : Slice0.Fresh s r rq) :
    mbOp r.spec rq s = serveNew r.spec s rq (Slice0.payloadOf rq) := by
  have unseen : (if rq.txn = 0 then none else (mboxOf s rq.port).cache.find? fun e => e.txn == rq.txn) = none := by
    rcases h.fresh with h0 | hne
    · simp [h0]
    · split
      · rfl
      · exact List.find?_eq_none.2 fun e he => by simpa using hne e he
  have negotiated : ¬ ((mboxOf s rq.port).major = none ∧ r.spec.code ≠ cmdHello) := by
    rintro ⟨hnone, hcode⟩
    rcases h.hello with hm | hm
    · simp [hnone] at hm
    · exact hcode hm
  have mine := h.mine
  unfold Slice0.payloadOf at mine ⊢
  simp only [mbOp, h.served, h.live, mine, Nat.not_le.2 h.port, h.idle, h.rsv, Nat.not_lt.2 h.length, mbLimit, unseen, Bool.not_true,
    decide_false, Bool.or_self, Bool.false_eq_true, if_false, ne_eq, not_true, Option.isNone_iff_eq_none, Bool.and_eq_true, decide_eq_true_eq]
  rw [if_neg negotiated]

/-- The end of a request is the answer that the statements name. -/
theorem endRequest_eq_replied (t : State) (r : Slice0.MbRow) (rq : MbReq) (result detail : Nat) (payload : List Byte) :
    endRequest t r.spec.code rq result detail payload = Slice0.replied t r rq result detail payload := rfl

/-- A fresh request that passes its checks and is done without change is answered with its payload. -/
theorem mbOp_of_done {s : State} {r : Slice0.MbRow} {rq : MbReq} {payload : List Byte} (h : Slice0.Fresh s r rq)
    (hc : mbChecks r.spec s rq (Slice0.payloadOf rq) = none) (hrun : r.spec.run s rq.port (Slice0.payloadOf rq) = done s payload) :
    mbOp r.spec rq s = Slice0.replied s r rq 0 0 payload := by
  rw [mbOp_of_fresh h]
  simp [serveNew, hc, hrun, done, h.served, endRequest_eq_replied, mrOk]

/-- Settles O40: the six reads execute nothing, and three of them answer their records. -/
theorem mailboxReadsChangeNothingElse : Obligations.MailboxReadsChangeNothingElse := by
  have reads : ∀ r : Slice0.MbRow, ReadsOnly r.spec → (∀ rq s, exec (r.row rq) s = .next (mbOp r.spec rq s)) →
      ∀ (s : State) (rq : MbReq), s.heldun.resetDue = false →
        ∃ t, exec (r.row rq) s = .next t ∧ { t with heldun := s.heldun, out := s.out } = s :=
    fun r hr hexec s rq h => ⟨_, hexec rq s, (mailboxOnly_mbOp hr rq s h).rest⟩
  refine ⟨List.forall_iff_forall_mem.1
    ⟨reads ⟨.mbCertGet, certSpec⟩ readsOnly_certSpec fun _ _ => rfl, reads ⟨.mbUnitsGet, unitsSpec⟩ readsOnly_unitsSpec fun _ _ => rfl,
      reads ⟨.mbFarList, farListSpec⟩ readsOnly_farListSpec fun _ _ => rfl,
      reads ⟨.mbVaultList, vaultListSpec⟩ readsOnly_vaultListSpec fun _ _ => rfl,
      reads ⟨.mbFwStatus, fwStatusSpec⟩ readsOnly_fwStatusSpec fun _ _ => rfl,
      reads ⟨.mbTelemRead, telemSpec⟩ readsOnly_telemSpec fun _ _ => rfl⟩, fun s rq => ⟨?units, ?far, ?telemetry⟩⟩
  case units => exact fun h hc => congrArg Host.Outcome.next (mbOp_of_done h hc rfl)
  case far =>
    intro h hc
    refine congrArg Host.Outcome.next (mbOp_of_done h hc (congrArg (done s) ?_))
    simp [List.range_succ]
  case telemetry => exact fun h hc => congrArg Host.Outcome.next (mbOp_of_done h hc rfl)

/-! ## The alert and a start that stops (R534, R543) -/

@[simp] theorem raiseAlert_boot (s : State) (b : Nat) : (raiseAlert s b).boot = s.boot := by
  unfold raiseAlert; split <;> rfl
@[simp] theorem raiseAlert_heldun (s : State) (b : Nat) : (raiseAlert s b).heldun = s.heldun := by
  unfold raiseAlert; split <;> rfl
@[simp] theorem raiseAlert_alertLow (s : State) (b : Nat) : (raiseAlert s b).module.alertLow = true := by
  unfold raiseAlert; split <;> rfl

/-- A start that stops shows its cause, drives ALERT_N low, and does not begin to serve. -/
theorem failStart_shows (s : State) (c d : Nat) (h : serving s = false) :
    (failStart s c d).boot.failed = true ∧ (failStart s c d).boot.cause = c ∧ (failStart s c d).boot.detail = d ∧
      serving (failStart s c d) = false ∧ (failStart s c d).module.alertLow = true := by
  unfold serving at h ⊢
  unfold failStart
  by_cases early : s.boot.step < 3
  · simpa [early] using h
  · simp [early]

/-! ## The steps of a start (R529) -/

/-- A report whose cause may stop the step stops the start. -/
theorem startStepEndOp_stops {s : State} {rp : StepReport} (hs : starting s = true) (hr : s.module.resetLow = false)
    (hc : causeAt s.boot.step rp.cause = true) : startStepEndOp rp s = failStart s rp.cause rp.detail := by
  simp [startStepEndOp, hs, hr, hc]

section
variable {s : State} {rp : StepReport} (hs : starting s = true) (hr : s.module.resetLow = false)
  (hc : causeAt s.boot.step rp.cause = false)
include hs hr hc

/-- Steps 1, 3, 4 and 5 are followed by the next step, whatever they do. -/
theorem startStepEndOp_advances (hk : s.boot.step = 1 ∨ s.boot.step = 3 ∨ s.boot.step = 4 ∨ s.boot.step = 5) :
    (startStepEndOp rp s).boot.step = s.boot.step + 1 := by
  rcases hk with k | k | k | k <;> rw [k] at hc <;> simp [startStepEndOp, hs, hr, hc, k]

/-- Step 2 goes on with the bank that the ROM chose after the peg rows are read (R461). -/
theorem startStepEndOp_bank (hk : s.boot.step = 2) {t : State}
    (hb : chooseBank (readPegs { s with boot := { s.boot with atStart := s.vault.stopRec } }) rp.bankBad = .ok t) :
    startStepEndOp rp s = { t with boot := { t.boot with step := 3 } } := by
  rw [hk] at hc
  simp only [hk] at hb
  simp [startStepEndOp, hs, hr, hc, hk, hb]

/-- Where no bank starts, step 2 stops with cause 3 and the banks that failed. -/
theorem startStepEndOp_noBank (hk : s.boot.step = 2) {failed : Nat}
    (hb : chooseBank (readPegs { s with boot := { s.boot with atStart := s.vault.stopRec } }) rp.bankBad = .error failed) :
    startStepEndOp rp s = failStart (readPegs { s with boot := { s.boot with atStart := s.vault.stopRec } }) 3 failed := by
  rw [hk] at hc
  simp only [hk] at hb
  simp [startStepEndOp, hs, hr, hc, hk, hb]

/-- Step 6 makes the checks of R20 and R23. -/
theorem startStepEndOp_six (hk : s.boot.step = 6) : startStepEndOp rp s = stepSix s := by
  rw [hk] at hc
  simp [startStepEndOp, hs, hr, hc, hk]

end

/-- With an engine, a channel and a walker present, step 6 sets READY 1 with MAP_SEQ 0 and clears the stop record. -/
theorem stepSix_ready {s : State} (he : s.units.map.engines ≠ 0#64) (hch : s.units.map.channels ≠ 0#256)
    (hw : s.units.map.walkers ≠ 0#32) :
    serving (stepSix s) = true ∧ (stepSix s).boot.step = 7 ∧ (stepSix s).units.map.mapSeq = 0 ∧ (stepSix s).vault.stopRec = none ∧
      (stepSix s).memories = s.memories := by
  simp [stepSix, he, hch, hw, serving]

/-- Settles O47: one fact per step of Table 21-2, and the cause that a stopped start shows. -/
theorem startStepsRunInOrder : Obligations.StartStepsRunInOrder := by
  intro s rp hs hr
  have run : exec (.startStepEnd rp) s = .next (startStepEndOp rp s) := rfl
  rw [run]
  refine ⟨fun hc => by rw [startStepEndOp_stops hs hr hc], fun hc => ⟨?next, ?two, ?six⟩, fun c d => failStart_shows s c d⟩
  case next => exact fun hk => ⟨_, rfl, startStepEndOp_advances hs hr hc hk⟩
  case two =>
    exact fun hk => ⟨fun t hb => by rw [startStepEndOp_bank hs hr hc hk hb],
      fun failed hb => by rw [startStepEndOp_noBank hs hr hc hk hb]⟩
  case six =>
    intro hk
    rw [startStepEndOp_six hs hr hc hk]
    refine ⟨fun he => ?_, fun he hch => ?_, fun he hch hw => ?_, fun he hch hw => ⟨_, rfl, stepSix_ready he hch hw⟩⟩
    all_goals simp [stepSix, *]

/-! ## Binik ports (R468, R470, R475) -/

/-- An event leaves every port's record and TP_LIVE bit. -/
@[simp] theorem linkOf_linkEvent (s : State) (p reason detail q : Nat) : linkOf (linkEvent s p reason detail) q = linkOf s q := by
  unfold linkOf linkEvent
  rw [((EventOnly.refl s).raise _ _).domain]

@[simp] theorem tpLive_linkEvent (s : State) (p reason detail q : Nat) : tpLive (linkEvent s p reason detail) q = tpLive s q := by
  unfold tpLive linkEvent
  rw [((EventOnly.refl s).raise _ _).map]

@[simp] theorem linkEvent_memories (s : State) (p reason detail : Nat) : (linkEvent s p reason detail).memories = s.memories :=
  ((EventOnly.refl s).raise _ _).memories

/-- A port's record does not lie in the units-present map. -/
@[simp] theorem linkOf_setTpLive (s : State) (p : Nat) (b : Bool) (q : Nat) : linkOf (setTpLive s p b) q = linkOf s q := rfl

/-- A port that trains with records that agree is live, with its bit set; else it is in probation, with its bit clear. -/
theorem compareLink_trained {s : State} {p : Nat} (hp : p < 16) (h1 : (linkOf s p).state = 1) :
    (linkOf (compareLink s p) p).protocol = (linkOf s p).protocol ∧ (linkOf (compareLink s p) p).lanes = (linkOf s p).lanes ∧
      ((linkOf (compareLink s p) p).state = 2 ∨ (linkOf (compareLink s p) p).state = 1) ∧
      (tpLive (compareLink s p) p = true ↔ (linkOf (compareLink s p) p).state = 2) := by
  by_cases agree : failedChecks s p (linkOf s p).peer = 0
  · simp [compareLink, h1, agree, tpLive_setTpLive _ _ _ hp]
  · simp [compareLink, h1, agree, tpLive_setTpLive _ _ _ hp]

/-- At a device that knows its epoch, the record of a port's first peer is kept and compared: the port is live or in probation. -/
theorem takeRecord_trained {s : State} {p : Nat} (r : List Byte) (hp : p < 16) (hk : s.domain.barrier.known = true)
    (h1 : (linkOf s p).state = 1) :
    (linkOf (takeRecord s p r) p).protocol = (linkOf s p).protocol ∧ (linkOf (takeRecord s p r) p).lanes = (linkOf s p).lanes ∧
      ((linkOf (takeRecord s p r) p).state = 2 ∨ (linkOf (takeRecord s p r) p).state = 1) ∧
      (tpLive (takeRecord s p r) p = true ↔ (linkOf (takeRecord s p r) p).state = 2) ∧ (takeRecord s p r).memories = s.memories := by
  have compared : takeRecord s p r = compareLink (putLink s p { linkOf s p with peer := r }) p := by simp [takeRecord, hk]
  have kept := (compareLink_keeps s (putLink s p { linkOf s p with peer := r }) p ⟨rfl, rfl⟩).1
  have trained := compareLink_trained (s := putLink s p { linkOf s p with peer := r }) hp (by rw [linkOf_putLink_same]; exact h1)
  rw [linkOf_putLink_same] at trained
  obtain ⟨hprotocol, hlanes, hstate, hlive⟩ := trained
  rw [compared]
  exact ⟨hprotocol, hlanes, hstate, hlive, kept⟩

/-- No lane of a port that has had no peer is retired for not locking. -/
theorem retireUnlocked_new {s : State} {p : Nat} (locked : BitVec 4) (h : (linkOf s p).peer = []) : retireUnlocked s p locked = s := by
  simp [retireUnlocked, h]

/-- Sending a management message moves nothing of a port's record but its sequence number. -/
theorem linkOf_sendManagement (s : State) (p kind src epoch : Nat) (bs : List Byte) :
    linkOf (sendManagement s p kind src epoch bs) p =
      { linkOf s p with sendSeq := ((linkOf s p).sendSeq + framesOf bs.length) % 4096 } :=
  linkOf_putLink_same _ _ _

/-- A port has finished its training and has sent its record, and its peer's has not come. -/
def recordSent (s : State) (p v width : Nat) : State :=
  let t := putLink s p { freeLink with state := 1, protocol := v, lanes := width, peer := (linkOf s p).peer }
  sendManagement t p kindRecord (deviceId t) t.domain.barrier.epoch (domainRecord t p)

@[simp] theorem recordSent_memories (s : State) (p v width : Nat) : (recordSent s p v width).memories = s.memories := rfl
@[simp] theorem recordSent_barrier (s : State) (p v width : Nat) : (recordSent s p v width).domain.barrier = s.domain.barrier := rfl

theorem linkOf_recordSent (s : State) (p v width : Nat) :
    (linkOf (recordSent s p v width) p).state = 1 ∧ (linkOf (recordSent s p v width) p).protocol = v ∧
      (linkOf (recordSent s p v width) p).lanes = width := by
  unfold recordSent
  dsimp only
  rw [linkOf_sendManagement, linkOf_putLink_same]
  exact ⟨rfl, rfl, rfl⟩

section
variable {s : State} {port : Nat} {locked : BitVec 4} (hl : linksTrain s = true) (hp : port < 16) (hd : (linkOf s port).state = 0)
  (hpeer : (linkOf s port).peer = []) (hawake : awakeLanes s port ≠ 0) (hw : widthOf (lanesUp s port locked).length ≠ 0)
include hl hp hd hpeer hawake hw

/-- With no common version a port stays down, and EV_LINK tells VERSION. -/
theorem portTrainedOp_noVersion {low_ high : Nat} (rec_ : List Byte) (hv : commonVersion s low_ high = none) :
    portTrainedOp port locked low_ high rec_ s = linkEvent s port linkVersion high := by
  simp [portTrainedOp, hl, Nat.not_le.2 hp, hd, hawake, retireUnlocked_new locked hpeer, hw, hv]

/-- With a common version the port sends its record and takes its peer's. -/
theorem portTrainedOp_version {low_ high v : Nat} (rec_ : List Byte) (hv : commonVersion s low_ high = some v) :
    portTrainedOp port locked low_ high rec_ s =
      let t := takeRecord (recordSent s port v (widthOf (lanesUp s port locked).length)) port (padTo 160 rec_)
      { t with power := { t.power with oldLanes := tabErase t.power.oldLanes port } } := by
  simp [portTrainedOp, hl, Nat.not_le.2 hp, hd, hawake, retireUnlocked_new locked hpeer, hw, hv, recordSent]

/-- So it has that version and the width of its lanes, and is live or in probation. -/
theorem portTrainedOp_trained {low_ high v : Nat} (rec_ : List Byte) (hk : s.domain.barrier.known = true)
    (hv : commonVersion s low_ high = some v) :
    let t := portTrainedOp port locked low_ high rec_ s
    (linkOf t port).protocol = v ∧ (linkOf t port).lanes = widthOf (lanesUp s port locked).length ∧
      ((linkOf t port).state = 2 ∨ (linkOf t port).state = 1) ∧ (tpLive t port = true ↔ (linkOf t port).state = 2) ∧
      t.memories = s.memories := by
  rw [portTrainedOp_version hl hp hd hpeer hawake hw rec_ hv]
  obtain ⟨hstate, hprotocol, hlanes⟩ := linkOf_recordSent s port v (widthOf (lanesUp s port locked).length)
  have trained := takeRecord_trained (padTo 160 rec_) hp (by rw [recordSent_barrier]; exact hk) hstate
  rw [hprotocol, hlanes] at trained
  exact trained

end

/-- A port that goes down with no transfer of its own unanswered loses its state and its bit, and no other port is touched. -/
theorem portDownOp_idle {s : State} {port : Nat} (reason : Nat) (h : ∀ m ∈ s.flights.sent, m.2 ≠ port) :
    portDownOp port reason s =
      linkEvent (setTpLive (putLink s port { freeLink with peer := (linkOf s port).peer }) port false) port linkDown reason := by
  have none_sent : s.flights.sent.filter (fun m => m.2 == port) = [] := List.filter_eq_nil_iff.2 fun m hm => by simpa using h m hm
  simp [portDownOp, none_sent]

/-- Settles O51: training compares the records of a port that has one peer, and a port that goes down trains again. -/
theorem binikPortsTrainAndGoDown : Obligations.BinikPortsTrainAndGoDown := by
  refine ⟨?trains, ?down, ?idle, ?replays⟩
  case trains =>
    intro s port locked low_ high rec_ hl hp hd _ hpeer hawake hw hk
    exact ⟨fun hv => congrArg Host.Outcome.next (portTrainedOp_noVersion hl hp hd hpeer hawake hw rec_ hv),
      fun v hv => ⟨_, rfl, portTrainedOp_trained hl hp hd hpeer hawake hw rec_ hk hv⟩⟩
  case down =>
    intro s port reason lane hl hp
    exact ⟨fun h0 => by simp [exec, execBinikPortDown, binikPortDownOp, answer, h0],
      fun hup hr => by simp [exec, execBinikPortDown, binikPortDownOp, answer, takeDown, hl, Nat.not_le.2 hp, hup, hr]⟩
  case idle =>
    intro s port reason hp h
    rw [portDownOp_idle reason h]
    refine ⟨by simp [freeLink], by simp [tpLive_setTpLive _ _ _ hp], fun q hq => ?_⟩
    simp only [linkOf_linkEvent, linkOf_setTpLive, linkOf_putLink_ne _ _ hq]
  case replays =>
    intro s port lane hl hp hup hlane
    exact ⟨by simp [exec, execReplay, replayOp, answer, hl, Nat.not_lt.2 hlane],
      by simp [exec, execReplay, replayOp, answer, takeDown, hl, Nat.not_le.2 hp, hup, Nat.not_lt.2 hlane]⟩

/-! ## The machine right after reset -/

/-- Settles O3: each default is a field of the literal State.reset; the eight regions are checked one by one. -/
theorem resetIsTheFirstStartOfANewDevice : Obligations.ResetIsTheFirstStartOfANewDevice := by
  have counters : ∀ u, counterOf State.reset u = 0 := by
    intro u
    cases u <;> rfl
  have levels : ∀ r, r < 8 → regionLevel State.reset r = 5 := by decide
  exact ⟨rfl, rfl, rfl, rfl, rfl, counters, rfl, rfl, rfl, rfl, rfl, rfl, rfl, rfl, levels, rfl, rfl, rfl, rfl, rfl, rfl, rfl⟩

/-! ## Hub commands -/

/-- Every row of the table of acting hub commands runs its body on the hub under its opcode. -/
theorem exec_actRow : ∀ r ∈ Slice0.actRows, ∀ (st : Start) (s : State), exec (r.row st) s = startHub r.op (r.body st) st s := by
  refine List.forall_iff_forall_mem.1 ?_
  simp only [Slice0.actRows, List.cons_append, List.nil_append, List.forall_cons, List.Forall]
  repeat' apply And.intro
  all_goals exact fun _ _ => rfl

/-- A hub row whose command begins and whose body gives a plan applies that plan. -/
theorem startHub_of_runs {op : Nat} {body : Body} {st : Start} {s t : State} {f : Flight} {plan : Plan} {log : Log}
    (h : Slice0.Runs .hub op body st s t f plan log) : startHub op body st s = .next (applyPlan t f plan log) := by
  simp [startHub, startWith, answer, settleStart, h.begins, h.plans, h.free]

/-- A write-out of the hub that lands ends in the completed command. -/
theorem hubWriteOut_lands {u w : State} {g : Flight} {ws : List SWrite} (d x : Nat) (h : writeAll g (enterTicket u g) ws = (w, 0)) :
    hubWriteOut u g ws d x = complete w g sOk d x := by
  simp [hubWriteOut, h]

/-- An action of the hub on a device that still serves is followed by the hub's write-out. -/
theorem applyPlan_act {t u : State} {f : Flight} {ws : List SWrite} {n d x : Nat} {log : Log} (h : serving u = true) :
    applyPlan t f (.act u ws n d x) log = hubWriteOut u (Slice0.noted t f log n) ws d x := by
  simp only [applyPlan, h, if_true]
  rfl

/-- Settles O10: the row applies the body's plan, whose write-out lands. -/
theorem hubCommandActsAndCompletes : Obligations.HubCommandActsAndCompletes := by
  intro r hr st s t u w f ws n d x log hruns hserves hlands
  rw [exec_actRow r hr, startHub_of_runs hruns, applyPlan_act hserves, hubWriteOut_lands d x hlands]

/-! ## Turning off (R494, R547) -/

/-- The host bytes of a write-out that a stop cuts short are no part of the vault. -/
@[simp] theorem stopWriteOuts_vault (s : State) : (stopWriteOuts s).vault = s.vault := by
  unfold stopWriteOuts
  refine foldl_keeps (P := fun acc : State × Nat => acc.1.vault = s.vault) _ (fun acc w h => ?_) _ (s, 0) rfl
  split
  · refine foldl_keeps (P := fun t : State => t.vault = s.vault) _ (fun t u ht => ?_) _ acc.1 h
    dsimp only
    split
    · rw [hostPut_vault]; exact ht
    · exact ht
  · exact h

/-- A module that has turned off has no power and no start, does not serve, and has its vault as it was. -/
theorem turnOff_shows (s : State) :
    (turnOff s).module.powered = false ∧ serving (turnOff s) = false ∧ (turnOff s).boot.step = 0 ∧ (turnOff s).vault = s.vault := by
  refine ⟨rfl, rfl, rfl, ?_⟩
  show (if s.flights.list.isEmpty then s else stopWriteOuts s).vault = s.vault
  split <;> simp

/-! ## Rails, plugs and host links (R40, R545, R548) -/

/-- A rail that does not feed the hub's controller stops the device through the fatal path, and is off. -/
theorem converterTripOp_fatal {s : State} {rail : Nat} (hp : s.module.powered = true) (h12 : rail ≤ 12) (h8 : rail ≠ 8) (h9 : rail ≠ 9) :
    converterTripOp rail s =
      let u := fatalWith s 0x50 8 (0x100 + rail) 0 (rail ≠ 12)
      { u with module := { u.module with railsOff := putBit u.module.railsOff rail true } } := by
  simp [converterTripOp, hp, h8, h9, Nat.not_lt.2 h12]

/-- Whatever a plug asks for, it is in its cage. -/
theorem osfpPlugInsertOp_osfp {s : State} {port : Nat} (watts : Nat) (h : port < 2) :
    (osfpPlugInsertOp port watts s).module.osfp.getLsbD port = true := by
  unfold osfpPlugInsertOp
  rw [if_neg (Nat.not_le.2 h)]
  dsimp only
  split
  · simp [putBit_getLsbD _ _ _ _ h]
  · rw [setPortLive_module]; simp [putBit_getLsbD _ _ _ _ h]

/-- A plug that asks for more than 15 W is not powered, and its port is not live. -/
theorem osfpPlugInsertOp_over {s : State} {port watts : Nat} (h : port < 2) (hw : 15 < watts) :
    (osfpPlugInsertOp port watts s).module.osfpPowered.getLsbD port = false ∧
      portLive (osfpPlugInsertOp port watts s) (4 + port) = false := by
  unfold osfpPlugInsertOp
  simp only [Nat.not_le.2 h, Nat.not_le.2 hw, decide_false, Bool.false_and, Bool.false_eq_true, if_false]
  exact ⟨by simp [putBit_getLsbD _ _ _ _ h], portLive_setPortLive _ _ _ (by omega)⟩

/-- A plug that asks for at most 15 W is powered, unless its port is commanded down. -/
theorem osfpPlugInsertOp_powered {s : State} {port watts : Nat} (h : port < 2) (hw : watts ≤ 15)
    (hd : s.power.portsDown.getLsbD (2 + port) = false) : (osfpPlugInsertOp port watts s).module.osfpPowered.getLsbD port = true := by
  simp [osfpPlugInsertOp, Nat.not_le.2 h, hw, hd, putBit_getLsbD _ _ _ _ h]

/-- Settles O48: each row's meaning on a powered module. -/
theorem inputRailsPlugsAndHostLinks : Obligations.InputRailsPlugsAndHostLinks := by
  intro s hp
  refine ⟨?dropout, ?expires, ?early, ⟨?rides, ?stops⟩, rfl, turnOff_shows s, fun rail => ⟨?off, ?fatal⟩, ?plug,
    fun port hport => ⟨?down, ?up⟩⟩
  case dropout => simp [exec, execInputDropout, answer, hp]
  case expires => intro hr; simp [exec, execRideThroughExpiry, answer, hp, hr]
  case early => intro hr; simp [exec, execRideThroughExpiry, answer, hr]
  case rides => intro hs; simp [exec, execRideThrough, answer, hp, hs]
  case stops => intro hs; simp [exec, execRideThrough, answer, hp, hs]
  case off =>
    intro hr
    have h12 : ¬ 12 < rail := by omega
    simp [exec, execConverterTrip, converterTripOp, answer, hp, hr, h12]
  case fatal =>
    intro h12 h8 h9
    refine ⟨_, congrArg Host.Outcome.next (converterTripOp_fatal hp h12 h8 h9), ?_, rfl⟩
    simp [putBit_getLsbD _ _ _ _ (show rail < 16 by omega)]
  case plug =>
    exact fun port watts h => ⟨_, rfl, osfpPlugInsertOp_osfp watts h, osfpPlugInsertOp_over h, osfpPlugInsertOp_powered h⟩
  case down => simp [exec, execHostLinkDown, answer, hp, hport]
  case up => intro hstep; simp [exec, execHostLinkUp, answer, hp, hport, hstep]

end Sys2Proof.SixLevels
end

section
/-!
SUPPORT. The statements of 02_handshake_timing.md: one step of time, the beginning of a hub command, the watch of sy.wait, and Precision Time
Measurement.
-/

namespace Sys2Proof.HandshakeTiming

open Sys2Proof.Machine Sys2Proof.Laws

/-! ## One step of time (R55) -/

theorem tabGet_tabMod_same {α : Type} [DecidableEq α] (t : Tab α) (k : Nat) (d : α) (f : α → α) :
    tabGet (tabMod t k d f) k d = f (tabGet t k d) :=
  tabGet_tabSet_same _ _ _ _

theorem tabGet_tabMod_ne {α : Type} [DecidableEq α] (t : Tab α) {k j : Nat} (d : α) (f : α → α) (h : j ≠ k) :
    tabGet (tabMod t k d f) j d = tabGet t j d :=
  tabGet_tabSet_ne _ _ _ _ h

/-- A sweep over the first m keys that changes each chosen entry once: what it leaves at a key. -/
theorem tabGet_sweep (chosen : Nat → Bool) (f : Nat → Nat) (t : Tab Nat) (m k : Nat) :
    tabGet ((List.range m).foldl (fun a n => if chosen n then tabMod a n 0 f else a) t) k 0 =
      if k < m ∧ chosen k = true then f (tabGet t k 0) else tabGet t k 0 := by
  induction m with
  | zero => simp
  | succ m ih =>
    rw [List.range_succ, List.foldl_append, List.foldl_cons, List.foldl_nil]
    by_cases at_m : k = m
    · subst at_m
      by_cases hc : chosen k = true
      · simp [hc, tabGet_tabMod_same, ih]
      · simp [hc, ih]
    · have below : k < m + 1 ↔ k < m := by omega
      by_cases hc : chosen m = true
      · simp only [hc, if_true, tabGet_tabMod_ne _ _ _ at_m, ih, below]
      · simp only [hc, if_false, ih, below, Bool.false_eq_true]

theorem advanceAll_frame (s : State) : { advanceAll s with steps := s.steps } = s := by
  unfold advanceAll
  split <;> rfl

/-- A device that is off counts no steps. -/
theorem advanceAll_off {s : State} (h : s.boot.step = 0) : advanceAll s = s := by
  simp [advanceAll, h]

section
variable {s : State} (h : s.boot.step ≠ 0)
include h

/-- The hub's counters run from step 1 of a start on, the Heldun's from step 3 on. -/
theorem advanceAll_hub :
    (advanceAll s).steps.frontEnd = (s.steps.frontEnd + 1) % 2 ^ 64 ∧ (advanceAll s).steps.dealer = (s.steps.dealer + 1) % 2 ^ 64 ∧
      (advanceAll s).steps.narrow = (s.steps.narrow + 1) % 2 ^ 64 ∧
      (advanceAll s).steps.heldun = if 3 ≤ s.boot.step then (s.steps.heldun + 1) % 2 ^ 64 else s.steps.heldun := by
  simp only [advanceAll, h, if_false]
  exact ⟨rfl, rfl, rfl, rfl⟩

theorem counterOf_advanceAll_engine {n : Nat} (hn : n < 64) :
    counterOf (advanceAll s) (.engine n) =
      if 4 ≤ s.boot.step ∧ engineHere s n = true ∧ regionSteps s (n / 8) = true then (counterOf s (.engine n) + 1) % 2 ^ 64
      else counterOf s (.engine n) := by
  simp only [counterOf, advanceAll, h, if_false]
  rw [tabGet_sweep (fun n => decide (enginesReleased ≤ s.boot.step) && engineHere s n && regionSteps s (n / 8))]
  simp only [hn, true_and, Bool.and_eq_true, decide_eq_true_eq, and_assoc]
  rfl

theorem counterOf_advanceAll_cluster {c : Nat} (hc : c < 16) :
    counterOf (advanceAll s) (.cluster c) =
      if 4 ≤ s.boot.step ∧ clusterHere s c = true ∧ regionSteps s (c / 2) = true then (counterOf s (.cluster c) + 1) % 2 ^ 64
      else counterOf s (.cluster c) := by
  simp only [counterOf, advanceAll, h, if_false]
  rw [tabGet_sweep (fun c => decide (enginesReleased ≤ s.boot.step) && clusterHere s c && regionSteps s (c / 2))]
  simp only [hc, true_and, Bool.and_eq_true, decide_eq_true_eq, and_assoc]
  rfl

end

/-- Settles O2: the step is advanceAll, whose sweeps count each engine and each cluster at most once. -/
theorem emptyQueueIsOneTick : Obligations.EmptyQueueIsOneTick := by
  intro s empty
  have tick : step s = .next (advanceAll s) := by simp [step, empty]
  refine ⟨advanceAll s, tick, advanceAll_frame s, advanceAll_off, fun h => ?_⟩
  obtain ⟨hfront, hdealer, hnarrow, hheldun⟩ := advanceAll_hub h
  exact ⟨hfront, hdealer, hnarrow, hheldun, fun _ => counterOf_advanceAll_engine h, fun _ => counterOf_advanceAll_cluster h⟩

/-! ## A hub command begins (R56, R259) -/

theorem counterOf_advance_same (s : State) (u : StepUnit) (k : Nat) : counterOf (advance s u k) u = (counterOf s u + k) % 2 ^ 64 := by
  cases u
  case engine n => exact tabGet_tabMod_same s.steps.engine n 0 (wrapAdd 64 · k)
  case cluster c => exact tabGet_tabMod_same s.steps.cluster c 0 (wrapAdd 64 · k)
  all_goals rfl

/-- A command that waits, whose fences are ready and which no command of the kitty or of a batch precedes in its shoe, is ready. -/
theorem isReady_of_waiting {s : State} {f : Flight} (hw : f.phase = .waiting) (hf : fencesOf s f = .ready)
    (hfirst : ∀ g ∈ s.flights.list, g.shoe = f.shoe → g.seq < f.seq → inKitty g = false ∧ releaseRank g = none) : isReady s f = true := by
  have unheld : (s.flights.list.any fun g =>
      g.shoe == f.shoe && (inKitty g || (releaseRank f).isNone && (releaseRank g).isSome) && decide (g.seq < f.seq)) = false := by
    refine any_eq_false_of _ _ fun g hg => ?_
    by_cases before : g.shoe = f.shoe ∧ g.seq < f.seq
    · obtain ⟨hshoe, hseq⟩ := before
      obtain ⟨hk, hr⟩ := hfirst g hg hshoe hseq
      simp [hk, hr]
    · simpa using fun hshoe _ => Nat.not_lt.1 fun hseq => before ⟨hshoe, hseq⟩
  simp [isReady, hw, hf, unheld]

/-- Only a command that a batch released is outranked. -/
theorem outranked_of_waiting {s : State} {f : Flight} (same : Flight → Bool) (hw : f.phase = .waiting) : outranked s f same = false := by
  simp [outranked, releaseRank, hw]

/-- The flight of a hub command as it begins. -/
def hubAttempt (s : State) (f : Flight) : Flight :=
  let g := withDeal s { f with place := .hub, phase := .running }
  { g with t0 := counterOf s (stepUnitOf g), stepTime := stepTimeOf s .hub, flags := 0#32, result := ⟨0, 0, 0⟩ }

/-- The state in which it has begun with k steps. -/
def hubBegun (s : State) (f : Flight) (k : Nat) : State :=
  advance (putFlight (forgetAttempt s f.cid) (hubAttempt s f)) (stepUnitOf (hubAttempt s f)) k

/-- Forgetting an attempt changes what other commands wait for, and removes no command. -/
theorem flightOf_forgetAttempt {s : State} {f : Flight} {cid c : Nat} (h : flightOf s cid = some f) :
    ∃ g, flightOf (forgetAttempt s c) cid = some g := by
  have hfind : (flightOf (forgetAttempt s c) cid).isSome = true := by
    have hmem := List.mem_of_find?_eq_some h
    have hcid := flightOf_cid h
    unfold flightOf forgetAttempt setFlights
    rw [List.find?_isSome]
    refine ⟨_, List.mem_map_of_mem hmem, ?_⟩
    split <;> simpa using hcid
  exact Option.isSome_iff_exists.1 hfind

/-- What the hardware errors of a row leave of a command that has taken its unit. -/
def afterErrs (s : State) (cid : Nat) (errs : List HwErr) : Begun :=
  if !serving s then .over s
  else
    match flightOf s cid with
    | none => .over s
    | some f =>
      if f.phase ≠ .running then .over s
      else if endsUe f.place errs then .over (complete s f sUe 0 0)
      else .go s f

theorem afterErrs_nil {s : State} {f : Flight} {cid : Nat} (hs : serving s = true) (hf : flightOf s cid = some f)
    (hr : f.phase = .running) : afterErrs s cid [] = .go s f := by
  simp [afterErrs, hs, hf, hr, endsUe]

/-- On the hub no area is readied and no kill is acknowledged: a command takes the unit, and then the errors of the row are applied. -/
theorem takeUnit_hub (s : State) (f : Flight) (st : Start) :
    takeUnit s { f with place := .hub } st =
      afterErrs (applyErrs (advance (putFlight (if needsEngine f.cmd.opcode then s else forgetAttempt s f.cid) (hubAttempt s f))
        (stepUnitOf (hubAttempt s f)) st.steps) .hub f.cmd.ticket st.errs) f.cid st.errs := rfl

/-- With no hardware error it has begun. -/
theorem takeUnit_hub_go {s : State} {f : Flight} {st : Start} (hs : serving s = true) (hfl : flightOf s f.cid = some f)
    (hop : needsEngine f.cmd.opcode = false) (he : st.errs = []) :
    takeUnit s { f with place := .hub } st = .go (hubBegun s f st.steps) (hubAttempt s f) := by
  obtain ⟨old, hold⟩ := flightOf_forgetAttempt (c := f.cid) hfl
  have there : flightOf (hubBegun s f st.steps) f.cid = some (hubAttempt s f) :=
    flightOf_putFlight (forgetAttempt s f.cid) (hubAttempt s f) old hold
  rw [takeUnit_hub, he, hop]
  exact afterErrs_nil (s := hubBegun s f st.steps) hs there rfl

/-- A hub command that waits, that may start, and whose row brings no hardware error begins. -/
theorem begin_hub_go {s : State} {f : Flight} {st : Start} {p : Flight → Bool} (hs : serving s = true)
    (hfl : flightOf s st.cid = some f) (hp : p f = true) (hop : needsEngine f.cmd.opcode = false) (hw : f.phase = .waiting)
    (hf : fencesOf s f = .ready)
    (hfirst : ∀ g ∈ s.flights.list, g.shoe = f.shoe → g.seq < f.seq → inKitty g = false ∧ releaseRank g = none)
    (he : st.errs = []) : begin s st .hub p = .go (hubBegun s f st.steps) (hubAttempt s f) := by
  have hcid : flightOf s f.cid = some f := by rw [flightOf_cid hfl]; exact hfl
  rw [← takeUnit_hub_go hs hcid hop he]
  simp [begin, hs, hfl, hp, startable, hop, hw, hf, isReady_of_waiting hw hf hfirst, outranked_of_waiting _ hw]

/-- The counter of its unit, which T0 has read, then has the steps of the row. -/
theorem counterOf_hubBegun (s : State) (f : Flight) (k : Nat) :
    counterOf (hubBegun s f k) (stepUnitOf (hubAttempt s f)) = (counterOf s (stepUnitOf (hubAttempt s f)) + k) % 2 ^ 64 :=
  counterOf_advance_same _ _ _

/-- Settles O9: a command that nothing holds back takes the hub, and only flights and one counter change. -/
theorem readyHubCommandTakesTheHub : Obligations.ReadyHubCommandTakesTheHub := by
  intro s st op f hs hfl hop hhub hw hf hfirst he
  have mine : (f.cmd.opcode == op) = true := by simpa using hop
  rw [← hop] at hhub
  exact ⟨hubBegun s f st.steps, hubAttempt s f, begin_hub_go hs hfl mine hhub hw hf hfirst he, rfl, rfl, rfl, rfl, rfl, rfl, rfl,
    counterOf_hubBegun s f st.steps, rfl, rfl, rfl, rfl, rfl, rfl⟩

/-! ## The watch of sy.wait (R273, R274) -/

theorem startHub_waits {op : Nat} {body : Body} {st : Start} {s t u : State} {f : Flight} {ph : Phase} {n : Nat} {log : Log}
    (h : Slice0.Runs .hub op body st s t f (.wait u ph n) log) :
    startHub op body st s = .next (putFlight (Slice0.seen u f log)
      { Slice0.noted t f log n with phase := ph, units := ((flightOf u f.cid).map (·.units)).getD 0 }) :=
  SixLevels.startHub_of_runs h

/-- Table 10-12a, COMPARE, as a proposition. -/
theorem waitHolds_iff (cmp word value : Nat) :
    waitHolds cmp word value = true ↔ (cmp = 0 ∧ value ≤ word) ∨ (cmp = 1 ∧ word = value) ∨ (2 ≤ cmp ∧ word ≠ value) := by
  match cmp with
  | 0 => simp [waitHolds]
  | 1 => simp [waitHolds]
  | c + 2 => simp [waitHolds]

section
variable {s : State} {cid : Nat} {f : Flight} {pa value cmp timeout since last : Nat} (hs : serving s = true)
  (hfl : flightOf s cid = some f) (hph : f.phase = .watch pa value cmp timeout since last)
include hs hfl hph

theorem syWaitSatisfiedOp_watch (hp : isPoisoned s (unitOf pa) = false) :
    syWaitSatisfiedOp cid s =
      if waitHolds cmp (watchedWord s pa) value then commitComplete s f (low 32 (watchedWord s pa)) 0 else s := by
  simp [syWaitSatisfiedOp, hs, hfl, hph, hp]

theorem syWaitTimeoutOp_watch :
    syWaitTimeoutOp cid s =
      if timeout ≠ 0 ∧ waitHolds cmp (watchedWord s pa) value = false ∧ timeout ≤ (s.steps.frontEnd + 2 ^ 64 - since) % 2 ^ 64 then
        complete s f sTimeout (low 32 (watchedWord s pa)) 0
      else s := by
  simp [syWaitTimeoutOp, hs, hfl, hph, and_assoc]

end

/-- Settles O30: the plan of a body that waits is applied as it is, and a watch ends by its comparison or its timeout. -/
theorem syWaitWatchesUntilItsComparisonOrTimeout : Obligations.SyWaitWatchesUntilItsComparisonOrTimeout := by
  refine ⟨fun st s t u f ph n log => ⟨startHub_waits, startHub_waits⟩, ?_⟩
  intro s cid f pa value cmp timeout since last hs hfl hph word holds passed
  have compares : waitHolds cmp (watchedWord s pa) value = true ↔ holds := waitHolds_iff cmp word value
  refine ⟨fun hp hh => ?satisfied, fun hp hh => ?unsatisfied, fun ht hpassed hh => ?expired, fun hnot => ?running⟩
  case satisfied =>
    exact congrArg Host.Outcome.next ((syWaitSatisfiedOp_watch hs hfl hph hp).trans (if_pos (compares.2 hh)))
  case unsatisfied =>
    exact congrArg Host.Outcome.next ((syWaitSatisfiedOp_watch hs hfl hph hp).trans (if_neg (mt compares.1 hh)))
  case expired =>
    have unheld : waitHolds cmp (watchedWord s pa) value = false := Bool.eq_false_iff.2 (mt compares.1 hh)
    exact congrArg Host.Outcome.next ((syWaitTimeoutOp_watch hs hfl hph).trans (if_pos ⟨ht, unheld, hpassed⟩))
  case running =>
    refine congrArg Host.Outcome.next ((syWaitTimeoutOp_watch hs hfl hph).trans (if_neg ?_))
    rintro ⟨ht, unheld, hpassed⟩
    rcases hnot with h0 | hfew | hh
    · exact ht h0
    · exact Nat.not_le.2 hfew hpassed
    · exact Bool.eq_false_iff.1 unheld (compares.2 hh)

/-! ## Precision Time Measurement (R59 to R61) -/

/-- The owner's port is used where its host has enabled PTM (R59). -/
theorem ptmChoice_owner {s : State} {o : Nat} (ho : s.heldun.owner = some o) (he : s.ptm.enabled.getLsbD o = true) :
    ptmChoice s = some o := by
  simp [ptmChoice, ho, he]

/-- Else the other one, where its host has. -/
theorem ptmChoice_other {s : State} {o : Nat} (ho : s.heldun.owner = some o) (hd : s.ptm.enabled.getLsbD o = false)
    (he : s.ptm.enabled.getLsbD (1 - o) = true) : ptmChoice s = some (1 - o) := by
  simp [ptmChoice, ho, hd, he]

theorem ptmDue_iff {s : State} {p : Nat} (hc : ptmChoice s = some p) :
    ptmDue s = true ↔ s.ptm.port ≠ some p ∨ 2 ^ s.ptm.log2Interval ≤ (hubNow s + 2 ^ 64 - s.ptm.lastStart) % 2 ^ 64 := by
  simp [ptmDue, hc, eq_comm (a := some p)]

theorem ptmExchangeOp_due {s : State} {p : Nat} (hp : s.module.powered = true) (hc : ptmChoice s = some p) (hd : ptmDue s = true) :
    ptmExchangeOp s =
      send { s with ptm := { s.ptm with port := some p, waiting := true, lastStart := hubNow s } } (.ptmRequest p) := by
  simp [ptmExchangeOp, hp, hc, hd]

theorem ptmExchangeOp_early {s : State} {p : Nat} (hc : ptmChoice s = some p) (hd : ptmDue s = false) : ptmExchangeOp s = s := by
  simp [ptmExchangeOp, hc, hd]

theorem ptmExchangeOp_none {s : State} (hc : ptmChoice s = none) :
    ptmExchangeOp s = { s with ptm := { s.ptm with port := none, waiting := false } } := by
  simp [ptmExchangeOp, hc]

section
variable {s : State} {p : Nat} (time : Nat) (hw : s.ptm.waiting = true) (hport : s.ptm.port = some p)
include hw hport

theorem ptmResponseOp_good :
    ptmResponseOp p time true s = { s with ptm := { s.ptm with
      waiting := false, valid := true, goodPort := p, time := time % 2 ^ 64, seq := s.ptm.seq + 1, goodAt := hubNow s } } := by
  simp [ptmResponseOp, hw, hport]

theorem ptmResponseOp_failed : ptmResponseOp p time false s = { s with ptm := { s.ptm with waiting := false } } := by
  simp [ptmResponseOp, hw, hport]

end

/-- An enable leaves the other port's, every other part of the state, and PTM but for the port in use when that is cleared. -/
theorem ptmEnableOp_shows (s : State) {p : Nat} (on : Bool) (hp : p < 2) :
    (ptmEnableOp p on s).ptm.enabled = putBit s.ptm.enabled p on ∧ { ptmEnableOp p on s with ptm := s.ptm } = s ∧
      { (ptmEnableOp p on s).ptm with enabled := s.ptm.enabled } =
        if on = false ∧ s.ptm.port = some p then { s.ptm with port := none, waiting := false } else s.ptm := by
  have small : ¬ 2 ≤ p := Nat.not_le.2 hp
  by_cases used : on = false ∧ s.ptm.port = some p
  · simp [ptmEnableOp, small, used]
  · have kept : (!on && s.ptm.port == some p) = false := by simpa using used
    simp [ptmEnableOp, small, used, kept]

/-- Settles O49: the choice of the port, the exchange, its response, and the enables, each by its own equation. -/
theorem ptmExchangesUseTheOwnersPort : Obligations.PtmExchangesUseTheOwnersPort := by
  intro s hp
  refine ⟨fun p hc => ⟨fun hd => ?due, fun hport hearly => ?early⟩, fun hc => ?unused,
    fun o _ ho => ⟨ptmChoice_owner ho, ptmChoice_other ho⟩, fun p time hw hport => ⟨?good, ?failed⟩, fun p on hp2 => ?enable⟩
  case due => exact ⟨_, congrArg Host.Outcome.next (ptmExchangeOp_due hp hc ((ptmDue_iff hc).2 hd)), rfl, rfl, rfl⟩
  case early =>
    have undue : ptmDue s = false :=
      Bool.eq_false_iff.2 fun hd => ((ptmDue_iff hc).1 hd).elim (fun h => h hport) (Nat.not_le.2 hearly)
    exact congrArg Host.Outcome.next (ptmExchangeOp_early hc undue)
  case unused => exact congrArg Host.Outcome.next (ptmExchangeOp_none hc)
  case good => exact congrArg Host.Outcome.next (ptmResponseOp_good time hw hport)
  case failed => exact congrArg Host.Outcome.next (ptmResponseOp_failed time hw hport)
  case enable =>
    obtain ⟨henabled, hrest, hptm⟩ := ptmEnableOp_shows s on hp2
    have other : 1 - p ≠ p := by omega
    refine ⟨_, rfl, ?_, ?_, hrest, hptm⟩
    · rw [henabled, putBit_getLsbD _ _ _ _ hp2, if_pos rfl]
    · rw [henabled, putBit_getLsbD _ _ _ _ hp2, if_neg other]

end Sys2Proof.HandshakeTiming
end

section
/-!
SUPPORT. The statements of 04_cube_array.md: every step keeps the memories canonical, commands that stage their results (at once, or over what they
have prepared), vx.end, the commit point, the end of a write-out, and the bytes that a staged run stores.
-/

namespace Sys2Proof.CubeArray

open Sys2Proof.Machine Sys2Proof.Laws

/-! ## Canonical memories -/

/-- Settles O5: `kept_step` says that a step keeps each memory's form; the queue, from which it takes its command, is no memory. -/
theorem stepKeepsMemoriesCanonical : Obligations.StepKeepsMemoriesCanonical := by
  intro s t canonical h
  have kept : Kept { s with pending := s.pending.tail } t := SixLevels.kept_step h
  exact ⟨kept.memories.mem canonical.device, kept.memories.areas canonical.areas, kept.host0 canonical.host0, kept.host1 canonical.host1,
    kept.vault.payload canonical.payload⟩

/-! ## Accesses move the translation buffers alone (R227, R229) -/

/-- Two states differ in their translation buffers at most. -/
structure TransOnly (s t : State) : Prop where
  rest : { t with trans := s.trans } = s

theorem TransOnly.refl (s : State) : TransOnly s s := ⟨rfl⟩
theorem TransOnly.memories {s t : State} (h : TransOnly s t) : t.memories = s.memories := (congrArg State.memories h.rest : _)
theorem TransOnly.host0 {s t : State} (h : TransOnly s t) : t.host0 = s.host0 := (congrArg State.host0 h.rest : _)
theorem TransOnly.host1 {s t : State} (h : TransOnly s t) : t.host1 = s.host1 := (congrArg State.host1 h.rest : _)

theorem TransOnly.renewL2 {s t : State} (c va : Nat) (old new : Leaf) (h : TransOnly s t) : TransOnly s (renewL2 t c va old new) := by
  unfold Machine.renewL2
  dsimp only
  split
  · exact h
  · split
    · exact ⟨h.rest⟩
    · exact h

theorem TransOnly.touchPage1 {s t : State} (p : Place) (asid : Nat) (kernel : Bool) (pg : Nat × Bool) (h : TransOnly s t) :
    TransOnly s (touchPage1 p asid kernel t pg) := by
  cases p with
  | engine n =>
    unfold Machine.touchPage1
    dsimp only
    split
    · exact h
    · exact TransOnly.renewL2 (t := putLevel1 t n _) _ _ _ _ ⟨h.rest⟩
  | mover c m =>
    unfold Machine.touchPage1
    dsimp only
    split
    · exact h
    · exact h.renewL2 _ _ _ _
  | _ => exact h

/-- A command's accesses are seen by the translation buffers, and by nothing else. -/
theorem seen_transOnly (t : State) (f : Flight) (log : Log) : TransOnly t (Slice0.seen t f log) :=
  foldl_keeps (TransOnly t) _ (fun _ pg h => h.touchPage1 f.place f.cmd.asid (f.cls == 0) pg) _ t (TransOnly.refl t)

/-! ## Staged results are held by the flight -/

theorem applyPlan_staged (t : State) (f : Flight) (r : Staged) (log : Log) :
    applyPlan t f (.staged r) log = putFlight (Slice0.seen t f log) (Slice0.withStaged t f log r) := rfl

/-- The state that a staged plan gives: no memory is written, and nothing but flights and translation buffers moves. -/
theorem applyPlan_staged_frame (t : State) (f : Flight) (r : Staged) (log : Log) :
    ∃ v, applyPlan t f (.staged r) log = v ∧ v = putFlight (Slice0.seen t f log) (Slice0.withStaged t f log r) ∧
      v.memories = t.memories ∧ v.host0 = t.host0 ∧ v.host1 = t.host1 ∧ { v with flights := t.flights, trans := t.trans } = t := by
  have only : TransOnly t (Slice0.seen t f log) := seen_transOnly t f log
  exact ⟨_, applyPlan_staged t f r log, rfl, only.memories, only.host0, only.host1,
    (congrArg (fun u : State => { u with flights := t.flights }) only.rest : _)⟩

/-! ## Engine commands (R99) -/

/-- A row whose command begins on a unit and whose body gives a plan applies that plan. -/
theorem startWith_of_runs {place : Place} {op : Nat} {body : Body} {st : Start} {s t : State} {f : Flight} {plan : Plan} {log : Log}
    (h : Slice0.Runs place op body st s t f plan log) :
    startWith place (fun f => f.cmd.opcode == op) body st s = applyPlan t f plan log := by
  simp [startWith, settleStart, h.begins, h.plans, h.free]

/-- Every row of the table of engine commands starts its body on its engine under its opcode. -/
theorem exec_engineRow : ∀ r ∈ Slice0.engineRows, ∀ (st : Start) (s : State), exec (r.row st) s = startEngine r.op (r.body st) st s := by
  refine List.forall_iff_forall_mem.1 ?_
  simp only [Slice0.engineRows, List.forall_cons, List.Forall]
  repeat' apply And.intro
  all_goals exact fun _ _ => rfl

/-- Settles O12: the row applies a staged plan. -/
theorem engineCommandStagesItsResults : Obligations.EngineCommandStagesItsResults := by
  intro r hr st s t f x log hruns
  obtain ⟨v, hv, frame⟩ := applyPlan_staged_frame t f x log
  refine ⟨v, ?_, frame⟩
  rw [exec_engineRow r hr, startEngine, startWith_of_runs hruns, hv, answer]

/-! ## Prepared commands (R326, R361) -/

/-- A sequence of two runs goes on from what the first one gave. -/
theorem run_bind_of_ok {α β : Type} {m : Run α} {k : α → Run β} {l l' : Log} {a : α} (h : m l = .ok (a, l')) : (m >>= k) l = k a l' := by
  simp [bind, StateT.bind, Except.bind, h]

theorem run_pure {α : Type} (a : α) (l : Log) : (pure a : Run α) l = .ok (a, l) := rfl

/-- A sequence that gives a value has a first part that gives one. -/
theorem run_of_bind_ok {α β : Type} {m : Run α} {k : α → Run β} {l : Log} {r : β × Log} (h : (m >>= k) l = .ok r) :
    ∃ a l', m l = .ok (a, l') ∧ k a l' = .ok r := by
  cases hm : m l with
  | error e => simp [bind, StateT.bind, Except.bind, hm] at h
  | ok p => exact ⟨p.1, p.2, rfl, by rw [← h, run_bind_of_ok hm]⟩

section
variable {α β : Type} {place : Place} {op : Nat} {check : State → Actor → Flight → List Byte → Run (Except Nat α)}
  {prep : State → Flight → α → State × Except Stop β} {body : State → Actor → Flight → α → β → Run Plan}

/-- A prepared row whose checks pass and whose preparation and body succeed applies the body's plan to the prepared state. -/
theorem startPrep_of_prepRuns {st : Start} {s t1 : State} {f : Flight} {plan : Plan} {log : Log}
    (h : Slice0.PrepRuns place op check prep body st s t1 f plan log) :
    startPrep place (fun f => f.cmd.opcode == op) check prep body st s = applyPlan t1 f plan log := by
  obtain ⟨t, x, y, log1, hbegin, hfirst, hfree, hprep, hrest, hfree1⟩ := h
  obtain ⟨_, l8, h8, hafter8⟩ := run_of_bind_ok hfirst
  obtain ⟨p, l9, h9, hcheck⟩ := run_of_bind_ok hafter8
  rw [Slice0.restRun] at hrest
  simp only [startPrep, hbegin, run_bind_of_ok h8, run_bind_of_ok h9, run_bind_of_ok hcheck, run_pure, hfree, hprep, hrest, settleStart,
    hfree1, Bool.false_eq_true, if_false]

variable {row : Start → Instr}

theorem preparedStages
    (hrow : ∀ st s, exec (row st) s = answer (startPrep .none (fun f => f.cmd.opcode == op) check prep body st s)) :
    Slice0.PreparedStages row op check prep body := by
  intro st s t1 f r log hruns
  obtain ⟨v, hv, frame⟩ := applyPlan_staged_frame t1 f r log
  refine ⟨v, ?_, frame⟩
  rw [hrow, startPrep_of_prepRuns hruns, hv, answer]

theorem preparedActs
    (hrow : ∀ st s, exec (row st) s = answer (startPrep .hub (fun f => f.cmd.opcode == op) check prep body st s)) :
    Slice0.PreparedActs row op check prep body := by
  intro st s t1 u w f ws n d x log hruns hserves hlands
  rw [hrow, startPrep_of_prepRuns hruns, SixLevels.applyPlan_act hserves, SixLevels.hubWriteOut_lands d x hlands, answer]

theorem preparedWaits
    (hrow : ∀ st s, exec (row st) s = answer (startPrep place (fun f => f.cmd.opcode == op) check prep body st s)) :
    Slice0.PreparedWaits row place op check prep body := by
  intro st s t1 u f ph n log hruns
  rw [hrow, startPrep_of_prepRuns hruns, answer]
  rfl

end

/-- Settles O14: each row is a prepared row, and what a prepared row does with its plan is said once for the plans that stage, act and wait. -/
theorem preparedCommandsStageOrComplete : Obligations.PreparedCommandsStageOrComplete := by
  exact ⟨⟨preparedStages fun _ _ => rfl, preparedStages fun _ _ => rfl, preparedStages fun _ _ => rfl, preparedStages fun _ _ => rfl,
      preparedStages fun _ _ => rfl, preparedStages fun _ _ => rfl, preparedStages fun _ _ => rfl, preparedStages fun _ _ => rfl⟩,
    preparedActs fun _ _ => rfl, preparedActs fun _ _ => rfl, preparedWaits fun _ _ => rfl, preparedWaits fun _ _ => rfl⟩

/-! ## vx.end (R132, R134) -/

theorem applyErrs_nil (s : State) (p : Place) (ticket : Nat) : applyErrs s p ticket [] = s := rfl

theorem endsUe_nil (p : Place) : endsUe p [] = false := rfl

theorem serving_advance (s : State) (u : StepUnit) (k : Nat) : serving (advance s u k) = serving s := rfl

theorem flightOf_advance (s : State) (u : StepUnit) (k cid : Nat) : flightOf (advance s u k) cid = flightOf s cid := rfl

/-- Settles O22: with no hardware error the row reaches the writes of the staged elements, and passes the commit point with them. -/
theorem vxEndPassesTheCommitPoint : Obligations.VxEndPassesTheCommitPoint := by
  intro st s t f x i ws log hat hws
  obtain ⟨hserves, hflight, hruns, hinstr, hop, hclean, rfl⟩ := hat
  have isEnd : (vinsAt x.prog x.pc).op = 0 := hinstr ▸ hop
  simp only [exec, execVxEnd, answer, vxEndOp, hserves, hflight, hruns, isEnd, hclean, applyErrs_nil, endsUe_nil, serving_advance, flightOf_advance,
    hws, Bool.not_true, Bool.false_eq_true, if_false, ne_eq, not_true]
  rfl

/-! ## The commit point (R106, R265, R291) -/

/-- Charging statuses moves the dealer's figures alone. -/
theorem chargeStatus_dealer (s : State) (seq c st : Nat) : { chargeStatus s seq c st with dealer := s.dealer } = s := by
  unfold chargeStatus chargeDeal
  split
  · rfl
  · split <;> split <;> rfl

/-- The charges of a commit point move the dealer's figures alone. -/
theorem chargeMarks_dealer (s : State) (f : Flight) (marks : List (Nat × Nat)) : { chargeMarks s f marks with dealer := s.dealer } = s := by
  unfold chargeMarks
  split
  · rfl
  · split
    · rfl
    · next d _ _ =>
      refine foldl_keeps (P := fun t : State => { t with dealer := s.dealer } = s) _ (fun t m h => ?_) marks s rfl
      exact (congrArg (fun u : State => { u with dealer := s.dealer }) (chargeStatus_dealer t d m.1 m.2)).trans h

/-- A ticket enters its shoe alone. -/
theorem enterTicket_shoes (s : State) (f : Flight) : { enterTicket s f with shoes := s.shoes } = s := by
  unfold enterTicket
  split <;> rfl

theorem enterTicket_lastTicket (s : State) (f : Flight) : (shoeOf (enterTicket s f) f.shoe).lastTicket = f.cmd.ticket := by
  unfold enterTicket modShoe
  split
  · next h => rw [shoeOf_putShoe_same]; exact h.symm
  · rw [shoeOf_putShoe_same]

/-- The last entry of a list stays when all but its last 4,096 are dropped. -/
theorem mem_drop_of_last {α : Type} (l : List α) (x : α) : x ∈ (l ++ [x]).drop ((l ++ [x]).length - 4096) := by
  rw [List.drop_append_of_le_length (by simp)]
  simp

theorem enterTicket_window (s : State) (f : Flight) (h : f.cmd.ticket ≠ 0) :
    (f.cmd.ticket, if noCompletion f.cmd then 0 else f.cmd.completion) ∈ (shoeOf (enterTicket s f) f.shoe).window := by
  simp only [enterTicket, modShoe, h, if_false, shoeOf_putShoe_same]
  exact mem_drop_of_last _ _

/-- The command that holds a mover's write-out off an engine has started there and not committed. -/
theorem heldEngineOf_some {s : State} {f : Flight} {n : Nat} (h : heldEngineOf s f = some n) :
    ∃ g ∈ s.flights.list, g.place = .engine n ∧ isStarted g = true := by
  unfold heldEngineOf at h
  split at h
  · obtain ⟨w, _, hw⟩ := List.exists_of_findSome?_eq_some h
    split at hw
    · split at hw
      · next running =>
        cases hw
        simpa [engineRuns] using running
      · cases hw
    · cases hw
  · cases h

/-- The state of a command that has passed its commit point, before what the commit freed is settled. -/
def committed (u : State) (g : Flight) : State := enterTicket (chargeMarks u g g.marks) g

/-- The phase of its write-out: under way, or held for an engine (R154). -/
def writeOutPhase (u : State) (g : Flight) : Phase :=
  match heldEngineOf (committed u g) g with
  | some n => .heldEngine n
  | none => .committed

theorem passCommit_go {s u : State} {f g : Flight} (h : commitPost s f = .go u g) :
    passCommit s f = settle (putFlight (committed u g) { g with phase := writeOutPhase u g }) := by
  simp only [passCommit, h]
  rfl

theorem committed_frame (u : State) (g : Flight) : { committed u g with shoes := u.shoes, dealer := u.dealer } = u :=
  (congrArg (fun t : State => { t with shoes := u.shoes, dealer := u.dealer }) (enterTicket_shoes (chargeMarks u g g.marks) g)).trans
    (congrArg (fun t : State => { t with shoes := u.shoes }) (chargeMarks_dealer u g g.marks))

theorem writeOutPhase_cases (u : State) (g : Flight) :
    writeOutPhase u g = .committed ∨
      ∃ n, writeOutPhase u g = .heldEngine n ∧ ∃ h ∈ u.flights.list, h.place = .engine n ∧ isStarted h = true := by
  have flights : (committed u g).flights = u.flights := (congrArg State.flights (committed_frame u g) : _)
  unfold writeOutPhase
  split
  · next n held => exact .inr ⟨n, rfl, flights ▸ heldEngineOf_some held⟩
  · exact .inl rfl

/-- COMMIT_POINT of a running command of an engine or a mover. -/
theorem commitPointOp_running {s : State} {cid : Nat} {f : Flight} (hs : serving s = true) (hf : flightOf s cid = some f)
    (hr : f.phase = .running) (hp : (∃ n, f.place = .engine n) ∨ ∃ c m, f.place = .mover c m) : commitPointOp cid s = passCommit s f := by
  rcases hp with ⟨n, hp⟩ | ⟨c, m, hp⟩ <;> simp [commitPointOp, hs, hf, hr, hp]

/-- Settles O24: what a commit point moves beside the command's own effects is the dealer's charges, the shoe's window and the flight. -/
theorem commitPointEntersTheTicket : Obligations.CommitPointEntersTheTicket := by
  intro s u cid f g hs hf hr hp hpost
  have frame := committed_frame u g
  refine ⟨putFlight (committed u g) { g with phase := writeOutPhase u g }, writeOutPhase u g, ?exec, rfl, writeOutPhase_cases u g,
    (congrArg State.memories frame : _), (congrArg State.host0 frame : _), (congrArg State.host1 frame : _), enterTicket_lastTicket _ g,
    enterTicket_window _ g, ?none⟩
  case exec => rw [← passCommit_go hpost, ← commitPointOp_running hs hf hr hp]; rfl
  case none =>
    intro none
    simp only [commitPost, none] at hpost
    cases hpost
    exact ⟨rfl, rfl⟩

/-! ## The end of a write-out (R106, R107, R154) -/

/-- With no hardware error the write-out of a committed command ends. -/
theorem writeOutEndOp_clean {st : Start} {s : State} {f : Flight} (hs : serving s = true) (hf : flightOf s st.cid = some f)
    (hc : f.phase = .committed) (he : st.errs = []) : writeOutEndOp st s = endWriteOut (advance s (stepUnitOf f) st.steps) f := by
  have there : flightOf s f.cid = some f := by rw [flightOf_cid hf]; exact hf
  simp [writeOutEndOp, hs, hf, hc, he, applyErrs_nil, endsUe_nil, serving_advance, flightOf_advance, there]

theorem landWriteOut_eq {s w : State} {f : Flight} {q : Nat} (hr : f.result.status = sOk) (hw : writeAll f (readyAreas s f) f.staged = (w, q)) :
    landWriteOut s f =
      if q ≠ 0 then lostCommand w f q (lostDetail f q) (lostUnit f).1 (lostUnit f).2 else complete w f sOk f.result.detail f.result.aux := by
  simp [landWriteOut, hw, hr]

/-- A message to a peer writes no memory of this device and no host's. -/
theorem sendTensor_frame {s t : State} {kind q epoch addr id : Nat} {payload : List Byte}
    (h : sendTensor s kind q epoch addr payload = some (t, id)) :
    t.memories = s.memories ∧ t.host0 = s.host0 ∧ t.host1 = s.host1 := by
  unfold sendTensor at h
  obtain ⟨r, _, hr⟩ := Option.map_eq_some_iff.1 h
  cases hr
  exact ⟨rfl, rfl, rfl⟩

theorem sendRuns_frame {epoch : Nat} (runs : List (Nat × Nat × List Byte)) {s z : State} {ids : List Nat}
    (h : sendRuns epoch s runs = some (z, ids)) : z.memories = s.memories ∧ z.host0 = s.host0 ∧ z.host1 = s.host1 := by
  induction runs generalizing s z ids with
  | nil => cases h; exact ⟨rfl, rfl, rfl⟩
  | cons run rest ih =>
    unfold sendRuns at h
    split at h
    · cases h
    · next s1 id sent =>
      split at h
      · cases h
      · next s2 more hrest =>
        cases h
        obtain ⟨m1, a1, b1⟩ := sendTensor_frame sent
        obtain ⟨m2, a2, b2⟩ := ih hrest
        exact ⟨m2.trans m1, a2.trans a1, b2.trans b1⟩

/-- Runs for peers leave as messages, which the command then awaits. -/
theorem endWriteOut_peers {s z : State} {f : Flight} {ids : List Nat} (hp : peerRuns f.staged ≠ [])
    (hsend : sendRuns (dealEpoch s f.deal) s (peerRuns f.staged) = some (z, ids)) :
    endWriteOut s f = putFlight z { f with phase := .peer ids } := by
  unfold endWriteOut
  split
  · next none => exact absurd none hp
  · rw [hsend]

/-- Settles O25: the row ends the write-out, which lands, or leaves for the peers. -/
theorem writeOutEndCompletes : Obligations.WriteOutEndCompletes := by
  intro st s t w f q hs hf hc he ht hr
  have run : exec (.writeOutEnd st) s = .next (endWriteOut t f) := by
    rw [ht, ← writeOutEndOp_clean hs hf hc he]; rfl
  rw [run]
  refine ⟨fun nopeer hw => ?here, fun z ids peers hsend => ⟨?leaves, ?frame⟩⟩
  case here =>
    have lands : endWriteOut t f = landWriteOut t f := by simp only [endWriteOut, nopeer]
    rw [lands, landWriteOut_eq hr hw]
    exact ⟨fun h0 => by simp [h0], fun h0 => by simp [h0]⟩
  case leaves => rw [endWriteOut_peers peers hsend]
  case frame =>
    have frame := sendRuns_frame _ hsend
    rw [ht] at frame
    exact frame

/-! ## The bytes of a staged run (R107, R167, R168) -/

/-- Tagging what a write-out reaches moves the tags alone. -/
structure TagsOnly (s t : State) : Prop where
  rest : { t with memories := { t.memories with areaTags := s.memories.areaTags, segs := s.memories.segs } } = s

theorem tagStores_tagsOnly (s : State) (f : Flight) (l : Loc) (len : Nat) : TagsOnly s (tagStores s f l len) := by
  unfold tagStores
  dsimp only
  split
  · exact ⟨rfl⟩
  · split
    · refine foldl_keeps (TagsOnly s) _ (fun _ _ h => ?_) _ s ⟨rfl⟩
      exact ⟨h.rest⟩
    · exact ⟨rfl⟩
  · exact ⟨rfl⟩

/-- No byte memory changes by the tags. -/
theorem tagStores_bytes (s : State) (f : Flight) (l : Loc) (len : Nat) :
    (tagStores s f l len).memories.mem = s.memories.mem ∧ (tagStores s f l len).memories.areas = s.memories.areas ∧
      (tagStores s f l len).host0 = s.host0 ∧ (tagStores s f l len).host1 = s.host1 := by
  have only := (tagStores_tagsOnly s f l len).rest
  exact ⟨(congrArg (fun t : State => t.memories.mem) only : _), (congrArg (fun t : State => t.memories.areas) only : _),
    (congrArg State.host0 only : _), (congrArg State.host1 only : _)⟩

/-- A run of device memory changes no operand area and no host. -/
theorem putCovered_frame (cov : List (Nat × Nat)) (s : State) (pa : Nat) (bs : List Byte) :
    (putCovered cov s pa bs).1.memories.areas = s.memories.areas ∧ (putCovered cov s pa bs).1.host0 = s.host0 ∧
      (putCovered cov s pa bs).1.host1 = s.host1 := by
  unfold putCovered
  dsimp only
  split
  · exact ⟨rfl, rfl, rfl⟩
  · split <;> exact ⟨rfl, rfl, rfl⟩

/-- It changes no byte outside it. -/
theorem putCovered_outside (cov : List (Nat × Nat)) (s : State) (pa : Nat) (bs : List Byte) (a : Nat) (h : a < pa ∨ pa + bs.length ≤ a) :
    memGet (putCovered cov s pa bs).1.memories.mem a = memGet s.memories.mem a := by
  unfold putCovered
  dsimp only
  split
  · exact memGet_memWrite_ne _ _ _ _ h
  · split
    · exact memGet_writeUnits pa bs _ _ _ a h
    · exact memGet_memWrite_ne _ _ _ _ h

/-- Where no unit of it is poisoned it stores every byte. -/
theorem putCovered_stores (cov : List (Nat × Nat)) (s : State) (pa : Nat) (bs : List Byte)
    (h : clusterBase ≤ pa ∨ anyPoison s pa bs.length = false) (i : Nat) (hi : i < bs.length) :
    memGet (putCovered cov s pa bs).1.memories.mem (pa + i) = bs.getD i 0#8 := by
  unfold putCovered
  dsimp only
  split
  · exact memGet_memWrite_getD _ _ _ _ hi
  · next above =>
    rw [h.resolve_left above]
    exact memGet_memWrite_getD _ _ _ _ hi

section
variable (cov : List (Nat × Nat)) (f : Flight) (s : State) {w : SWrite} (plain : w.enc = none)

/-- A run for an operand area is written there, and tags it. -/
theorem writeOne_area {n off : Nat} (hl : w.loc = .area n off) :
    (writeOne cov f s w).1 =
      tagStores { s with memories := { s.memories with areas := memWrite s.memories.areas (areaAt n + off) w.data } } f w.loc w.data.length := by
  simp only [writeOne, hl]

include plain

/-- A plain run for device memory that lies behind no dead link is written there, and tags it. -/
theorem writeOne_mem {pa : Nat} (hl : w.loc = .mem pa) (up : farDown s pa = false) :
    (writeOne cov f s w).1 = tagStores (putCovered cov s pa w.data).1 f w.loc w.data.length := by
  simp [writeOne, hl, plain, up]

theorem writeOne_mem_down {pa : Nat} (hl : w.loc = .mem pa) (down : farDown s pa = true) : (writeOne cov f s w).1 = s := by
  simp [writeOne, hl, plain, down]

/-- A plain run for a host that takes it is written there. -/
theorem writeOne_host {port addr : Nat} (hl : w.loc = .host port addr) (live : portLive s port = true)
    (takes : hostRefuses s port addr w.data.length = false) : (writeOne cov f s w).1 = hostPut s port addr w.data := by
  simp [writeOne, hl, plain, live, takes]

/-- A plain run for a host is written there, or is lost. -/
theorem writeOne_host_cases {port addr : Nat} (hl : w.loc = .host port addr) :
    (writeOne cov f s w).1 = hostPut s port addr w.data ∨ (writeOne cov f s w).1 = s := by
  simp only [writeOne, hl, plain]
  split
  · exact .inr rfl
  · split
    · exact .inr rfl
    · exact .inl rfl

end

/-- A host's memory after a run for it, and the other host's, which stands. -/
theorem hostOf_hostPut (s : State) (port addr : Nat) (bs : List Byte) (p : Nat) :
    hostOf (hostPut s port addr bs) p =
      if (p = 0) = (port = 0) then { hostOf s port with mem := memWrite (hostOf s port).mem addr bs } else hostOf s p := by
  by_cases hp : p = 0 <;> by_cases hport : port = 0 <;> simp [hostPut, setHost, hostOf, hp, hport]

theorem hostOf_congr (s : State) {p port : Nat} (h : (p = 0) = (port = 0)) : hostOf s p = hostOf s port := by
  simp only [hostOf, h]

/-- A run for a host changes no byte outside it, in either host. -/
theorem hostPut_outside (s : State) (port addr : Nat) (bs : List Byte) (p a : Nat)
    (h : ((p = 0) ≠ (port = 0)) ∨ a < addr ∨ addr + bs.length ≤ a) :
    memGet (hostOf (hostPut s port addr bs) p).mem a = memGet (hostOf s p).mem a := by
  rw [hostOf_hostPut]
  split
  · next same =>
    rw [hostOf_congr s same]
    exact memGet_memWrite_ne _ _ _ _ (h.resolve_left fun ne => ne same)
  · rfl

theorem hostPut_stores (s : State) (port addr : Nat) (bs : List Byte) (i : Nat) (hi : i < bs.length) :
    memGet (hostOf (hostPut s port addr bs) port).mem (addr + i) = bs.getD i 0#8 := by
  rw [hostOf_hostPut, if_pos rfl]
  exact memGet_memWrite_getD _ _ _ _ hi

/-- Settles O26: one case per destination; a run that does not land leaves the state. -/
theorem aWriteOutStoresOnlyItsBytes : Obligations.AWriteOutStoresOnlyItsBytes := by
  intro s f w cov plain t
  refine ⟨fun pa hl => ?mem, fun n off hl => ?area, fun port addr hl => ?host⟩
  case mem =>
    cases hfar : farDown s pa with
    | true =>
      have lost : t = s := writeOne_mem_down cov f s plain hl hfar
      rw [lost]
      exact ⟨fun _ _ => rfl, (fun up => nomatch up), rfl, rfl, rfl⟩
    | false =>
      have written : t = tagStores (putCovered cov s pa w.data).1 f w.loc w.data.length := writeOne_mem cov f s plain hl hfar
      obtain ⟨tmem, tareas, thost0, thost1⟩ := tagStores_bytes (putCovered cov s pa w.data).1 f w.loc w.data.length
      obtain ⟨pareas, phost0, phost1⟩ := putCovered_frame cov s pa w.data
      rw [written, tmem]
      exact ⟨putCovered_outside cov s pa w.data, fun _ => putCovered_stores cov s pa w.data, tareas.trans pareas, thost0.trans phost0,
        thost1.trans phost1⟩
  case area =>
    have written := writeOne_area cov f s hl
    obtain ⟨tmem, tareas, thost0, thost1⟩ := tagStores_bytes
      { s with memories := { s.memories with areas := memWrite s.memories.areas (areaAt n + off) w.data } } f w.loc w.data.length
    rw [← written] at tmem tareas thost0 thost1
    rw [tareas]
    exact ⟨fun _ => memGet_memWrite_ne _ _ _ _, fun _ => memGet_memWrite_getD _ _ _ _, tmem, thost0, thost1⟩
  case host =>
    refine ⟨fun p a outside => ?outside, fun live takes i hi => ?stores, ?memories⟩
    case stores =>
      have written : t = hostPut s port addr w.data := writeOne_host cov f s plain hl live takes
      rw [written]
      exact hostPut_stores s port addr w.data i hi
    case outside =>
      rcases writeOne_host_cases cov f s plain hl with written | lost
      · exact (congrArg (fun u => memGet (hostOf u p).mem a) written).trans (hostPut_outside s port addr w.data p a outside)
      · exact congrArg (fun u => memGet (hostOf u p).mem a) lost
    case memories =>
      rcases writeOne_host_cases cov f s plain hl with written | lost
      · exact (congrArg State.memories written).trans (hostPut_memories ..)
      · exact congrArg State.memories lost

end Sys2Proof.CubeArray
end

section
/-!
SUPPORT. The statements of 05_vector_engine.md: what vx.run starts from, and what each instruction of a running program writes and leaves: scalars,
elements, masks, reductions, loads and stores, and the two limits that end a program.
-/

namespace Sys2Proof.VectorEngine

open Sys2Proof.Machine Sys2Proof.Laws

/-! ## Registers after a write (R116) -/

@[simp] theorem vreg_setV_same (x : Vx) (r : Nat) (v : BitVec 4096) : vreg (setV x r v) r = v := tabGet_tabSet_same ..
theorem vreg_setV_ne (x : Vx) {r n : Nat} (v : BitVec 4096) (h : n ≠ r) : vreg (setV x r v) n = vreg x n := tabGet_tabSet_ne _ _ _ _ h
@[simp] theorem kreg_setK_same (x : Vx) (r : Nat) (v : BitVec 512) : kreg (setK x r v) r = v := tabGet_tabSet_same ..
theorem kreg_setK_ne (x : Vx) {r n : Nat} (v : BitVec 512) (h : n ≠ r) : kreg (setK x r v) n = kreg x n := tabGet_tabSet_ne _ _ _ _ h
@[simp] theorem vreg_addFlags (x : Vx) (fl : FlagWord) (n : Nat) : vreg (addFlags x fl) n = vreg x n := rfl
@[simp] theorem kreg_addFlags (x : Vx) (fl : FlagWord) (n : Nat) : kreg (addFlags x fl) n = kreg x n := rfl
@[simp] theorem addFlags_flags (x : Vx) (fl : FlagWord) : (addFlags x fl).flags = x.flags ||| fl := rfl
@[simp] theorem setV_flags (x : Vx) (r : Nat) (v : BitVec 4096) : (setV x r v).flags = x.flags := rfl
@[simp] theorem setK_flags (x : Vx) (r : Nat) (v : BitVec 512) : (setK x r v).flags = x.flags := rfl

/-- A bit of the OR of flag words (R120). -/
theorem flAll_getLsbD (fs : List FlagWord) (n : Nat) : (flAll fs).getLsbD n = fs.any (·.getLsbD n) := by
  have from_any : ∀ acc : FlagWord, (fs.foldl (· ||| ·) acc).getLsbD n = (acc.getLsbD n || fs.any (·.getLsbD n)) := by
    induction fs with
    | nil => simp
    | cons g gs ih => intro acc; simp [ih, Bool.or_assoc]
  simp [flAll, from_any]

/-- A bit of the flags that the chosen positions raise. -/
theorem flAll_range_getLsbD (chosen : Nat → Bool) (fl : Nat → FlagWord) (m n : Nat) :
    (flAll ((List.range m).map fun j => if chosen j then fl j else 0#32)).getLsbD n = (List.range m).any fun j => chosen j && (fl j).getLsbD n := by
  rw [flAll_getLsbD, List.any_map]
  congr 1
  funext j
  cases hj : chosen j <;> simp [hj]

/-! ## What an instruction leaves of the vector state -/

/-- Two vector states agree in all but V[d] and FLAGS. -/
structure OnlyV (d : Nat) (x y : Vx) : Prop where
  rest : { y with v := x.v, flags := x.flags } = x
  vreg : ∀ n, n ≠ d → vreg y n = vreg x n

/-- Two vector states agree in all but K[d] and FLAGS. -/
structure OnlyK (d : Nat) (x y : Vx) : Prop where
  rest : { y with k := x.k, flags := x.flags } = x
  kreg : ∀ n, n ≠ d → kreg y n = kreg x n

/-- Two vector states agree in all but the staging area and FLAGS. -/
structure OnlyStaged (x y : Vx) : Prop where
  rest : { y with staged := x.staged, scales := x.scales, flags := x.flags } = x

/-- Two vector states stand at the same instruction of the same program with the same step count. -/
structure SamePlace (x y : Vx) : Prop where
  prog : y.prog = x.prog
  pc   : y.pc = x.pc
  p    : y.p = x.p

section
variable {d : Nat} {x y : Vx}

theorem OnlyV.refl (d : Nat) (x : Vx) : OnlyV d x x := ⟨rfl, fun _ _ => rfl⟩
theorem OnlyV.addFlags (fl : FlagWord) (h : OnlyV d x y) : OnlyV d x (addFlags y fl) := ⟨h.rest, h.vreg⟩
theorem OnlyV.kreg (h : OnlyV d x y) (n : Nat) : kreg y n = kreg x n := (congrArg (fun z => Machine.kreg z n) h.rest : _)
theorem OnlyV.xreg (h : OnlyV d x y) (n : Nat) : xreg y n = xreg x n := (congrArg (fun z => Machine.xreg z n) h.rest : _)
theorem OnlyV.vl (h : OnlyV d x y) : y.vl = x.vl := (congrArg Vx.vl h.rest : _)
theorem OnlyV.staged (h : OnlyV d x y) : y.staged = x.staged := (congrArg Vx.staged h.rest : _)
theorem OnlyV.scales (h : OnlyV d x y) : y.scales = x.scales := (congrArg Vx.scales h.rest : _)
theorem OnlyV.place (h : OnlyV d x y) : SamePlace x y := ⟨(congrArg Vx.prog h.rest : _), (congrArg Vx.pc h.rest : _), (congrArg Vx.p h.rest : _)⟩

theorem OnlyK.vreg (h : OnlyK d x y) (n : Nat) : vreg y n = vreg x n := (congrArg (fun z => Machine.vreg z n) h.rest : _)
theorem OnlyK.xreg (h : OnlyK d x y) (n : Nat) : xreg y n = xreg x n := (congrArg (fun z => Machine.xreg z n) h.rest : _)
theorem OnlyK.vl (h : OnlyK d x y) : y.vl = x.vl := (congrArg Vx.vl h.rest : _)
theorem OnlyK.staged (h : OnlyK d x y) : y.staged = x.staged := (congrArg Vx.staged h.rest : _)
theorem OnlyK.scales (h : OnlyK d x y) : y.scales = x.scales := (congrArg Vx.scales h.rest : _)
theorem OnlyK.place (h : OnlyK d x y) : SamePlace x y := ⟨(congrArg Vx.prog h.rest : _), (congrArg Vx.pc h.rest : _), (congrArg Vx.p h.rest : _)⟩

theorem OnlyStaged.vreg (h : OnlyStaged x y) (n : Nat) : vreg y n = vreg x n := (congrArg (fun z => Machine.vreg z n) h.rest : _)
theorem OnlyStaged.kreg (h : OnlyStaged x y) (n : Nat) : kreg y n = kreg x n := (congrArg (fun z => Machine.kreg z n) h.rest : _)
theorem OnlyStaged.xreg (h : OnlyStaged x y) (n : Nat) : xreg y n = xreg x n := (congrArg (fun z => Machine.xreg z n) h.rest : _)
theorem OnlyStaged.vl (h : OnlyStaged x y) : y.vl = x.vl := (congrArg Vx.vl h.rest : _)
theorem OnlyStaged.place (h : OnlyStaged x y) : SamePlace x y :=
  ⟨(congrArg Vx.prog h.rest : _), (congrArg Vx.pc h.rest : _), (congrArg Vx.p h.rest : _)⟩

end

theorem setV_onlyV (x : Vx) (d : Nat) (v : BitVec 4096) : OnlyV d x (setV x d v) := ⟨rfl, fun _ => vreg_setV_ne x v⟩

theorem mergeV_onlyV (x : Vx) (i : VIns) (f : Fmt) (new : List (Nat × FlagWord)) : OnlyV i.vd x (mergeV x i f new) :=
  (setV_onlyV x i.vd _).addFlags _

/-! ## A row of a running program (R131, R133) -/

/-- The vector state after an instruction that left y: its steps are counted, and the next instruction follows. -/
def wentOn (x : Vx) (i : VIns) (y : Vx) : Vx := { y with pc := x.pc + 1, p := x.p + vsteps i }

theorem touchesReassigned_nil (s : State) : touchesReassigned s [] = false :=
  any_eq_false_of _ _ fun _ _ => by split <;> rfl

section
variable {op : Nat} {st : Start} {s t : State} {f : Flight} {x : Vx} {i : VIns} (hat : Slice0.VxAt op st s t f x i)
include hat

/-- An instruction whose steps pass STEP_LIMIT does not run. -/
theorem vxRow_pastLimit (body : State → Actor → VIns → Vx → Run Vx) (past : x.limit < x.p + vsteps i) :
    vxRow op body st s = endVx t f x (.done sLength (detParam 16)) := by
  obtain ⟨serves, flight, runs, rfl, isOp, clean, rfl⟩ := hat
  simp [vxRow, serves, flight, runs, isOp, clean, CubeArray.applyErrs_nil, CubeArray.endsUe_nil, CubeArray.serving_advance,
    CubeArray.flightOf_advance, past]

variable (limit : x.p + vsteps i ≤ x.limit)
include limit

/-- An instruction that ends with a status ends the program. -/
theorem vxRow_done {body : State → Actor → VIns → Vx → Run Vx} {status detail : Nat}
    (ends : body t (actorOf t f) i x emptyLog = .error (.done status detail)) :
    vxRow op body st s = endVx t f x (.done status detail) := by
  obtain ⟨serves, flight, runs, rfl, isOp, clean, rfl⟩ := hat
  simp [vxRow, serves, flight, runs, isOp, clean, CubeArray.applyErrs_nil, CubeArray.endsUe_nil, CubeArray.serving_advance,
    CubeArray.flightOf_advance, Nat.not_lt.2 limit, ends]

/-- An instruction that gives y with an instruction to go on at is counted, and the program runs on with y. -/
theorem vxRow_ok {body : State → Actor → VIns → Vx → Run Vx} {y : Vx} {log : Log}
    (gives : body t (actorOf t f) i x emptyLog = .ok (y, log)) (free : touchesReassigned t log.segs = false)
    (inside : y.pc < y.prog.length / 8) :
    vxRow op body st s = putFlight (Slice0.seen t f log) (keepVx t f { y with p := y.p + vsteps i } log) := by
  obtain ⟨serves, flight, runs, rfl, isOp, clean, rfl⟩ := hat
  simp [vxRow, serves, flight, runs, isOp, clean, CubeArray.applyErrs_nil, CubeArray.endsUe_nil, CubeArray.serving_advance,
    CubeArray.flightOf_advance, Nat.not_lt.2 limit, gives, free, Nat.not_le.2 inside, Slice0.seen]

/-- The same for an instruction that is followed by the next one. -/
theorem vxRow_goOn {run : State → Actor → VIns → Vx → Run Vx} {y : Vx} {log : Log}
    (gives : run t (actorOf t f) i x emptyLog = .ok (y, log)) (free : touchesReassigned t log.segs = false)
    (place : SamePlace x y) (inside : x.pc + 1 < x.prog.length / 8) :
    vxRow op (fun s a i x => goOn (run s a i x)) st s = putFlight (Slice0.seen t f log) (keepVx t f (wentOn x i y) log) := by
  obtain ⟨prog, pc, p⟩ := place
  have counted := vxRow_ok hat limit (body := fun s a i x => goOn (run s a i x)) (y := { y with pc := y.pc + 1 })
    (CubeArray.run_bind_of_ok gives) free (by rw [prog, pc]; exact inside)
  rw [counted, wentOn, pc, p]

/-- The same for an instruction that works on registers alone: no translation buffer sees an access. -/
theorem vxPlain_ok {body : VIns → Vx → Run Vx} {y : Vx} (gives : body i x emptyLog = .ok (y, emptyLog)) (place : SamePlace x y)
    (inside : x.pc + 1 < x.prog.length / 8) :
    vxPlain op body st s = .next (putFlight t (keepVx t f (wentOn x i y) emptyLog)) :=
  congrArg Host.Outcome.next (vxRow_goOn hat limit (run := fun _ _ => body) gives (touchesReassigned_nil t) place inside)

theorem vxPlain_done {body : VIns → Vx → Run Vx} {status detail : Nat} (ends : body i x emptyLog = .error (.done status detail)) :
    vxPlain op body st s = .next (stopCommand t { f with flags := x.flags } (.done status detail)) :=
  congrArg Host.Outcome.next (vxRow_done hat limit (by simp [goOn, bind, StateT.bind, Except.bind, ends]))

end

/-! ## Scalars (R126, R131) -/

/-- Settles O16: each scalar body is a write of its X register; vx.bnz names the next instruction itself. -/
theorem vxScalarInstructionsComputeExactly : Obligations.VxScalarInstructionsComputeExactly := by
  intro st s t f x i op hat limit b run next far
  refine ⟨?setvl, ?xli, ?xadd, ?xsub, ?bnz⟩
  case setvl => rintro rfl inside; exact vxPlain_ok hat limit (y := vSetvl i x) rfl ⟨rfl, rfl, rfl⟩ inside
  case xli => rintro rfl inside; exact vxPlain_ok hat limit (y := vXli i x) rfl ⟨rfl, rfl, rfl⟩ inside
  case xadd => rintro rfl inside; exact vxPlain_ok hat limit (y := vXadd i x) rfl ⟨rfl, rfl, rfl⟩ inside
  case xsub => rintro rfl inside; exact vxPlain_ok hat limit (y := vXsub i x) rfl ⟨rfl, rfl, rfl⟩ inside
  case bnz =>
    rintro rfl inside
    exact congrArg Host.Outcome.next (vxRow_ok hat limit (y := { x with pc := bnzTarget i x }) (log := emptyLog) rfl (touchesReassigned_nil t) inside)

/-! ## The elements of a register (R117) -/

theorem unpackRun_length (w n v : Nat) : (unpackRun w n v).length = n := by
  induction n generalizing v with
  | zero => rfl
  | succ n ih => simp [unpackRun, ih]

theorem unpackRun_getElem (w n v : Nat) {j : Nat} (hj : j < (unpackRun w n v).length) : (unpackRun w n v)[j] = v / 2 ^ (w * j) % 2 ^ w := by
  induction n generalizing v j with
  | zero => simp [unpackRun] at hj
  | succ n ih =>
    cases j with
    | zero => simp [unpackRun]
    | succ j =>
      have next : (unpackRun w (n + 1) v)[j + 1] = (unpackRun w n (v >>> w))[j]'(Nat.lt_of_succ_lt_succ hj) := rfl
      rw [next, ih, Nat.shiftRight_eq_div_pow, Nat.div_div_eq_div_mul, ← Nat.pow_add, Nat.mul_succ, Nat.add_comm w]

theorem packRun_lt (w : Nat) (xs : List Nat) : packRun w xs < 2 ^ (w * xs.length) := by
  induction xs with
  | nil => simp [packRun]
  | cons a xs ih =>
    have low : a % 2 ^ w < 2 ^ w := Nat.mod_lt _ (Nat.two_pow_pos w)
    rw [packRun, List.length_cons, Nat.mul_succ, Nat.pow_add, Nat.shiftLeft_eq]
    calc a % 2 ^ w + packRun w xs * 2 ^ w < 2 ^ w + packRun w xs * 2 ^ w := by omega
      _ = (packRun w xs + 1) * 2 ^ w := by ring
      _ ≤ 2 ^ (w * xs.length) * 2 ^ w := Nat.mul_le_mul_right _ ih

theorem toNat_packRun {w n : Nat} {xs : List Nat} (fits : w * xs.length ≤ n) : (BitVec.ofNat n (packRun w xs)).toNat = packRun w xs :=
  Nat.mod_eq_of_lt ((packRun_lt w xs).trans_le (Nat.pow_le_pow_right Nat.two_pos fits))

/-- Element j of a packed run is the j-th element, cut to its width. -/
theorem packRun_element (w : Nat) (xs : List Nat) {j : Nat} (hj : j < xs.length) :
    packRun w xs / 2 ^ (w * j) % 2 ^ w = xs[j] % 2 ^ w := by
  induction xs generalizing j with
  | nil => simp at hj
  | cons a xs ih =>
    have low : a % 2 ^ w < 2 ^ w := Nat.mod_lt _ (Nat.two_pow_pos w)
    cases j with
    | zero => simp [packRun, Nat.shiftLeft_eq]
    | succ j =>
      have rest : (a % 2 ^ w + packRun w xs <<< w) / 2 ^ w = packRun w xs := by
        rw [Nat.shiftLeft_eq, Nat.add_mul_div_right _ _ (Nat.two_pow_pos w), Nat.div_eq_of_lt low, Nat.zero_add]
      rw [packRun, Nat.mul_succ, Nat.add_comm (w * j), Nat.pow_add, ← Nat.div_div_eq_div_mul, rest]
      exact ih (Nat.lt_of_succ_lt_succ hj)

@[simp] theorem velems_length (f : Fmt) (v : BitVec 4096) : (velems f v).length = regElems f := unpackRun_length ..

@[simp] theorem velems_getElem (f : Fmt) (v : BitVec 4096) {j : Nat} (hj : j < (velems f v).length) :
    (velems f v)[j] = Slice0.elemAt f v j := unpackRun_getElem ..

theorem elemAt_vpack (f : Fmt) {xs : List Nat} (len : xs.length = regElems f) {j : Nat} (hj : j < xs.length) :
    Slice0.elemAt f (vpack f xs) j = xs[j] % 2 ^ fmtBits f := by
  have fits : fmtBits f * xs.length ≤ 4096 := by rw [len]; exact Nat.mul_div_le 4096 _
  rw [Slice0.elemAt, vpack, toNat_packRun fits, packRun_element]

theorem elemAt_mod (f : Fmt) (v : BitVec 4096) (j : Nat) : Slice0.elemAt f v j % 2 ^ fmtBits f = Slice0.elemAt f v j := Nat.mod_mod ..

@[simp] theorem second_length (x : Vx) (f : Fmt) (i : VIns) : (second x f i).length = regElems f := by
  unfold second
  split <;> simp

@[simp] theorem second_getElem (x : Vx) (f : Fmt) (i : VIns) {j : Nat} (hj : j < (second x f i).length) :
    (second x f i)[j] = Slice0.secondAt x f i j := by
  unfold Slice0.secondAt
  split
  · next h => simp [second, h]
  · next h => simp [second, h]

/-! ## Element instructions (R118 to R120, R126) -/

/-- y is x after an instruction that writes element j of V[VD] with val j where j is processed, and raises its flags. -/
structure Writes (x y : Vx) (i : VIns) (f : Fmt) (val : Nat → Nat × FlagWord) : Prop where
  only  : OnlyV i.vd x y
  elems : ∀ j, j < regElems f → Slice0.elemAt f (vreg y i.vd) j =
    if processed x i j then (val j).1 % 2 ^ fmtBits f else Slice0.elemAt f (vreg x i.vd) j
  flags : ∀ n, y.flags.getLsbD n = (x.flags.getLsbD n || (List.range (regElems f)).any fun j => processed x i j && (val j).2.getLsbD n)

/-- A list that holds what is to be written at each processed position is merged into V[VD]. -/
theorem mergeV_writes {x : Vx} {i : VIns} {f : Fmt} {val : Nat → Nat × FlagWord} {new : List (Nat × FlagWord)} (len : new.length = regElems f)
    (holds : ∀ j (hj : j < new.length), processed x i j = true → new[j] = val j) : Writes x (mergeV x i f new) i f val := by
  refine ⟨mergeV_onlyV x i f new, fun j hj => ?elems, fun n => ?flags⟩
  case elems =>
    have inside : j < new.length := len ▸ hj
    rw [mergeV, vreg_addFlags, vreg_setV_same, elemAt_vpack f (by simp) (by simpa using hj), List.getElem_mapIdx, velems_getElem]
    split
    · next hp => rw [List.getD_eq_getElem _ _ inside, holds j inside hp]
    · exact elemAt_mod ..
  case flags =>
    have raised : (new.mapIdx fun j r => if processed x i j then r.2 else 0#32) =
        (List.range (regElems f)).map fun j => if processed x i j then (val j).2 else 0#32 := by
      refine List.ext_getElem (by simp [len]) fun j hj _ => ?_
      rw [List.getElem_mapIdx, List.getElem_map, List.getElem_range]
      split
      · next hp => rw [holds j _ hp]
      · rfl
    rw [mergeV, addFlags_flags, setV_flags, BitVec.getLsbD_or, raised, flAll_range_getLsbD]

theorem needVl_ok {x : Vx} {f : Fmt} (h : x.vl ≤ regElems f) : needVl x f = pure () := by simp [needVl, need, h]

theorem needVl_done {x : Vx} {f : Fmt} (h : regElems f < x.vl) : needVl x f = finish sLength (detInstr x.pc) := by
  simp [needVl, need, Nat.not_le.2 h]

theorem finish_bind {α β : Type} (status detail : Nat) (k : α → Run β) (l : Log) :
    ((finish status detail : Run α) >>= k) l = .error (.done status detail) := rfl

/-- What the body of an element instruction does: it ends the program with S_LENGTH where VL exceeds E(FMT), and else writes its elements. -/
structure ElementBody (op : Nat) (val : Vx → VIns → Fmt → Nat → Nat × FlagWord) (body : VIns → Vx → Run Vx) : Prop where
  short : ∀ i x, regElems (fmtOfIns i) < x.vl → body i x emptyLog = .error (.done sLength (detInstr x.pc))
  fits  : ∀ i x, x.vl ≤ regElems (fmtOfIns i) → (op = 0x40 → x.vl ≤ regElems (Slice0.srcFmt i)) →
    ∃ y, body i x emptyLog = .ok (y, emptyLog) ∧ Writes x y i (fmtOfIns i) (val x i (fmtOfIns i))

/-- A body that merges a list under R118 alone. -/
theorem elementBody_of_merge {op : Nat} {val : Vx → VIns → Fmt → Nat → Nat × FlagWord} {new : VIns → Vx → List (Nat × FlagWord)}
    (len : ∀ i x, (new i x).length = regElems (fmtOfIns i))
    (holds : ∀ i x j (hj : j < (new i x).length), processed x i j = true → (new i x)[j] = val x i (fmtOfIns i) j) :
    ElementBody op val fun i x => do
      needVl x (fmtOfIns i)
      pure (mergeV x i (fmtOfIns i) (new i x)) where
  short i x h := by rw [needVl_done h, finish_bind]
  fits i x h _ := ⟨_, by rw [needVl_ok h]; rfl, mergeV_writes (len i x) (holds i x)⟩

theorem vTwo_elements (op : Fmt → Nat → Nat → Nat × FlagWord) (c : Nat) :
    ElementBody c (fun x i f j => op f (Slice0.elemAt f (vreg x i.va) j) (Slice0.secondAt x f i j)) (vTwo op) :=
  elementBody_of_merge (by simp) (by intro i x j hj hp; simp [hp])

theorem vOne_elements (op : Fmt → Nat → Nat × FlagWord) (c : Nat) :
    ElementBody c (fun x i f j => op f (Slice0.elemAt f (vreg x i.va) j)) (vOne op) :=
  elementBody_of_merge (by simp) (by intro i x j hj hp; simp [hp])

theorem vFma_elements (c : Nat) :
    ElementBody c (fun x i f j => laneFma f (Slice0.elemAt f (vreg x i.va) j) (Slice0.secondAt x f i j) (Slice0.elemAt f (vreg x i.vd) j)) vFma :=
  elementBody_of_merge (by simp) (by intro i x j hj hp; simp [hp])

theorem vMov_elements (c : Nat) :
    ElementBody c (fun x i f j => (if i.im = 0 then Slice0.elemAt f (vreg x i.va) j else immElem f i, 0#32)) vMov :=
  elementBody_of_merge (by intro i x; split <;> simp) (by intro i x j hj _; split <;> simp [*])

theorem vTable_elements (deriv : Bool) (c : Nat) :
    ElementBody c (fun x i f j => laneTable f ((tableFnOfCode (i.imm % 256)).getD .exp) deriv (Slice0.elemAt f (vreg x i.va) j)) (vTable deriv) :=
  elementBody_of_merge (by simp) (by intro i x j hj hp; simp [hp])

theorem lt_vl_of_processed {x : Vx} {i : VIns} {j : Nat} (h : processed x i j = true) : j < x.vl :=
  of_decide_eq_true (Bool.and_eq_true_iff.1 h).1

/-- vx.cvt also needs VL within E of its source format. -/
theorem vCvt_elements :
    ElementBody 0x40 (fun x i f j => laneCvt (Slice0.srcFmt i) f (Slice0.elemAt (Slice0.srcFmt i) (vreg x i.va) j)) vCvt where
  short i x h := by rw [vCvt, needVl_done h, finish_bind]
  fits i x h hsrc := by
    refine ⟨_, by rw [vCvt, ← Slice0.srcFmt, needVl_ok h, needVl_ok (hsrc rfl)]; rfl, mergeV_writes (by simp) fun j hj hp => ?_⟩
    have inside : j < (velems (Slice0.srcFmt i) (vreg x i.va)).length := by
      rw [velems_length]; exact (lt_vl_of_processed hp).trans_le (hsrc rfl)
    simp only [List.getElem_map, List.getElem_range, hp, if_true, List.getD_eq_getElem _ _ inside, velems_getElem]

/-- Every row of the table of element instructions runs a body that writes the elements of its table entry. -/
theorem elemRows_body : ∀ r ∈ Slice0.elemRows, ∃ body, (∀ st s, exec (r.row st) s = vxPlain r.op body st s) ∧ ElementBody r.op r.val body := by
  refine List.forall_iff_forall_mem.1 ?_
  simp only [Slice0.elemRows, List.Forall]
  exact ⟨⟨_, fun _ _ => rfl, vTwo_elements ..⟩, ⟨_, fun _ _ => rfl, vTwo_elements ..⟩, ⟨_, fun _ _ => rfl, vTwo_elements ..⟩,
    ⟨_, fun _ _ => rfl, vFma_elements _⟩, ⟨_, fun _ _ => rfl, vTwo_elements ..⟩, ⟨_, fun _ _ => rfl, vTwo_elements ..⟩,
    ⟨_, fun _ _ => rfl, vTwo_elements ..⟩, ⟨_, fun _ _ => rfl, vOne_elements ..⟩, ⟨_, fun _ _ => rfl, vOne_elements ..⟩,
    ⟨_, fun _ _ => rfl, vOne_elements ..⟩, ⟨_, fun _ _ => rfl, vMov_elements _⟩, ⟨_, fun _ _ => rfl, vCvt_elements⟩,
    ⟨_, fun _ _ => rfl, vTable_elements ..⟩, ⟨_, fun _ _ => rfl, vTable_elements ..⟩⟩

/-- Settles O17: the row's body merges its results into V[VD], and the program goes on. -/
theorem vxElementInstructionsWriteProcessedElements : Obligations.VxElementInstructionsWriteProcessedElements := by
  intro r hr st s t f x i hat limit fits fitsSrc inside
  obtain ⟨body, row, elements⟩ := elemRows_body r hr
  obtain ⟨y, gives, only, elems, flags⟩ := elements.fits i x fits fitsSrc
  exact ⟨wentOn x i y, (row st s).trans (vxPlain_ok hat limit gives only.place inside), elems, only.vreg, only.kreg, only.xreg, flags,
    only.vl, only.staged, only.scales, rfl, rfl⟩

/-- Settles O21: past the limit the row ends before its body, and where VL exceeds E(FMT) the body ends first. -/
theorem vxLengthAndStepLimitEndTheProgram : Obligations.VxLengthAndStepLimitEndTheProgram := by
  intro r hr st s t f x i hat
  obtain ⟨body, row, elements⟩ := elemRows_body r hr
  refine ⟨fun past => ?past, fun limit short => ?short⟩
  case past => exact (row st s).trans (congrArg Host.Outcome.next (vxRow_pastLimit hat _ past))
  case short => exact (row st s).trans (vxPlain_done hat limit (elements.short i x short))

/-! ## Masks (R118 to R120) -/

/-- The formats of a vector instruction have at least 8 bits, so that a mask register holds a bit for each element. -/
theorem regElems_fmtOfIns_le (i : VIns) : regElems (fmtOfIns i) ≤ 512 := by
  have wide : 8 ≤ fmtBits (fmtOfIns i) := by
    unfold fmtOfIns regFmt
    split
    · next g _ => cases g <;> decide
    · decide
  exact Nat.div_le_of_le_mul (by omega)

/-- A sweep that puts a bit at each chosen place that a list names: `bit` is what it puts there, however often the place is named. -/
theorem getLsbD_putBits {α : Type} (chosen : Nat → Bool) (place : α → Nat) (put : α → Bool) (bit : Nat → Bool) (l : List α) (k : BitVec 512)
    (puts : ∀ a ∈ l, place a < 512 ∧ (chosen (place a) = true → put a = bit (place a))) (j : Nat) :
    (l.foldl (fun k a => if chosen (place a) then putBit k (place a) (put a) else k) k).getLsbD j =
      if j ∈ l.map place ∧ chosen j = true then bit j else k.getLsbD j := by
  induction l generalizing k with
  | nil => simp
  | cons a l ih =>
    obtain ⟨small, same⟩ := puts a List.mem_cons_self
    rw [List.foldl_cons, ih _ fun b hb => puts b (List.mem_cons_of_mem a hb)]
    by_cases at_a : j = place a
    · subst at_a
      by_cases hc : chosen (place a) = true
      · simp [hc, putBit_getLsbD _ _ _ _ small, same hc]
      · simp [hc]
    · have other : (if chosen (place a) then putBit k (place a) (put a) else k).getLsbD j = k.getLsbD j := by
        split
        · rw [putBit_getLsbD _ _ _ _ small, if_neg at_a]
        · rfl
      simp [other, at_a]

/-- The same for a sweep over the places below n. -/
theorem getLsbD_putBits_range {α : Type} {chosen : Nat → Bool} {place : α → Nat} {put : α → Bool} {bit : Nat → Bool} {l : List α} {n : Nat}
    (small : n ≤ 512) (places : l.map place = List.range n) (puts : ∀ a ∈ l, chosen (place a) = true → put a = bit (place a))
    (k : BitVec 512) (j : Nat) :
    (l.foldl (fun k a => if chosen (place a) then putBit k (place a) (put a) else k) k).getLsbD j =
      if j < n && chosen j then bit j else k.getLsbD j := by
  have inside : ∀ a ∈ l, place a < n := fun a ha => List.mem_range.1 (places ▸ List.mem_map_of_mem ha)
  rw [getLsbD_putBits chosen place put bit l k (fun a ha => ⟨(inside a ha).trans_le small, puts a ha⟩) j]
  simp [places]

/-- y is x after an instruction that writes bit j of K[VD] with `bit j` where j is processed, and raises the flags `fl j`. -/
structure WritesMask (x y : Vx) (i : VIns) (bit : Nat → Bool) (fl : Nat → FlagWord) : Prop where
  only  : OnlyK i.vd x y
  bits  : ∀ j, j < 512 → (kreg y i.vd).getLsbD j =
    if j < regElems (fmtOfIns i) && processed x i j then bit j else (kreg x i.vd).getLsbD j
  flags : ∀ n, y.flags.getLsbD n = (x.flags.getLsbD n || (List.range (regElems (fmtOfIns i))).any fun j => processed x i j && (fl j).getLsbD n)

theorem addFlags_setK_onlyK (x : Vx) (d : Nat) (k : BitVec 512) (fl : FlagWord) : OnlyK d x (addFlags (setK x d k) fl) := ⟨rfl, fun _ => kreg_setK_ne x k⟩

/-- Results that hold the bit and the flags of each processed position are put into K[VD]. -/
theorem putResults_writes {x : Vx} {i : VIns} {res : Nat → Bool × FlagWord} {rs : List (Bool × FlagWord)}
    (len : rs.length = regElems (fmtOfIns i)) (holds : ∀ j (hj : j < rs.length), rs[j] = if processed x i j then res j else (false, 0#32)) :
    WritesMask x (addFlags (setK x i.vd
        (rs.zipIdx.foldl (fun (k : BitVec 512) r => if processed x i r.2 then putBit k r.2 r.1.1 else k) (kreg x i.vd))) (flAll (rs.map (·.2))))
      i (fun j => (res j).1) fun j => (res j).2 := by
  refine ⟨addFlags_setK_onlyK .., fun j _ => ?bits, fun n => ?flags⟩
  case bits =>
    have small := regElems_fmtOfIns_le i
    have places : rs.zipIdx.map (·.2) = List.range (regElems (fmtOfIns i)) := by
      rw [← len, List.range_eq_range']; exact List.zipIdx_map_snd 0 rs
    have puts : ∀ a ∈ rs.zipIdx, processed x i a.2 = true → a.1.1 = (res a.2).1 := by
      intro a ha hp
      obtain ⟨inside, this⟩ := List.mem_zipIdx' ha
      rw [this, holds _ inside, if_pos hp]
    rw [kreg_addFlags, kreg_setK_same]
    exact getLsbD_putBits_range (put := fun a => a.1.1) (bit := fun j => (res j).1) small places puts _ j
  case flags =>
    have raised : rs.map (·.2) = (List.range (regElems (fmtOfIns i))).map fun j => if processed x i j then (res j).2 else 0#32 := by
      refine List.ext_getElem (by simp [len]) fun j hj _ => ?_
      rw [List.getElem_map, holds, List.getElem_map, List.getElem_range]
      split <;> rfl
    rw [addFlags_flags, setK_flags, BitVec.getLsbD_or, raised, flAll_range_getLsbD]

section
variable {x : Vx} {i : VIns} (fits : x.vl ≤ regElems (fmtOfIns i))
include fits

theorem vCmp_mask (c : Cmp) :
    let cmp (j : Nat) : Bool × FlagWord :=
      laneCmp (fmtOfIns i) c (Slice0.elemAt (fmtOfIns i) (vreg x i.va) j) (Slice0.secondAt x (fmtOfIns i) i j)
    ∃ y, vCmp c i x emptyLog = .ok (y, emptyLog) ∧ WritesMask x y i (fun j => (cmp j).1) fun j => (cmp j).2 := by
  intro cmp
  exact ⟨_, by rw [vCmp, needVl_ok fits]; rfl, putResults_writes (by simp) (by intro j hj; simp [cmp])⟩

theorem vMask_mask (op : Bool → Bool → Bool) :
    ∃ y, vMask op i x emptyLog = .ok (y, emptyLog) ∧
      WritesMask x y i (fun j => op ((kreg x i.va).getLsbD j) ((kreg x i.vb).getLsbD j)) fun _ => 0#32 := by
  refine ⟨setK x i.vd _, by rw [vMask, needVl_ok fits]; rfl, ⟨rfl, fun _ => kreg_setK_ne x _⟩, fun j _ => ?bits, fun n => by simp⟩
  case bits =>
    have below : (decide (j < regElems (fmtOfIns i)) && processed x i j) = (decide (j < x.vl) && processed x i j) := by
      cases hp : processed x i j with
      | false => simp
      | true =>
        have := lt_vl_of_processed hp
        simp [this, this.trans_le fits]
    rw [kreg_setK_same, below]
    exact getLsbD_putBits_range (place := id) (fits.trans (regElems_fmtOfIns_le i)) (List.map_id _) (fun _ _ _ => rfl) _ j

end

/-- Settles O18: each row's body writes its mask register, and the program goes on. -/
theorem vxMaskInstructionsWriteTheirBits : Obligations.VxMaskInstructionsWriteTheirBits := by
  unfold Obligations.VxMaskInstructionsWriteTheirBits
  intro after st s t f x i op hat limit fits inside g cmp a b
  have masked : ∀ {c : Instr} {body : VIns → Vx → Run Vx} {bit : Nat → Bool} {fl : Nat → FlagWord}, exec c s = vxPlain op body st s →
      (∃ y, body i x emptyLog = .ok (y, emptyLog) ∧ WritesMask x y i bit fl) → after c s t f x i bit fl := by
    rintro c body bit fl row ⟨y, gives, only, bits, flags⟩
    exact ⟨wentOn x i y, row.trans (vxPlain_ok hat limit gives only.place inside), bits, only.kreg, only.vreg, only.xreg, flags,
      only.vl, only.staged, only.scales, rfl, rfl⟩
  exact ⟨fun h => masked (h ▸ rfl) (vCmp_mask fits .lt), fun h => masked (h ▸ rfl) (vCmp_mask fits .le),
    fun h => masked (h ▸ rfl) (vCmp_mask fits .eq), fun h => masked (h ▸ rfl) (vMask_mask fits fun a b => a && b),
    fun h => masked (h ▸ rfl) (vMask_mask fits fun a b => a || b), fun h => masked (h ▸ rfl) (vMask_mask fits fun a _ => !a)⟩

/-! ## Reductions (R130) -/

/-- What a reduction contributes at each position of its tree: the processed elements of V[VA]. -/
def contribution (x : Vx) (i : VIns) (j : Nat) : Option Nat :=
  if processed x i j then some (Slice0.elemAt (fmtOfIns i) (vreg x i.va) j) else none

/-- The value and the flags of a reduction. -/
def treeResult (op : Fmt → Nat → Nat → Nat × FlagWord) (empty : Fmt → Nat) (x : Vx) (i : VIns) : Nat × FlagWord :=
  (redTree (op (fmtOfIns i)) (contribution x i) (Nat.log2 (regElems (fmtOfIns i))) 0).getD (empty (fmtOfIns i), 0#32)

/-- Within VL the model's reading of V[VA] by position is the contribution: no processed position lies outside the register. -/
theorem side_eq_contribution {x : Vx} {i : VIns} (fits : x.vl ≤ regElems (fmtOfIns i)) :
    (fun j => if processed x i j then (velems (fmtOfIns i) (vreg x i.va))[j]? else none) = contribution x i := by
  funext j
  unfold contribution
  split
  · next hp =>
    have inside : j < (velems (fmtOfIns i) (vreg x i.va)).length := by
      rw [velems_length]; exact (lt_vl_of_processed hp).trans_le fits
    rw [List.getElem?_eq_getElem inside, velems_getElem]
  · rfl

theorem vRed_ok {x : Vx} {i : VIns} (fits : x.vl ≤ regElems (fmtOfIns i)) (op : Fmt → Nat → Nat → Nat × FlagWord) (empty : Fmt → Nat) :
    vRed op empty i x emptyLog = .ok (addFlags (mergeV x i (fmtOfIns i)
      (List.replicate (regElems (fmtOfIns i)) ((treeResult op empty x i).1, 0#32))) (treeResult op empty x i).2, emptyLog) := by
  rw [vRed, needVl_ok fits, treeResult, ← side_eq_contribution fits]
  rfl

/-- A register that takes one value at every processed element, without flags of the write itself. -/
theorem mergeV_replicate (x : Vx) (i : VIns) (f : Fmt) (v : Nat) :
    Writes x (mergeV x i f (List.replicate (regElems f) (v, 0#32))) i f fun _ => (v, 0#32) :=
  mergeV_writes (by simp) (by simp)

theorem Writes.flags_eq {x y : Vx} {i : VIns} {f : Fmt} {v : Nat} (h : Writes x y i f fun _ => (v, 0#32)) : y.flags = x.flags :=
  BitVec.eq_of_getLsbD_eq fun n _ => by rw [h.flags]; simp

/-- Settles O19: the body is a merge of the tree's one value, and the tree's flags are added. -/
theorem vxReductionsBroadcastTheFixedTree : Obligations.VxReductionsBroadcastTheFixedTree := by
  intro st s t f x i op hat limit fits inside g at? after
  have reduced : ∀ (c : Instr) (fold : Fmt → Nat → Nat → Nat × FlagWord) (empty : Fmt → Nat),
      exec c s = vxPlain op (vRed fold empty) st s → after c (treeResult fold empty x i) := by
    intro c fold empty row
    have merged := mergeV_replicate x i g (treeResult fold empty x i).1
    have only := merged.only.addFlags (treeResult fold empty x i).2
    exact ⟨wentOn x i _, row.trans (vxPlain_ok hat limit (vRed_ok fits fold empty) only.place inside), merged.elems, only.vreg, only.kreg,
      only.xreg, congrArg (· ||| _) merged.flags_eq, only.vl, only.staged, only.scales, rfl, rfl⟩
  exact ⟨fun h => reduced (.vxRedsum st) laneAdd (fun f => zeroBits f false) (h ▸ rfl),
    fun h => reduced (.vxRedmax st) (fun f => laneMinMax f true) (fun f => infBits f true) (h ▸ rfl)⟩

/-! ## Loads and stores (R128, R129) -/

theorem vLd_onlyV {s : State} {a : Actor} {i : VIns} {x y : Vx} {l log : Log} (h : vLd s a i x l = .ok (y, log)) : OnlyV i.vd x y := by
  obtain ⟨_, _, _, h⟩ := CubeArray.run_of_bind_ok h
  obtain ⟨_, _, _, h⟩ := CubeArray.run_of_bind_ok h
  obtain ⟨_, _, _, h⟩ := CubeArray.run_of_bind_ok h
  cases h
  exact mergeV_onlyV ..

theorem vLdb_onlyV {s : State} {a : Actor} {i : VIns} {x y : Vx} {l log : Log} (h : vLdb s a i x l = .ok (y, log)) : OnlyV i.vd x y := by
  obtain ⟨_, _, _, h⟩ := CubeArray.run_of_bind_ok h
  dsimp only at h
  split at h
  · cases h
    exact OnlyV.refl ..
  · obtain ⟨_, _, _, h⟩ := CubeArray.run_of_bind_ok h
    obtain ⟨_, _, _, h⟩ := CubeArray.run_of_bind_ok h
    cases h
    exact (mergeV_onlyV ..).addFlags _

theorem storeBlocks_onlyStaged (x : Vx) (i : VIns) (b e : Nat) (oti : Bool) (src : List Nat) (f g : Fmt) :
    OnlyStaged x (storeBlocks x i b e oti src f g) := by
  refine foldl_keeps (OnlyStaged x) _ (fun y k h => ?_) _ x ⟨rfl⟩
  exact ⟨h.rest⟩

theorem vSt_onlyStaged {i : VIns} {x y : Vx} {l log : Log} (h : vSt i x l = .ok (y, log)) : OnlyStaged x y := by
  obtain ⟨_, _, _, h⟩ := CubeArray.run_of_bind_ok h
  obtain ⟨_, _, _, h⟩ := CubeArray.run_of_bind_ok h
  dsimp only at h
  split at h
  · cases h
    exact storeBlocks_onlyStaged ..
  · cases h
    exact ⟨rfl⟩

/-- Settles O20: each body's frame, and the row that goes on with what the body gives. -/
theorem vxLoadsFillAndStoresStage : Obligations.VxLoadsFillAndStoresStage := by
  intro st s t f x y i op log hat limit inside free z same
  have counted : ∀ {run : State → Actor → VIns → Vx → Run Vx}, run t (actorOf t f) i x emptyLog = .ok (y, log) → SamePlace x y →
      vxRow op (fun s a i x => goOn (run s a i x)) st s = putFlight (Slice0.seen t f log) (keepVx t f z log) :=
    fun gives place => vxRow_goOn hat limit gives free place inside
  have memories : t.memories = s.memories ∧ t.host0 = s.host0 ∧ t.host1 = s.host1 := by rw [hat.state]; exact ⟨rfl, rfl, rfl⟩
  refine ⟨?ld, ?ldb, ?st⟩
  case ld =>
    rintro rfl gives
    have only := vLd_onlyV gives
    exact ⟨congrArg Host.Outcome.next (counted gives only.place), ⟨only.kreg, only.xreg, only.vl, memories⟩, only.vreg, only.staged, only.scales⟩
  case ldb =>
    rintro rfl gives
    have only := vLdb_onlyV gives
    exact ⟨congrArg Host.Outcome.next (counted gives only.place), ⟨only.kreg, only.xreg, only.vl, memories⟩, only.vreg, only.staged, only.scales⟩
  case st =>
    rintro rfl gives
    have only := vSt_onlyStaged gives
    exact ⟨congrArg Host.Outcome.next (counted (run := fun _ _ => vSt) gives only.place), ⟨only.kreg, only.xreg, only.vl, memories⟩, only.vreg⟩

/-! ## The start of a program (R116, R122) -/

/-- A sweep that sets the first n entries of a table to `val`: what it leaves at k. -/
theorem tabGet_setBelow {α : Type} [DecidableEq α] (val : Nat → α) (d : α) (n : Nat) {k : Nat} (hk : k < n) :
    tabGet ((List.range n).foldl (fun t r => tabSet t r (val r) d) []) k d = val k := by
  induction n with
  | zero => omega
  | succ n ih =>
    rw [List.range_succ, List.foldl_append, List.foldl_cons, List.foldl_nil]
    by_cases last : k = n
    · subst last; exact tabGet_tabSet_same ..
    · rw [tabGet_tabSet_ne _ _ _ _ last]; exact ih (by omega)

theorem vxStart_xreg (p prog : List Byte) {r : Nat} (hr : r < 16) : xreg (vxStart p prog) r = BitVec.ofNat 64 (fld p (32 + 8 * r) 8) :=
  tabGet_setBelow (fun r => BitVec.ofNat 64 (fld p (32 + 8 * r) 8)) 0#64 16 hr

/-- A vx.run that makes a program ready starts it from its parameter block. -/
theorem vxRunBody_vector {s : State} {a : Actor} {f : Flight} {p : List Byte} {x : Vx} {n : Nat} {l log : Log}
    (h : vxRunBody s a f p l = .ok (.vector x n, log)) : ∃ prog, x = vxStart p prog := by
  obtain ⟨_, _, _, h⟩ := CubeArray.run_of_bind_ok h
  obtain ⟨_, _, _, h⟩ := CubeArray.run_of_bind_ok h
  split at h
  · cases h
  · obtain ⟨_, _, _, h⟩ := CubeArray.run_of_bind_ok h
    obtain ⟨prog, _, _, h⟩ := CubeArray.run_of_bind_ok h
    obtain ⟨_, _, _, h⟩ := CubeArray.run_of_bind_ok h
    cases bad : badIns f.cmd.version p prog with
    | some i => rw [bad] at h; cases h
    | none => rw [bad] at h; cases h; exact ⟨prog, rfl⟩

theorem runBody_vector {t : State} {f : Flight} {x : Vx} {n : Nat} {l log : Log} (h : runBody t f vxRunBody l = .ok (.vector x n, log)) :
    ∃ p prog, x = vxStart p prog := by
  obtain ⟨_, _, _, h⟩ := CubeArray.run_of_bind_ok h
  obtain ⟨p, _, _, h⟩ := CubeArray.run_of_bind_ok h
  obtain ⟨plan, _, body, h⟩ := CubeArray.run_of_bind_ok h
  obtain ⟨_, _, _, h⟩ := CubeArray.run_of_bind_ok h
  cases h
  exact ⟨p, vxRunBody_vector body⟩

/-- Settles O15: the row applies the plan of its body, whose program starts from the parameter block. -/
theorem vxRunStartsFromClearedRegisters : Obligations.VxRunStartsFromClearedRegisters := by
  intro st s t f x n log runs
  have started : exec (.vxRun st) s = answer (applyPlan t f (.vector x n) log) := congrArg answer (CubeArray.startWith_of_runs runs)
  obtain ⟨p, prog, rfl⟩ := runBody_vector runs.plans
  exact ⟨started, rfl, fun _ => rfl, fun _ => rfl, rfl, rfl, rfl, rfl, rfl, rfl, fun _ => vxStart_xreg p prog⟩

end Sys2Proof.VectorEngine
end

section
/-!
SUPPORT. The statements of 06_engine_and_cluster_stores.md: mover commands stage, wait and go on; what a tensor message of a peer does; hub
actions that wait for other commands; the prefetch for the command named next.
-/

namespace Sys2Proof.EngineAndClusterStores

open Sys2Proof.Machine Sys2Proof.Laws

/-! ## How a command's attempt begins -/

/-- A command that goes on after the errors of its row is in flight there. -/
theorem afterErrs_go {u t : State} {cid : Nat} {errs : List HwErr} {f : Flight} (h : HandshakeTiming.afterErrs u cid errs = .go t f) :
    flightOf t cid = some f := by
  unfold HandshakeTiming.afterErrs at h
  split at h
  · cases h
  · cases there : flightOf u cid with
    | none => simp [there] at h
    | some g =>
      simp only [there] at h
      split at h
      · cases h
      · split at h
        · cases h
        · cases h
          exact there

/-- On whatever unit, the errors of the row come after the taking of the unit. -/
theorem takeUnit_go {s t : State} {f g : Flight} {st : Start} (h : takeUnit s f st = .go t g) :
    flightOf t f.cid = some g := by
  obtain ⟨u, taken⟩ : ∃ u, takeUnit s f st = HandshakeTiming.afterErrs u f.cid st.errs := ⟨_, rfl⟩
  exact afterErrs_go (taken ▸ h)

/-- A command that has begun is in flight under its row's number. -/
theorem begin_go {s t : State} {st : Start} {place : Place} {p : Flight → Bool} {f : Flight} (h : begin s st place p = .go t f) :
    flightOf t st.cid = some f := by
  unfold begin at h
  split at h
  · cases h
  · cases found : flightOf s st.cid with
    | none => simp [found] at h
    | some g =>
      have numbered : g.cid = st.cid := flightOf_cid found
      simp only [found] at h
      rw [← numbered]
      split at h
      · cases h
      · split at h
        · split at h
          · cases h
          · exact takeUnit_go h
        · split at h
          · cases h
          · cases h
          · split at h
            · exact takeUnit_go (f := { g with place := place }) h
            · cases h

/-! ## Mover commands (R147, R154, R155) -/

/-- A plan that touches no segment under reassignment is applied. -/
theorem settleStart_plan {s0 t : State} {f : Flight} {plan : Plan} {log : Log} (free : touchesReassigned t log.segs = false) :
    settleStart s0 t f (.ok (plan, log)) = applyPlan t f plan log := by
  simp [settleStart, free]

/-- A mover row whose command runs applies its body's plan. -/
theorem startMover_of_runs {op off : Nat} {body : Body} {st : Start} {s t : State} {f : Flight} {plan : Plan} {log : Log}
    (h : Slice0.MoverRuns op off body st s t f plan log) : startMover op off body st s = applyPlan t f plan log := by
  obtain ⟨g, m, found, opcode, -, powered, first, free, runs⟩ := h
  simp only [startMover, found, opcode, powered, first, free, ne_eq, not_true, decide_false, Bool.or_false, Bool.false_eq_true, if_false]
  exact CubeArray.startWith_of_runs runs

/-- A staged mover command is in flight, and runs. -/
theorem flightOf_staged {t : State} {f : Flight} (log : Log) (r : Staged) (there : flightOf t f.cid = some f) :
    flightOf (putFlight (Slice0.seen t f log) (Slice0.withStaged t f log r)) f.cid = some (Slice0.withStaged t f log r) := by
  have flights : (Slice0.seen t f log).flights = t.flights := (congrArg State.flights (CubeArray.seen_transOnly t f log).rest : _)
  refine flightOf_putFlight (Slice0.seen t f log) (Slice0.withStaged t f log r) f ?_
  rw [← there]
  simp only [flightOf, flights]
  rfl

/-- mv.fill passes its commit point in the row in which it has staged its value (R155). -/
theorem mvFillOp_staged {st : Start} {s t : State} {f : Flight} {r : Staged} {log : Log}
    (h : Slice0.MoverRuns 0x3002 44 mvFillBody st s t f (.staged r) log) :
    mvFillOp st s =
      passCommit (putFlight (Slice0.seen t f log) (Slice0.withStaged t f log r)) (Slice0.withStaged t f log r) := by
  have staged := startMover_of_runs h
  obtain ⟨g, m, found, -, starts, -, -, -, runs⟩ := h
  have there := begin_go runs.begins
  have numbered : f.cid = st.cid := flightOf_cid there
  have after := flightOf_staged log r (numbered ▸ there)
  rw [numbered] at after
  rw [CubeArray.applyPlan_staged] at staged
  simp only [mvFillOp, found, starts, staged, after, Bool.not_true, Bool.false_eq_true, if_false]
  exact if_pos rfl

/-- MOVER_STAGING_GRANTED with no hardware error runs the body of the mv.copy again. -/
theorem moverStagingGrantedOp_clean {st : Start} {s : State} {f : Flight} (hs : serving s = true) (hf : flightOf s st.cid = some f)
    (hp : f.phase = .staging) (he : st.errs = []) : moverStagingGrantedOp st s = resumeCopy (advance s (stepUnitOf f) st.steps) f := by
  have there : flightOf s f.cid = some f := by rw [flightOf_cid hf]; exact hf
  simp [moverStagingGrantedOp, hs, hf, hp, he, there, CubeArray.applyErrs_nil, CubeArray.endsUe_nil, CubeArray.serving_advance,
    CubeArray.flightOf_advance]

/-- A mv.copy that waited stages its block when its body does. -/
theorem resumeCopy_staged {t : State} {f : Flight} {r : Staged} {log : Log} (h : resumeBody t f mvCopyBody emptyLog = .ok (.staged r, log))
    (free : touchesReassigned t log.segs = false) :
    resumeCopy t f = putFlight (Slice0.seen t f log) (Slice0.withStaged t f log r) := by
  rw [resumeCopy, h, settleStart_plan free, CubeArray.applyPlan_staged]

/-- An engine runs a command if one has started there and not committed. -/
theorem engineRuns_iff (s : State) (n : Nat) : engineRuns s n = true ↔ ∃ g ∈ s.flights.list, g.place = .engine n ∧ isStarted g = true := by
  simp [engineRuns]

/-- MOVER_ENGINE_WRITE_OUT lets a held write-out go on once its engine runs nothing (R154). -/
theorem moverEngineWriteOutOp_held {s : State} {cid n : Nat} {f : Flight} (hs : serving s = true) (hf : flightOf s cid = some f)
    (hp : f.phase = .heldEngine n) :
    moverEngineWriteOutOp cid s = if engineRuns s n then s else putFlight s { f with phase := .committed } := by
  simp [moverEngineWriteOutOp, hs, hf, hp]

/-- Settles O23: a mover row applies its body's plan; the two waits end by their own rows. -/
theorem moverCommandsStageWaitAndGoOn : Obligations.MoverCommandsStageWaitAndGoOn := by
  refine ⟨fun st s t f log => ⟨fun r runs => ?stages, fun u ph n runs => ?waits, fun n runs => ?noop, fun r runs => ?fills⟩,
    fun st s t f r log hs hf hp he ht resumes free => ?granted, fun s cid n f hs hf hp => ⟨fun idle => ?released, fun g hg hn hr => ?held⟩⟩
  case stages =>
    obtain ⟨v, hv, eq, memories, host0, host1, -⟩ := CubeArray.applyPlan_staged_frame t f r log
    exact ⟨v, congrArg Host.Outcome.next ((startMover_of_runs runs).trans hv), eq, memories, host0, host1⟩
  case waits => exact congrArg Host.Outcome.next (startMover_of_runs runs)
  case noop => exact congrArg Host.Outcome.next (startMover_of_runs runs)
  case fills => exact congrArg Host.Outcome.next (mvFillOp_staged runs)
  case granted =>
    subst ht
    exact congrArg Host.Outcome.next ((moverStagingGrantedOp_clean hs hf hp he).trans (resumeCopy_staged resumes free))
  case released =>
    have runsNothing : ¬ engineRuns s n = true := by
      rw [engineRuns_iff]
      rintro ⟨g, hg, hn, hr⟩
      exact Bool.eq_false_iff.1 (idle g hg hn) hr
    exact congrArg Host.Outcome.next ((moverEngineWriteOutOp_held hs hf hp).trans (if_neg runsNothing))
  case held =>
    have runs : engineRuns s n = true := (engineRuns_iff s n).2 ⟨g, hg, hn, hr⟩
    exact congrArg Host.Outcome.next ((moverEngineWriteOutOp_held hs hf hp).trans (if_pos runs))

/-! ## Tensor messages of peers (R471, R478, R481) -/

section
variable {s : State} {m : PeerMsg} (kind : Nat) (serve : State → PeerMsg → State) (h : Slice0.Arrives s m)
include h

theorem tensorOp_probation (probation : (linkOf s m.port).state = 1) :
    tensorOp kind serve m s = refuseMessage (takeFrames s m.port m.payload.length) m sUnitAbsent 0 := by
  simp [tensorOp, h.served, Nat.not_le.2 h.port, probation]

theorem tensorOp_foreign (opened : (linkOf s m.port).state ≠ 1) (foreign : m.dest ≠ deviceId s) :
    tensorOp kind serve m s = forwardMessage (takeFrames s m.port m.payload.length) m kind := by
  simp [tensorOp, h.served, Nat.not_le.2 h.port, h.up, opened, foreign]

theorem tensorOp_otherEpoch (opened : (linkOf s m.port).state ≠ 1) (mine : m.dest = deviceId s) (other : epochOk s m = false) :
    tensorOp kind serve m s = refuseMessage (takeFrames s m.port m.payload.length) m sEpoch (low 32 (openEpoch s)) := by
  simp [tensorOp, h.served, Nat.not_le.2 h.port, h.up, opened, mine, other]

theorem tensorOp_serves (opened : (linkOf s m.port).state ≠ 1) (mine : m.dest = deviceId s) (same : epochOk s m = true) :
    tensorOp kind serve m s = serve (takeFrames s m.port m.payload.length) m := by
  simp [tensorOp, h.served, Nat.not_le.2 h.port, h.up, opened, mine, same]

end

/-- A message that waits for no stack is taken by its row as a tensor message of its kind. -/
theorem exec_peerRow {s : State} {m : PeerMsg} (h : Slice0.Arrives s m) :
    ∀ r ∈ Slice0.peerRows, exec (r.row m) s = .next (tensorOp r.kind r.serve m s) := by
  obtain ⟨awake, ringAwake⟩ := h.awake
  have peer : ∀ kind serve, answer (if peerWaits s m then s else tensorOp kind serve m s) = .next (tensorOp kind serve m s) := by
    intro kind serve
    rw [awake]
    rfl
  have ring : answer (if ringWaits s m then s else tensorOp kindRing serveRing m s) = .next (tensorOp kindRing serveRing m s) := by
    rw [ringAwake]
    rfl
  simp only [Slice0.peerRows, List.forall_mem_cons, List.not_mem_nil, false_implies, implies_true, and_true]
  exact ⟨peer _ _, peer _ _, peer _ _, ring⟩

/-- A refusal goes back, and writes nothing here. -/
theorem refuseMessage_memories (s : State) (m : PeerMsg) (status detail : Nat) : (refuseMessage s m status detail).memories = s.memories := rfl

theorem refuseMessage_flights (s : State) (m : PeerMsg) (status detail : Nat) : (refuseMessage s m status detail).flights = s.flights := rfl

/-! ## A write of a peer (R154, R249) -/

theorem padTo_length (n : Nat) (bs : List Byte) : (padTo n bs).length = n := slice_length bs 0 n

theorem padTo_getD {n i : Nat} {bs : List Byte} (inside : i < n) (given : i < bs.length) : (padTo n bs).getD i 0#8 = bs.getD i 0#8 := by
  simp [padTo, slice, given, inside]

/-- A run that meets no poison has no poisoned unit. -/
theorem isPoisoned_of_anyPoison {s : State} {pa len : Nat} (clean : anyPoison s pa len = false) {u : Nat} (hu : u ∈ unitsOf pa len) :
    isPoisoned s u = false := by
  unfold anyPoison at clean
  split at clean
  · next none =>
    simp only [Bool.and_eq_true, List.isEmpty_iff] at none
    simp [isPoisoned, none.1, none.2]
  · exact Bool.eq_false_iff.2 (List.any_eq_false.1 clean u hu)

/-- Where the address may be written and no unit of it is poisoned, the bytes are written and the message is acknowledged. -/
theorem peerStore_writes {s : State} {m : PeerMsg} {pa : Nat} {bs : List Byte} {x : Loc}
    (allowed : checkLocal s (peerActor s) true pa bs.length = .ok x) (clean : anyPoison s pa bs.length = false) :
    peerStore s m pa bs = acknowledge (peerPut s pa bs) m := by
  have whole : ((unitsOf pa bs.length).any fun u => isPoisoned s u && !decide (pa ≤ u && u + 64 ≤ pa + bs.length)) = false := by
    refine any_eq_false_of _ _ fun u hu => ?_
    rw [isPoisoned_of_anyPoison clean hu, Bool.false_and]
  simp only [peerStore, allowed, whole, Bool.false_eq_true, if_false]

/-- Ringing shoes writes no memory and sends nothing. -/
theorem peerPut_memories (s : State) (pa : Nat) (bs : List Byte) : (peerPut s pa bs).memories = (putMem s pa bs).1.memories := by
  unfold peerPut
  dsimp only
  split <;> rfl

theorem peerPut_out (s : State) (pa : Nat) (bs : List Byte) : (peerPut s pa bs).out = s.out := by
  obtain ⟨-, -, -, -, -, out⟩ := putMem_spec s pa bs
  unfold peerPut
  dsimp only
  split <;> exact out

section
variable {s : State} {m : PeerMsg} {x : Loc} (allowed : checkLocal s (peerActor s) true (m.addr % 2 ^ 53) m.length = .ok x)
  (clean : anyPoison s (m.addr % 2 ^ 53) m.length = false)
include allowed clean

/-- A write that may be written stores its payload as one unit. -/
theorem serveWrite_stores : serveWrite s m = acknowledge (peerPut s (m.addr % 2 ^ 53) (padTo m.length m.payload)) m := by
  refine peerStore_writes (x := x) ?_ ?_
  · rw [padTo_length]; exact allowed
  · rw [padTo_length]; exact clean

theorem serveWrite_mem :
    (serveWrite s m).memories.mem = (putMem s (m.addr % 2 ^ 53) (padTo m.length m.payload)).1.memories.mem := by
  rw [serveWrite_stores allowed clean]
  exact congrArg (·.mem) (peerPut_memories s (m.addr % 2 ^ 53) (padTo m.length m.payload))

theorem serveWrite_out : (serveWrite s m).out = s.out ++ [.peerAck m.port m.msgId] := by
  rw [serveWrite_stores allowed clean]
  exact congrArg (· ++ [Out.peerAck m.port m.msgId]) (peerPut_out s (m.addr % 2 ^ 53) (padTo m.length m.payload))

end

/-! ## Answers of peers (R154, R478) -/

section
variable {s : State} {m : PeerMsg} (h : Slice0.Arrives s m) (mine : m.dest = deviceId s)
include h mine

/-- Read data in this device's epoch are served, and no read fails. -/
theorem readDataOp_serves (live : (linkOf s m.port).state = 2) (same : epochOk s m = true) :
    readDataOp m s = serveData s (takeFrames s m.port m.payload.length) m := by
  have served := tensorOp_serves kindReadData (serveData s) h (by omega) mine same
  simp [readDataOp, same, served]

theorem refusalOp_mine :
    refusalOp m s =
      let t := takeFrames s m.port m.payload.length
      if s.flights.sent.any fun x => x.1 == m.msgId then failMessage t m.msgId (refusalResult t m).1 (refusalResult t m).2 m.port else t := by
  simp [refusalOp, h.served, Nat.not_le.2 h.port, h.up, mine]

end

/-- Whether a command's write-out waits for the acknowledgement of a message. -/
def awaitsAcknowledgement (id : Nat) (f : Flight) : Bool :=
  match f.phase with
  | .peer ids => ids.contains id
  | _ => false

/-- An acknowledgement of a command's run: the rest lands with the last of them, and else the command waits on. -/
theorem peerAcknowledgementOp_waited {s : State} {port id : Nat} {f : Flight} {ids : List Nat} (hs : serving s = true)
    (sent : (id, port) ∈ s.flights.sent)
    (found : s.flights.list.find? (awaitsAcknowledgement id) = some f) (waits : f.phase = .peer ids) :
    peerAcknowledgementOp port id s =
      if (ids.filter fun i => i != id).isEmpty then landWriteOut (answered s id) f
      else putFlight (answered s id) { f with phase := .peer (ids.filter fun i => i != id) } := by
  have asked : (s.flights.sent.any fun x => x == (id, port)) = true := List.any_eq_true.2 ⟨_, sent, beq_self_eq_true _⟩
  unfold peerAcknowledgementOp
  rw [if_neg (by simp [hs, asked])]
  dsimp only
  split
  · next unfound => exact nomatch unfound.symm.trans found
  · next g first =>
    obtain rfl : g = f := Option.some.inj (first.symm.trans found)
    simp only [waits]

theorem filter_ne_isEmpty_iff (ids : List Nat) (id : Nat) : (ids.filter fun i => i != id).isEmpty = true ↔ ∀ i ∈ ids, i = id := by
  simp [List.isEmpty_iff, List.filter_eq_nil_iff]

/-- Settles O52: the cases of a tensor message, the bytes of a served write, and the answers that come back. -/
theorem peerMessagesAreServedForwardedOrRefused : Obligations.PeerMessagesAreServedForwardedOrRefused := by
  refine ⟨fun r hr s m h => ?tensor, fun s m x => ?write, fun s m h live mine same => ?data,
    fun s m h mine => ?refusal, fun s port id f ids hs sent found waits => ?acknowledged⟩
  case tensor =>
    rw [exec_peerRow h r hr]
    exact ⟨fun probation => congrArg Host.Outcome.next (tensorOp_probation r.kind r.serve h probation),
      fun opened foreign => congrArg Host.Outcome.next (tensorOp_foreign r.kind r.serve h opened foreign),
      fun opened mine other => congrArg Host.Outcome.next (tensorOp_otherEpoch r.kind r.serve h opened mine other),
      fun opened mine same => congrArg Host.Outcome.next (tensorOp_serves r.kind r.serve h opened mine same),
      fun st d => ⟨refuseMessage_memories .., refuseMessage_flights ..⟩⟩
  case write =>
    intro pa allowed clean
    obtain ⟨outside, stored, -⟩ := putMem_spec s pa (padTo m.length m.payload)
    rw [padTo_length] at outside stored
    rw [serveWrite_mem allowed clean]
    exact ⟨outside, fun i inside given => (stored (.inr clean) i inside).trans (padTo_getD inside given), serveWrite_out allowed clean⟩
  case data => exact congrArg Host.Outcome.next (readDataOp_serves h mine live same)
  case refusal =>
    refine ⟨fun ⟨x, hx, hid⟩ => ?_, fun nobody => ?_⟩
    · have asked : (s.flights.sent.any fun x => x.1 == m.msgId) = true := List.any_eq_true.2 ⟨x, hx, by simpa using hid⟩
      exact congrArg Host.Outcome.next ((refusalOp_mine h mine).trans (if_pos asked))
    · have unasked : (s.flights.sent.any fun x => x.1 == m.msgId) = false := any_eq_false_of _ _ fun x hx => by simpa using nobody x hx
      exact congrArg Host.Outcome.next ((refusalOp_mine h mine).trans (if_neg (Bool.eq_false_iff.1 unasked)))
  case acknowledged =>
    have step := peerAcknowledgementOp_waited hs sent found waits
    refine ⟨fun last => ?_, fun ⟨i, hi, other⟩ => ?_⟩
    · exact congrArg Host.Outcome.next (step.trans (if_pos ((filter_ne_isEmpty_iff ids id).2 last)))
    · exact congrArg Host.Outcome.next (step.trans (if_neg fun none => other ((filter_ne_isEmpty_iff ids id).1 none i hi)))

/-! ## Hub actions that wait (R145, R208, R226, R232, R270, R318, R390, R419) -/

/-- Every row of the table of waiting hub commands runs its body on the hub under its opcode. -/
theorem exec_waitRow : ∀ r ∈ Slice0.waitRows, ∀ (st : Start) (s : State), exec (r.row st) s = startHub r.op (r.body st) st s := by
  refine List.forall_iff_forall_mem.1 ?_
  simp only [Slice0.waitRows, List.forall_cons, List.Forall]
  repeat' apply And.intro
  all_goals exact fun _ _ => rfl

theorem drainOn_done {v : State} {g : Flight} {dr : Drain} {on : List Nat} (h : drainDone v dr on = true) :
    drainOn v g dr on = finishDrain v g dr := by
  simp [drainOn, h]

theorem drainOn_waits {v : State} {g : Flight} {dr : Drain} {on : List Nat} (h : drainDone v dr on = false) :
    drainOn v g dr on = putFlight v { g with phase := .draining dr on } := by
  simp [drainOn, h]

/-- Settles O11: the row applies the body's plan, which ends the action or puts it into its wait. -/
theorem hubCommandThatWaits : Obligations.HubCommandThatWaits := by
  intro r hr st s t u f dr on n d x log runs g v
  have applied : exec (r.row st) s = .next (drainOn v g dr on) := (exec_waitRow r hr st s).trans (SixLevels.startHub_of_runs runs)
  rw [applied]
  exact ⟨fun done => congrArg Host.Outcome.next (drainOn_done done), fun left => congrArg Host.Outcome.next (drainOn_waits left)⟩

/-! ## The command named next (R157, R297) -/

section
variable {s : State} {n : Nat} {r : Flight} (hs : serving s = true)
  (on : s.flights.list.find? (fun f => f.place == .engine n && (isStarted f || isCommitted f)) = some r)
include hs on

theorem nextCommandNamedOp_early (early : measuredNow s r + 2048 < r.cost) : nextCommandNamedOp n s = s := by
  simp [nextCommandNamedOp, hs, on, early]

theorem nextCommandNamedOp_none (nobody : nextFor s n = none) : nextCommandNamedOp n s = s := by
  simp [nextCommandNamedOp, hs, on, nobody]

theorem nextCommandNamedOp_names {f : Flight} (due : r.cost ≤ measuredNow s r + 2048) (next : nextFor s n = some f) :
    nextCommandNamedOp n s =
      { s with memories := { s.memories with
          prefetch := s.memories.prefetch.filter (fun p => p.engine != n) ++ prefetchLines s n f
          named := tabPut s.memories.named n f.cid } } := by
  simp [nextCommandNamedOp, hs, on, Nat.not_lt.2 due, next]

end

/-- Settles O34: before its point, or with no command to name, the row leaves the state; else it writes the two tables alone. -/
theorem namingACommandPrefetchesItsLines : Obligations.NamingACommandPrefetchesItsLines := by
  intro s n r hs on
  exact ⟨fun early => congrArg Host.Outcome.next (nextCommandNamedOp_early hs on early),
    fun nobody => congrArg Host.Outcome.next (nextCommandNamedOp_none hs on nobody),
    fun f due next => ⟨_, congrArg Host.Outcome.next (nextCommandNamedOp_names hs on due next), rfl, rfl, rfl⟩⟩

end Sys2Proof.EngineAndClusterStores
end

section
/-!
SUPPORT. The statement of 09_translation_and_kitty.md: an invalidation removes exactly the named entries of the buffers and walker caches.
-/

namespace Sys2Proof.TranslationAndKitty

open Sys2Proof.Machine

/-- What one unit holds after a test has removed entries from the lists of every unit: of what it held, the entries not selected. -/
theorem held_dropped_iff {α : Type} (t : Tab (List α)) (selected : α → Bool) (k : Nat) (x : α) :
    (∃ e ∈ t.map (fun e => (e.1, e.2.filter fun y => !selected y)), e.1 = k ∧ x ∈ e.2) ↔
      (∃ e ∈ t, e.1 = k ∧ x ∈ e.2) ∧ selected x = false := by
  constructor
  · rintro ⟨_, dropped, unit, held⟩
    obtain ⟨e, he, rfl⟩ := List.mem_map.1 dropped
    obtain ⟨held, unselected⟩ := List.mem_filter.1 held
    exact ⟨⟨e, he, unit, held⟩, by simpa using unselected⟩
  · rintro ⟨⟨e, he, unit, held⟩, unselected⟩
    exact ⟨_, List.mem_map_of_mem he, unit, List.mem_filter.2 ⟨held, by simp [unselected]⟩⟩

section
variable (s : State) (leaf : Leaf → Bool) (node : NonLeaf → Bool) (k : Nat)

/-- R232 on the engines' buffers: a pin keeps no selected leaf. -/
theorem level1_invalWhere_iff (l : Leaf) :
    (∃ e ∈ (invalWhere s leaf node).trans.level1, e.1 = k ∧ l ∈ e.2) ↔ (∃ e ∈ s.trans.level1, e.1 = k ∧ l ∈ e.2) ∧ leaf l = false :=
  held_dropped_iff s.trans.level1 leaf k l

/-- R232 on the clusters' buffers. -/
theorem level2_invalWhere_iff (l : Leaf) :
    (∃ e ∈ (invalWhere s leaf node).trans.level2, e.1 = k ∧ l ∈ e.2) ↔ (∃ e ∈ s.trans.level2, e.1 = k ∧ l ∈ e.2) ∧ leaf l = false :=
  held_dropped_iff s.trans.level2 leaf k l

/-- R232 on the walker caches. -/
theorem walkers_invalWhere_iff (n : NonLeaf) :
    (∃ e ∈ (invalWhere s leaf node).trans.walkers, e.1 = k ∧ n ∈ e.2) ↔ (∃ e ∈ s.trans.walkers, e.1 = k ∧ n ∈ e.2) ∧ node n = false :=
  held_dropped_iff s.trans.walkers node k n

@[simp] theorem invalWhere_asids : (invalWhere s leaf node).trans.asids = s.trans.asids := rfl

/-- An invalidation touches the translation state alone. -/
theorem invalWhere_frame : { invalWhere s leaf node with trans := s.trans } = s := rfl

end

/-- Settles O28: each buffer and cache keeps, unit by unit, the entries that the test does not select. -/
theorem invalidationRemovesExactlyTheNamedEntries : Obligations.InvalidationRemovesExactlyTheNamedEntries :=
  fun s leaf node k l n => ⟨level1_invalWhere_iff s leaf node k l, level2_invalWhere_iff s leaf node k l,
    walkers_invalWhere_iff s leaf node k n, invalWhere_asids s leaf node, invalWhere_frame s leaf node⟩

end Sys2Proof.TranslationAndKitty
end

section
/-!
SUPPORT. The statements of 10_shoes_and_commands.md: a host's doorbell, the placement of engine commands, the fences of a command, the no-op of a
zero length, and sy.signal.
-/

namespace Sys2Proof.ShoesAndCommands

open Sys2Proof.Machine Sys2Proof.Laws

/-! ## Placement (R247, R260, R295, R296) -/

section
variable {s : State} {f : Flight} {n : Nat}

/-- The engines of R296: of the shoe's set, open, and on the command's side of the ante. -/
theorem mem_allowedEngines_iff :
    n ∈ allowedEngines s f ↔
      n < 64 ∧ (shoeOf s f.shoe).engines.getLsbD n = true ∧ engineOpen s n = true ∧ isAnte s n = (f.cls == 2) := by
  simp [allowedEngines, and_assoc]

/-- An engine is free when no command is on it and no mover's write-out holds it. -/
theorem engineFree_iff :
    engineFree s n = true ↔ (∀ g ∈ s.flights.list, g.place = .engine n → onUnit g = false) ∧ moverHolds s n = false := by
  simp [engineFree]

/-- A command's free engine is one that it may use, and none that it may use below it is free. -/
theorem freeEngineFor_eq_some (h : freeEngineFor s f = some n) :
    n ∈ allowedEngines s f ∧ engineFree s n = true ∧ ∀ m, m < n → m ∈ allowedEngines s f → engineFree s m = false := by
  have first := h
  simp only [freeEngineFor, allowedEngines, List.find?_filter, List.find?_range_eq_some] at first
  refine ⟨List.mem_of_find?_eq_some h, List.find?_some h, fun m below mine => ?_⟩
  simpa [mine, (List.mem_filter.1 mine).2] using first.2.2 m below

/-- A flight that waits for a command's attempt no more. -/
def waitsNoMore (c : Nat) (g : Flight) : Flight :=
  match g.phase with
  | .draining d on => { g with phase := .draining d (on.filter fun x => x != c) }
  | _ => g

theorem waitsNoMore_draining (c : Nat) {g : Flight} {d : Drain} {on : List Nat} (waits : g.phase = .draining d on) :
    waitsNoMore c g = { g with phase := .draining d (on.filter fun x => x != c) } := by
  simp [waitsNoMore, waits]

theorem waitsNoMore_other (c : Nat) {g : Flight} (never : ∀ d on, g.phase ≠ .draining d on) : waitsNoMore c g = g := by
  unfold waitsNoMore
  split
  · next d on waits => exact absurd waits (never d on)
  · rfl

@[simp] theorem waitsNoMore_cid (c : Nat) (g : Flight) : (waitsNoMore c g).cid = g.cid := by
  unfold waitsNoMore
  split <;> rfl

/-- The flight of a command that has been given an engine. -/
def placedOn (s : State) (f : Flight) (n : Nat) : Flight := withDeal s { f with phase := .placed, place := .engine n }

/-- What a placement does to the flights: they wait for the command's earlier attempt no more, and the command is placed. -/
theorem placeOn_flights (s : State) (f : Flight) (n : Nat) :
    (placeOn s f n).flights.list = (s.flights.list.map (waitsNoMore f.cid)).map fun g => if g.cid == f.cid then placedOn s f n else g := rfl

theorem waitsNoMore_mem_placeOn {g : Flight} (hg : g ∈ s.flights.list) (other : g.cid ≠ f.cid) :
    waitsNoMore f.cid g ∈ (placeOn s f n).flights.list := by
  rw [placeOn_flights]
  exact List.mem_map.2 ⟨_, List.mem_map_of_mem hg, if_neg (by simpa using other)⟩

theorem placeAll_of_placeNext_none (k : Nat) (h : placeNext s = none) : placeAll k s = s := by
  cases k with
  | zero => rfl
  | succ k => simp [placeAll, h]

/-- With nothing to place the row only settles. -/
theorem commandPlacementOp_idle (hs : serving s = true) (h : placeNext s = none) : commandPlacementOp s = settle s := by
  simp [commandPlacementOp, hs, placeAll_of_placeNext_none _ h]

/-- The dealer's next action gives the first ready command its free engine. -/
theorem placeNext_places {rest : List Flight} (fenced : failedWait s = none) (first : readyOrder s = f :: rest)
    (placeable : unplaceable s f = none) (free : freeEngineFor s f = some n) : placeNext s = some (placeOn s f n) := by
  simp [placeNext, fenced, first, placeable, placeOne, free]

/-- If that was the dealer's last action, the row settles its state. -/
theorem commandPlacementOp_once {t : State} (hs : serving s = true) (one : placeNext s = some t) (last : placeNext t = none) :
    commandPlacementOp s = settle t := by
  have all (k : Nat) : placeAll (k + 1) s = t := by
    rw [placeAll, one]
    exact placeAll_of_placeNext_none k last
  simp only [commandPlacementOp, hs, Bool.not_true, Bool.false_eq_true, if_false]
  exact congrArg settle (all _)

end

/-- Settles O33: the free engine is the first of the allowed ones, and the dealer's action is that placement. -/
theorem placementGivesTheLowestFreeAllowedEngine : Obligations.PlacementGivesTheLowestFreeAllowedEngine := by
  intro s hs
  refine ⟨fun idle => congrArg Host.Outcome.next (commandPlacementOp_idle hs idle), fun f rest n fenced first placeable free =>
    ⟨?engine, fun g hg other => ?others, fun last => ?exec⟩⟩
  case engine =>
    obtain ⟨allowed, isFree, lowest⟩ := freeEngineFor_eq_some free
    obtain ⟨bound, inSet, isOpen, side⟩ := mem_allowedEngines_iff.1 allowed
    obtain ⟨empty, unheld⟩ := engineFree_iff.1 isFree
    exact ⟨bound, inSet, isOpen, side, empty, unheld, lowest⟩
  case others =>
    have kept : waitsNoMore f.cid g ∈ (placeOn s f n).flights.list := waitsNoMore_mem_placeOn hg other
    split
    · next d on waits => exact waitsNoMore_draining f.cid waits ▸ kept
    · next never => exact waitsNoMore_other f.cid never ▸ kept
  case exec => exact congrArg Host.Outcome.next (commandPlacementOp_once hs (placeNext_places fenced first placeable free) last)

/-! ## The order of the ready commands -/

/-- Ordering a command in adds it and no other. -/
theorem mem_insertOrdered {s : State} {f g : Flight} {l : List Flight} : g ∈ insertOrdered s f l ↔ g = f ∨ g ∈ l := by
  induction l with
  | nil => simp [insertOrdered]
  | cons h rest ih =>
    unfold insertOrdered
    split
    · simp
    · simp [ih, or_left_comm]

theorem mem_foldr_insertOrdered {s : State} {g : Flight} {l : List Flight} : g ∈ l.foldr (insertOrdered s) [] ↔ g ∈ l := by
  induction l with
  | nil => simp
  | cons f rest ih => simp [mem_insertOrdered, ih]

/-- The dealer places ready commands alone. -/
theorem isReady_of_mem_readyOrder {s : State} {f : Flight} (h : f ∈ readyOrder s) : isReady s f = true := by
  have chosen := (List.mem_filter.1 (mem_foldr_insertOrdered.1 h)).2
  simp only [Bool.and_eq_true] at chosen
  exact chosen.2

/-! ## Fences (R259, R260) -/

section
variable {s : State} {f : Flight}

/-- FENCE_BEFORE waits while a command fetched earlier from the shoe is in flight. -/
theorem fencesOf_fenced {g : Flight} (fence : hasFence f.cmd = true) (hg : g ∈ s.flights.list) (same : g.shoe = f.shoe) (before : g.seq < f.seq) :
    fencesOf s f = .wait := by
  have held : ∃ g ∈ s.flights.list, g.shoe = f.shoe ∧ g.seq < f.seq := ⟨g, hg, same, before⟩
  simp [fencesOf, fence, held]

/-- A command whose fences wait is not ready. -/
theorem isReady_of_wait (wait : fencesOf s f = .wait) : isReady s f = false := by
  simp [isReady, wait]

section
variable (unfenced : hasFence f.cmd = false)
include unfenced

/-- Without FENCE_BEFORE, a WAIT_FENCE that names no fetched command holds nothing. -/
theorem fencesOf_names_none (unnamed : f.cmd.waitFence = 0 ∨ f.seq < f.cmd.waitFence) : fencesOf s f = .ready := by
  simp [fencesOf, unfenced, unnamed]

variable (waits : f.cmd.waitFence ≠ 0)
include waits

/-- The fences wait while the named command is in flight. -/
theorem fencesOf_named_in_flight {g : Flight} (hg : g ∈ s.flights.list) (same : g.shoe = f.shoe) (named : g.seq + f.cmd.waitFence = f.seq) :
    fencesOf s f = .wait := by
  have inFlight : ∃ g ∈ s.flights.list, (g.shoe = f.shoe ∧ g.seq < f.seq) ∧ g.seq = f.seq - f.cmd.waitFence :=
    ⟨g, hg, ⟨same, by omega⟩, by omega⟩
  have fetched : ¬ f.seq < f.cmd.waitFence := by omega
  simp [fencesOf, unfenced, waits, fetched, inFlight]

/-- Once it is not in flight, its status in the ring decides. -/
theorem fencesOf_named_ended {q st : Nat} (fetched : f.cmd.waitFence ≤ f.seq)
    (ended : ∀ g ∈ s.flights.list, g.shoe = f.shoe → g.seq + f.cmd.waitFence ≠ f.seq)
    (ring : (shoeOf s f.shoe).ring.find? (fun e => e.1 == f.seq - f.cmd.waitFence) = some (q, st)) :
    fencesOf s f = if st = sOk ∨ st = sDuplicate then .ready else .failed st := by
  have notInFlight : ¬ ∃ g ∈ s.flights.list, (g.shoe = f.shoe ∧ g.seq < f.seq) ∧ g.seq = f.seq - f.cmd.waitFence := by
    rintro ⟨g, hg, ⟨same, before⟩, named⟩
    exact ended g hg same (by omega)
  simp [fencesOf, unfenced, waits, Nat.not_lt.2 fetched, notInFlight, ring]

end

/-! ## Hub rows under a fence -/

/-- Every hub row of the tables runs its body on the hub under its opcode. -/
theorem exec_hubRow {r : Slice0.HubRow} (hr : r ∈ Slice0.actRows ++ Slice0.waitRows) (st : Start) (s : State) :
    exec (r.row st) s = startHub r.op (r.body st) st s :=
  (List.mem_append.1 hr).elim (SixLevels.exec_actRow r · st s) (EngineAndClusterStores.exec_waitRow r · st s)

/-- Their opcodes are the hub's. -/
theorem needsEngine_hubRow : ∀ r ∈ Slice0.actRows ++ Slice0.waitRows, needsEngine r.op = false := by decide

variable {st : Start} {place : Place} {p : Flight → Bool} (hf : flightOf s st.cid = some f) (hub : needsEngine f.cmd.opcode = false)
include hf hub

/-- A hub command does not begin while its fences wait. -/
theorem begin_of_wait (wait : fencesOf s f = .wait) : begin s st place p = .no := by
  simp [begin, hf, hub, wait]

/-- A waiting hub command whose dependency failed ends as it would begin. -/
theorem begin_of_failed {status : Nat} (hs : serving s = true) (mine : p f = true) (waiting : f.phase = .waiting)
    (failed : fencesOf s f = .failed status) : begin s st place p = .over (complete s f sDependency status 0) := by
  simp [begin, hs, hf, hub, mine, startable, waiting, failed]

end

/-- Settles O35: the fences wait, so that the command is not ready and does not begin. -/
theorem fenceBeforeHoldsACommand : Obligations.FenceBeforeHoldsACommand := by
  refine ⟨fun s f g fence hg same before => ?held, fun s f unfenced unnamed => fencesOf_names_none unfenced (.inl unnamed)⟩
  have wait : fencesOf s f = .wait := fencesOf_fenced fence hg same before
  have unready : isReady s f = false := isReady_of_wait wait
  refine ⟨unready, fun placed => ?unplaced, fun r hr st hf hop => ?exec⟩
  case unplaced => exact Bool.eq_false_iff.1 unready (isReady_of_mem_readyOrder placed)
  case exec =>
    have hub : needsEngine f.cmd.opcode = false := hop ▸ needsEngine_hubRow r hr
    simp [exec_hubRow hr, startHub, startWith, answer, begin_of_wait hf hub wait]

/-- Settles O36: the four outcomes of the fences, and a hub row of a command whose dependency failed. -/
theorem waitFenceWaitsForTheEarlierStatus : Obligations.WaitFenceWaitsForTheEarlierStatus := by
  intro s f unfenced waits
  refine ⟨fun few => fencesOf_names_none unfenced (.inr few), fun g => fencesOf_named_in_flight unfenced waits,
    fun q st fetched ended ring => ?ended⟩
  have decided := fencesOf_named_ended unfenced waits fetched ended ring
  refine ⟨fun good => decided.trans (if_pos good), fun notOk notDup => ?failed⟩
  have failed : fencesOf s f = .failed st := decided.trans (if_neg (by simp [notOk, notDup]))
  refine ⟨failed, fun r hr start hs hf hop waiting => ?exec⟩
  have hub : needsEngine f.cmd.opcode = false := hop ▸ needsEngine_hubRow r hr
  have mine : (f.cmd.opcode == r.op) = true := by simpa using hop
  simp [exec_hubRow hr, startHub, startWith, answer,
    begin_of_failed (p := fun f => f.cmd.opcode == r.op) hf hub hs mine waiting failed]

/-! ## A host's doorbell (R249) -/

section
variable {s : State} {port shoe : Nat}

theorem hostDoorbellOp_rings (hs : serving s = true) (live : portLive s port = true) (host : port < 2) (alive : (shoeOf s shoe).state = 1)
    (allowed : (shoeOf s shoe).dbPorts.getLsbD port = true) :
    hostDoorbellOp port shoe [] s = putShoe s shoe { shoeOf s shoe with pending := true } := by
  simp [hostDoorbellOp, hs, live, host, alive, allowed]

theorem hostDoorbellOp_ignored (h : ¬ ((shoeOf s shoe).state = 1 ∧ (shoeOf s shoe).dbPorts.getLsbD port = true)) :
    hostDoorbellOp port shoe [] s = s := by
  simp only [hostDoorbellOp, List.foldl_nil]
  refine if_neg fun rings => h ?_
  simp only [Bool.and_eq_true, beq_iff_eq] at rings
  exact ⟨rings.1.2, rings.2⟩

end

/-- Settles O31: a doorbell that counts writes one shoe's entry, and every other leaves the state. -/
theorem hostDoorbellSetsPendingOfALiveShoe : Obligations.HostDoorbellSetsPendingOfALiveShoe := by
  intro s port shoe hs live host rung
  refine ⟨fun ⟨alive, allowed⟩ => ?rings, fun ignored => congrArg Host.Outcome.next (hostDoorbellOp_ignored ignored), fun ws => rfl⟩
  exact ⟨_, congrArg Host.Outcome.next (hostDoorbellOp_rings hs live host alive allowed), shoeOf_putShoe_same ..,
    fun n => shoeOf_putShoe_ne s _, rfl⟩

/-! ## No-ops (R56, R258) -/

/-- A no-op enters its ticket and completes. -/
theorem applyPlan_noop (t : State) (f : Flight) (n : Nat) (log : Log) :
    applyPlan t f (.noop n) log = commitComplete (Slice0.seen t f log) (Slice0.noted t f log n) 0 0 := rfl

/-- Settles O13: the row applies the no-op, on the hub and on an engine alike. -/
theorem zeroLengthCommandIsANoOp : Obligations.ZeroLengthCommandIsANoOp := by
  refine ⟨fun r hr st s t f n log runs => ?hub, fun r hr st s t f n log runs => ?engine⟩
  case hub => rw [exec_hubRow hr, SixLevels.startHub_of_runs runs, applyPlan_noop]
  case engine => rw [CubeArray.exec_engineRow r hr, startEngine, CubeArray.startWith_of_runs runs, applyPlan_noop, answer]

/-! ## sy.signal (R264, R272) -/

/-- A sy.signal that begins and passes its checks completes, and then posts its second signal if it names a target. -/
theorem sySignalOp_of_runs {st : Start} {s t : State} {f : Flight} {n : Nat} {log : Log}
    (h : Slice0.Runs .hub 0x8001 sySignalBody st s t f (.noop n) log) :
    sySignalOp st s =
      if fld log.block 0 8 = 0 then commitComplete t f 0 0
      else postSignal (commitComplete t f 0 0) f (fld log.block 0 8) (fld log.block 8 8) := by
  simp only [sySignalOp, h.begins, h.plans]

/-- Settles O29: with no TARGET2 the row ends in the completed state, and else in the second signal. -/
theorem sySignalPostsBothSignals : Obligations.SySignalPostsBothSignals := by
  rintro st s t f n log _ runs rfl
  have run := sySignalOp_of_runs runs
  exact ⟨fun noTarget => congrArg Host.Outcome.next (run.trans (if_pos noTarget)),
    fun target => congrArg Host.Outcome.next (run.trans (if_neg target))⟩

end Sys2Proof.ShoesAndCommands
end

section
/-!
SUPPORT. The statements of 16_parties_keys_secrecy.md: peg rows never fall, the SPDM responder answers on its own port, and what full starts and port
resets leave.
-/

namespace Sys2Proof.PartiesKeysSecrecy

open Sys2Proof.Machine Sys2Proof.Laws

/-! ## Peg rows (R408) -/

/-- Settles O6: what a step keeps of the vault includes its peg rows, at a start too, where `readPegs` takes the greater value. -/
theorem stepNeverErasesAPegCell : Obligations.StepNeverErasesAPegCell := by
  intro s t h
  have kept : VaultKept s.vault t.vault := (SixLevels.kept_step h).vault
  exact kept.pegs

/-! ## What the SPDM responder moves beside its port's connection (R416) -/

/-- Two states differ in the counter of free values at most. -/
structure FreshOnly (s t : State) : Prop where
  rest : { t with fresh := s.fresh } = s

namespace FreshOnly

variable {s t : State}

theorem refl (s : State) : FreshOnly s s := ⟨rfl⟩

theorem drawRandom (n : Nat) (h : FreshOnly s t) : FreshOnly s (drawRandom t n).2 := ⟨h.rest⟩

theorem heldun (h : FreshOnly s t) : t.heldun = s.heldun := (congrArg (fun u : State => u.heldun) h.rest : _)
theorem memories (h : FreshOnly s t) : t.memories = s.memories := (congrArg (fun u : State => u.memories) h.rest : _)
theorem keys (h : FreshOnly s t) : t.keys = s.keys := (congrArg (fun u : State => u.keys) h.rest : _)
theorem vault (h : FreshOnly s t) : t.vault = s.vault := (congrArg (fun u : State => u.vault) h.rest : _)

theorem mboxOf (h : FreshOnly s t) (q : Nat) : mboxOf t q = mboxOf s q := by simp only [Machine.mboxOf, h.heldun]

end FreshOnly

/-- An action on a port's connection moves nothing of the state but the counter of free values. -/
def ActsOnConnection (act : State → Mbox → List Byte → State × Mbox × List Byte) : Prop := ∀ s m body, FreshOnly s (act s m body).1

theorem versionAct_connection : ActsOnConnection versionAct := by
  intro s m body
  unfold versionAct
  split <;> exact .refl s

theorem capabilitiesAct_connection : ActsOnConnection capabilitiesAct := by
  intro s m body
  unfold capabilitiesAct
  dsimp only
  split <;> exact .refl s

theorem algorithmsAct_connection : ActsOnConnection algorithmsAct := fun s _ _ => .refl s

theorem digestsAct_connection : ActsOnConnection digestsAct := fun s _ _ => .refl s

theorem certificateAct_connection : ActsOnConnection certificateAct := by
  intro s m body
  unfold certificateAct
  dsimp only
  split <;> exact .refl s

/-- A challenge draws its nonce and the 48-byte scalar of its signature. -/
theorem challengeAct_connection : ActsOnConnection challengeAct := by
  intro s m body
  unfold challengeAct
  dsimp only
  split
  case isTrue => exact .refl s
  case isFalse => exact ((FreshOnly.refl s).drawRandom 32).drawRandom 48

/-- Measurements draw a nonce, and a scalar where they are signed. -/
theorem measurementsAct_connection : ActsOnConnection measurementsAct := by
  intro s m body
  have nonce : FreshOnly s (drawRandom s 32).2 := (FreshOnly.refl s).drawRandom 32
  unfold measurementsAct
  dsimp only
  split
  case isTrue => exact .refl s
  case isFalse =>
    split
    case isTrue => exact nonce
    case isFalse => exact nonce.drawRandom 48

section
variable {ok : Mbox → Bool} {act : State → Mbox → List Byte → State × Mbox × List Byte} {s : State} {m : Mbox} {body : List Byte}

/-- A request that its connection does not allow is answered by UnexpectedRequest. -/
theorem spdmNeed_unexpected (h : ok m = false) : spdmNeed ok act s m body = (s, m, spdmError (spdmVer m) spdmUnexpected) := by
  simp [spdmNeed, h]

/-- The checks of a request move nothing. -/
theorem ActsOnConnection.need (h : ActsOnConnection act) : ActsOnConnection (spdmNeed ok act) := by
  intro s m body
  unfold spdmNeed
  split
  · exact .refl s
  · split
    · exact .refl s
    · exact h s m body

end

/-! ## One SPDM exchange (R416) -/

/-- A port whose mailbox state is stored again stands. -/
theorem setMbox_mboxOf (s : State) (port : Nat) : setMbox s port (mboxOf s port) = s := by
  unfold setMbox mboxOf
  split <;> rfl

/-- A row runs the request `code` with the action `act`. -/
def SpdmRow (row : Nat → List Byte → Instr) (code : Nat) (act : State → Mbox → List Byte → State × Mbox × List Byte) : Prop :=
  ∀ port body s, exec (row port body) s = .next (spdmOp code act port body s)

section
variable {row : Nat → List Byte → Instr} {code : Nat} {act : State → Mbox → List Byte → State × Mbox × List Byte}

/-- A request of the row's code on a live port of a serving device is served. -/
theorem spdmOp_served {s : State} {port : Nat} {body : List Byte} (hs : serving s = true) (hp : port < 2) (live : portLive s port = true)
    (hc : fld body 1 1 = code) :
    spdmOp code act port body s =
      send (setMbox (act s (mboxOf s port) body).1 port (act s (mboxOf s port) body).2.1) (.doe port (act s (mboxOf s port) body).2.2) := by
  simp [spdmOp, hs, Nat.not_le.2 hp, live, hc]

/-- A row whose action stays on its connection answers on its own port. -/
theorem spdmAnswers_of_row (hrow : SpdmRow row code act) (hact : ActsOnConnection act) : Slice0.SpdmAnswers row code act := by
  intro s port body hs hp live hc
  have only : FreshOnly s (act s (mboxOf s port) body).1 := hact s (mboxOf s port) body
  refine ⟨?served, fun q hq other => ?other, mboxOf_setMbox _ port _, only.memories, only.keys, only.vault⟩
  case served => rw [hrow, spdmOp_served hs hp live hc]
  case other => exact (mboxOf_setMbox_ne _ _ hp hq other).trans (only.mboxOf q)

/-- A row that needs agreed algorithms answers an ERROR where none are agreed. -/
theorem spdmNeedsAlgorithms_of_row (hrow : SpdmRow row code (spdmNeed spdmReady act)) : Slice0.SpdmNeedsAlgorithms row code := by
  intro s port body hs hp live hc unagreed
  have unready : spdmReady (mboxOf s port) = false := by simp [spdmReady, unagreed]
  refine ⟨_, hrow port body s, ?sent, ?rest⟩ <;> rw [spdmOp_served hs hp live hc, spdmNeed_unexpected unready, setMbox_mboxOf]
  case sent => rfl
  case rest => rfl

end

/-- Settles O41: each row serves its request with an action that stays on its connection, and four of them need agreed algorithms. -/
theorem spdmRequestsAnswerOnTheirPort : Obligations.SpdmRequestsAnswerOnTheirPort := by
  have digests : SpdmRow .getDigests 0x81 (spdmNeed spdmReady digestsAct) := fun _ _ _ => rfl
  have certificate : SpdmRow .getCertificate 0x82 (spdmNeed spdmReady certificateAct) := fun _ _ _ => rfl
  have challenge : SpdmRow .challenge 0x83 (spdmNeed spdmReady challengeAct) := fun _ _ _ => rfl
  have measurements : SpdmRow .getMeasurements 0xE0 (spdmNeed spdmReady measurementsAct) := fun _ _ _ => rfl
  exact ⟨spdmAnswers_of_row (fun _ _ _ => rfl) versionAct_connection, spdmAnswers_of_row (fun _ _ _ => rfl) capabilitiesAct_connection.need,
    spdmAnswers_of_row (fun _ _ _ => rfl) algorithmsAct_connection.need, spdmAnswers_of_row digests digestsAct_connection.need,
    spdmAnswers_of_row certificate certificateAct_connection.need, spdmAnswers_of_row challenge challengeAct_connection.need,
    spdmAnswers_of_row measurements measurementsAct_connection.need, spdmNeedsAlgorithms_of_row digests,
    spdmNeedsAlgorithms_of_row certificate, spdmNeedsAlgorithms_of_row challenge, spdmNeedsAlgorithms_of_row measurements⟩

/-! ## What a full start keeps (R526, R528) -/

/-- The host bytes of a write-out that a stop cuts short are no part of the module. -/
@[simp] theorem stopWriteOuts_module (s : State) : (stopWriteOuts s).module = s.module := by
  unfold stopWriteOuts
  refine foldl_keeps (P := fun acc : State × Nat => acc.1.module = s.module) _ (fun acc w h => ?_) _ (s, 0) rfl
  split
  · refine foldl_keeps (P := fun t : State => t.module = s.module) _ (fun t u ht => ?_) _ acc.1 h
    dsimp only
    split
    · rw [hostPut_module]; exact ht
    · exact ht
  · exact h

theorem fullStart_vault (s : State) : (fullStart s).vault = s.vault := by
  show (if s.flights.list.isEmpty then s else stopWriteOuts s).vault = s.vault
  split <;> simp

/-- A full start releases ALERT_N and turns the rails on again; the module's other pins stand. -/
theorem fullStart_module (s : State) : (fullStart s).module = { s.module with alertLow := false, railsOff := 0#16 } := by
  have pins : (if s.flights.list.isEmpty then s else stopWriteOuts s).module = s.module := by split <;> simp
  rw [← pins]
  rfl

/-! ## What a port reset moves (R527) -/

/-- The owner role that is lost with a port. -/
def releaseOwner (s : State) (port : Nat) : State := if s.heldun.owner = some port then moveOwner s none else s

/-- Losing the owner role sets OWNER to none and unsets the kitty area; nothing else moves. -/
theorem releaseOwner_eq (s : State) (port : Nat) :
    releaseOwner s port =
      { s with
        heldun := { s.heldun with owner := if s.heldun.owner = some port then none else s.heldun.owner }
        kitty := { s.kitty with area := if s.heldun.owner = some port then none else s.kitty.area } } := by
  unfold releaseOwner
  split
  next held => simp [moveOwner, unsetKitty, held]
  next => rfl

theorem mboxOf_releaseOwner (s : State) (port q : Nat) : mboxOf (releaseOwner s port) q = mboxOf s q := by
  rw [releaseOwner_eq]
  rfl

/-- What a port reset leaves of its port's mailbox state. -/
def portCleared (m : Mbox) : Mbox :=
  { m with major := none, minors := [], nonce := none, cache := [], overrun := false, done := false, ring := none }

theorem portReset_eq (s : State) (port : Nat) :
    portReset s port = setPortLive (setMbox (releaseOwner s port) port (portCleared (mboxOf s port))) port false := by
  rw [← mboxOf_releaseOwner s port port]
  rfl

theorem portReset_owner (s : State) (port : Nat) :
    (portReset s port).heldun.owner = if s.heldun.owner = some port then none else s.heldun.owner := by
  rw [portReset_eq, setPortLive_heldun, setMbox_owner, releaseOwner_eq]

theorem mboxOf_portReset_same (s : State) (port : Nat) : mboxOf (portReset s port) port = portCleared (mboxOf s port) := by
  rw [portReset_eq]
  exact mboxOf_setMbox ..

theorem mboxOf_portReset_ne (s : State) {port q : Nat} (hp : port < 2) (hq : q < 2) (other : q ≠ port) :
    mboxOf (portReset s port) q = mboxOf s q := by
  rw [portReset_eq, ← mboxOf_releaseOwner s port q]
  exact mboxOf_setMbox_ne _ _ hp hq other

theorem portLive_portReset (s : State) {port : Nat} (hp : port < 2) : portLive (portReset s port) port = false := by
  rw [portReset_eq]
  exact portLive_setPortLive _ _ _ (by omega)

/-- Commands, shoes, contexts, memory, keys and the vault stand over a port reset. -/
theorem portReset_frame (s : State) (port : Nat) :
    (portReset s port).flights = s.flights ∧ (portReset s port).shoes = s.shoes ∧ (portReset s port).kv = s.kv ∧
      (portReset s port).memories = s.memories ∧ (portReset s port).keys = s.keys ∧ (portReset s port).vault = s.vault := by
  rw [portReset_eq, releaseOwner_eq]
  exact ⟨rfl, rfl, rfl, rfl, rfl, rfl⟩

/-! ## Reset inputs (Table 21-1) -/

section
variable {s : State} {port : Nat}

/-- A fundamental reset of the whole device: on the owner's port, with READY 2, or with no owner key. -/
theorem fundamentalResetOp_whole (hs : s.module.powered = true) (hp : port < 2)
    (h : s.heldun.owner = some port ∨ s.heldun.ready = 2 ∨ s.vault.ownerKey = none) : fundamentalResetOp port s = fullStart s := by
  simp [fundamentalResetOp, hs, Nat.not_le.2 hp, or_assoc, h]

theorem fundamentalResetOp_port (hs : s.module.powered = true) (hp : port < 2)
    (h : ¬ (s.heldun.owner = some port ∨ s.heldun.ready = 2 ∨ s.vault.ownerKey = none)) : fundamentalResetOp port s = portReset s port := by
  simp [fundamentalResetOp, hs, Nat.not_le.2 hp, or_assoc, h]

theorem portResetOp_powered (hs : s.module.powered = true) (hp : port < 2) : portResetOp port s = portReset s port := by
  simp [portResetOp, hs, Nat.not_le.2 hp]

end

/-- Settles O46: the inputs by their rows, a full start by its literal state and what it keeps, a port reset by its frame. -/
theorem fullStartsAndPortResets : Obligations.FullStartsAndPortResets := by
  intro s
  refine ⟨?off, fun on => ⟨?power, ?assert, ?release, fun port hp => ⟨?whole, ?part, ?hot, ?level⟩⟩, ?start, fun port hp => ?port⟩
  case off => intro off; simp [exec, execPowerOn, answer, off]
  case power => simp [exec, execPowerOn, answer, on]
  case assert => simp [exec, execResetNAssert, answer, on]
  case release => intro low; simp [exec, execResetNRelease, answer, on, low]
  case whole => exact fun h => congrArg Host.Outcome.next (fundamentalResetOp_whole on hp h)
  case part => exact fun h => congrArg Host.Outcome.next (fundamentalResetOp_port on hp h)
  case hot => exact congrArg Host.Outcome.next (portResetOp_powered on hp)
  case level => exact congrArg Host.Outcome.next (portResetOp_powered on hp)
  case start =>
    exact ⟨rfl, rfl, rfl, rfl, rfl, rfl, rfl, rfl, fun _ => rfl, rfl, rfl, fullStart_vault s, by rw [fullStart_module],
      by rw [fullStart_module]⟩
  case port =>
    exact ⟨mboxOf_portReset_same s port, fun q hq other => mboxOf_portReset_ne s hp hq other, portLive_portReset s hp, portReset_owner s port,
      portReset_frame s port⟩

end Sys2Proof.PartiesKeysSecrecy
end

section
/-!
SUPPORT. The statements of 17_heldun_mailbox.md: what a step runs, that every command answers, the steps of one mailbox exchange from the gate to
the response, the reply cache, the roles, and register writes.
-/

namespace Sys2Proof.HeldunMailbox

open Sys2Proof.Machine Sys2Proof.Laws

/-! ## Every command answers (R445) -/

/-- Settles O1: a queue that begins with a command is the second branch of `step`. -/
theorem stepRunsFrontCommand : Obligations.StepRunsFrontCommand := fun _ _ _ => rfl

/-- Each row's meaning ends in `answer`: no row stops with a fault or a refusal. -/
theorem exec_eq_answer (c : Instr) (s : State) : ∃ t, exec c s = answer t := by
  cases c <;> exact ⟨_, rfl⟩

/-- Settles O8: the row answers a next state, and what every row keeps includes the queue. -/
theorem everyCommandAnswersAndLeavesTheQueue : Obligations.EveryCommandAnswersAndLeavesTheQueue := by
  intro c s
  obtain ⟨t, next⟩ := exec_eq_answer c s
  have kept : Kept s t := SixLevels.kept_exec c (Kept.refl s) t next
  exact ⟨t, next, kept.pending⟩

/-! ## One mailbox exchange, by the step of R446 that answers it -/

/-- A row of the table of mailbox commands is the exchange of its specification. -/
theorem exec_mbRow {r : Slice0.MbRow} (hr : r ∈ Slice0.mbRows) (rq : MbReq) (s : State) : exec (r.row rq) s = .next (mbOp r.spec rq s) := by
  have rows : Slice0.mbRows.map (fun r rq s => exec (r.row rq) s) = Slice0.mbRows.map (fun r rq s => .next (mbOp r.spec rq s)) := rfl
  exact congrFun (congrFun (List.map_inj_left.1 rows r hr) rq) s

/-- The response that an exchange writes without serving: a result of steps 1 to 3, with no payload. -/
def turnedAway (s : State) (r : Slice0.MbRow) (rq : MbReq) (result detail : Nat) : State :=
  respond s rq.port rq.txn (responseOf s r.spec.code rq.txn result detail [])

section
variable {s : State} {r : Slice0.MbRow} {rq : MbReq}

/-- A request that reaches the Heldun passes the gate of the exchange. -/
theorem gate_of_sent (h : Slice0.Sent s r rq) :
    (!serving s || decide (2 ≤ rq.port) || !portLive s rq.port || !r.spec.mine (padTo rq.length rq.payload)) = false := by
  have mine : r.spec.mine (padTo rq.length rq.payload) = true := h.mine
  simp [h.served, Nat.not_le.2 h.port, h.live, mine]

theorem mbOp_of_busy (h : Slice0.Sent s r rq) (busy : (mboxOf s rq.port).busy = true) :
    mbOp r.spec rq s = setMbox s rq.port { mboxOf s rq.port with overrun := true } := by
  simp only [mbOp, gate_of_sent h, busy, Bool.false_eq_true, if_false, if_true]

/-- Step 1: the header's first field at fault is named in DETAIL. -/
theorem mbOp_of_malformed (h : Slice0.Sent s r rq) (idle : (mboxOf s rq.port).busy = false) (bad : rq.rsv ≠ 0 ∨ 4064 < rq.length) :
    ∃ off, mbOp r.spec rq s = turnedAway s r rq 3 (2 ^ 31 + off) := by
  by_cases rsv : rq.rsv = 0
  · have long : 4064 < rq.length := bad.resolve_left fun n => n rsv
    exact ⟨6, by simp only [mbOp, gate_of_sent h, idle, rsv, mbLimit, long, Bool.false_eq_true, if_false, if_true, ne_eq, not_true]; rfl⟩
  · refine ⟨if rq.rsv % 256 ≠ 0 then 5 else 8, ?_⟩
    simp only [mbOp, gate_of_sent h, idle, rsv, Bool.false_eq_true, if_false, if_true, ne_eq, not_false_eq_true]
    rfl

/-- Step 2: a command before any negotiation. -/
theorem mbOp_of_unnegotiated (h : Slice0.Heard s r rq) (silent : (mboxOf s rq.port).major = none) (hc : r.spec.code ≠ 1) :
    mbOp r.spec rq s = turnedAway s r rq 1 0 := by
  simp only [mbOp, gate_of_sent h.toSent, h.idle, h.rsv, mbLimit, Nat.not_lt.2 h.length, silent, hc, cmdHello, Option.isNone_none,
    Bool.false_eq_true, if_false, if_true, ne_eq, not_true, not_false_eq_true, decide_true, Bool.and_self]
  rfl

theorem sameRequest_iff {e : Reply} {code : Nat} {digest : List Byte} :
    sameRequest e code rq digest = true ↔ e.command = code ∧ e.length = rq.length ∧ e.digest = digest := by
  simp only [sameRequest, Bool.and_eq_true, beq_iff_eq, and_assoc]

/-- Step 3: a TXN of the reply cache is answered from the cache. -/
theorem mbOp_of_repeat {e : Reply} (h : Slice0.Heard s r rq) (hello : (mboxOf s rq.port).major.isSome = true ∨ r.spec.code = 1)
    (txn : rq.txn ≠ 0) (hit : (mboxOf s rq.port).cache.find? (fun e => e.txn == rq.txn) = some e) :
    mbOp r.spec rq s =
      if sameRequest e r.spec.code rq (sha384 (Slice0.payloadOf rq)) then respond s rq.port rq.txn (patch e.response 8 [1#8])
      else turnedAway s r rq 8 e.command := by
  have negotiated : ((mboxOf s rq.port).major.isNone && decide (r.spec.code ≠ cmdHello)) = false := by
    rcases hello with major | code
    · simp [Option.isNone_eq_false_iff.2 major]
    · simp [code, cmdHello]
  simp only [mbOp, gate_of_sent h.toSent, h.idle, h.rsv, mbLimit, Nat.not_lt.2 h.length, negotiated, txn, hit,
    Bool.false_eq_true, if_false, ne_eq, not_true]
  rfl

/-! ## Serving a request anew (R446, R447, R461) -/

/-- A request that fails a check is answered with that result and executes nothing. -/
theorem serveNew_of_fails {p : List Byte} {result detail : Nat} (hc : mbChecks r.spec s rq p = some (result, detail)) :
    serveNew r.spec s rq p = Slice0.replied s r rq result detail [] := by
  simp only [serveNew, hc]
  rfl

/-- What is left of a request that was executed with no word of a peer to wait for: the response, then the reset that MB_RESET commands. -/
def finished (t : State) (reset : Bool) : State :=
  if !reset then t else if mailboxBusy t then { t with heldun := { t.heldun with resetDue := true } } else fullStart t

section
variable {p : List Byte} {d : MbDone} (hc : mbChecks r.spec s rq p = none) (hd : r.spec.run s rq.port p = some d) (up : serving d.state = true)
include hc hd up

theorem serveNew_of_done (ends : d.begun = none) :
    serveNew r.spec s rq p = finished (Slice0.replied d.state r rq d.result d.detail d.payload) d.reset := by
  simp only [serveNew, hc, hd, up, ends, Bool.not_true, Bool.false_eq_true, if_false]
  rfl

theorem serveNew_of_begun {id : Nat} (waits : d.begun = some id) :
    serveNew r.spec s rq p = setMbox { d.state with shoes := { d.state.shoes with init := some (id, rq) } } rq.port
      { mboxOf d.state rq.port with busy := true } := by
  simp only [serveNew, hc, hd, up, waits, Bool.not_true, Bool.false_eq_true, if_false]

end

/-! ## The roles (R449, R450) -/

/-- An offered request of a fitting length, from a host without the role of its row, fails step 6. -/
theorem mbChecks_of_role {p : List Byte} {b : Nat} (hc : r.spec.code ≠ 1) (major : (mboxOf s rq.port).major = some 2 ∨ r.spec.major1 = true)
    (low : 1 ≤ rq.minor) (high : rq.minor ≤ minorOf (mboxOf s rq.port) (familyOf r.spec.code)) (len : r.spec.lengths rq.length = true)
    (role : roleFails s rq.port r.spec.role = some b) : mbChecks r.spec s rq p = some (5, b) := by
  have offered : ((mboxOf s rq.port).major == some 2 || r.spec.major1) = true := by simpa using major
  simp [mbChecks, hc, cmdHello, offered, low, high, len, role, mrRole]

theorem roleFails_owner {port : Nat} (other : s.heldun.owner ≠ some port) : roleFails s port .owner = some 0xFFFFFFFF := by
  simp [roleFails, other]

theorem roleFails_right {port b : Nat} (other : s.heldun.owner ≠ some port) (lacks : s.vault.observerRights.getLsbD b = false) :
    roleFails s port (.right b) = some b := by
  simp [roleFails, observerHas, other, lacks]

end

/-! ## What a response moves (R447) -/

@[simp] theorem setMbox_resetDue (s : State) (p : Nat) (m : Mbox) : (setMbox s p m).heldun.resetDue = s.heldun.resetDue := by
  unfold setMbox; split <;> rfl

@[simp] theorem respond_owner (s : State) (port txn : Nat) (bs : List Byte) : (respond s port txn bs).heldun.owner = s.heldun.owner :=
  setMbox_owner ..
@[simp] theorem respond_resetDue (s : State) (port txn : Nat) (bs : List Byte) :
    (respond s port txn bs).heldun.resetDue = s.heldun.resetDue :=
  setMbox_resetDue ..

@[simp] theorem cacheReply_owner (s : State) (port code : Nat) (rq : MbReq) (dg bs : List Byte) :
    (cacheReply s port code rq dg bs).heldun.owner = s.heldun.owner := by
  unfold cacheReply; split <;> simp
@[simp] theorem cacheReply_resetDue (s : State) (port code : Nat) (rq : MbReq) (dg bs : List Byte) :
    (cacheReply s port code rq dg bs).heldun.resetDue = s.heldun.resetDue := by
  unfold cacheReply; split <;> simp

/-- A response moves the mailbox state of its port and the output. -/
theorem respond_frame (s : State) (port txn : Nat) (bs : List Byte) :
    { respond s port txn bs with heldun := s.heldun, out := s.out } = s := rfl

theorem mboxOf_respond (s : State) (port txn : Nat) (bs : List Byte) :
    mboxOf (respond s port txn bs) port = { mboxOf s port with response := bs, lastTxn := txn, done := true } :=
  mboxOf_setMbox s port _

theorem mboxOf_respond_ne (s : State) {port q : Nat} (txn : Nat) (bs : List Byte) (hp : port < 2) (hq : q < 2) (other : q ≠ port) :
    mboxOf (respond s port txn bs) q = mboxOf s q :=
  mboxOf_setMbox_ne s _ hp hq other

/-- While no device reset waits for a response, an answered request leaves OWNER. -/
theorem replied_owner (s : State) (r : Slice0.MbRow) (rq : MbReq) (result detail : Nat) (payload : List Byte) (idle : s.heldun.resetDue = false) :
    (Slice0.replied s r rq result detail payload).heldun.owner = s.heldun.owner := by
  simp [Slice0.replied, Slice0.dueReset, idle]

/-! ## The statements of the exchange -/

/-- Settles O37: one fact per step of R446, and an executed request ends by whether it waits and whether it commands a reset. -/
theorem mailboxRequestsAreCheckedServedAndAnswered : Obligations.MailboxRequestsAreCheckedServedAndAnswered := by
  intro r hr s rq
  rw [exec_mbRow hr]
  refine ⟨?overrun, ?format, ?noHello, ?fails, ?runs⟩
  case overrun => exact fun h busy => congrArg Host.Outcome.next (mbOp_of_busy h busy)
  case format =>
    intro h idle bad
    obtain ⟨off, answered⟩ := mbOp_of_malformed h idle bad
    exact ⟨off, congrArg Host.Outcome.next answered⟩
  case noHello => exact fun h silent hc => congrArg Host.Outcome.next (mbOp_of_unnegotiated h silent hc)
  case fails =>
    intro h result detail hc
    rw [SixLevels.mbOp_of_fresh h, serveNew_of_fails hc]
  case runs =>
    intro h hc d hd up t
    have ends (e : d.begun = none) : mbOp r.spec rq s = finished t d.reset :=
      (SixLevels.mbOp_of_fresh h).trans (serveNew_of_done hc hd up e)
    refine ⟨fun e stays => ?_, fun e resets idle => ?_, fun e resets busy => ?_, fun id waits => ?_⟩
    · rw [ends e]; simp [finished, stays]
    · rw [ends e]; simp [finished, resets, idle]
    · rw [ends e]; simp [finished, resets, busy]
    · rw [SixLevels.mbOp_of_fresh h, serveNew_of_begun hc hd up waits]

/-- Settles O38: step 3 answers from the cache, and a response moves its port's page and the output alone. -/
theorem mailboxRepeatsExecuteNothing : Obligations.MailboxRepeatsExecuteNothing := by
  intro r hr s rq e h hello txn hit same
  rw [exec_mbRow hr, mbOp_of_repeat h hello txn hit]
  refine ⟨fun yes => ?_, fun no => ?_, fun bs => ?_⟩
  · rw [if_pos (sameRequest_iff.2 yes)]; rfl
  · rw [if_neg fun yes => no (sameRequest_iff.1 yes)]; rfl
  · exact ⟨respond_frame .., mboxOf_respond .., fun q hq other => mboxOf_respond_ne s _ bs h.port hq other⟩

/-- Settles O39: the role is the first check that fails, and its response moves the mailbox state and the output alone. -/
theorem ownerCommandsNeedTheOwnerRole : Obligations.OwnerCommandsNeedTheOwnerRole := by
  intro r hr s rq h hc major low high len other
  have role (b : Nat) (fails : roleFails s rq.port r.spec.role = some b) : exec (r.row rq) s = .next (Slice0.replied s r rq 5 b []) := by
    rw [exec_mbRow hr, SixLevels.mbOp_of_fresh h, serveNew_of_fails (mbChecks_of_role hc major low high len fails)]
  refine ⟨fun owner => role _ ?_, fun b right lacks => role b ?_, fun res d idle => ⟨?_, replied_owner s r rq res d [] idle⟩⟩
  · rw [owner, roleFails_owner other]
  · rw [right, roleFails_right other lacks]
  · exact ((SixLevels.MailboxOnly.refl s).endRequest r.spec.code rq res d [] idle).rest

/-! ## Register writes (R441, Table 17-5) -/

/-- What a write of `v` to a register leaves of its port's mailbox state. -/
def registerWritten (m : Mbox) (off v : Nat) : Mbox :=
  if off = 0x2004 then { m with overrun := m.overrun && !v.testBit 2, done := m.done && !v.testBit 1 }
  else if off = 0x200C then { m with evtHead := v % 2 ^ 32 }
  else m

/-- A write that the BAR answers writes its port's mailbox state. -/
theorem registerWriteOp_eq {s : State} {port : Nat} (off v : Nat) (on : s.module.powered = true) (hp : port < 2) (bar : 3 ≤ s.boot.step)
    (live : portLive s port = true) : registerWriteOp port off v s = setMbox s port (registerWritten (mboxOf s port) off v) := by
  have gate : (!s.module.powered || decide (2 ≤ port) || decide (s.boot.step < 3) || !portLive s port) = false := by
    simp [on, Nat.not_le.2 hp, Nat.not_lt.2 bar, live]
  simp only [registerWriteOp, gate, registerWritten, bitOf, Bool.false_eq_true, if_false]
  split
  · rfl
  split
  · rfl
  · exact (PartiesKeysSecrecy.setMbox_mboxOf s port).symm

/-- Settles O42: the row writes its port's mailbox state, by the register. -/
theorem registerWritesClearBitsAndMoveEvtHead : Obligations.RegisterWritesClearBitsAndMoveEvtHead := by
  intro s port off v on hp bar live
  refine ⟨_, congrArg Host.Outcome.next (registerWriteOp_eq off v on hp bar live), rfl,
    fun q hq other => mboxOf_setMbox_ne s _ hp hq other, fun status => ?_, fun evtHead => ?_, fun notStatus notEvtHead => ?_⟩
  · rw [mboxOf_setMbox, registerWritten, if_pos status]; exact ⟨rfl, rfl, rfl⟩
  · rw [mboxOf_setMbox, evtHead]; rfl
  · rw [registerWritten, if_neg notStatus, if_neg notEvtHead, PartiesKeysSecrecy.setMbox_mboxOf]

end Sys2Proof.HeldunMailbox
end

section
/-!
SUPPORT. The statements of 18_binik_links_and_domains.md: what the sideband commands write, the send entries of a queue pair from its ring to its
answer, and what arrives from the network.
-/

namespace Sys2Proof.BinikLinksAndDomains

open Sys2Proof.Machine Sys2Proof.Laws

/-! ## The installation record (R472) -/

/-- EV_LINK leaves the vault and the domain. -/
@[simp] theorem linkEvent_vault (s : State) (p reason detail : Nat) : (linkEvent s p reason detail).vault = s.vault :=
  ((EventOnly.refl s).raise _ _).vault

@[simp] theorem linkEvent_domain (s : State) (p reason detail : Nat) : (linkEvent s p reason detail).domain = s.domain :=
  ((EventOnly.refl s).raise _ _).domain

/-- Comparing a port's records, announcing a changed one and entering an epoch write nothing in the vault. -/
@[simp] theorem compareLink_vault (s : State) (p : Nat) : (compareLink s p).vault = s.vault := by
  unfold compareLink
  dsimp only
  split
  · rfl
  · split
    · exact linkEvent_vault ..
    · split
      · rfl
      · exact linkEvent_vault ..

@[simp] theorem announce_vault (s : State) : (announce s).vault = s.vault := by
  refine foldl_keeps (P := fun t : State => t.vault = s.vault) _ (fun t p h => (compareLink_vault t p).trans h) _ _ ?_
  exact foldl_keeps (P := fun t : State => t.vault = s.vault)
    (fun t p => sendManagement t p kindRecord (deviceId t) t.domain.barrier.epoch (domainRecord t p)) (fun _ _ h => h) _ _ rfl

@[simp] theorem tryEnter_vault (s : State) : (tryEnter s).vault = s.vault := by
  unfold tryEnter
  dsimp only
  split
  · rw [linkEvent_vault, announce_vault]; rfl
  · rfl

/-- Counting a record write of the system area, and its wear, leaves the installation record. -/
@[simp] theorem wearCheck_install (s : State) (item index stack count limit : Nat) :
    (wearCheck s item index stack count limit).vault.install = s.vault.install := by
  unfold wearCheck
  split
  · rfl
  · rw [((EventOnly.refl _).error _).vault]

@[simp] theorem recordWrite_install (s : State) : (recordWrite s).vault.install = s.vault.install :=
  wearCheck_install ..

@[simp] theorem storeInstall_install (s : State) (r : List Byte) : (storeInstall s r).vault.install = some r :=
  recordWrite_install _

@[simp] theorem commitInstall_install (s : State) (r : List Byte) : (commitInstall s r).vault.install = some r := by
  unfold commitInstall
  rw [tryEnter_vault, announce_vault]
  exact storeInstall_install s r

/-! ## Routes (R482) -/

/-- A table made from a list of keys has the entry of each. -/
theorem tabFind_map_of_mem {α : Type} (g : Nat → α) {l : List Nat} {k : Nat} (h : k ∈ l) :
    tabFind (l.map fun j => (j, g j)) k = some (g k) := by
  induction l with
  | nil => cases h
  | cons j l ih =>
    rw [List.map_cons, tabFind]
    split
    · next same => rw [same]
    · next other => exact ih ((List.mem_cons.1 h).resolve_left (Ne.symm other))

/-- Every route of the table is that of its word of the payload. -/
theorem routeOf_installRoutes (s : State) (p : List Byte) {i : Nat} (hi : i < 32) :
    routeOf (installRoutes s p) i = ⟨bitOf (routeWord p i) 29, bitsOf (routeWord p i) 28 24, bitsOf (routeWord p i) 15 0⟩ := by
  unfold routeOf installRoutes
  rw [linkEvent_domain, tabFind_map_of_mem _ (List.mem_range.2 hi)]
  rfl

/-- Settles O44: each command's own field of the state after it. -/
theorem sidebandCommandsActOnTheirState : Obligations.SidebandCommandsActOnTheirState := by
  refine ⟨fun s p => ?stage, fun s p => ?commit, fun s p => ?routes, fun s p => rfl, fun s p => ?queuePairs, fun s p => ?regions, ?reads⟩
  case stage =>
    refine ⟨rfl, ?_, rfl⟩
    show patch (padTo 2136 s.sideband.stage) (fld p 0 4) (p.drop 4) = _
    rw [patch, List.length_drop]
  case commit =>
    refine ⟨fun legal => ?_, fun illegal => if_neg (Bool.eq_false_iff.1 illegal)⟩
    have stored : installCommitSpec.run s p = (0, commitInstall s (padTo 2136 s.sideband.stage), []) := if_pos legal
    rw [stored]
    dsimp only
    exact ⟨rfl, commitInstall_install ..⟩
  case routes =>
    refine ⟨congrArg (·.routeSeq) (linkEvent_domain ..), fun i hi => (routeOf_installRoutes s p hi).trans ?_⟩
    simp [routeWord, bitOf, bitsOf, Nat.shiftRight_eq_div_pow]
  case queuePairs => exact ⟨tabFind_tabErase_same .., tabFind_tabPut_same ..⟩
  case regions =>
    refine ⟨tabFind_tabPut_same .., tabFind_tabErase_same .., fun m other => ?_⟩
    simp only [List.forall_mem_cons, List.not_mem_nil, false_implies, implies_true, and_true]
    exact ⟨tabFind_tabPut_ne _ _ other, tabFind_tabErase_ne _ other⟩
  case reads =>
    simp only [Slice0.sbRows, List.take_succ_cons, List.take_zero, List.forall_mem_cons, List.not_mem_nil, false_implies, implies_true, and_true]
    refine ⟨?_, ?_, ?_, ?_, ?_, ?_⟩ <;> exact fun _ _ => ⟨rfl, rfl⟩

/-! ## Send entries (R487, R488, Table 18-14) -/

/-- The three rows of a send ring serve the entries of their OP. -/
theorem exec_sendRow (n : Nat) (s : State) :
    ∀ r ∈ [(Instr.rdmaWrite, 0), (Instr.rdmaWriteWithImmediate, 1), (Instr.rdmaRead, 2)], exec (r.1 n) s = .next (sendOp r.2 n s) := by
  simp only [List.forall_mem_cons, List.not_mem_nil, false_implies, implies_true, and_true]
  exact ⟨rfl, rfl, rfl⟩

/-- The entry at the head of a ring ends with what it breaks of Table 18-14, is sent on a live port, and ends for a port that is not. -/
theorem sendOp_of_entryAt {s : State} {n op : Nat} {q0 q : Qp} {b : List Byte} (h : Slice0.EntryAt s n q0 q b) (mine : fld b 0 1 = op) :
    sendOp op n s = (entryFault b).elim
      (if portLive s (4 + q.port) then sendEntry s n q b else endEntry s n q b sUnitAbsent 0 (netAbsent q.port))
      fun f => endEntry s n q b f.1 0 f.2 := by
  obtain ⟨w, served, found, idle, unpaused, tailWord, rfl, ahead, read⟩ := h
  have going : (!serving s || q0.sent.isSome || (netPortOf s q0.port).paused) = false := by simp [served, idle, unpaused]
  have ours : (decide (fld b 0 1 < 3) && decide (fld b 0 1 ≠ op)) = false := by simp [mine]
  simp only [sendOp, found, going, tailWord, if_neg ahead, read, ours, Bool.false_eq_true, if_false]
  cases entryFault b <;> rfl

/-- A write whose bytes can be read leaves with them and waits. -/
theorem sendEntry_write {s : State} {n : Nat} {q : Qp} {b bs : List Byte} (write : fld b 0 1 ≠ 2)
    (read : netRead s q.asid (fld b 8 8) (fld b 16 4) = .ok bs) :
    sendEntry s n q b = send (putQp s n { q with sent := some b })
      (.rdma q.port n (fld b 0 1) (if fld b 0 1 = 1 then fld b 4 4 else 0) (fld b 20 4) (fld b 24 8) (fld b 16 4) bs) := by
  simp only [sendEntry, if_neg write, read]

/-! ## Answers (R489) -/

section
variable {s : State} {n : Nat} {q : Qp} {b : List Byte} (served : serving s = true) (found : tabFind s.net.qps n = some q) (sent : q.sent = some b)
include served found sent

theorem rdmaRetryExpiryOp_ends : rdmaRetryExpiryOp n s = endEntry s n q b sNetRemote 0 0xFF := by
  simp only [rdmaRetryExpiryOp, found, sent, if_pos served]

variable (live : portLive s (4 + q.port) = true)
include live

theorem rdmaResponseOp_nak (syndrome : Nat) : rdmaResponseOp n (.nak syndrome) s = endEntry s n q b sNetRemote 0 (low 8 syndrome) := by
  simp [rdmaResponseOp, found, sent, served, live]

theorem rdmaResponseOp_ack (write : fld b 0 1 ≠ 2) : rdmaResponseOp n .ack s = endEntry s n q b sOk (fld b 16 4) 0 := by
  simp [rdmaResponseOp, found, sent, served, live, write]

theorem rdmaResponseOp_data (read : fld b 0 1 = 2) {places : List (Loc × Nat × Nat)} (bs : List Byte)
    (dest : netDest s q.asid (fld b 8 8) (fld b 16 4) = .ok places) :
    rdmaResponseOp n (.data bs) s = endEntry (netPut s places (padTo (fld b 16 4) bs)) n q b sOk (fld b 16 4) 0 := by
  simp [rdmaResponseOp, found, sent, served, live, read, dest]

end

/-- An entry with COMPLETE 0 that ends with S_OK only advances its queue pair's head counter. -/
theorem endEntry_unrecorded (s : State) (n : Nat) (q : Qp) {b : List Byte} (moved detail : Nat) (silent : fld b 1 1 % 2 = 0) :
    endEntry s n q b sOk moved detail = putQp s n { q with head := wrapAdd 32 q.head 1, sent := none } := by
  have unwanted : (bitOf (fld b 1 1) 0 || sOk != sOk) = false := by simp [bitOf, Nat.testBit_zero, silent]
  exact if_pos (congrArg (! ·) unwanted)

/-- Settles O54: the entry at the head of its ring, its answers, and its end. -/
theorem rdmaEntriesAreSentAndEnded : Obligations.RdmaEntriesAreSentAndEnded := by
  refine ⟨fun r hr s n q0 q b h op => ?sends, fun s n q b served found sent => ?answers,
    fun s n q b moved d silent => endEntry_unrecorded s n q moved d silent⟩
  case sends =>
    rw [exec_sendRow n s r hr, sendOp_of_entryAt h op]
    refine ⟨fun st d breaks => by rw [breaks]; rfl, fun keeps dead => ?_, fun keeps live => ?_, fun write bs read => ?_⟩
    · rw [keeps, dead]; rfl
    · rw [keeps, live]; rfl
    · rw [sendEntry_write (op ▸ write) read, op]
  case answers =>
    refine ⟨congrArg Host.Outcome.next (rdmaRetryExpiryOp_ends served found sent), fun live => ⟨fun syn => ?_, fun write => ?_,
      fun read bs places dest => ?_⟩⟩
    · exact congrArg Host.Outcome.next (rdmaResponseOp_nak served found sent live syn)
    · exact congrArg Host.Outcome.next (rdmaResponseOp_ack served found sent live write)
    · exact congrArg Host.Outcome.next (rdmaResponseOp_data served found sent live read bs dest)

/-! ## Requests from the network (R487, R489, R490) -/

/-- A request of a queue pair of a live port that is served at once: with a congestion mark a notification follows the answer. -/
theorem requestOp_of_serve {s t : State} {p : RdmaReq} {q : Qp} {serve : State → Qp → Option State} (served : serving s = true) (hp : p.port < 2)
    (live : portLive s (4 + p.port) = true) (found : tabFind s.net.qps p.qp = some q) (port : q.port = p.port) (answers : serve s q = some t) :
    requestOp p serve s = if p.ecn then send t (.cnp p.port p.qp) else t := by
  simp [requestOp, found, served, Nat.not_le.2 hp, port, live, answers]

section
variable {s : State} {p : RdmaReq} (q : Qp)

/-- Without a region that has the right, a request is answered with a remote access error. -/
theorem serveRdmaWrite_denied (done : State → Qp → State) (denied : regionOf s p true = none) :
    serveRdmaWrite p done s q = some (replyTo s p false []) := by
  simp only [serveRdmaWrite, denied]

theorem serveRdmaRead_denied (denied : regionOf s p false = none) : serveRdmaRead p s q = some (replyTo s p false []) := by
  simp only [serveRdmaRead, denied]

/-- With one whose bytes can be accessed, it is served and acknowledged. -/
theorem serveRdmaWrite_granted (done : State → Qp → State) {mr : Mr} {places : List (Loc × Nat × Nat)} (granted : regionOf s p true = some mr)
    (dest : netDest s mr.asid p.va p.len = .ok places) :
    serveRdmaWrite p done s q = some (replyTo (done (netPut s places (padTo p.len p.data)) q) p true []) := by
  simp only [serveRdmaWrite, granted, dest]

theorem serveRdmaRead_granted {mr : Mr} {bs : List Byte} (granted : regionOf s p false = some mr)
    (read : netRead s mr.asid p.va p.len = .ok bs) : serveRdmaRead p s q = some (replyTo s p true bs) := by
  simp only [serveRdmaRead, granted, read]

end

/-! ## The services and the link of a port (R486, R492, R531) -/

/-- A live port owns its own address, if it has one, and no other. -/
theorem netOwns_own {s : State} {port own : Nat} (hp : port < 2) (live : portLive s (4 + port) = true) (has : own ≠ 0) :
    netOwns s port own own = true := by
  simp [netOwns, hp, live, has]

theorem netOwns_other (s : State) (port : Nat) {address own : Nat} (other : address ≠ own) : netOwns s port address own = false := by
  simp [netOwns, other]

@[simp] theorem netPortOf_setNetPort (s : State) (port : Nat) (x : NetPort) : netPortOf (setNetPort s port x) port = x := by
  unfold netPortOf setNetPort
  split <;> rfl

@[simp] theorem portLive_setNetPort (s : State) (port : Nat) (x : NetPort) (p : Nat) : portLive (setNetPort s port x) p = portLive s p := rfl

/-- A link that may come up makes its port live and unpaused. -/
theorem ethernetUpOp_trained {s : State} {port : Nat} (trains : linksTrain s = true) (hp : port < 2) (down : portLive s (4 + port) = false)
    (cage : cageReady s port = true) (commandedUp : s.power.portsDown.getLsbD (2 + port) = false) :
    ethernetUpOp port s = setNetPort (setPortLive s (4 + port) true) port { netPortOf s port with paused := false } :=
  if_pos (by simp only [trains, hp, down, cage, commandedUp]; rfl)

/-- Settles O55: each request by its region, and each service and link input by its port. -/
theorem requestsFromTheNetworkAreGrantedByRegion : Obligations.RequestsFromTheNetworkAreGrantedByRegion := by
  refine ⟨fun s p q served hp live found port => ?requests, fun s n q served found live => ?congestion, fun s port hp live => ?services,
    fun s port trains hp down cage commandedUp => ?linkUp⟩
  case requests =>
    have answered {serve : State → Qp → Option State} {t : State} (answers : serve s q = some t) :
        answer (requestOp p serve s) = .next (if p.ecn then send t (.cnp p.port p.qp) else t) :=
      congrArg Host.Outcome.next (requestOp_of_serve served hp live found port answers)
    refine ⟨fun denied => ⟨?_, ?_⟩, fun denied => ?_, fun mr places granted dest => ⟨?_, ?_⟩, fun mr bs granted read => ?_⟩
    · exact answered (serveRdmaWrite_denied q _ denied)
    · exact answered (serveRdmaWrite_denied q _ denied)
    · exact answered (serveRdmaRead_denied q denied)
    · exact answered (serveRdmaWrite_granted q _ granted dest)
    · exact answered (serveRdmaWrite_granted q (postImmediate p) granted dest)
    · exact answered (serveRdmaRead_granted q granted read)
  case congestion => simp [exec, execCongestionNotification, answer, found, served, live]
  case services =>
    refine ⟨fun classes pause named configured => ?_, fun ip mac has => ?_, fun ip mac has => ?_, fun ip bs has => ?_,
      fun address ip mac other => ?_, ?_⟩
    · exact congrArg Host.Outcome.next (if_pos (by simp only [hp, live, named, configured]; rfl))
    · exact congrArg Host.Outcome.next (if_pos (netOwns_own hp live has))
    · exact congrArg Host.Outcome.next (if_pos (netOwns_own hp live has))
    · exact congrArg Host.Outcome.next (if_pos (netOwns_own hp live has))
    · exact congrArg Host.Outcome.next (if_neg (Bool.eq_false_iff.1 (netOwns_other s port other)))
    · exact congrArg Host.Outcome.next (if_pos (by simp only [hp, live]; rfl))
  case linkUp =>
    refine ⟨_, congrArg Host.Outcome.next (ethernetUpOp_trained trains hp down cage commandedUp), ?_, ?_⟩
    · rw [portLive_setNetPort]; exact portLive_setPortLive s _ _ (by omega)
    · rw [netPortOf_setNetPort]

end Sys2Proof.BinikLinksAndDomains
end

section
/-!
SUPPORT. The statements of 19_power_states.md: what a thermal reading raises and moves, the protective stop, the end of a telemetry window, and the
transitions that settle.
-/

namespace Sys2Proof.PowerStates

open Sys2Proof.Machine Sys2Proof.Laws

/-! ## What raising an event moves of the units (R456, R513) -/

@[simp] theorem deliverEvent_units (record : List Byte) (s : State) (port : Nat) : (deliverEvent record s port).units = s.units := by
  unfold deliverEvent
  split
  · dsimp only
    split
    · rfl
    · split
      · rfl
      · split
        · rfl
        · simp only [send_units, setMbox_units, hostPut_units]
  · rfl

/-- Of the units, an event moves the event sequence alone: no error is counted. -/
@[simp] theorem raiseEvent_units (s : State) (code : Nat) (payload : List Byte) :
    (raiseEvent s code payload).units = { s.units with eventSeq := wrapAdd 32 s.units.eventSeq 1 } := by
  simp only [raiseEvent, deliverEvent_units]

/-! ## Warnings (R507) -/

/-- Two states differ in nothing but which sensors have warned and what raising an event moves. -/
structure WarningOnly (s t : State) : Prop where
  rest : { t with telemetry := s.telemetry, units := s.units, heldun := s.heldun, host0 := s.host0, host1 := s.host1, out := s.out } = s
  telemetry : { t.telemetry with warned := s.telemetry.warned } = s.telemetry
  units : { t.units with eventSeq := s.units.eventSeq } = s.units
  heldun : { t.heldun with port0 := s.heldun.port0, port1 := s.heldun.port1 } = s.heldun

theorem WarningOnly.refl (s : State) : WarningOnly s s := ⟨rfl, rfl, rfl, rfl⟩

theorem WarningOnly.setWarned (s : State) (l : List (Nat × Nat)) : WarningOnly s (setWarned s l) := ⟨rfl, rfl, rfl, rfl⟩

theorem WarningOnly.raise {s t : State} (h : WarningOnly s t) (code : Nat) (payload : List Byte) : WarningOnly s (raiseEvent t code payload) := by
  have event := (EventOnly.refl t).raise code payload
  have telemetry : (raiseEvent t code payload).telemetry = t.telemetry := (congrArg (fun u : State => u.telemetry) event.rest : _)
  refine ⟨?_, ?_, ?_, ?_⟩
  · exact (congrArg (fun u : State => { u with
      telemetry := s.telemetry, units := s.units, heldun := s.heldun, host0 := s.host0, host1 := s.host1, out := s.out }) event.rest).trans h.rest
  · rw [telemetry]; exact h.telemetry
  · rw [raiseEvent_units]; exact h.units
  · exact (congrArg (fun u : Heldun => { u with port0 := s.heldun.port0, port1 := s.heldun.port1 }) event.heldun).trans h.heldun

/-- A thermal reading of any sensor moves nothing else. -/
theorem thermalWarnOp_warningOnly (sensor i : Nat) (c : Int) (s : State) : WarningOnly s (thermalWarnOp sensor i c s) := by
  unfold thermalWarnOp
  split
  · exact .refl s
  · dsimp only
    split
    · exact .refl s
    · split
      · exact .setWarned s _
      · split
        · exact (WarningOnly.setWarned s _).raise _ _
        · exact .refl s

/-- A device that does not serve, and one whose WARN_C is 0, raises no warning. -/
theorem thermalWarnOp_off (sensor i : Nat) (c : Int) {s : State} (off : serving s = false ∨ s.power.warnC = 0) :
    thermalWarnOp sensor i c s = s := by
  unfold thermalWarnOp
  split
  · rfl
  · exact if_pos (by simpa using off)

section
variable {s : State} {sensor i code : Nat} {c : Int} (warns : warnCode sensor = some code) (served : serving s = true) (on : s.power.warnC ≠ 0)
include warns served on

theorem thermalWarnOp_cooled (low : c ≤ ((s.power.warnC : Int) - 3) * 16) :
    thermalWarnOp sensor i c s = setWarned s (s.telemetry.warned.filter fun x => x != (sensor, i)) := by
  simp [thermalWarnOp, warns, served, on, cooled, low]

theorem thermalWarnOp_rises (high : (s.power.warnC : Int) * 16 < c) (new : (sensor, i) ∉ s.telemetry.warned) :
    thermalWarnOp sensor i c s =
      raiseEvent (setWarned s ((sensor, i) :: s.telemetry.warned)) evThermal (thermalPayload 0 code i c) := by
  have uncooled : ¬ c ≤ ((s.power.warnC : Int) - 3) * 16 := by omega
  simp [thermalWarnOp, warns, served, on, cooled, uncooled, high, new]

/-- A sensor that has not cooled, and is not above WARN_C or has warned already, changes nothing. -/
theorem thermalWarnOp_stands (uncooled : ((s.power.warnC : Int) - 3) * 16 < c)
    (silent : c ≤ (s.power.warnC : Int) * 16 ∨ (sensor, i) ∈ s.telemetry.warned) : thermalWarnOp sensor i c s = s := by
  rcases silent with low | old
  · simp [thermalWarnOp, warns, served, on, cooled, Int.not_le.2 uncooled, Int.not_lt.2 low]
  · simp [thermalWarnOp, warns, served, on, cooled, Int.not_le.2 uncooled, old]

end

/-- Settles O56: each reading by its place below, between or above the two marks, and the frame of all of them. -/
theorem thermalWarningsAreRaisedOnceAndChangeNoState : Obligations.ThermalWarningsAreRaisedOnceAndChangeNoState := by
  intro s sensor i c code warns
  have answered {t : State} (op : thermalWarnOp sensor i c s = t) : exec (.thermalWarn sensor i c) s = .next t := congrArg Host.Outcome.next op
  refine ⟨fun stopped => answered (thermalWarnOp_off sensor i c (.inl stopped)), fun served => ⟨fun off => ?off, fun on low => ?cooled,
    fun on high new => ?rises, fun on high old => ?warned, fun on uncooled low => ?between, ?frame⟩⟩
  case off => exact answered (thermalWarnOp_off sensor i c (.inr off))
  case cooled => exact answered (thermalWarnOp_cooled warns served on low)
  case rises => exact answered (thermalWarnOp_rises warns served on high new)
  case warned => exact answered (thermalWarnOp_stands warns served on (by omega) (.inr old))
  case between => exact answered (thermalWarnOp_stands warns served on uncooled (.inl low))
  case frame =>
    obtain ⟨rest, telemetry, units, heldun⟩ := thermalWarnOp_warningOnly sensor i c s
    exact ⟨_, rfl, rest, telemetry, units, heldun⟩

/-! ## The protective stop (R508) -/

theorem protectiveStopOp_stops {s : State} {sensor code : Nat} (i : Nat) {c : Int} (served : serving s = true)
    (die : stopCode sensor = some code) (hot : 118 * 16 ≤ c) :
    protectiveStopOp sensor i c s = fatal (raiseEverywhere s evThermal (thermalPayload 1 code i c)) 0x56 0 0 0 := by
  simp only [protectiveStopOp, die, served, decide_eq_true hot]
  rfl

/-- A reading below 118 °C stops neither a device that serves nor a start, and a sensor that is not of a die stops nothing. -/
theorem protectiveStopOp_stands {s : State} {sensor : Nat} (i : Nat) {c : Int} (safe : c < 118 * 16 ∨ stopCode sensor = none) :
    protectiveStopOp sensor i c s = s := by
  unfold protectiveStopOp
  split
  · rfl
  · next code die =>
    have cool : ¬ 118 * 16 ≤ c := Int.not_le.2 (safe.resolve_right (by simp [die]))
    simp only [decide_eq_false cool, Bool.and_false, Bool.false_eq_true, if_false]

/-! ## The telemetry window (R506) -/

section
variable {s : State} (rd : Readings)

theorem telemetryWindowOp_early (served : serving s = true) (early : (hubNow s + 2 ^ 64 - s.telemetry.windowAt) % 2 ^ 64 < 2 ^ 20) :
    telemetryWindowOp rd s = s :=
  if_pos (by
    have early : decide ((hubNow s + 2 ^ 64 - s.telemetry.windowAt) % 2 ^ 64 < telemetryWindow) = true := decide_eq_true early
    rw [served, early, Bool.and_self, Bool.or_true])

/-- A window that is over keeps its readings; some sensors may warn again, and none has warned anew. -/
theorem telemetryWindowOp_ends (powered : s.module.powered = true)
    (late : serving s = false ∨ 2 ^ 20 ≤ (hubNow s + 2 ^ 64 - s.telemetry.windowAt) % 2 ^ 64) :
    (telemetryWindowOp rd s).telemetry.rd = rd ∧
      (∀ x ∈ (telemetryWindowOp rd s).telemetry.warned, x ∈ s.telemetry.warned) ∧
      (telemetryWindowOp rd s).memories = s.memories ∧ (telemetryWindowOp rd s).flights = s.flights ∧
      (telemetryWindowOp rd s).power = s.power := by
  have due : (serving s && decide ((hubNow s + 2 ^ 64 - s.telemetry.windowAt) % 2 ^ 64 < telemetryWindow)) = false := by
    rcases late with stopped | passed
    · rw [stopped, Bool.false_and]
    · exact Bool.and_eq_false_imp.2 fun _ => decide_eq_false (Nat.not_lt.2 passed)
  rw [telemetryWindowOp, if_neg (by rw [powered, due]; decide)]
  exact ⟨rfl, fun x kept => (List.mem_filter.1 kept).1, rfl, rfl, rfl⟩

end

/-! ## Transitions settle (R499 to R502, R505) -/

theorem getLsbD_putBit_same {w : Nat} (x : BitVec w) {k : Nat} (b : Bool) (hk : k < w) : (putBit x k b).getLsbD k = b := by
  simp [putBit_getLsbD x k b k hk]

section
variable {s : State} (served : serving s = true)
include served

theorem settledOp_engine (k : Nat) : settledOp 1 k s = settleEngine s k := by
  simp [settledOp, served]

theorem settledOp_stack (k : Nat) :
    settledOp 2 k s = { s with power := { s.power with stackMoving := putBit s.power.stackMoving k false } } := by
  simp [settledOp, served]

theorem settledOp_vault (k : Nat) : settledOp 3 k s = { s with power := { s.power with vaultMoving := false } } := by
  simp [settledOp, served]

theorem settledOp_lanes (k : Nat) : settledOp 4 k s = { s with power := { s.power with oldLanes := tabErase s.power.oldLanes k } } := by
  simp [settledOp, served]

theorem settledOp_port (k : Nat) :
    settledOp 5 k s = { s with power := { s.power with portsMoving := putBit s.power.portsMoving k false } } := by
  simp [settledOp, served]

end

section
variable {s : State} {k : Nat} (moving : s.power.engMoving.getLsbD k = true) (gated : s.power.gated.getLsbD k = true)
include moving gated

/-- An engine that is gated and has a command on it goes on moving. -/
theorem settleEngine_gated_busy (busy : ∃ f ∈ s.flights.list, onUnit f = true ∧ f.place = .engine k) : settleEngine s k = s := by
  have busy : (s.flights.list.any fun f => onUnit f && f.place == .engine k) = true := by simpa [List.any_eq_true] using busy
  simp [settleEngine, moving, gated, busy]

/-- With none on it, it has settled. -/
theorem settleEngine_gated_idle (idle : ∀ f ∈ s.flights.list, onUnit f = true → f.place ≠ .engine k) :
    settleEngine s k = { s with power := { s.power with engMoving := putBit s.power.engMoving k false } } := by
  have idle : (s.flights.list.any fun f => onUnit f && f.place == .engine k) = false := by simpa [List.any_eq_false] using idle
  simp [settleEngine, moving, gated, idle]

end

/-- Settles O57: the stop by sensor and reading, the window by the steps since the last, each transition by its unit. -/
theorem protectiveStopsWindowsAndSettledTransitions : Obligations.ProtectiveStopsWindowsAndSettledTransitions := by
  refine ⟨fun s sensor i c served => ?stop, fun s rd _ served early => ?early, fun s rd powered late => ?late, fun s k served => ?settles⟩
  case stop =>
    refine ⟨fun code die hot => ⟨?_, serving_fatal ..⟩, fun cool => ?_, fun other => ?_⟩
    · exact congrArg Host.Outcome.next (protectiveStopOp_stops i served die hot)
    · exact congrArg Host.Outcome.next (protectiveStopOp_stands i (.inl cool))
    · have notDie : stopCode sensor = none := by rcases other with rfl | rfl <;> rfl
      exact congrArg Host.Outcome.next (protectiveStopOp_stands i (.inr notDie))
  case early => exact congrArg Host.Outcome.next (telemetryWindowOp_early rd served early)
  case late => exact ⟨_, rfl, telemetryWindowOp_ends rd powered late⟩
  case settles =>
    refine ⟨fun hk => ?stack, ?vault, ?lanes, fun hk => ?port, fun hk moving gated => ⟨fun busy => ?busy, fun idle => ?idle⟩⟩
    case stack => exact ⟨_, congrArg Host.Outcome.next (settledOp_stack served k), getLsbD_putBit_same _ false hk, rfl⟩
    case vault => exact congrArg Host.Outcome.next (settledOp_vault served k)
    case lanes => exact ⟨_, congrArg Host.Outcome.next (settledOp_lanes served k), tabFind_tabErase_same _ k⟩
    case port => exact ⟨_, congrArg Host.Outcome.next (settledOp_port served k), getLsbD_putBit_same _ false hk⟩
    case busy =>
      exact congrArg Host.Outcome.next ((settledOp_engine served k).trans (settleEngine_gated_busy moving gated busy))
    case idle =>
      exact ⟨_, congrArg Host.Outcome.next ((settledOp_engine served k).trans (settleEngine_gated_idle moving gated idle)),
        getLsbD_putBit_same _ false hk, rfl⟩

end Sys2Proof.PowerStates
end

section
/-!
SUPPORT. The statements of 21_start_up.md and 22_module.md: the byte memories right after reset, one exchange of the sideband from its checks to its
response, and the I3C common commands.
-/

namespace Sys2Proof.StartUpAndModule

open Sys2Proof.Machine

/-! ## The memories right after reset (R529) -/

/-- Settles O4: State.reset lists no byte in any memory, and the vault of a new device has no slot. -/
theorem resetMemoriesAreCanonical : Obligations.ResetMemoriesAreCanonical where
  device := Memory.wf_nil
  areas := Memory.wf_nil
  host0 := Memory.wf_nil
  host1 := Memory.wf_nil
  payload := List.forall_mem_nil _

/-! ## A sideband request and its response (R540 to R542) -/

/-- Every row of Table 22-5 is one exchange by its specification. -/
theorem exec_sbRow {r : Slice0.SbRow} (hr : r ∈ Slice0.sbRows) (rq : SbReq) (s : State) : exec (r.row rq) s = .next (sbOp r.spec rq s) := by
  have rows : Slice0.sbRows.map (fun r rq s => exec (r.row rq) s) = Slice0.sbRows.map (fun r rq s => .next (sbOp r.spec rq s)) := rfl
  exact congrFun (congrFun (List.map_inj_left.1 rows r hr) rq) s

/-- A request is formed if its LENGTH is that of its payload, its command takes that length, and its bytes that must be 0 are. -/
abbrev Formed (sp : SbSpec) (rq : SbReq) : Prop :=
  rq.len = rq.payload.length ∧ sp.lengths rq.payload.length = true ∧ sp.form rq.payload = true

/-- A command is open if every stage serves it or the device does. -/
abbrev Open (sp : SbSpec) (s : State) : Prop := sp.always = true ∨ serving s = true

/-- On a powered device an exchange checks the form, whether the command is open, and its range, and answers the first that fails. -/
theorem sbOp_eq {sp : SbSpec} {rq : SbReq} {s : State} (on : s.module.powered = true) (mine : sp.mine rq.payload = true) :
    sbOp sp rq s =
      if ¬ Formed sp rq then sbAnswer s rq.seq sbFormat []
      else if ¬ Open sp s then sbAnswer s rq.seq sbState []
      else if sp.range rq.payload = false then sbAnswer s rq.seq sbRange []
      else sbAnswer (sp.run s rq.payload).2.1 rq.seq (sp.run s rq.payload).1 (sp.run s rq.payload).2.2 := by
  have heard : (!s.module.powered || !sp.mine rq.payload) = false := by simp [on, mine]
  have formed : (rq.len ≠ rq.payload.length || !sp.lengths rq.payload.length || !sp.form rq.payload) = true ↔ ¬ Formed sp rq := by
    simp [imp_iff_not_or, or_assoc]
  have opened : (!sp.always && !serving s) = true ↔ ¬ Open sp s := by simp
  have ranged : (!sp.range rq.payload) = true ↔ sp.range rq.payload = false := by simp
  simp only [sbOp, heard, formed, opened, ranged, Bool.false_eq_true, if_false]

/-- A response moves the response page and the output alone. -/
theorem sbAnswer_frame (s : State) (seq result : Nat) (payload : List Byte) :
    { sbAnswer s seq result payload with
      sideband := { (sbAnswer s seq result payload).sideband with response := s.sideband.response }, out := s.out } = s := rfl

/-- Settles O43: the row is the exchange `sbOp`, whose checks are `Formed`, `Open` and the command's range, in that order. -/
theorem sidebandRequestsAreCheckedServedAndAnswered : Obligations.SidebandRequestsAreCheckedServedAndAnswered := by
  intro r hr s rq on mine
  have exchange := (exec_sbRow hr rq s).trans (congrArg Host.Outcome.next (sbOp_eq on mine))
  refine ⟨fun malformed => ?format, fun formed closed => ?state, fun formed opened outside => ?range, fun formed opened inside => ?runs,
    sbAnswer_frame s rq.seq⟩
  case format => rw [exchange, if_pos malformed]; rfl
  case state => rw [exchange, if_neg (not_not.2 formed), if_pos closed]; rfl
  case range => rw [exchange, if_neg (not_not.2 formed), if_neg (not_not.2 opened), if_pos outside]; rfl
  case runs => rw [exchange, if_neg (not_not.2 formed), if_neg (not_not.2 opened), if_neg (Bool.ne_false_iff.2 inside)]

/-! ## I3C common commands (R539, R543) -/

/-- SETDASA at another address, or to a target that has a dynamic address, leaves the state, as ENTDAA does to such a target. -/
theorem i3cSetdasa_keeps {s : State} {st : Nat} (a : Nat) (other : st ≠ 0x40 + position s ∨ s.sideband.dynAddr.isNone = false) :
    exec (.i3cSetdasa st a) s = .next s := by
  have refused : (s.module.powered && st == 0x40 + position s && s.sideband.dynAddr.isNone) = false := by
    rcases other with elsewhere | named
    · rw [beq_eq_false_iff_ne.2 elsewhere, Bool.and_false, Bool.false_and]
    · rw [named, Bool.and_false]
  simp [exec, execI3cSetdasa, answer, refused]

theorem i3cEntdaa_keeps {s : State} (a : Nat) (named : s.sideband.dynAddr.isNone = false) : exec (.i3cEntdaa a) s = .next s := by
  simp only [exec, execI3cEntdaa, answer, named, Bool.and_false, Bool.false_eq_true, if_false]

section
variable {s : State} (on : s.module.powered = true)
include on

/-- SETDASA names a target that has no dynamic address. -/
theorem i3cSetdasa_takes (a : Nat) (free : s.sideband.dynAddr = none) :
    exec (.i3cSetdasa (0x40 + position s) a) s = .next (setSide s { s.sideband with dynAddr := some a }) := by
  simp [exec, execI3cSetdasa, answer, on, free]

/-- ENTDAA names it and sends its provisioned ID. -/
theorem i3cEntdaa_takes (a : Nat) (free : s.sideband.dynAddr = none) :
    exec (.i3cEntdaa a) s = .next (send (setSide s { s.sideband with dynAddr := some a }) (.i3c (natBe 6 Config.provisionedId))) := by
  simp [exec, execI3cEntdaa, answer, on, free]

/-- Bit 0 of GETSTATUS is the pending interrupt. -/
theorem i3cGetstatus_sends :
    exec .i3cGetstatus s = .next (send s (.i3c (natBe 2 (if s.sideband.pending = none then 0 else 1)))) := by
  cases pending : s.sideband.pending <;> simp [exec, execI3cGetstatus, answer, on, pending, b2n]

theorem i3cGetpid_sends : exec .i3cGetpid s = .next (send s (.i3c (natBe 6 Config.provisionedId))) := by
  simp [exec, execI3cGetpid, answer, on]

theorem i3cEventEnable_sets : exec .i3cEventEnable s = .next (setSide s { s.sideband with ibiOn := true }) := by
  simp [exec, execI3cEventEnable, answer, on]

theorem i3cEventDisable_clears : exec .i3cEventDisable s = .next (setSide s { s.sideband with ibiOn := false }) := by
  simp [exec, execI3cEventDisable, answer, on]

end

/-- Settles O45: one equation per command, and for the two that give an address one with and one without an address. -/
theorem i3cCommandsOnAPoweredDevice : Obligations.I3cCommandsOnAPoweredDevice := by
  intro s a on
  refine ⟨fun free => ⟨i3cSetdasa_takes on a free, i3cEntdaa_takes on a free⟩, fun b named => ?_,
    fun st elsewhere => i3cSetdasa_keeps a (.inl elsewhere),
    i3cGetstatus_sends on, i3cGetpid_sends on, i3cEventEnable_sets on, i3cEventDisable_clears on⟩
  have taken : s.sideband.dynAddr.isNone = false := by rw [named]; rfl
  exact ⟨i3cSetdasa_keeps a (.inr taken), i3cEntdaa_keeps a taken⟩

end Sys2Proof.StartUpAndModule
end
